-- ==== Sys2Proof/Word.lean ====
section
/-! DEFINITION. The words of the K1 and the plainest arithmetic on them (00_scope.md R4). -/

namespace Sys2Proof

/-- A 32-bit register value in one lane (R136). -/
abbrev Word := BitVec 32
/-- A 64-bit value: a pair, an address, a count of `devclk` ticks. -/
abbrev DWord := BitVec 64
/-- One byte of memory. -/
abbrev Byte := BitVec 8
/-- A set of threads of one squad: bit j is thread j (R126). -/
abbrev Mask := BitVec 32
/-- One 32-bit value in each of the 32 lanes (R143, general). -/
abbrev Lanes := Vector Word 32

/-- The lanes of a mask in ascending order. -/
def lanesOf (m : Mask) : List Nat := (List.range 32).filter fun i => m.getLsbD i

/-- The number of threads in a mask. -/
def maskCount (m : Mask) : Nat := (lanesOf m).length

/-- All 32 threads. -/
def fullMask : Mask := 0xFFFFFFFF#32

/-- A pair's value: the even register low, the odd register high (R221). -/
def pairValue (lo hi : Word) : DWord := hi ++ lo

/-- Bits [h:l] of a number, as R4 writes them. -/
def bitsOf (x h l : Nat) : Nat := (x / 2 ^ l) % 2 ^ (h + 1 - l)

/-- Bit n of a number. -/
def bitOf (x n : Nat) : Bool := x.testBit n

/-- The number as a two's complement integer of w bits. -/
def toSigned (w x : Nat) : Int :=
  if x % 2 ^ w < 2 ^ (w - 1) then (x % 2 ^ w : Nat) else ((x % 2 ^ w : Nat) : Int) - (2 ^ w : Nat)

/-- The little-endian value of a list of bytes (R4). -/
def leValue : List Byte → Nat
  | [] => 0
  | b :: r => b.toNat + 256 * leValue r

/-- The n little-endian bytes of a number (R4). -/
def leBytes : Nat → Nat → List Byte
  | 0, _ => []
  | n + 1, x => BitVec.ofNat 8 x :: leBytes n (x / 256)

end Sys2Proof
end

