-- ==== Sys2Proof/Config.lean ====
section
/-! DEFINITION. What an implementation fixes and the specification leaves open: the free values, of which nothing can
be proved, and the constants of the part. -/

namespace Sys2Proof.Config

/-- An unspecified 32-bit value (R13): nothing constrains it (LOG 8). -/
opaque freeWord : Nat → Word
/-- An unspecified byte (R13) (LOG 8). -/
opaque freeByte : Nat → Byte
/-- A choice the device may take either way (R12): a copy that may serve an access does or does not (LOG 7). -/
opaque freeBool : Nat → Bool

/-- PlaceHash of R169, a fixed function of the device that the specification does not give (LOG 10). -/
opaque placeHash : Nat → Nat
/-- The set of a bank in which a line lies, a function that the specification does not give (LOG 94). -/
opaque wcSet : Nat → Nat
/-- The hash by which a line indexes the contention predictor (R180), which the specification does not give (LOG 95). -/
opaque contendHash : Nat → Nat
/-- KeyedHash of R46 over `fkey`, the source tile and the line (LOG 9). -/
opaque keyedHash : DWord → Nat → Nat → Nat
/-- The key firmware draws from its random source at a table commit (R46, R59) (LOG 9). -/
opaque drawKey : Nat → DWord
/-- The point within a sampling period at which a tile begins to look, drawn uniformly at random (R376) (LOG 8). -/
opaque samplePoint : Nat → Nat → Nat

/-- ECDSA P-256 verification of a signature over a digest, against the key of a fused digest (R35, R36) (LOG 9). -/
opaque signatureValid : BitVec 256 → BitVec 256 → List Byte → Bool
/-- The device key's signature over a report (R38) (LOG 9). -/
opaque deviceSign : List Byte → List Byte

/-- Tiles along x and y (R3). -/
def tilesX : Nat := 56
def tilesY : Nat := 48
/-- Tiles of the wafer (R1). -/
def tileCount : Nat := 2688
/-- The tile at (28, 24), the default root of the up-down tree (R55). -/
def plazaTile : Nat := 1372
/-- Bytes of one allocation's limit: 3 MiB less the reserved kilobyte (R73). -/
def spadMax : Nat := 3144704
/-- The end of the HBM exposed to hosts: 1,535 GiB (R78, R160). -/
def hbmExposed : Nat := 0x017FC0000000
/-- The end of HBM (R160). -/
def hbmEnd : Nat := 0x018000000000
/-- The end of HBM stacks 0 and 1 and the start of their top 1 GiB (R160). -/
def stack2 : Nat := 0x002000000000
def stack1Top : Nat := 0x001FC0000000
/-- Pool space (R160). -/
def poolBase : Nat := 0x1000000000000
def poolEnd : Nat := 0x1100000000000
/-- The host window (R160). -/
def hostBase : Nat := 0x4000000000000
def hostEnd : Nat := 0x5000000000000

/-- Where BAR 2 holds the body of a structure, in 8-byte units: the implementation's (R77, LOG 96). -/
opaque bodyPlace : Nat → Nat
/-- Yelkan's vendor identifier (R77, LOG 96). -/
opaque vendorId : BitVec 16

end Sys2Proof.Config
end

