-- ==== Sys2Proof/Syntax.lean ====
section
/-! DEFINITION. The operations and events of the K1: one constructor of `Instr` for each row of the table of
operations. Encoded instructions carry the fields of their format (10_isa_encoding.md R239); a row without an
encoding is an event, and `Input` is what its agent brings to it. -/

namespace Sys2Proof

/-- A 7-bit operand specifier (R136): 0-111, 112-119, 120-123, 124, 125, 126, and the illegal 127. -/
inductive Operand where
  | v (n : Fin 112)
  | oc (n : Fin 8)
  | lt (n : Fin 4)
  | zero
  | lane
  | himm
  | bad
deriving DecidableEq, Repr

/-- R format (R239); X is part of the mnemonic. -/
structure RForm where
  u : Bool
  d : Operand
  a : Operand
  b : Operand
  ka : Bool
  kb : Bool
deriving DecidableEq, Repr

/-- I format. -/
structure IForm where
  u : Bool
  d : Operand
  a : Operand
  imm : BitVec 10
deriving DecidableEq, Repr

/-- M format. -/
structure MForm where
  u : Bool
  la : BitVec 4
  t : Operand
  o : Operand
  sz : BitVec 2
  bs : BitVec 3
  sx : Bool
deriving DecidableEq, Repr

/-- A format. -/
structure AForm where
  u : Bool
  la : BitVec 4
  t : Operand
  o : Operand
  scope : BitVec 3
  space : BitVec 2
  w : Bool
deriving DecidableEq, Repr

/-- L format; U = 1 and bits [4:0] = 0 are fixed (R252). -/
structure LForm where
  mode : BitVec 3
  level : BitVec 2
  a : Operand
  b : Operand
deriving DecidableEq, Repr

/-- Q format; sub = 0 is fixed. -/
structure QForm where
  u : Bool
  la : BitVec 4
  q : BitVec 4
  a : Operand
  b : Operand
deriving DecidableEq, Repr

/-- X format; sub is part of the mnemonic. -/
structure XForm where
  u : Bool
  la : BitVec 4
  tile : BitVec 4
  a : Operand
  b : Operand
deriving DecidableEq, Repr

/-- B format: a condition register and a signed word offset. -/
structure BForm where
  u : Bool
  a : Operand
  offset : BitVec 17
deriving DecidableEq, Repr

/-- S format; sub8 is part of the mnemonic, but for `FENCE`, which holds its kind and scope there. -/
structure SForm where
  sub : BitVec 8
  a : Operand
  imm : BitVec 10
deriving DecidableEq, Repr

/-- The kinds of part a mark request names (R52, R66). -/
inductive Part where
  | tile (t : Nat)
  | bank (t : Nat)
  | router (t : Nat)
  | link (t port : Nat)
deriving DecidableEq, Repr

/-- One direction of a link: the sending tile and its port, 0 N, 1 E, 2 S, 3 W. -/
structure LinkDir where
  tile : Nat
  port : Nat
deriving DecidableEq, Repr

/-- A launch: its queue and its sequence number. -/
structure LaunchKey where
  qid : Nat
  seq : Nat
deriving DecidableEq, Repr

/-- A gang of a launch (R101). -/
structure GangKey where
  launch : LaunchKey
  gang : Nat
deriving DecidableEq, Repr

/-- The global squad id of R299, which does not depend on placement. -/
structure SquadKey where
  gang : GangKey
  member : Nat
  squad : Nat
deriving DecidableEq, Repr

/-- A region of 64 KiB / 2^level bytes (R170). -/
structure RegionKey where
  base : Nat
  level : Nat
deriving DecidableEq, Repr

/-- A peer-table entry (R85). -/
structure PeerEntry where
  valid : Bool
  ports : BitVec 32
  serial : BitVec 128
deriving DecidableEq, Repr

/-- The fields of SAMPCTL (R376). -/
structure SampSetting where
  ring : Nat
  logn : Nat
  port : Nat
  per : Nat
  mode : Nat
  ward : Nat
deriving DecidableEq, Repr

/-- The fields of SNAPCTL (R378). -/
structure SnapSetting where
  ward : Nat
  mode : Nat
  offset : Nat
  size : Nat
deriving DecidableEq, Repr

/-- What link training finds at the partner of a port (R63, R82, R85): whether it has every mandatory feature of the
role; for a pool port the memory device that it reaches; for a peer the serial number of its identity report. -/
structure Partner where
  mandatory : Bool
  device : Nat
  serial : BitVec 128
deriving DecidableEq, Repr

/-- What an engine trap carries to its squad (R335). -/
structure EngineTrap where
  number : Nat
  detail : Word
  address : DWord
  site : DWord
  seq : Word
deriving DecidableEq, Repr

/-- The read-modify-write operations of the atomics (R290). -/
inductive AtomOp where
  | add | min | max | and | or | fadd | xch | cas
deriving DecidableEq, Repr

/-- The ways an access acts at a line's serving bank (R175, R180): an atomic brings its operand, and for a compare-and-swap the
new value. -/
inductive AccessKind where
  | load
  | store (bytes : List Byte)
  | atomic (op : AtomOp) (operand new : Nat)
deriving DecidableEq, Repr

/-- An access that reaches a line's anchor (R171, R175): the requesting tile, the physical address, the size. -/
structure Access where
  tile : Nat
  address : Nat
  size : Nat
  kind : AccessKind
deriving DecidableEq, Repr

/-- A lock-table entry's identity (R296): tenant, physical address of the descriptor, level, index. -/
structure LockId where
  tenant : Nat
  descriptor : Nat
  level : Nat
  index : Nat
deriving DecidableEq, Repr

/-- A lock mode (R297). -/
inductive LockMode where
  | is | ix | s | six | i | x
deriving DecidableEq, Repr

/-- An age: AGE, ward id and global squad id, compared lexicographically (R299). -/
structure Age where
  age : DWord
  ward : Nat
  squad : SquadKey
deriving DecidableEq, Repr

/-- A request sent to a lock slice (R300): `LOCK`, or `LKUP` when `up`. -/
structure LockRequest where
  entry : LockId
  squad : SquadKey
  mode : LockMode
  up : Bool
  age : Age
  scope : Nat
  matrix : Nat
  tid : Word
  linesPerTile : Nat
deriving DecidableEq, Repr

/-- A release sent to a lock slice (R300, R303): `UNLK`, or `LKDN` with the weaker mode. -/
structure LockRelease where
  entry : LockId
  squad : SquadKey
  down : Option LockMode
  linesPerTile : Nat
deriving DecidableEq, Repr

/-- A grant on its way to a squad's lock-grant object (R301), at the descriptor's scope. -/
structure Grant where
  squad : SquadKey
  entry : LockId
  scope : Nat
  /-- The number of the grant: two grants on one entry are two (R301). -/
  serial : Nat
deriving DecidableEq, Repr

/-- What a packet's key is taken from (R46): the line of a physical address, an offset in a scratchpad, or nothing. -/
inductive Subject where
  | line (l : Nat)
  | scratch (offset : Nat)
  | none
deriving DecidableEq, Repr

/-- What a packet of the fabric carries (R44). -/
inductive Payload where
  /-- A request-class access of a squad or an engine. -/
  | access (a : Access)
  /-- An access that an anchor bank sends on to the serving bank. -/
  | forward (a : Access)
  /-- An access to the scratchpad of another member, which the requesting instruction performs. -/
  | scratch (offset : Nat)
  /-- An arrival at a barrier object of another member, which the requesting instruction performs. -/
  | arrival (offset : Nat)
  /-- A contribution to a collective group, which its job makes when it joins. -/
  | contribution (entry : Nat)
  /-- A copy of an MCAST job's line for a member (R49): the job's tile and number, the number of the write, and the offset in
  the member's allocation, and what its bytes were read from. -/
  | copy (tile job serial offset : Nat) (source : Subject)
  /-- A lock request or release. -/
  | lockRequest (r : LockRequest)
  | lockRelease (r : LockRelease)
  /-- A lock grant. -/
  | grant (g : Grant)
  /-- An invalidation of a region at a reticle's replica bank, and its acknowledgement. -/
  | invalidate (r : RegionKey) (reticle : Nat)
  | invalidateAck (r : RegionKey) (reticle : Nat)
  /-- A migration transfer of a region and its acknowledgement. -/
  | migration (r : RegionKey)
  | moveAck (r : RegionKey)
  /-- A fill of a replica line. -/
  | replicaFill (r : RegionKey) (reticle line : Nat)
  /-- A probe of a peer's L1. -/
  | probe (tile address peer : Nat) (kseg : Bool)
  /-- The reply to a packet, named by its number, about what that packet names. -/
  | reply (request : Nat) (about : Subject)
deriving DecidableEq, Repr

/-- The two message classes (R44). -/
inductive MsgClass where
  | request | reply
deriving DecidableEq, Repr

/-- The class that a payload travels in: what a network interface sends for a squad or an engine is a request (R44). -/
def Payload.cls : Payload → MsgClass
  | .access _ | .scratch _ | .arrival _ | .contribution _ | .lockRequest _ | .lockRelease _ => .request
  | .forward _ | .copy _ _ _ _ _ | .grant _ | .invalidate _ _ | .invalidateAck _ _ | .migration _ | .moveAck _ | .replicaFill _ _ _
  | .probe _ _ _ _ | .reply _ _ => .reply

/-- What a payload's key is taken from: bits [51:7] of the physical address it is about, or its offset in a scratchpad. A lock
request or release is taken to carry no address, though it names its descriptor's: R46 leaves that open (LOG 79). -/
def Payload.subject : Payload → Subject
  | .access a | .forward a => .line (a.address / 128 % 2 ^ 45)
  | .probe _ a _ _ => .line (a / 128 % 2 ^ 45)
  | .scratch o | .arrival o | .copy _ _ _ o _ => .scratch o
  | .invalidate k _ | .invalidateAck k _ | .migration k | .moveAck k => .line (k.base / 128)
  | .replicaFill _ _ l => .line l
  | .reply _ x => x
  | .lockRequest _ | .lockRelease _ | .grant _ | .contribution _ => .none

/-- The line of the key of a packet to a tile: the line of an address; the tile, with bits [21:7] of an offset in its
scratchpad; or the tile alone (R46). -/
def Subject.key (x : Subject) (dest : Nat) : Nat :=
  match x with
  | .line l => l
  | .scratch o => dest * 2 ^ 15 + o / 128 % 2 ^ 15
  | .none => dest

/-- The three route classes (R45). -/
inductive RouteClass where
  | xFirst | yFirst | upDown
deriving DecidableEq, Repr

/-- A packet to inject: its endpoints, the squad whose context owns it with the launch site, address and command sequence
number of its request, and its payload. -/
structure Packet where
  source : Nat
  dest : Nat
  owner : Option SquadKey
  site : DWord
  address : DWord
  seq : Word
  payload : Payload
deriving DecidableEq, Repr

/-- Collective traffic from a peer (R85, R355): the peer, the group, the rank of the peer that it speaks for, how many
ranks the peer has, and bytes of that rank's contribution from an offset (LOG 34). -/
structure PeerChunk where
  peer : Nat
  tenant : Nat
  key : DWord
  rank : Nat
  ranks : Nat
  offset : Nat
  bytes : List Byte
deriving DecidableEq, Repr

/-- What an event's agent brings to it: the arguments of the row of the same name. Where an event needs none, or
where an operation is an encoded instruction, there is none. -/
inductive Input where
  | none
  | hostPortReset (port : Nat)
  | powerSample (watts inletTenths : Nat)
  | harvest (failedTiles failedBanks : List Nat)
  | standardCommand (port : Nat) (opcode : BitVec 16) (payload : List Byte)
  | setroles (port : Nat) (record : DWord)
  | imgchunk (port offset : Nat) (bytes : List Byte)
  | imgcommit (port length : Nat)
  | idreport (port : Nat) (nonce : BitVec 256)
  | certread (port offset : Nat)
  | mark (port : Nat) (part : Part)
  | bankEmptyDone (tile : Nat)
  | chkpt (port region : Nat)
  | checkpointComplete (poolFault : Option (Nat × Nat))
  | biasflip (port : Nat) (payload : BitVec 128)
  | biasread (port offset count : Nat)
  | qctlEnable (port qid : Nat) (descriptor : BitVec 512)
  | qctlDisable (port qid : Nat)
  | qctlRead (port qid : Nat)
  | poolbind (port first count group : Nat)
  | peerset (port index : Nat) (entry : PeerEntry)
  | sampctl (port : Nat) (setting : SampSetting)
  | snapctl (port : Nat) (setting : SnapSetting)
  | cxlLinkTraining (port : Nat) (partner : Partner)
  | portLinkDown (port : Nat)
  | flitCrcFail (link : LinkDir) (seq : BitVec 8)
  | replayRequest (link : LinkDir) (seq : BitVec 8)
  | flitAcknowledge (link : LinkDir) (seq : BitVec 8)
  | replayWindowEnd (link : LinkDir)
  | linkRetrainDone (link : LinkDir)
  | packetInject (packet : Packet)
  | packetDeliver (index : Nat) (dataError : Bool)
  | headerUeDiscard (index : Nat)
  | resendTimeout (index : Nat)
  | requestTimeout (index : Nat)
  | tailSnoop (qid : Nat) (stores : List (Nat × Byte))
  | tailReread (qid : Nat) (poison : Bool)
  | launchPacketRead (qid : Nat) (poison : Bool)
  | headWrite (qid : Nat) (poison : Bool)
  | hostMemRead (port address size : Nat)
  | hostMemWrite (port address : Nat) (bytes : List Byte)
  | hostSnoop (address : Nat) (invalidate : Bool) (written : Option (List Byte))
  | bisnpInv (address : Nat) (written : Option (List Byte))
  | bisnpData (address : Nat)
  | poolGroupLost (group : Nat)
  | launchAbort (launch : LaunchKey) (number : Nat)
  | tenantReset (tenant : Nat)
  | placementDecision (choice : Nat)
  | preemptRequest (victims : List GangKey)
  | preemptStop (gang : GangKey)
  | preemptSave (gang : GangKey)
  | workgroupEnd (tile : Nat)
  | gangRetire (gang : GangKey)
  | poolEntryReclaim (tile : Nat)
  | skewHoldTimeout (tile : Nat)
  | resultWriteback (tile slot index : Nat) (lanes : Mask)
  | asyncTrapEntry (tile slot : Nat)
  | engineTrapArrival (squad : SquadKey) (trap : EngineTrap)
  | pageWalkDone (index : Nat)
  | replayableFaultTimeout (index : Nat)
  | peerProbe (tile address peer : Nat) (kseg : Bool)
  | anchorRequest (access : Access)
  | regionEvaluation (region : RegionKey)
  | moveOrder (region : RegionKey)
  | migrationTransfer (region : RegionKey)
  | moveAck (region : RegionKey)
  | replicaInvalidate (region : RegionKey) (reticle : Nat)
  | invalidationAck (region : RegionKey) (reticle : Nat)
  | replicaFillArrival (region : RegionKey) (reticle line : Nat)
  | uncorrectableError (address : Nat) (home : Bool)
  | jobStart (tile job : Nat)
  | jobWriteLand (tile job : Nat)
  | jobComplete (tile job : Nat)
  | jobStop (tile job : Nat)
  | followOnIssue (tile job : Nat)
  | matrixCommandAct (tile : Nat)
  | mxstSumsArrive (tile : Nat)
  | collectiveJoin (tile job : Nat)
  | collectiveJoinTimeout (tile job : Nat)
  | collectiveChunkLand (tile job : Nat)
  | collectiveGroupFail (entry : Nat)
  | collectiveTreeRebuild (entry : Nat)
  | hostMsgWrite (tile : Nat)
  | outheadReread (tile : Nat) (stores : List (Nat × Byte))
  | intailPoll (tile : Nat) (stores : List (Nat × Byte))
  | lockRequestArrival (request : LockRequest)
  | lockReleaseArrival (release : LockRelease)
  | lockGrant (grant : Grant)
  | grantResendTimeout (index : Nat)
  | woundTrap (tile slot : Nat)
  | revocation (squad : SquadKey)
  | sleepTimer (tile slot : Nat)
  | sample (tile : Nat)
  | memoryDeviceCompletion (index : Nat)
  | peerChunkArrival (chunk : PeerChunk)
deriving DecidableEq, Repr

/-- The rows of the table of operations and events. -/
inductive Instr where
  /-- IADD (R265). 32-bit wrapping add. -/
  | iadd (f : RForm)
  /-- IADDS (R265). Signed saturating add. -/
  | iadds (f : RForm)
  /-- ISUB (R265). 32-bit wrapping subtract. -/
  | isub (f : RForm)
  /-- ISUBS (R265). Signed saturating subtract. -/
  | isubs (f : RForm)
  /-- IMUL (R265). Low 32 bits of the product. -/
  | imul (f : RForm)
  /-- IMULH (R265). High 32 bits of the signed product. -/
  | imulh (f : RForm)
  /-- IMAD (R265). Multiply and add D, wrapping. -/
  | imad (f : RForm)
  /-- IMADH (R265). High signed product plus D. -/
  | imadh (f : RForm)
  /-- IMIN (R265). Signed minimum. -/
  | imin (f : RForm)
  /-- IMINN (R265). Unsigned minimum. -/
  | iminn (f : RForm)
  /-- IMAX (R265). Signed maximum. -/
  | imax (f : RForm)
  /-- IMAXN (R265). Unsigned maximum. -/
  | imaxn (f : RForm)
  /-- AND (R265). Bitwise and. -/
  | andB (f : RForm)
  /-- ANDN (R265). A and not B. -/
  | andn (f : RForm)
  /-- OR (R265). Bitwise or. -/
  | orB (f : RForm)
  /-- ORN (R265). A or not B. -/
  | orn (f : RForm)
  /-- XOR (R265). Bitwise exclusive or. -/
  | xorB (f : RForm)
  /-- XNOR (R265). Inverted exclusive or. -/
  | xnor (f : RForm)
  /-- SHL (R266). Logical shift left by UInt(B). -/
  | shl (f : RForm)
  /-- ROL (R266). Rotate left by B mod 32. -/
  | rol (f : RForm)
  /-- SHR (R266). Logical shift right. -/
  | shr (f : RForm)
  /-- SAR (R266). Arithmetic shift right. -/
  | sar (f : RForm)
  /-- CSEQ (R265). 1 if A equals B, else 0. -/
  | cseq (f : RForm)
  /-- CSNE (R265). 1 if A differs from B, else 0. -/
  | csne (f : RForm)
  /-- CSLT (R265). Signed less-than compare. -/
  | cslt (f : RForm)
  /-- CSLTN (R265). Unsigned less-than compare. -/
  | csltn (f : RForm)
  /-- CSLE (R265). Signed less-or-equal compare. -/
  | csle (f : RForm)
  /-- CSLEN (R265). Unsigned less-or-equal compare. -/
  | cslen (f : RForm)
  /-- SEL (R265). D := A if D is non-zero, else B. -/
  | sel (f : RForm)
  /-- POPC (R265). Population count of A. -/
  | popc (f : RForm)
  /-- CLZ (R265). Leading zero count of A. -/
  | clz (f : RForm)
  /-- BREV (R265). Bit reverse of A (deprecated). -/
  | brev (f : RForm)
  /-- FFS (R265). Index of the lowest set bit of A. -/
  | ffs (f : RForm)
  /-- BFX (R267). Unsigned bit-field extract. -/
  | bfx (f : RForm)
  /-- BFXS (R267). Signed bit-field extract. -/
  | bfxs (f : RForm)
  /-- BFI (R267). Bit-field insert into D. -/
  | bfi (f : RForm)
  /-- WADD (R268). 64-bit pair add. -/
  | wadd (f : RForm)
  /-- WSUB (R268). 64-bit pair subtract. -/
  | wsub (f : RForm)
  /-- WMUL (R268). Low 64 bits of the pair product. -/
  | wmul (f : RForm)
  /-- WMULH (R268). High 64 bits of the signed 128-bit product. -/
  | wmulh (f : RForm)
  /-- WSHL (R268). 64-bit shift left. -/
  | wshl (f : RForm)
  /-- WSHR (R268). 64-bit logical shift right. -/
  | wshr (f : RForm)
  /-- MOV (R265). D := A. -/
  | mov (f : RForm)
  /-- MOVG (R265). D := A if B is non-zero, else D. -/
  | movg (f : RForm)
  /-- IABS (R265). Absolute value, wrapping. -/
  | iabs (f : RForm)
  /-- INEG (R265). Negate, wrapping. -/
  | ineg (f : RForm)
  /-- IADDI (R269). Add a signed 10-bit immediate. -/
  | iaddi (f : IForm)
  /-- IMULI (R269). Multiply by a signed 10-bit immediate. -/
  | imuli (f : IForm)
  /-- ANDI (R269). And with a sign-extended immediate. -/
  | andi (f : IForm)
  /-- ORI (R269). Or with a sign-extended immediate. -/
  | ori (f : IForm)
  /-- XORI (R269). Exclusive or with a sign-extended immediate. -/
  | xori (f : IForm)
  /-- SHLI (R269). Shift left by an immediate count. -/
  | shli (f : IForm)
  /-- SHRI (R269). Shift right by an immediate count, logical or arithmetic. -/
  | shri (f : IForm)
  /-- MOVI (R269). D := sign-extended immediate. -/
  | movi (f : IForm)
  /-- FADD (R271). F32 add, rounded under the arithmetic control. -/
  | fadd (f : RForm)
  /-- FSUB (R271). F32 subtract. -/
  | fsub (f : RForm)
  /-- FMUL (R271). F32 multiply. -/
  | fmul (f : RForm)
  /-- FSCL (R271). F32 A times 2^SInt(B). -/
  | fscl (f : RForm)
  /-- FFMA (R271). Fused A×B + D. -/
  | ffma (f : RForm)
  /-- FFMS (R271). Fused A×B − D. -/
  | ffms (f : RForm)
  /-- FMIN (R272). F32 minimum, with −0 below +0. -/
  | fmin (f : RForm)
  /-- FMAX (R272). F32 maximum. -/
  | fmax (f : RForm)
  /-- FCSEQ (R272). F32 equality compare. -/
  | fcseq (f : RForm)
  /-- FCSNE (R272). F32 inequality compare. -/
  | fcsne (f : RForm)
  /-- FCSLT (R272). F32 less-than compare. -/
  | fcslt (f : RForm)
  /-- FCSLE (R272). F32 less-or-equal compare. -/
  | fcsle (f : RForm)
  /-- FCSUN (R272). 1 if the operands are unordered. -/
  | fcsun (f : RForm)
  /-- FCSOR (R272). 1 if the operands are ordered. -/
  | fcsor (f : RForm)
  /-- FABS (R271). F32 absolute value. -/
  | fabs (f : RForm)
  /-- FNEG (R271). F32 negation. -/
  | fneg (f : RForm)
  /-- FRCP (R273). Correctly rounded reciprocal. -/
  | frcp (f : RForm)
  /-- FRSQ (R273). Correctly rounded reciprocal square root. -/
  | frsq (f : RForm)
  /-- FEX2 (R273). 2^A rounded to nearest. -/
  | fex2 (f : RForm)
  /-- FLG2 (R273). log2 A rounded to nearest. -/
  | flg2 (f : RForm)
  /-- FSIN (R273). Sine of A, rounded to nearest (deprecated). -/
  | fsin (f : RForm)
  /-- FCOS (R273). Cosine of A, rounded to nearest (deprecated). -/
  | fcos (f : RForm)
  /-- HADD2 (R274). Packed FP16 add. -/
  | hadd2 (f : RForm)
  /-- BADD2 (R274). Packed BF16 add. -/
  | badd2 (f : RForm)
  /-- HMUL2 (R274). Packed FP16 multiply. -/
  | hmul2 (f : RForm)
  /-- BMUL2 (R274). Packed BF16 multiply. -/
  | bmul2 (f : RForm)
  /-- HFMA2 (R274). Packed FP16 fused multiply-add. -/
  | hfma2 (f : RForm)
  /-- BFMA2 (R274). Packed BF16 fused multiply-add. -/
  | bfma2 (f : RForm)
  /-- DADD (R274). F64 pair add. -/
  | dadd (f : RForm)
  /-- DSUB (R274). F64 pair subtract. -/
  | dsub (f : RForm)
  /-- DMUL (R274). F64 pair multiply. -/
  | dmul (f : RForm)
  /-- DFMA (R274). F64 fused multiply-add. -/
  | dfma (f : RForm)
  /-- CVTFI (R275). F32 to signed 32-bit integer. -/
  | cvtfi (f : RForm)
  /-- CVTFN (R275). F32 to unsigned 32-bit integer. -/
  | cvtfn (f : RForm)
  /-- CVTIF (R275). Signed integer to F32. -/
  | cvtif (f : RForm)
  /-- CVTNF (R275). Unsigned integer to F32. -/
  | cvtnf (f : RForm)
  /-- NARH (R275). Two F32 values narrowed to packed FP16. -/
  | narh (f : RForm)
  /-- NARB (R275). Two F32 values narrowed to packed BF16. -/
  | narb (f : RForm)
  /-- WIDH (R275). FP16 element widened to F32. -/
  | widh (f : RForm)
  /-- WIDB (R275). BF16 element widened to F32. -/
  | widb (f : RForm)
  /-- E4PK (R276). Two F32 values packed as E4M3 into D. -/
  | e4pk (f : RForm)
  /-- E5PK (R276). Two F32 values packed as E5M2 into D. -/
  | e5pk (f : RForm)
  /-- E4UP (R276). E4M3 element unpacked to F32. -/
  | e4up (f : RForm)
  /-- E5UP (R276). E5M2 element unpacked to F32. -/
  | e5up (f : RForm)
  /-- Q4PK (R277). A quantised under scale word B and shifted into D as a Q4 code. -/
  | q4pk (f : RForm)
  /-- Q4UP (R277). Low Q4 code of A dequantised to F32. -/
  | q4up (f : RForm)
  /-- SHFL (R279). Each lane reads A from lane B. -/
  | shfl (f : RForm)
  /-- SHFX (R279). Each lane reads A from lane i xor B. -/
  | shfx (f : RForm)
  /-- BCST (R279). Broadcast of A from uniform lane B. -/
  | bcst (f : RForm)
  /-- SQRD (R279). Integer sum of A over the group. -/
  | sqrd (f : RForm)
  /-- SQRF (R280). F32 sum of A over the group, rounded once. -/
  | sqrf (f : RForm)
  /-- SQMX (R279). Signed maximum of A over the group. -/
  | sqmx (f : RForm)
  /-- SQMF (R279). F32 maximum of A over the group. -/
  | sqmf (f : RForm)
  /-- SCAN (R279). Inclusive prefix sum over the group. -/
  | scan (f : RForm)
  /-- SCNX (R279). Exclusive prefix sum over the group. -/
  | scnx (f : RForm)
  /-- BALT (R279). Ballot mask of the lanes with A non-zero. -/
  | balt (f : RForm)
  /-- BCNT (R279). Count of the lanes with A non-zero. -/
  | bcnt (f : RForm)
  /-- RANK (R279). Rank of A among the group, with ties sharing a rank (experimental). -/
  | rank (f : RForm)
  /-- RANKA (R279). Distinct rank of A, with ties broken by lane (experimental). -/
  | ranka (f : RForm)
  /-- IOTA (R279). Affine value with base A and stride B. -/
  | iota (f : RForm)
  /-- LDG (R282). Global load. -/
  | ldg (f : MForm)
  /-- STG (R282). Global store. -/
  | stg (f : MForm)
  /-- LDS (R282). Gang scratchpad load. -/
  | lds (f : MForm)
  /-- STS (R282). Gang scratchpad store. -/
  | sts (f : MForm)
  /-- LDK (R282). Constant-segment load. -/
  | ldk (f : MForm)
  /-- LDP (R282). Pool load. -/
  | ldp (f : MForm)
  /-- STP (R282). Pool store. -/
  | stp (f : MForm)
  /-- LDX (R282). Private-area load. -/
  | ldx (f : MForm)
  /-- STX (R282). Private-area store. -/
  | stx (f : MForm)
  /-- LDAQ (R285). Load-acquire at the BS scope. -/
  | ldaq (f : MForm)
  /-- STRL (R285). Store-release at the BS scope. -/
  | strl (f : MForm)
  /-- PREF (R286). Prefetch of the named lines, silently dropping failing lanes. -/
  | pref (f : MForm)
  /-- FLSH (R287). Write a modified line home and invalidate the L1 copy. -/
  | flsh (f : MForm)
  /-- FLSHD (R287). Discard every cached copy of a line; the line takes the home's values. -/
  | flshd (f : MForm)
  /-- PLACE (R288). Placement hint for an aligned block (experimental). -/
  | place (f : MForm)
  /-- PSTS (R289). Transposed plane store of 32 words to scratchpad. -/
  | psts (f : MForm)
  /-- PLDS (R289). Transposed plane load of 32 words from scratchpad. -/
  | plds (f : MForm)
  /-- AADD (R290). Atomic add. -/
  | aadd (f : AForm)
  /-- AMIN (R290). Atomic signed minimum. -/
  | amin (f : AForm)
  /-- AMAX (R290). Atomic signed maximum. -/
  | amax (f : AForm)
  /-- AAND (R290). Atomic and. -/
  | aand (f : AForm)
  /-- AOR (R290). Atomic or. -/
  | aor (f : AForm)
  /-- AFADD (R290). Atomic float add, rounded RNE. -/
  | afadd (f : AForm)
  /-- AXCH (R290). Atomic exchange. -/
  | axch (f : AForm)
  /-- ACAS (R290). Atomic compare-and-swap. -/
  | acas (f : AForm)
  /-- FENCE (R292). Acquire, release, acquire-release or sc fence at a scope. -/
  | fence (f : SForm)
  /-- BINIT (R293). Initialise a barrier object. -/
  | binit (f : RForm)
  /-- ARRV (R293). Arrive with the group's thread count; a release. -/
  | arrv (f : RForm)
  /-- ARRX (R293). Arrive with count B; a release. -/
  | arrx (f : RForm)
  /-- WAITP (R294). Wait until the object's phase differs from B, then acquire. -/
  | waitp (f : RForm)
  /-- TSTP (R293). Read the phase; an acquire if it has changed. -/
  | tstp (f : RForm)
  /-- BXPB (R293). Set expected bytes and arrive once. -/
  | bxpb (f : RForm)
  /-- YIELD (R295). Invalidate oc and lt and stand aside for 4 core cycles. -/
  | yield (f : RForm)
  /-- BINV (R293). Invalidate a barrier object, ending waits on it with SEGMENT. -/
  | binv (f : RForm)
  /-- LOCK (R303). Send a lock request for an entry in a mode. -/
  | lock (f : LForm)
  /-- UNLK (R303). Release the squad's holding of an entry. -/
  | unlk (f : LForm)
  /-- LKUP (R303). Request a stronger mode on a held entry. -/
  | lkup (f : LForm)
  /-- LKDN (R303). Weaken a held mode at once; a release. -/
  | lkdn (f : LForm)
  /-- LKRA (R305). Release every entry, withdraw every request, and clear AGE and REVOKED. -/
  | lkra (f : LForm)
  /-- LKQY (R307). Query an entry's state at the slice. -/
  | lkqy (f : LForm)
  /-- LKAG (R299). Set AGE for the next fixing. -/
  | lkag (f : LForm)
  /-- LKMX (R308). Load a compatibility matrix 1–8 (privileged). -/
  | lkmx (f : LForm)
  /-- QPSH (R337). Push an element to q4 or a mailbox; a release. -/
  | qpsh (f : QForm)
  /-- QPOP (R337). Pop the oldest element, waiting while the queue is empty; an acquire. -/
  | qpop (f : QForm)
  /-- QCNT (R337). Read a queue's free or held count. -/
  | qcnt (f : QForm)
  /-- CPYJ (R346). Check a job card and push it to the copy engine. -/
  | cpyj (f : QForm)
  /-- COLJ (R353). Check a collective card and push it to q2. -/
  | colj (f : QForm)
  /-- QBND (R338). Bind a notification object or a host message area to a queue. -/
  | qbnd (f : QForm)
  /-- MXCF_CONFIG (R361). Configure and zero an accumulator tile. -/
  | mxcfConfig (f : XForm)
  /-- MXCF_RELEASE (R361). Return an accumulator tile to UNCFG. -/
  | mxcfRelease (f : XForm)
  /-- MXLW (R361). Latch a weight block into the chain. -/
  | mxlw (f : XForm)
  /-- MXST (R360). Stream activation rows into the accumulator. -/
  | mxst (f : XForm)
  /-- MXCH_BEGIN (R361). Open a chain with an anchor and a format. -/
  | mxchBegin (f : XForm)
  /-- MXCH_END (R361). Close the chain. -/
  | mxchEnd (f : XForm)
  /-- MXCH_DRAIN (R362). Check checksums and drain rows converted to scratchpad. -/
  | mxchDrain (f : XForm)
  /-- MXCH_ZERO (R361). Zero the accumulators and checksums. -/
  | mxchZero (f : XForm)
  /-- BRA (R311). Unconditional relative branch. -/
  | bra (payload : BitVec 25)
  /-- BZ (R311). Branch in the lanes where A is 0. -/
  | bz (f : BForm)
  /-- BNZ (R311). Branch in the lanes where A is non-zero. -/
  | bnz (f : BForm)
  /-- CALL (R311). Relative call writing v111. -/
  | call (payload : BitVec 25)
  /-- JMPR (R311). Jump to the register target. -/
  | jmpr (f : RForm)
  /-- CALLR (R311). Register call writing the link to D. -/
  | callr (f : RForm)
  /-- EXIT (R314). Remove the group's threads; the last one ends the squad. -/
  | exit (payload : BitVec 25)
  /-- SPAN (R315). Begin span n and set the span state from the span table. -/
  | span (payload : BitVec 25)
  /-- TRAPC (R321). Raise TRAPI if A is non-zero in any active lane. -/
  | trapc (f : SForm)
  /-- TRAP (R321). Raise TRAPI with a code; a span terminator. -/
  | trap (f : SForm)
  /-- BRK (R321). Raise BRK, or halt the squad when unhandled. -/
  | brk (f : SForm)
  /-- SYS_MFS (R325). Read a system register by selector. -/
  | sysMfs (f : SForm)
  /-- SYS_MTS (R325). Write a system register by selector, field by field. -/
  | sysMts (f : SForm)
  /-- SYS_CLKR (R23). Read devclk. -/
  | sysClkr (f : SForm)
  /-- SYS_CYCR (R324). Read the tile's core-cycle count. -/
  | sysCycr (f : SForm)
  /-- SYS_SQID (R324). Read the squad index. -/
  | sysSqid (f : SForm)
  /-- SYS_WGID (R324). Read the member index. -/
  | sysWgid (f : SForm)
  /-- SYS_GNGID (R324). Read the gang id. -/
  | sysGngid (f : SForm)
  /-- SYS_LNCH (R324). Read launch information: LSEQ, QID, ward, tile or reticle. -/
  | sysLnch (f : SForm)
  /-- SYS_WARD_CREATE (R89). Ward operation CREATE (privileged). -/
  | sysWardCreate (f : SForm)
  /-- SYS_WARD_MODIFY (R89). Ward operation MODIFY. -/
  | sysWardModify (f : SForm)
  /-- SYS_WARD_DELETE (R89). Ward operation DELETE. -/
  | sysWardDelete (f : SForm)
  /-- SYS_WARD_READ (R89). Ward operation READ, returning the block and its usage. -/
  | sysWardRead (f : SForm)
  /-- SYS_WARD_RESET (R89). Ward operation RESET, requesting a tenant reset. -/
  | sysWardReset (f : SForm)
  /-- SYS_WARD_CLEAR (R89). Ward operation CLEAR of DSTOPPED in a fault domain. -/
  | sysWardClear (f : SForm)
  /-- SYS_AMSK_READ (R322). Read hmsk. -/
  | sysAmskRead (f : SForm)
  /-- SYS_AMSK_SWAP (R322). Swap hmsk with A. -/
  | sysAmskSwap (f : SForm)
  /-- SYS_XMSK (R324). Read the mask of the executing group's threads. -/
  | sysXmsk (f : SForm)
  /-- SYS_SEGRD (R324). Read a segment base or limit. -/
  | sysSegrd (f : SForm)
  /-- SYS_SEGLD (R324). Load a segment's base and limit (privileged). -/
  | sysSegld (f : SForm)
  /-- SYS_SAVEP (R324). Request pre-emption of the squad's own gang. -/
  | sysSavep (f : SForm)
  /-- SYS_PRIO (R324). Read the effective priority of the launch's ward. -/
  | sysPrio (f : SForm)
  /-- SYS_IBINV (R324). Invalidate the tile's instruction cache. -/
  | sysIbinv (f : SForm)
  /-- SYS_L1INV (R165). Invalidate every L1 data line of the tile. -/
  | sysL1inv (f : SForm)
  /-- SYS_TLBI (R163). Invalidate translations wafer-wide and retry pending replayable walks (privileged). -/
  | sysTlbi (f : SForm)
  /-- SYS_CAPR (R324). Read a word of a capability structure. -/
  | sysCapr (f : SForm)
  /-- SYS_FTST (R324). Read the held-trap and revoked status. -/
  | sysFtst (f : SForm)
  /-- SYS_FCLR (R324). Discard a held engine trap. -/
  | sysFclr (f : SForm)
  /-- SYS_PSTAT (R26). Read pwrst. -/
  | sysPstat (f : SForm)
  /-- SYS_TAGS (R324). Read a register's shape tag. -/
  | sysTags (f : SForm)
  /-- SYS_TAGC (R327). Retag a register to its narrowest shape. -/
  | sysTagc (f : SForm)
  /-- SYS_SNAP (R378). Capture or compare a value for replay. -/
  | sysSnap (f : SForm)
  /-- SYS_CSUM (R324). CRC-32C over a register's 32 lanes. -/
  | sysCsum (f : SForm)
  /-- SYS_RTBL (R324). Read a routing-table entry. -/
  | sysRtbl (f : SForm)
  /-- SYS_WTBL (R324). Write a staging routing-table entry (privileged). -/
  | sysWtbl (f : SForm)
  /-- SYS_DMAP (R324). Read a street-map word. -/
  | sysDmap (f : SForm)
  /-- SYS_PMAP (R328). Read the region entry covering an address. -/
  | sysPmap (f : SForm)
  /-- SYS_HALT (R329). Halt the named squads (privileged). -/
  | sysHalt (f : SForm)
  /-- SYS_RESM (R320). Leave the trap handler and resume at trpc. -/
  | sysResm (f : SForm)
  /-- SYS_RESM_HALTED (R329). Resume the named halted squads (privileged). -/
  | sysResmHalted (f : SForm)
  /-- SYS_RESM_DEFAULT (R320). Leave the handler by the default WOUND action. -/
  | sysResmDefault (f : SForm)
  /-- SYS_EVPST (R324). Post an event record to q3; a workgroup release. -/
  | sysEvpst (f : SForm)
  /-- SYS_SLEEP (R330). Wait for UInt(A) devclk ticks. -/
  | sysSleep (f : SForm)
  /-- SYS_SHPR (R324). Count the squad's registers by shape. -/
  | sysShpr (f : SForm)
  /-- SYS_DEAD (R324). Mark a range of registers dead. -/
  | sysDead (f : SForm)
  /-- HINT_NOP (R331). No effect. -/
  | hintNop (payload : BitVec 22)
  /-- HINT_IMM (R244). Set the pending immediate or base pair for the governed instruction. -/
  | hintImm (payload : BitVec 22)
  /-- HINT_MEM (R332). Read-only, no-allocate, placement and scope qualifiers for a memory access. -/
  | hintMem (payload : BitVec 22)
  /-- HINT_ARITH (R222). Arithmetic control for the next float instruction. -/
  | hintArith (payload : BitVec 22)
  /-- HINT_SCHED (R331). Issue throttle on outstanding long-latency results and starvation priority. -/
  | hintSched (payload : BitVec 22)
  /-- HINT_KILL (R247). Dead marks on the governed instruction's sources. -/
  | hintKill (payload : BitVec 22)
  /-- HINT_PROF (R331). Tag for the sampler (experimental). -/
  | hintProf (payload : BitVec 22)
  /-- RESERVED_ENCODING (R252). A squad issues a word whose opcode, sub-operation or kind is reserved, such as opcode 0x6E or 0x6F, SYS sub8 36 to 255, MXCF sub 2 or 3, or HINT kind 7, and ILLEGAL is raised without execution. -/
  | reservedEncoding (word : Word)
  /-- POWER_ON_RESET (R27). Power is applied to the module: all volatile state is lost, devclk is set to 0, the port-role record is read, and bring-up starts. -/
  | powerOnReset
  /-- DEVICE_RESET (R27). A CXL Reset or secondary bus reset on port 0 loses all tile, wafer-cache, lock and queue state and starts full bring-up, while devclk keeps running. -/
  | deviceReset
  /-- HOST_PORT_RESET (R27). A reset on a host port other than port 0 resets only that port's link. -/
  | hostPortReset
  /-- POWER_SAMPLE (R24). Every 100 µs the module controller measures module power and inlet temperature and updates pwrst. -/
  | powerSample
  /-- POWER_ALARM_CLEAR (R24). The alarm clears after power has stayed below 24.0 kW and the inlet below 42 °C for 10 ms without a break. -/
  | powerAlarmClear
  /-- WAFER_POWER_REMOVAL (R24). After the 1 ms average has exceeded 30.0 kW for 10 ms, the controller removes power from the wafer and all device state is lost. -/
  | waferPowerRemoval
  /-- ROM_CHECK (R36). Phase 0: the boot ROM verifies the firmware image and, if it passes, trains HBM stacks 0 and 1 and writes zero to both. -/
  | romCheck
  /-- HARVEST (R30). Phase 2 tests every tile and bank from the fused defect list and builds the street map under reduced service. -/
  | harvest
  /-- TREE_BUILD (R30). Phase 3 computes the up-down tree and the routing tables, and clears BGOOD of every bank that the plaza router cannot reach. -/
  | treeBuild
  /-- HBM_TRAINING (R29). Phase 4 trains the 22 HBM stacks that are not attached to reticle 0. -/
  | hbmTraining
  /-- MEMORY_CLEAR (R29). Phase 5 writes zero to all HBM outside reticle 0's stacks. -/
  | memoryClear
  /-- FULL_SERVICE_BEGIN (R33). Full service starts: bring-up-ward gangs are pre-empted, the tables move to the top of HBM, the full street map is committed, the clocks change, and PHASE becomes 6. -/
  | fullServiceBegin
  /-- STANDARD_COMMAND (R65). A standard CXL mailbox command (identify, log, firmware information, event records) is served in arrival order. -/
  | standardCommand
  /-- SETROLES (R21). Mailbox command 0xC000 stores the port-role record in flash; it takes effect at the next reset. -/
  | setroles
  /-- IMGCHUNK (R66). Mailbox command 0xC001 stages up to 4 KiB of a firmware image in device RAM. -/
  | imgchunk
  /-- IMGCOMMIT (R37). Background mailbox command 0xC002 verifies the staged image and, if it passes, starts writing it to flash. -/
  | imgcommit
  /-- IMGCOMMIT_COMPLETE (R37). The flash write of an accepted image completes and the background command returns its status. -/
  | imgcommitComplete
  /-- IDREPORT (R38). Mailbox command 0xC003 returns an identity report signed with the device key over the supplied nonce. -/
  | idreport
  /-- CERTREAD (R66). Mailbox command 0xC004 returns up to 4 KiB of the device certificate chain. -/
  | certread
  /-- MARK (R52). Background mailbox command 0xC005 marks a tile, bank, router or link defective; a new table generation is then built against it. -/
  | mark
  /-- BANK_EMPTY_DONE (R179). Emptying of a removed bank completes, and the bank leaves the placement map at the next commit. -/
  | bankEmptyDone
  /-- CHKPT (R39). Background mailbox command 0xC006 stops placement, pre-empts every gang, writes back modified lines, and copies HBM to a safe pool region. -/
  | chkpt
  /-- CHECKPOINT_COMPLETE (R39). The checkpoint copy ends or fails on a pool fault, the completion record is written to the ordering host, and launches resume. -/
  | checkpointComplete
  /-- BIASFLIP (R80). Background mailbox command 0xC007 flips a range of HDM pages to device or host bias, page by page, through the steps of marking, write-back, setting the bit and unmarking. -/
  | biasflip
  /-- BIASFLIP_COMPLETE (R382). Step 4 of the last page ends and the bias flip completes with Success. -/
  | biasflipComplete
  /-- BIASREAD (R66). Mailbox command 0xC008 returns one bias bit per page for up to 32,768 pages. -/
  | biasread
  /-- QCTL_ENABLE (R68). QCTL operation 0 checks a launch-queue descriptor, writes it, and enables the queue. -/
  | qctlEnable
  /-- QCTL_DISABLE (R68). QCTL operation 1 stops all reading of a queue at once; launches already accepted run to completion. -/
  | qctlDisable
  /-- QCTL_READ (R68). QCTL operation 2 returns a queue's descriptor, HEAD and QERR. -/
  | qctlRead
  /-- POOLBIND (R82). Background mailbox command 0xC00A binds a range of 1 GiB pool granules to one link group. -/
  | poolbind
  /-- PEERSET (R85). Mailbox command 0xC00B writes a peer-table entry: valid bit, port mask and serial number. -/
  | peerset
  /-- SAMPCTL (R376). Mailbox command 0xC00C sets up the instruction sampler: ring, port, period, mode and ward filter. -/
  | sampctl
  /-- SNAPCTL (R378). Mailbox command 0xC00D sets capture or compare mode and a buffer for launches of a ward. -/
  | snapctl
  /-- CXL_LINK_TRAINING (R63). A CXL port trains and negotiates its features; a missing mandatory feature leaves it down and sets LINKFAIL, and a peer port checks the peer's serial number. -/
  | cxlLinkTraining
  /-- PORT_LINK_DOWN (R72). A CXL port's link goes down: launch queues watched through it stop with PORTDOWN, and pool or peer ports move or lose their traffic. -/
  | portLinkDown
  /-- FLIT_CRC_FAIL (R41). A received flit fails its CRC; the receiver discards it and every later flit and returns a replay request. -/
  | flitCrcFail
  /-- REPLAY_REQUEST (R41). A sender receives a replay request and resends from the named flit, in the original order. -/
  | replayRequest
  /-- FLIT_ACKNOWLEDGE (R41). An acknowledgement frees replay-buffer entries, so that a blocked sender may send new flits. -/
  | flitAcknowledge
  /-- REPLAY_WINDOW_END (R42). At the end of a 2^20-fabric-cycle window, a link direction with more than 16 replays steps from full to half width or from half width to down, and retrains. -/
  | replayWindowEnd
  /-- LINK_RETRAIN_DONE (R42). Retraining of a link completes within 10 µs, and the waiting flits proceed. -/
  | linkRetrainDone
  /-- PACKET_INJECT (R47). A network interface chooses a route class from the routing-table entry and the keyed hash and injects a packet, or refuses with FABRIC_LOSS. -/
  | packetInject
  /-- PACKET_DELIVER (R48). A packet reaches its destination endpoint, in injection order per source, class and key; MCAST packets are replicated on the way. -/
  | packetDeliver
  /-- HEADER_UE_DISCARD (R60). An uncorrectable router-buffer error in a header flit discards the packet and writes a record to the management ward's fault queue. -/
  | headerUeDiscard
  /-- RESEND_TIMEOUT (R61). An invalidation or probe unanswered for 2^16 fabric cycles is resent, up to 3 times, and after that is treated as a lost migration transfer. -/
  | resendTimeout
  /-- REQUEST_TIMEOUT (R61). A request outstanding for 2^20 fabric cycles raises FABRIC_LOSS in the requesting context. -/
  | requestTimeout
  /-- COMMIT_REQUEST (R56). Writing 1 to rtstat.GO requests a commit of the staging tables; while a commit runs the write is ignored with BUSY. -/
  | commitRequest
  /-- FIRMWARE_COMMIT (R56). Firmware commits its own default tables after a link goes down, a mark request, or MAPCHG. -/
  | firmwareCommit
  /-- COMMIT_DRAIN_DONE (R59). No old-generation packet is in flight: every active table is replaced at once, fkey is replaced, GEN increments, and held dimension-order packets move to up-down. -/
  | commitDrainDone
  /-- COMMIT_COMPLETE (R59). The held packets are delivered, STATE returns to 0, and injection resumes. -/
  | commitComplete
  /-- TAIL_SNOOP (R70). The host's store to the tail line reaches the device as SnpInv; the device drops the line and responds. -/
  | tailSnoop
  /-- TAIL_REREAD (R70). Within 1 µs of the snoop the device rereads the tail with RdShared and computes how many packets are available. -/
  | tailReread
  /-- LAUNCH_PACKET_READ (R73). A 64-byte packet returns from RdCurr and is accepted or rejected in sequence order. -/
  | launchPacketRead
  /-- HEAD_WRITE (R70). Within 4 µs of reading its last packet the device writes the head line with ItoMWr and returns to watching the tail. -/
  | headWrite
  /-- HOST_MEM_READ (R79). A host CXL.mem read of HDM is served at the line's anchor in device bias, or from HBM in host bias, with ordering during a flip as R81 states. -/
  | hostMemRead
  /-- HOST_MEM_WRITE (R79). A host CXL.mem write is performed at the anchor after replicas are invalidated (device bias), or in HBM (host bias). -/
  | hostMemWrite
  /-- HOST_SNOOP (R383). A host snoop of a host-bias line held by the device is ordered at the anchor and answered by the serving bank, with data if the line is modified. -/
  | hostSnoop
  /-- BISNP_INV (R83). A BISnpInv on a pool port writes back a modified line, invalidates every copy and replica, and answers BIRspI. -/
  | bisnpInv
  /-- BISNP_DATA (R83). A BISnpData writes back a modified line, keeps clean copies, and answers BIRspS. -/
  | bisnpData
  /-- POOL_GROUP_LOST (R182). A link group is lost: its granules become lost, their modified lines are dropped, and accesses raise POOL_LOST. -/
  | poolGroupLost
  /-- FAULT_RECORD_WRITE (R96). A raised fault record is written to the nearest fault queue in two writes after checking ring room with a reread of the head line, or it is dropped and counted. -/
  | faultRecordWrite
  /-- LAUNCH_ABORT (R93). An unhandled fault stops every squad of the launch, drains started engine commands, releases locks, frees scratchpad, and writes the fault records and a FAULT completion record. -/
  | launchAbort
  /-- TENANT_RESET (R97). The tenant's queues are disabled, its launches stopped, its lock entries freed, its lines written back, and CANCEL and SRC 6 records written; it waits for any running checkpoint first. -/
  | tenantReset
  /-- PLACEMENT_DECISION (R108). The scheduler ranks the waiting launches and places the next gang that fits a rectangle within its ward budgets. -/
  | placementDecision
  /-- PREEMPT_REQUEST (R109). After 100 µs (priority) or 10 ms (time slice) of waiting, the scheduler requests pre-emption of victim gangs; new placement on their tiles stops. -/
  | preemptRequest
  /-- PREEMPT_STOP (R116). Once every squad of the gang is at a restart point, the squads stop, spans are discarded, and engine commands drain. -/
  | preemptStop
  /-- PREEMPT_SAVE (R116). After the engine drain, stores complete, the save slot is written, a device-scope release is made, and the tiles are freed. -/
  | preemptSave
  /-- WORKGROUP_END (R314). A workgroup ends when all its squads have ended and every engine command they pushed has completed. -/
  | workgroupEnd
  /-- GANG_RETIRE (R99). Every member workgroup has ended: the gang retires, and its scratchpad, save slot and tiles are freed. -/
  | gangRetire
  /-- POOL_ENTRY_RECLAIM (R131). A group that has held a pool entry blocked in WAITP, QPOP or SLEEP for 4,096 core cycles while a group is parked loses the entry and is parked at its hint run. -/
  | poolEntryReclaim
  /-- SKEW_HOLD_TIMEOUT (R135). A prefetch skew hold on a leading squad ends after 2,048 core cycles, and no new hold begins for the next 2,048. -/
  | skewHoldTimeout
  /-- RESULT_WRITEBACK (R140). A long-latency result arrives and is written to its destination lanes, releasing interlocks and its outstanding slot. -/
  | resultWriteback
  /-- ASYNC_TRAP_ENTRY (R317). A held asynchronous trap (WOUND, engine trap, late fault) is taken at the next instruction boundary by the next group to issue. -/
  | asyncTrapEntry
  /-- ENGINE_TRAP_ARRIVAL (R335). A fault met by a job after its push reaches the submitting squad and is held as one engine trap. -/
  | engineTrapArrival
  /-- PAGE_WALK_DONE (R161). A four-level page walk completes, filling the TLBs or raising PAGE with its DETAIL. -/
  | pageWalkDone
  /-- REPLAYABLE_FAULT_TIMEOUT (R164). After 1,000,000,000 devclk ticks without resolution, the walk is abandoned and PAGE becomes a synchronous trap. -/
  | replayableFaultTimeout
  /-- PEER_PROBE (R166). A probe reaches a peer tile's L1 and returns the line on a hit, or sends the access on its ordinary path. -/
  | peerProbe
  /-- ANCHOR_REQUEST (R175). An access reaches a line's anchor or serving bank, is counted, and is performed there in that bank's order. -/
  | anchorRequest
  /-- REGION_EVALUATION (R174). Every 2^16 fabric cycles the anchor evaluates a region entry: replicate, split, move one reticle step, or nothing, then halves the counters. -/
  | regionEvaluation
  /-- MOVE_ORDER (R175). The LOC bank serves the requests forwarded before the order, then sends the region's lines to the new bank as migration transfers. -/
  | moveOrder
  /-- MIGRATION_TRANSFER (R175). The new bank installs migrated lines and acknowledges to the anchor. -/
  | migrationTransfer
  /-- MOVE_ACK (R175). The anchor sets LOC and STATE, clears HOLD, and forwards the held requests in order. -/
  | moveAck
  /-- REPLICA_INVALIDATE (R177). A replica bank receives an invalidation for a region, drops its copies, and acknowledges. -/
  | replicaInvalidate
  /-- INVALIDATION_ACK (R177). Acknowledgements reach the anchor and the writer; when all have arrived, the replicas collapse and the waiting releases may complete. -/
  | invalidationAck
  /-- REPLICA_FILL_ARRIVAL (R209). A replica fill arrives and is installed, or is discarded if an invalidation of the region came first. -/
  | replicaFillArrival
  /-- UNCORRECTABLE_ERROR (R184). An uncorrectable error in a modified line writes its home with a poisoned pattern, and later accesses raise DATA_UE. -/
  | uncorrectableError
  /-- JOB_START (R350). The task scheduler starts a job once every job it follows by footprint has completed. -/
  | jobStart
  /-- JOB_WRITE_LAND (R205). A job write is performed and its invalidations are acknowledged; its bytes are counted on the completion object as a release. -/
  | jobWriteLand
  /-- JOB_COMPLETE (R347). Every write of a job has landed and been counted; its event record is posted and its queue place freed. -/
  | jobComplete
  /-- JOB_STOP (R352). A job that meets a non-replayable fault stops, discards its follow-on, and raises an engine trap. -/
  | jobStop
  /-- FOLLOW_ON_ISSUE (R351). A follow-on matrix command is issued to the array once its copy has completed and every earlier q1 command has executed. -/
  | followOnIssue
  /-- MATRIX_COMMAND_ACT (R361). The array reaches the next q1 command and acts on its accumulator tile by the state table, raising engine traps on error. -/
  | matrixCommandAct
  /-- MXST_SUMS_ARRIVE (R364). The sums of an MXST reach the accumulator tile 280 core cycles after its occupancy ends. -/
  | mxstSumsArrive
  /-- COLLECTIVE_JOIN (R354). A collective job claims or joins its junction-table entry, or fails with MISMATCH. -/
  | collectiveJoin
  /-- COLLECTIVE_JOIN_TIMEOUT (R354). A collective job that has waited 2^20 fabric cycles for a busy entry stops with COLLECTIVE BUSY. -/
  | collectiveJoinTimeout
  /-- COLLECTIVE_CHUNK_LAND (R355). A reduced chunk lands at a member's DST and is counted on its CBAR. -/
  | collectiveChunkLand
  /-- COLLECTIVE_GROUP_FAIL (R356). A lost member or peer fails the group; every other member's job stops with COLLECTIVE LOST. -/
  | collectiveGroupFail
  /-- COLLECTIVE_TREE_REBUILD (R356). A link or router failure rebuilds the tree and replays every uncounted chunk. -/
  | collectiveTreeRebuild
  /-- HOST_MSG_WRITE (R340). An accepted q4 element is written to its out-ring slot and then OUTTAIL is written, within 2 µs. -/
  | hostMsgWrite
  /-- OUTHEAD_REREAD (R340). While the out ring appears full, the device rereads OUTHEAD at least once per µs. -/
  | outheadReread
  /-- INTAIL_POLL (R340). At least once per µs the device reads INTAIL, copies new in-ring elements into q5, and writes INHEAD. -/
  | intailPoll
  /-- LOCK_REQUEST_ARRIVAL (R300). A LOCK or LKUP reaches its slice, is checked and acknowledged, then granted or queued, wounding younger incompatible holders. -/
  | lockRequestArrival
  /-- LOCK_RELEASE_ARRIVAL (R300). A release or withdrawal at an entry is applied, and waiting requests are granted oldest first when grantable. -/
  | lockReleaseArrival
  /-- LOCK_GRANT (R301). A grant reaches the squad's tile, increments its lock-grant PHASE once, and is acknowledged. -/
  | lockGrant
  /-- GRANT_RESEND_TIMEOUT (R301). An unacknowledged grant is resent up to 3 times, and after that the slice revokes the squad's locks. -/
  | grantResendTimeout
  /-- WOUND_TRAP (R304). A wounded squad takes WOUND at a boundary, ending a blocked wait; the handler or the default action (LKRA keeping AGE, return to SPANPC) runs. -/
  | woundTrap
  /-- REVOCATION (R306). A wound not ended after 2^16 resident core cycles removes the squad's entries without release, sets REVOKED, and writes LOCK_REVOKED. -/
  | revocation
  /-- SLEEP_TIMER (R330). The SLEEP timer object's PHASE advances when devclk reaches the target, ending the wait. -/
  | sleepTimer
  /-- SAMPLE (R376). Each period, each good tile samples the first qualifying instruction after a random point. -/
  | sample
  /-- INSTRUCTION_FETCH_FAULT (R238). A fetch at a PC whose word lies beyond iseg.limit, or whose translation lacks X or faults, raises SEGMENT or PAGE before any instruction exists. -/
  | instructionFetchFault
  /-- MODULE_POWER_LOSS (R27). External power to the module is lost: all volatile state is lost, an interrupted flash write leaves the image unbootable, and the next start is a power-on reset. -/
  | modulePowerLoss
  /-- MEMORY_DEVICE_COMPLETION (R84). A completion or data response from a pool memory device or from a host, for a device MemWr, pool read, host-window or host-bias CXL.cache access, reaches the device and lets waiting pool- or system-scope releases complete. -/
  | memoryDeviceCompletion
  /-- PEER_CHUNK_ARRIVAL (R85). An unordered I/O write carrying collective traffic from a peer K1 arrives on a peer-role port and is passed to the collective engine for its group. -/
  | peerChunkArrival
  /-- POOLBIND_COMPLETE (R82). The background POOLBIND command finishes binding its granule range to the link group and returns its completion through the mailbox. -/
  | poolbindComplete
deriving DecidableEq, Repr

end Sys2Proof
end

