-- ==== Sys2Proof/Machine/State.lean ====
section
/-! DEFINITION. The state of the K1 as plain data, the reasons a step can stop, and the state after reset. Each field's
docstring names the rule that gives the machine that piece of state; INVENTORY.md lists them with their reset values. -/

namespace Sys2Proof.Machine

/-! ### Tables: finite maps from numbers, sorted by key -/

/-- The value at a key, if listed. -/
def tabFind {α : Type} (k : Nat) : List (Nat × α) → Option α
  | [] => none
  | (j, v) :: r => if j = k then some v else tabFind k r

/-- Sets the value at a key, keeping the keys rising. -/
def tabSet {α : Type} (k : Nat) (v : α) : List (Nat × α) → List (Nat × α)
  | [] => [(k, v)]
  | (j, w) :: r => if k < j then (k, v) :: (j, w) :: r else if k = j then (k, v) :: r else (j, w) :: tabSet k v r

/-- Removes a key. -/
def tabDel {α : Type} (k : Nat) (t : List (Nat × α)) : List (Nat × α) := t.filter fun e => e.1 ≠ k

/-! ### Registers of a squad -/

/-- A file register: its shape tag and its value (R143); a dead register has none (R146). -/
inductive RegVal where
  | uniform (u : Word)
  | affine (base stride : Word)
  | general (v : Lanes)
  | dead
deriving DecidableEq, Repr

/-- An `oc` slot or `lt` latch: a shape, and a valid bit for each lane (R136, R138, R143). -/
structure LaneEntry where
  val : RegVal
  valid : Mask
deriving DecidableEq, Repr

/-- The hint state of a group inside a hint run (R244, R245). -/
structure HintRun where
  /-- The PC of the run's first word, the launch site of R245. -/
  start : DWord
  /-- The pending immediate of HINT.IMM MODE 0. -/
  imm : Option Word
  /-- The upper half set by a MODE 1 word that MODE 0 must follow. -/
  upper : Option (BitVec 16)
  /-- The pending base pair of MODE 2. -/
  base : Option (BitVec 3)
  /-- HINT.MEM's payload (R332). -/
  mem : Option (BitVec 8)
  /-- HINT.ARITH's arithmetic control (R222). -/
  arith : Option (BitVec 8)
  /-- HINT.SCHED's FIRST and OUTN (R331). -/
  sched : Option (BitVec 5)
  /-- HINT.KILL's marks (R247). -/
  kill : Option (BitVec 2)
  /-- HINT.PROF's tag (R331). -/
  prof : Option (BitVec 16)
  /-- A word of the run makes the governed instruction raise ILLEGAL (R252). -/
  bad : Bool
deriving DecidableEq, Repr

/-- The instruction-buffer entry of a group (R128, R130); a parked group has none and an order of parking. -/
inductive Entry where
  | home
  | pool (n : Nat)
  | parked (order : Nat)
deriving DecidableEq, Repr

/-- The trap registers (R319). -/
structure TrapRegs where
  pc : DWord
  num : BitVec 8
  async : Bool
  past : Bool
  part : Bool
  det : Word
  addr : DWord
  seq : Word
  arg : Word
  site : DWord
deriving DecidableEq, Repr

/-- Why a group is blocked in an instruction that has not taken effect. It stands at the instruction with its hints. -/
inductive Blocked where
  /-- `WAITP` on an object of the member's allocation, or on the lock-grant object (R294). -/
  | waitp (object : Option Nat) (value : Word)
  /-- `QPOP` of an empty queue (R154). -/
  | qpop (queue : Nat)
  /-- `SLEEP` until a `devclk` value; `fired` once the timer object's PHASE has advanced (R330). -/
  | sleep (target : Nat) (fired : Bool)
  /-- An access that waits at the anchor of a line (R80, R175). -/
  | anchor (line : Nat)
  /-- A flush that waits for the home of a line to acknowledge its write (R287). -/
  | home (line : Nat)
  /-- A release that waits for the conditions of R207 at a scope. -/
  | release (scope : Nat)
  /-- An instruction of opcodes 0x40-0x73 that waits for an earlier fence of its group (R292). -/
  | fence
  /-- A pool-scope acquire that waits for back-invalidate snoops to be answered (R208). -/
  | snoops
  /-- `QBND` of `q4` that waits for accepted elements to be written (R338). -/
  | unbind
  /-- A replayable page fault at a virtual page that waits for its resolution, with the trap that it becomes if none comes in
  time (R115, R164). -/
  | page (va : Nat) (trap : TrapRegs)
  /-- A request that is lost, or whose answer is: sent at a fabric cycle, for an address; FABRIC_LOSS is taken at its time-out,
  with PART if some lanes of the instruction were performed (R61, R284). -/
  | answer (sent addr : Nat) (part : Bool)
deriving DecidableEq, Repr

/-- What an instruction that waits has read: the file registers, the operand-cache slots and the result latches of its squad as
it issued. -/
structure Sources where
  regs : Vector RegVal 112
  oc : Vector LaneEntry 8
  lt : Vector LaneEntry 4
deriving DecidableEq, Repr

/-- A group: a set of live threads of one squad that share a PC (R128). -/
structure Group where
  threads : Mask
  pc : DWord
  entry : Entry
  hints : Option HintRun
  blocked : Option Blocked
  /-- The core cycle at which the wait began (R131). -/
  since : Nat
  /-- The core cycle of its last issue (R133, starved). -/
  issued : Nat
  /-- The group is not eligible before this core cycle (R295, R313). -/
  notBefore : Nat
  /-- Its fences that are not complete, by their payloads (R292). -/
  fences : List Nat
  /-- What it last waited for since its last issue, as R377 numbers it: 0 none, 3 parked, 4 a skew hold, 6 blocked. -/
  cause : Nat
  /-- What the instruction at which it is blocked read when it issued; none where it has not issued. -/
  read : Option Sources
deriving DecidableEq, Repr

/-- A long-latency result on its way (R140): the destination, the lanes it writes with their values (the second
value of a pair in `hi`), the instructions each lane's thread may still issue in the lookahead window, and whether it
is uniform; its launch site (R61), and the pool lines it comes from, with their virtual addresses (R182). -/
structure Outstanding where
  dst : Operand
  width : Nat
  lanes : Mask
  lo : Lanes
  hi : Lanes
  left : Vector Nat 32
  uniform : Bool
  site : DWord
  pool : List (Nat × Nat)
deriving DecidableEq, Repr

/-- A segment register (R155). -/
structure Seg where
  base : DWord
  limit : DWord
deriving DecidableEq, Repr

/-- A squad's span state (R111). -/
structure SpanState where
  number : Nat
  pc : DWord
  liveIn : BitVec 112
  entryMask : Mask
deriving DecidableEq, Repr

/-- A squad (06_tile_core.md). -/
structure Squad where
  /-- The squad index, which is its slot (R101). -/
  slot : Nat
  /-- The live threads (R126). -/
  live : Mask
  /-- Its groups (R128). -/
  groups : List Group
  /-- The file registers v0-v111 (R136). -/
  regs : Vector RegVal 112
  /-- The operand-cache slots and the result latches (R138). -/
  oc : Vector LaneEntry 8
  lt : Vector LaneEntry 4
  /-- The general budget n (R144). -/
  genregs : Nat
  /-- Long-latency results outstanding, oldest first (R140). -/
  outstanding : List Outstanding
  /-- `sqst` (R147): the stored bits; the others are computed. -/
  deadrd : Bool
  drtrap : Bool
  intrap : Bool
  /-- The threads of the group that took the trap (R317). -/
  handler : Mask
  /-- `hmsk` (R322). -/
  hmsk : BitVec 32
  /-- The trap registers (R319). -/
  trap : TrapRegs
  /-- The span state of the last `SPAN`, and whether the squad is inside it (R111, R112). -/
  span : Option SpanState
  inSpan : Bool
  /-- It has executed a `SPAN` since its placement or restore (R304). -/
  spanned : Bool
  /-- The entry PC of the squad's placement (R127, R304). -/
  entryPc : DWord
  /-- The next command sequence number (R123, R334). -/
  cmdSeq : Word
  /-- `gseg`, `sseg`, `kseg`, `pseg`, `xseg`, `vseg`, `iseg`, `lseg`, in that order (R121, R155). -/
  segs : Vector Seg 8
  /-- A WOUND has reached the squad and is not taken (R304). -/
  wound : Bool
  /-- The engine trap held, if any (R335). -/
  engine : Option EngineTrap
  /-- A fault that arrived after its instruction was passed (R317). -/
  late : Option EngineTrap
  /-- Halted by `HALT` or an unhandled `BRK` (R321, R329). -/
  halted : Bool
  /-- Stopped for pre-emption (R116). -/
  stopped : Bool
  /-- Every thread has exited and the squad has ended (R314). -/
  ended : Bool
  /-- Regions whose replica invalidations, caused by this squad's writes, are not acknowledged (R177). -/
  invals : List RegionKey
  /-- Lines of the pool and the host window that this squad wrote and no release has completed (R84, R207). -/
  poolWrites : List Nat
deriving DecidableEq, Repr

/-! ### A tile and its engines -/

/-- A matrix command (R358, R361): which, its accumulator tile, its operand values, its number and launch site. -/
inductive MatrixOp where
  | config | release | openChain | loadWeights | stream | closeChain | drain | zero
deriving DecidableEq, Repr

structure MatrixCmd where
  op : MatrixOp
  tile : Nat
  av : Word
  bv : Word
deriving DecidableEq, Repr

/-- One write that a started job has still to land (R205, R347): the space and offset of its bytes, the member whose
allocation receives them for MCAST with the number of its copy while that travels (R49), the bytes (none once performed), how
many it counts on the completion object, and the regions whose invalidations it still waits for. -/
structure JobWrite where
  space : Nat
  offset : Int
  member : Option Nat
  bytes : List Byte
  count : Nat
  regions : List RegionKey
  copy : Option Nat
deriving DecidableEq, Repr

/-- What a job is: a copy job or a collective job with its card (R343, R353), or a matrix command; a follow-on names
its copy job (R351). -/
inductive JobKind where
  | copy (card : BitVec 1024)
  | collective (card : BitVec 1024)
  | matrix (cmd : MatrixCmd) (copyJob : Option Nat)
deriving DecidableEq, Repr

/-- The progress of a job (R350, R352): a paused job waits for a virtual page (R164), and one that has met a fault
holds its number, DETAIL and address until it stops. -/
inductive JobStage where
  | queued | started | paused (va : Nat) | faulted (num detail addr : Nat)
deriving DecidableEq, Repr

/-- A job held by the task scheduler of a tile (R350). -/
structure Job where
  id : Nat
  slot : Nat
  seq : Word
  site : DWord
  kind : JobKind
  stage : JobStage
  /-- The fabric cycle at which a collective job began to wait for a busy entry (R354). -/
  waitSince : Option Nat
  writes : List JobWrite
  /-- The segment registers of the submitting squad at the push (R343). -/
  segs : Vector Seg 8
  /-- What a job that starts has read, by space and block of the address, each block once (R164, R348). -/
  read : List (Nat × Nat × List Byte)
  /-- Physical lines that fills of other MCAST jobs have read for it (R348). -/
  fills : List (Nat × List Byte)
deriving DecidableEq, Repr

/-- The states of an accumulator tile (R357). -/
inductive AccState where
  | uncfg | idle | openChain | loaded
deriving DecidableEq, Repr

/-- An accumulator tile (R232, R236, R357): A by 256·row + column, CR by column, CC by row; entries that are 0 are
not listed. `sums` are the contributions of an MXST that have not reached the tile (R364). -/
structure AccTile where
  st : AccState
  a : List (Nat × BitVec 136)
  cr : List (Nat × BitVec 136)
  cc : List (Nat × BitVec 136)
  anchor : Int
  format : BitVec 8
  waddr : Nat
  sums : List (Nat × BitVec 136)
deriving DecidableEq, Repr

/-- The weight block the array has latched (R359, R360): where it was read, its bytes, and the codes they were read under. -/
structure Latch where
  offset : Nat
  bytes : List Byte
  format : BitVec 8
deriving DecidableEq, Repr

/-- A queue register that holds 64-bit elements, with its phase counter and notification binding (R153, R338). -/
structure QueueState where
  items : List DWord
  phase : Word
  bind : Option Nat
deriving DecidableEq, Repr

/-- The event queue `q3` (R341, R342): its records lie in the reserved kilobyte. -/
structure EventQueue where
  count : Nat
  head : Nat
  phase : Word
  lost : Nat
  bind : Option Nat
deriving DecidableEq, Repr

/-- The host message area of `q4` and `q5` (R338-R340). -/
structure MsgArea where
  bound : Bool
  offset : DWord
  slot : Nat
  outTail : Word
  outHead : Word
  inHead : Word
deriving DecidableEq, Repr

/-- A workgroup on its tile (R102). -/
structure Workgroup where
  gang : GangKey
  member : Nat
  /-- Bytes of its allocation (SPAD). -/
  spad : Nat
  squads : List Squad
  q3 : EventQueue
  q4 : QueueState
  /-- `q5`, then `q6`-`q13`. -/
  boxes : List QueueState
  area : MsgArea
  jobs : List Job
  nextJob : Nat
  /-- Phase counters of `q0`-`q2` (R153). -/
  jobPhases : List Word
  accs : List AccTile
  latch : Option Latch
  /-- No hold of its prefetching squad begins before this core cycle (R135). -/
  skewQuiet : Nat
deriving DecidableEq, Repr

/-- A line of the L1 data cache (R165): its 128-byte line number, its bytes, whether a `kseg` load filled it, and the
tenant. -/
structure L1Line where
  line : Nat
  bytes : List Byte
  kseg : Bool
  tenant : Nat
deriving DecidableEq, Repr

/-- A TLB entry (R162): the tenant, the page's virtual and physical base, its log2 size, its permissions. -/
structure TlbEntry where
  tenant : Nat
  va : Nat
  pa : Nat
  log : Nat
  w : Bool
  x : Bool
deriving DecidableEq, Repr

/-- A good tile's state that a workgroup does not own (06, 07). -/
structure Tile where
  wg : Option Workgroup
  l1 : List L1Line
  icache : List L1Line
  tlb : List TlbEntry
  /-- The replica table (R176): base addresses of 64 KiB regions' entries. -/
  replicaTable : List RegionKey
  /-- The peer predictor (R166): line and peer tile. -/
  predictor : List (Nat × Nat)
  /-- The contention predictor (R180): line and two-bit counter. -/
  contention : List (Nat × Nat)
  /-- `accfix` (R237). -/
  accCorr : Nat
  accFail : Nat
  /-- The order of the next parking (R130). -/
  parkSeq : Nat
  /-- A prefetch skew hold: the squad held and the core cycle it began (R135). -/
  skew : Option (Nat × Nat)
  /-- Regions whose invalidations, caused by writes of the tile's engines, of SNAP or of squads that are gone, are not
  acknowledged (R210). -/
  invals : List RegionKey
  /-- Lines of the pool and the host window that the tile's engines, or squads that are gone, wrote and no release has completed
  (R76, R198). -/
  poolWrites : List Nat
deriving DecidableEq, Repr

/-! ### Launches, gangs and wards -/

/-- The header fields of a code object that a launch check reads (R257, R259). -/
structure CodeHeader where
  codeVa : Nat
  genregs : Nat
  entryPc : Nat
  trapPc : Option Nat
  nspan : Nat
  spanOff : Nat
  saveVa : Nat
  saveSlots : Nat
  segtab : List Seg
deriving DecidableEq, Repr

/-- An accepted launch (R73, R101-R110). `order` is the order of acceptance; `status` is set once (R98): 0 DONE,
2 FAULT, 3 PARTIAL, 4 CANCEL, with its CODE. -/
structure Launch where
  key : LaunchKey
  ward : Nat
  tenant : Nat
  priv : Bool
  replay : Bool
  crec : Bool
  intr : Bool
  shape : Nat
  squads : Nat
  gangs : Nat
  param : DWord
  plen : Word
  spad : Nat
  dep : Option LaunchKey
  tag : DWord
  header : CodeHeader
  order : Nat
  waitSince : Nat
  nextGang : Nat
  again : List Nat
  retired : List Nat
  status : Option (Nat × Nat)
  /-- The status and CODE with which it is being stopped, while engine commands that have started still run (R93, R97). -/
  ending : Option (Nat × Nat)
  snap : Option SnapSetting
  /-- The keys of the SNAP records written in it: gang, member, squad, tag and command sequence number (R378). -/
  snapped : List (Nat × Nat × Nat × Nat × Word)
deriving DecidableEq, Repr

/-- The stages of a placed gang (R116). -/
inductive GangStage where
  | running | requested | stopped | saved
deriving DecidableEq, Repr

/-- What the save slot of a pre-empted gang does not hold of a squad, and the device keeps (LOG 37): the writes it has still
to release to the pool and to hosts (R125), its late fault (R61), its trap registers, which keep their values from one
trap entry to the next (R319), its live-in set (R258), and its fences that are not complete (R292). -/
structure KeptSquad where
  slot : Nat
  poolWrites : List Nat
  late : Option EngineTrap
  trap : TrapRegs
  liveIn : BitVec 112
  fences : List Nat
deriving DecidableEq, Repr

/-- What the save slot of a pre-empted gang does not hold of a member, and the device keeps: the accumulator tiles whose
chain has no weights, the phases of `q0`-`q2` and `q4`, the dropped records of `q3`, the squad that bound the message
area, until when no skew hold begins (R135), and what is kept of each squad (LOG 37). -/
structure KeptMember where
  member : Nat
  opened : List Nat
  jobPhases : List Word
  q4Phase : Word
  lost : Nat
  areaSlot : Nat
  skewQuiet : Nat
  squads : List KeptSquad
deriving DecidableEq, Repr

/-- A gang that holds a save slot (R104, R119): its north-west tile, its save slot, when it was last placed, its stage,
and what reached its squads while it was off the wafer (R122, R124). -/
structure Gang where
  key : GangKey
  origin : Nat
  slot : Nat
  placedAt : Nat
  stage : GangStage
  grants : List Grant
  wounds : List SquadKey
  kept : List KeptMember
deriving DecidableEq, Repr

/-- A ward control block (R88) with the state the device keeps beside it: DSTOPPED (R94), the fault queue's write
count, consumed count and dropped records (R96). -/
structure Ward where
  parent : Nat
  tenant : Nat
  priv : Bool
  prio : Nat
  fdom : Nat
  dstop : Bool
  ovr : BitVec 7
  spadb : Nat
  tiles : Nat
  wcsh : Nat
  hbmsh : Nat
  poolsh : Nat
  safeg : Nat
  safen : Nat
  fqRing : Nat
  fqHead : Nat
  fqLogn : Nat
  fqPort : Nat
  fqMsix : Nat
  dstopped : Bool
  written : Nat
  consumed : Nat
  lost : Nat
deriving DecidableEq, Repr

/-- A fault record (R95) before its FSEQ and LOSTN are known, with the ward whose queue takes it (none: the event log). -/
structure FaultRecord where
  queue : Option Nat
  num : Nat
  src : Nat
  more : Bool
  abort : Bool
  part : Bool
  ward : Nat
  qid : Nat
  lseq : Nat
  gang : Nat
  tile : Nat
  squad : Nat
  pc : DWord
  cmdSeq : Word
  detail : Word
  addr : DWord
  time : DWord
  ranges : List (Nat × Nat)
deriving DecidableEq, Repr

/-- A completion record that waits to be written: behind the fault records of its launch, or for its port (R72, R96). -/
structure HeldRecord where
  seq : Nat
  bytes : List Byte
  intr : Bool
deriving DecidableEq, Repr

/-- A launch queue (R67-R72): its descriptor and what the device keeps of it; `ended` holds the ending status of
recent sequence numbers (R106) and `held` the records that wait. -/
structure LaunchQueue where
  enabled : Bool
  ring : Nat
  tailA : Nat
  headA : Nat
  cring : Nat
  ward : Nat
  logn : Nat
  port : Nat
  msix : Nat
  head : Nat
  qerr : Nat
  /-- The tail line is held shared (R70 step 1). -/
  watching : Bool
  /-- The tail count last read. -/
  tail : Nat
  ended : List (Nat × Nat)
  held : List HeldRecord
  /-- A packet has been read since the head line was last written (R70 step 7). -/
  headDirty : Bool
deriving DecidableEq, Repr

/-! ### Fabric -/

/-- The states of a link (R42). -/
inductive LinkState where
  | full | half | down
deriving DecidableEq, Repr

/-- One direction of a link (R41, R42): the replay buffer lists sequence numbers with the packet whose flit it is. -/
structure Link where
  st : LinkState
  replays : Nat
  nextSeq : BitVec 8
  buffer : List (BitVec 8 × Nat)
  retraining : Bool
  /-- The next flit the receiver accepts, and the flits the sender has still to resend. -/
  expect : BitVec 8
  resend : List (BitVec 8)
  /-- The last window of 2^20 fabric cycles whose end has been dealt with. -/
  window : Nat
deriving DecidableEq, Repr

/-- A packet in flight (R44-R48, R61): its number, its route class and table generation, the router that holds it and
when it was injected. -/
structure Flight where
  id : Nat
  packet : Packet
  route : RouteClass
  gen : Nat
  router : Nat
  injected : Nat
deriving DecidableEq, Repr

/-- A packet whose answer is awaited by its sender (R61): the number of resends and the time of the last sending. -/
structure Awaited where
  id : Nat
  packet : Packet
  sent : Nat
  resends : Nat
deriving DecidableEq, Repr

/-- One set of routing tables (R53-R55): reset contents, or the default tables that firmware has built for a street map,
with the hop distances of the routers that reach its root; and the entries that software has written. -/
inductive TableBase where
  | blank
  | default (street : List (Nat × BitVec 32)) (hops : List (Nat × Nat))
deriving DecidableEq, Repr

structure Tables where
  base : TableBase
  written : List (Nat × BitVec 16)
deriving DecidableEq, Repr

/-- `rtstat` and `rterr` (R57). -/
structure RtStat where
  gen : BitVec 16
  state : Nat
  err : Nat
  fwc : Bool
  router : Nat
  dest : Nat
  /-- The running commit has replaced the active tables (R59 step 3). -/
  swapped : Bool
  /-- Firmware has a commit of its own to make (R56, R58). -/
  want : Bool
deriving DecidableEq, Repr

/-! ### Wafer cache -/

/-- Placement states of a region entry (R170). -/
inductive RegionState where
  | resident | migrated | replicated | pinned | streaming
deriving DecidableEq, Repr

/-- A region entry (R170) with the acknowledgements its anchor awaits and the move in flight (R175, R177). -/
structure RegionEntry where
  key : RegionKey
  state : RegionState
  wlo : Bool
  whi : Bool
  loc : Nat
  rptr : List Nat
  coarse : BitVec 14
  hold : Bool
  rhint : Bool
  cnt : List Nat
  cret : List Nat
  other : Nat
  owner : Nat
  quiet : Nat
  acks : List Nat
  moveTo : Option Nat
  evaluated : Nat
  moved : Nat
deriving DecidableEq, Repr

/-- A copy of a line held by a replica bank (R176, R209), with the ward it was fetched for and its last use (R168). -/
structure Replica where
  region : RegionKey
  reticle : Nat
  line : Nat
  bytes : List Byte
  ward : Nat
  used : Nat
deriving DecidableEq, Repr

/-- A line held at its serving bank (R167): whether it is modified, with its home's bytes while it is; whether it is held
through CXL.cache for a host-bias page, owned or shared (R383); the tenants that have written it since it was clean (R97);
the ward that brought it, and its last use, 0 at the eviction end (R168). -/
structure WcLine where
  line : Nat
  home : List Byte
  modified : Bool
  hostHeld : Bool
  owned : Bool
  writers : List Nat
  ward : Nat
  used : Nat
deriving DecidableEq, Repr

/-- A pending replayable walk (R162, R164): the tenant and virtual page, what it accesses, the level at which it
faulted, when its record was raised, whether a TLBI has asked for its retry, and the reticle whose walker keeps it. -/
structure Walk where
  tenant : Nat
  va : Nat
  write : Bool
  exec : Bool
  level : Nat
  raised : Nat
  retry : Bool
  record : FaultRecord
  reticle : Nat
deriving DecidableEq, Repr

/-! ### Locks -/

/-- A request waiting at an entry (R300). -/
structure Waiting where
  squad : SquadKey
  mode : LockMode
  up : Bool
  age : Age
deriving DecidableEq, Repr

/-- A lock-table entry (R296): holders with their modes and waiting requests, with the descriptor's scope, matrix, TID
and lines per tile. -/
structure LockEntry where
  id : LockId
  scope : Nat
  matrix : Nat
  tid : Word
  linesPerTile : Nat
  holders : List (SquadKey × LockMode)
  waiting : List Waiting
deriving DecidableEq, Repr

/-- What the lock manager keeps of a squad (R299, R302, R309): AGE, whether it is fixed, the sticky bits of `lkst`,
the resident core cycles left to an unended wound, and the scopes of the grants its lock-grant object has counted,
with the PHASE each gave (R193). -/
structure LockSquad where
  squad : SquadKey
  ward : Nat
  age : Option DWord
  fixed : Bool
  wounded : Bool
  revoked : Bool
  woundLeft : Option Nat
  scopes : List (Nat × Nat)
deriving DecidableEq, Repr

/-- A grant sent and not yet acknowledged by its tile (R301). -/
structure SentGrant where
  grant : Grant
  sent : Nat
  resends : Nat
deriving DecidableEq, Repr

/-! ### Collectives, mailbox, observation -/

/-- A member that has joined a group (R354): its rank, its tile and job, and its contribution. -/
structure Joined where
  rank : Nat
  tile : Nat
  job : Nat
  bytes : List Byte
deriving DecidableEq, Repr

/-- A group of the junction table (R354): the fields it was claimed with, the members whose jobs are neither completed
nor stopped, what peers have contributed, whether the result has been formed, and whether a member or peer is lost. -/
structure Junction where
  tenant : Nat
  key : DWord
  op : Nat
  len : Nat
  chunk : Nat
  nlocal : Nat
  npeer : Nat
  peers : DWord
  members : List Joined
  contributions : List PeerChunk
  reduced : Bool
  failed : Bool
  rebuilds : Nat
deriving DecidableEq, Repr

/-- The mailbox return codes the rules name (R65). -/
inductive MbCode where
  | success | invalidInput | busy | background | unsupported
deriving DecidableEq, Repr

/-- An answer a mailbox has returned (R65). -/
structure MbAnswer where
  port : Nat
  opcode : Nat
  code : MbCode
  out : List Byte
deriving DecidableEq, Repr

/-- A running background command (R66). -/
inductive Background where
  | image
  | mark (part : Part)
  | checkpoint (region : Nat)
  | biasFlip (first count : Nat) (toHost : Bool)
  | poolBind (first count group : Nat)
deriving DecidableEq, Repr

/-- What a tile has sampled and not yet written (R377). -/
structure Issued where
  tile : Nat
  slot : Nat
  governed : Bool
  prof : Nat
  site : Nat
  word : Word
  ward : Nat
  gang : GangKey
  member : Nat
  threads : Nat
  time : DWord
  cmdSeq : Word
  /-- The instruction has a result; the cause of the last wait before it, as R377 numbers it. -/
  result : Bool
  cause : Nat
deriving DecidableEq, Repr

/-- Which group issues: its tile, squad slot and PC (R129: two groups of a squad never share a PC). -/
structure Cursor where
  tile : Nat
  slot : Nat
  pc : DWord
deriving DecidableEq, Repr

/-- A request that reaches the anchor of a line and is held there (R80, R83, R175, R177, R383): an access of a group, of a
job or of a packet; a host's read or write; a snoop of a memory device or of a host at an address, with what the asker then
holds of the line. -/
inductive HeldRequest where
  | group (c : Cursor)
  | job (tile id : Nat)
  | access (a : Access)
  | hostRead (port address size : Nat)
  | hostWrite (port address : Nat) (bytes : List Byte)
  | snoop (address : Nat) (host invalidate : Bool) (written : Option (List Byte))
deriving DecidableEq, Repr

/-- A held request and its line. -/
structure Held where
  line : Nat
  request : HeldRequest
deriving DecidableEq, Repr

/-- An answer to a snoop: BIRspI or BIRspS to a memory device (R83), or the answer to a host, with the data of a modified
copy (R383). -/
structure SnoopAnswer where
  line : Nat
  host : Bool
  invalidate : Bool
  data : Option (List Byte)
deriving DecidableEq, Repr

/-- The sampler (R376). -/
structure Sampler where
  setting : SampSetting
  seq : Nat
  /-- Tiles that have sampled in the current period, and the period's start in core cycles. -/
  done : List Nat
  start : Nat
  taken : List Issued
deriving DecidableEq, Repr

/-- A read a host has been answered (R79): port, address and the bytes, or none for poison or a completer abort. -/
structure HostAnswer where
  port : Nat
  address : Nat
  bytes : Option (List Byte)
deriving DecidableEq, Repr

/-- A granule of pool space (R82, R182). -/
structure Granule where
  group : Nat
  lost : Bool
deriving DecidableEq, Repr

/-- A CXL port (R20, R63): its role, 0 host, 1 pool, 2 peer; whether its link is up. -/
structure Port where
  role : Nat
  up : Bool
deriving DecidableEq, Repr

/-- The module's flash and fused values (R21, R27, R35-R38). -/
structure Flash where
  roles : DWord
  image : List Byte
  /-- A write that was interrupted leaves the image unbootable (R37). -/
  torn : Bool
  minSvn : Nat
  keyDigest : BitVec 256
  defects : List Part
  stepping : Nat
  serial : BitVec 128
  certificate : List Byte
deriving DecidableEq, Repr

/-- The module controller's view of power (R24, R26). -/
structure Power where
  removed : Bool
  alarm : Bool
  hot : Bool
  narrow : Bool
  count : BitVec 8
  average : Nat
  history : List Nat
  inlet : Nat
  /-- Microseconds for which both clearing conditions have held, and for which the average has exceeded 30.0 kW. -/
  calm : Nat
  overUs : Nat
deriving DecidableEq, Repr

/-- Bring-up (R29, R34). -/
structure BringUp where
  phase : Nat
  rsvc : Bool
  fwfail : Bool
  short : Bool
  roledef : Bool
  good : Nat
  svn : BitVec 8
  /-- Within phase 5, how far the work has come: 4 after training, 5 after the clear, 6 while the full map's commit drains the
  fabric, 7 once the full map is in force (R33). -/
  worked : Nat
  /-- SHA-256 of the running image (R38). -/
  digest : BitVec 256
deriving DecidableEq, Repr

/-- An event to perform: its row and what its agent brings (LOG 1). -/
structure Pending where
  row : Instr
  input : Input
deriving DecidableEq, Repr

/-- What the fabric loses of the packets that the move of a step sends (R60, R61): nothing, the requests, or the answers. -/
inductive Loss where
  | none | request | answer
deriving DecidableEq, Repr

/-- A choice of what moves next (LOG 1): the oldest event, or else the n-th that is due; or the n-th scheduler that has
an eligible group; or one of these, whose packets the fabric loses. -/
inductive Choice where
  | event (n : Nat)
  | issue (n : Nat)
  | losing (l : Loss) (event : Bool) (n : Nat)
deriving DecidableEq, Repr

/-- A running checkpoint (R39): the first granule of its region, and the port that ordered it. -/
structure Checkpoint where
  region : Nat
  port : Nat
deriving DecidableEq, Repr

/-- The state of the K1. -/
structure State where
  -- clocks and power
  devclk : DWord
  coreCycles : Nat
  fabricCycles : Nat
  pace : List Nat
  power : Power
  -- flash, bring-up
  flash : Flash
  flashWrite : Option (List Byte)
  staged : List Host.Cell
  bringUp : BringUp
  -- fabric
  links : List (Nat × Link)
  flights : List Flight
  awaited : List Awaited
  nextPacket : Nat
  /-- The packets that the network interfaces hold while a commit drains the fabric (R59). -/
  waiting : List Packet
  fkey : DWord
  street : List (Nat × BitVec 32)
  streetNext : List (Nat × BitVec 32)
  /-- The map that the running commit's tables are built against. -/
  streetCommit : List (Nat × BitVec 32)
  /-- The map of the whole wafer that harvest and tree build make before full service (R29, R30). -/
  harvestMap : List (Nat × BitVec 32)
  /-- The parts that have been marked since the reset (R52). -/
  marks : List Part
  active : Tables
  staging : Tables
  rt : RtStat
  -- host links
  ports : List Port
  linkFail : BitVec 32
  /-- The background commands that run, with the port of the mailbox that asked. -/
  background : List (Nat × Background)
  answers : List MbAnswer
  hostAnswers : List HostAnswer
  /-- The answers given to snoops of memory devices and hosts (R83, R383). -/
  snoopAnswers : List SnoopAnswer
  eventLog : List FaultRecord
  queues : List (Nat × LaunchQueue)
  msix : List (Nat × Nat)
  hostBias : List Nat
  /-- The 64-byte host lines of host-bias pages that a host's caches hold modified, with their bytes (R79, R80, R383). -/
  hostLines : List (Nat × List Byte)
  flipping : List Nat
  granules : List (Nat × Granule)
  linkGroups : List (Nat × List Nat)
  /-- Lines whose MemWr or host write has no completion yet (R84, R207). -/
  deviceWrites : List Nat
  peers : List (Nat × PeerEntry)
  -- wards and faults
  wards : List (Nat × Ward)
  faults : List FaultRecord
  resets : List Nat
  checkpoint : Option Checkpoint
  -- scheduler
  launches : List Launch
  gangs : List Gang
  /-- Rectangles freed for a launch that asked for pre-emption (R109): the launch and the north-west tile. -/
  claims : List (LaunchKey × Nat)
  nextOrder : Nat
  -- translation
  ptbase : List (Nat × Nat)
  /-- The low halves written and not yet in effect, by tenant (R325). -/
  ptbaseLow : List (Nat × Word)
  reticleTlb : List (Nat × TlbEntry)
  walks : List Walk
  -- tiles
  tiles : List (Nat × Tile)
  -- memory and wafer cache
  mem : List Host.Cell
  wc : List WcLine
  /-- The number of the last use of a line of the wafer cache (R168). -/
  useCtr : Nat
  /-- The requests held at the anchors of their lines, in the order of their arrival (R175). -/
  held : List Held
  inError : List Nat
  regions : List RegionEntry
  replicas : List Replica
  placement : List Nat
  redealt : List (Nat × Nat)
  emptying : List Nat
  lastAtomic : List (Nat × Nat × Nat)
  -- locks
  locks : List LockEntry
  lockSquads : List LockSquad
  matrices : List (Nat × BitVec 36)
  sentGrants : List SentGrant
  nextGrant : Nat
  -- collectives
  junctions : List (Nat × Junction)
  /-- Collective traffic that has come before its group was claimed here (LOG 34). -/
  peerHeld : List PeerChunk
  /-- Peer traffic refused during a checkpoint, which its peer retries (R40). -/
  peerRefused : List PeerChunk
  -- observation
  sampler : Sampler
  snap : SnapSetting
  snaps : List SnapSetting
  -- the model's own fields (LOG 1, LOG 8)
  agenda : List Pending
  sched : List Choice
  rr : Nat
  cur : Option Cursor
  input : Input
  /-- What the fabric loses of the packets that the current move sends (R61). -/
  loss : Loss
  freeCtr : Nat
deriving DecidableEq, Repr

/-! ### How a step can stop -/

/-- Faults of a step. -/
inductive Fault where
  /-- An encoded instruction is executed while no group issues (`cur` names none): nothing in the specification
  executes an instruction without a group. Raised by every encoded instruction; safe. -/
  | noIssuingGroup
deriving DecidableEq, Repr

/-- Refusals of a step. -/
inductive Refusal where
  /-- The instruction of this mnemonic has no meaning in the model yet. Raised by the dispatch arm; safe. -/
  | notModelled (mnemonic : String)
deriving DecidableEq, Repr

/-! ### The state after reset -/

/-- Ward 0 at a device reset (R86). -/
def Ward.management : Ward :=
  { parent := 0xFFF, tenant := 0, priv := true, prio := 7, fdom := 0, dstop := false, ovr := 0, spadb := 8257536
    tiles := 2688, wcsh := 1024, hbmsh := 1024, poolsh := 1024, safeg := 0, safen := 0, fqRing := 0, fqHead := 0
    fqLogn := 0, fqPort := 0, fqMsix := 0, dstopped := false, written := 1, consumed := 0, lost := 0 }

/-- Ward 1 at a device reset (R86). -/
def Ward.bringUp : Ward :=
  { parent := 0, tenant := 0, priv := false, prio := 0, fdom := 0, dstop := false, ovr := 0, spadb := 0
    tiles := 0, wcsh := 0, hbmsh := 0, poolsh := 0, safeg := 0, safen := 0, fqRing := 0, fqHead := 0
    fqLogn := 0, fqPort := 0, fqMsix := 0, dstopped := false, written := 1, consumed := 0, lost := 0 }

/-- The default role of a port (R20): 0 host, 1 pool, 2 peer. -/
def defaultRole (p : Nat) : Nat :=
  if p = 0 ∨ p = 1 ∨ p = 16 ∨ p = 17 then 0 else if p = 14 ∨ p = 15 ∨ p = 30 ∨ p = 31 then 2 else 1

/-- Flash and fuses as the model takes them at its first reset (LOG 6): nothing written, no defect, stepping B0. -/
def Flash.blank : Flash :=
  { roles := 0, image := [], torn := false, minSvn := 0, keyDigest := 0, defects := [], stepping := 1, serial := 0
    certificate := [] }

/-- A tile that holds no workgroup. -/
def Tile.empty : Tile :=
  { wg := none, l1 := [], icache := [], tlb := [], replicaTable := [], predictor := [], contention := []
    accCorr := 0, accFail := 0, parkSeq := 0, skew := none, invals := [], poolWrites := [] }

/-- The K1 right after power-on reset: phase 0, nothing running, HBM cleared during bring-up (R27, R29, R86). -/
def State.reset : State :=
  { devclk := 0, coreCycles := 0, fabricCycles := 0, pace := []
    power := { removed := false, alarm := false, hot := false, narrow := false, count := 0, average := 0
               history := [], inlet := 0, calm := 0, overUs := 0 }
    flash := Flash.blank, flashWrite := none, staged := []
    bringUp := { phase := 0, rsvc := false, fwfail := false, short := false, roledef := false, good := 0, svn := 0
                 worked := 0, digest := 0 }
    links := [], flights := [], awaited := [], nextPacket := 0, waiting := [], fkey := 0, street := [], streetNext := [], streetCommit := [], harvestMap := []
    marks := []
    active := ⟨.blank, []⟩, staging := ⟨.blank, []⟩
    rt := { gen := 0, state := 0, err := 0, fwc := false, router := 0, dest := 0, swapped := false, want := false }
    ports := (List.range 32).map fun p => ⟨defaultRole p, false⟩
    linkFail := 0, background := [], answers := [], hostAnswers := [], snoopAnswers := [], eventLog := [], queues := [], msix := []
    hostBias := [], hostLines := [], flipping := [], granules := [], linkGroups := [], deviceWrites := [], peers := []
    wards := [(0, Ward.management), (1, Ward.bringUp)], faults := [], resets := [], checkpoint := none
    launches := [], gangs := [], claims := [], nextOrder := 0
    ptbase := [], ptbaseLow := [], reticleTlb := [], walks := []
    tiles := [], mem := [], wc := [], useCtr := 0, held := [], inError := [], regions := [], replicas := [], placement := [], redealt := []
    emptying := [], lastAtomic := []
    locks := [], lockSquads := [], matrices := [], sentGrants := [], nextGrant := 0, junctions := [], peerHeld := [], peerRefused := []
    sampler := { setting := ⟨0, 0, 0, 0, 0, 0⟩, seq := 0, done := [], start := 0, taken := [] }
    snap := ⟨0, 0, 0, 0⟩, snaps := []
    agenda := [], sched := [], rr := 0, cur := none, input := .none, loss := .none, freeCtr := 0 }

end Sys2Proof.Machine
end

