-- ==== Sys2Proof/WellFormed.lean ====
section
/-! DEFINITION. Which terms of `Instr` are instructions: the operand roles of every encoded row (R239-R249 and the
instruction chapters) and the checks of R240, R241 and R252. A term that breaks a check is never executed: its word
is a reserved encoding. -/

namespace Sys2Proof

/-- The specifier's 7-bit value (R136). -/
def Operand.toBits : Operand → BitVec 7
  | .v n => BitVec.ofNat 7 n.val
  | .oc n => BitVec.ofNat 7 (112 + n.val)
  | .lt n => BitVec.ofNat 7 (120 + n.val)
  | .zero => 124#7
  | .lane => 125#7
  | .himm => 126#7
  | .bad => 127#7

/-- The storage a 7-bit specifier names (R136). -/
def Operand.ofBits (b : BitVec 7) : Operand :=
  if h : b.toNat < 112 then .v ⟨b.toNat, h⟩
  else if h : b.toNat - 112 < 8 then .oc ⟨b.toNat - 112, h⟩
  else if h : b.toNat - 120 < 4 then .lt ⟨b.toNat - 120, h⟩
  else if b.toNat = 124 then .zero
  else if b.toNat = 125 then .lane
  else if b.toNat = 126 then .himm
  else .bad

/-- A file register's number. -/
def Operand.reg? : Operand → Option Nat
  | .v n => some n.val
  | .oc _ | .lt _ | .zero | .lane | .himm | .bad => none

/-- Any destination that R136 allows: a file register, an `oc` slot, an `lt` latch or `zero`. -/
def Operand.isDest : Operand → Bool
  | .v _ | .oc _ | .lt _ | .zero => true
  | .lane | .himm | .bad => false

/-- The destinations of a long-latency or system instruction: a file register or `zero` (R137, R323). -/
def Operand.isFileDest : Operand → Bool
  | .v _ | .zero => true
  | .oc _ | .lt _ | .lane | .himm | .bad => false

/-- `width` consecutive file registers starting at a multiple of `align`, all below v112. -/
def Operand.isGroup (align width : Nat) : Operand → Bool
  | .v n => n.val % align == 0 && n.val + width ≤ 112
  | .oc _ | .lt _ | .zero | .lane | .himm | .bad => false

/-- A pair operand of R241 and R333: an even file register up to v110, or `zero`. -/
def Operand.isPairOrZero (o : Operand) : Bool := o == .zero || o.isGroup 2 2

/-- A use of an operand field: the specifier and how many consecutive registers it names. -/
structure Use where
  op : Operand
  width : Nat
deriving DecidableEq, Repr

/-- The operand roles of one instruction. `first` and `second` are the source fields that a dead mark may name
(R145, R247), in that order; `extra` are sources that carry none: a destination that is also read (R264) and the
registers of an atomic's or a quad's operand. `base` is the base pair named by BS (R242). `uni` says that the
instruction executes once for its group, and `uFirst`, `uSecond`, `uExtra` that the operand must be uniform-tagged.
`fixed` says that every field the instruction does not read holds the value R240 fixes. -/
structure Sig where
  dst : Option Use := none
  first : Option Use := none
  second : Option Use := none
  extra : List Use := []
  kFirst : Bool := false
  kSecond : Bool := false
  base : Option (BitVec 3) := none
  uni : Bool := false
  uFirst : Bool := false
  uSecond : Bool := false
  uExtra : Bool := false
  fixed : Bool := true
deriving DecidableEq, Repr

/-- The major opcode (R248) and the selector of R249 of every encoded row; an event has none. -/
def Instr.code : Instr → Option (Nat × Nat)
  | .iadd .. => some (0x00, 0)
  | .iadds .. => some (0x00, 1)
  | .isub .. => some (0x01, 0)
  | .isubs .. => some (0x01, 1)
  | .imul .. => some (0x02, 0)
  | .imulh .. => some (0x02, 1)
  | .imad .. => some (0x03, 0)
  | .imadh .. => some (0x03, 1)
  | .imin .. => some (0x04, 0)
  | .iminn .. => some (0x04, 1)
  | .imax .. => some (0x05, 0)
  | .imaxn .. => some (0x05, 1)
  | .andB .. => some (0x06, 0)
  | .andn .. => some (0x06, 1)
  | .orB .. => some (0x07, 0)
  | .orn .. => some (0x07, 1)
  | .xorB .. => some (0x08, 0)
  | .xnor .. => some (0x08, 1)
  | .shl .. => some (0x09, 0)
  | .rol .. => some (0x09, 1)
  | .shr .. => some (0x0A, 0)
  | .sar .. => some (0x0A, 1)
  | .cseq .. => some (0x0B, 0)
  | .csne .. => some (0x0B, 1)
  | .cslt .. => some (0x0C, 0)
  | .csltn .. => some (0x0C, 1)
  | .csle .. => some (0x0D, 0)
  | .cslen .. => some (0x0D, 1)
  | .sel .. => some (0x0E, 0)
  | .popc .. => some (0x0F, 0)
  | .clz .. => some (0x0F, 1)
  | .brev .. => some (0x10, 0)
  | .ffs .. => some (0x10, 1)
  | .bfx .. => some (0x11, 0)
  | .bfxs .. => some (0x11, 1)
  | .bfi .. => some (0x12, 0)
  | .wadd .. => some (0x13, 0)
  | .wsub .. => some (0x13, 1)
  | .wmul .. => some (0x14, 0)
  | .wmulh .. => some (0x14, 1)
  | .wshl .. => some (0x15, 0)
  | .wshr .. => some (0x15, 1)
  | .mov .. => some (0x16, 0)
  | .movg .. => some (0x16, 1)
  | .iabs .. => some (0x17, 0)
  | .ineg .. => some (0x17, 1)
  | .iaddi .. => some (0x18, 0)
  | .imuli .. => some (0x19, 0)
  | .andi .. => some (0x1A, 0)
  | .ori .. => some (0x1B, 0)
  | .xori .. => some (0x1C, 0)
  | .shli .. => some (0x1D, 0)
  | .shri .. => some (0x1E, 0)
  | .movi .. => some (0x1F, 0)
  | .fadd .. => some (0x20, 0)
  | .fsub .. => some (0x20, 1)
  | .fmul .. => some (0x21, 0)
  | .fscl .. => some (0x21, 1)
  | .ffma .. => some (0x22, 0)
  | .ffms .. => some (0x22, 1)
  | .fmin .. => some (0x23, 0)
  | .fmax .. => some (0x23, 1)
  | .fcseq .. => some (0x24, 0)
  | .fcsne .. => some (0x24, 1)
  | .fcslt .. => some (0x25, 0)
  | .fcsle .. => some (0x25, 1)
  | .fcsun .. => some (0x26, 0)
  | .fcsor .. => some (0x26, 1)
  | .fabs .. => some (0x27, 0)
  | .fneg .. => some (0x27, 1)
  | .frcp .. => some (0x28, 0)
  | .frsq .. => some (0x28, 1)
  | .fex2 .. => some (0x29, 0)
  | .flg2 .. => some (0x29, 1)
  | .fsin .. => some (0x2A, 0)
  | .fcos .. => some (0x2A, 1)
  | .hadd2 .. => some (0x2B, 0)
  | .badd2 .. => some (0x2B, 1)
  | .hmul2 .. => some (0x2C, 0)
  | .bmul2 .. => some (0x2C, 1)
  | .hfma2 .. => some (0x2D, 0)
  | .bfma2 .. => some (0x2D, 1)
  | .dadd .. => some (0x2E, 0)
  | .dsub .. => some (0x2E, 1)
  | .dmul .. => some (0x2F, 0)
  | .dfma .. => some (0x2F, 1)
  | .cvtfi .. => some (0x30, 0)
  | .cvtfn .. => some (0x30, 1)
  | .cvtif .. => some (0x31, 0)
  | .cvtnf .. => some (0x31, 1)
  | .narh .. => some (0x32, 0)
  | .narb .. => some (0x32, 1)
  | .widh .. => some (0x33, 0)
  | .widb .. => some (0x33, 1)
  | .e4pk .. => some (0x34, 0)
  | .e5pk .. => some (0x34, 1)
  | .e4up .. => some (0x35, 0)
  | .e5up .. => some (0x35, 1)
  | .q4pk .. => some (0x36, 0)
  | .q4up .. => some (0x37, 0)
  | .shfl .. => some (0x38, 0)
  | .shfx .. => some (0x38, 1)
  | .bcst .. => some (0x39, 0)
  | .sqrd .. => some (0x3A, 0)
  | .sqrf .. => some (0x3A, 1)
  | .sqmx .. => some (0x3B, 0)
  | .sqmf .. => some (0x3B, 1)
  | .scan .. => some (0x3C, 0)
  | .scnx .. => some (0x3C, 1)
  | .balt .. => some (0x3D, 0)
  | .bcnt .. => some (0x3D, 1)
  | .rank .. => some (0x3E, 0)
  | .ranka .. => some (0x3E, 1)
  | .iota .. => some (0x3F, 0)
  | .ldg .. => some (0x40, 0)
  | .stg .. => some (0x41, 0)
  | .lds .. => some (0x42, 0)
  | .sts .. => some (0x43, 0)
  | .ldk .. => some (0x44, 0)
  | .ldp .. => some (0x45, 0)
  | .stp .. => some (0x46, 0)
  | .ldx .. => some (0x47, 0)
  | .stx .. => some (0x48, 0)
  | .ldaq .. => some (0x49, 0)
  | .strl .. => some (0x4A, 0)
  | .pref .. => some (0x4B, 0)
  | .flsh .. => some (0x4C, 0)
  | .flshd .. => some (0x4C, 1)
  | .place .. => some (0x4D, 0)
  | .psts .. => some (0x4E, 0)
  | .plds .. => some (0x4F, 0)
  | .aadd .. => some (0x50, 0)
  | .amin .. => some (0x51, 0)
  | .amax .. => some (0x52, 0)
  | .aand .. => some (0x53, 0)
  | .aor .. => some (0x54, 0)
  | .afadd .. => some (0x55, 0)
  | .axch .. => some (0x56, 0)
  | .acas .. => some (0x57, 0)
  | .fence .. => some (0x58, 0)
  | .binit .. => some (0x59, 0)
  | .arrv .. => some (0x5A, 0)
  | .arrx .. => some (0x5A, 1)
  | .waitp .. => some (0x5B, 0)
  | .tstp .. => some (0x5C, 0)
  | .bxpb .. => some (0x5D, 0)
  | .yield .. => some (0x5E, 0)
  | .binv .. => some (0x5F, 0)
  | .lock .. => some (0x60, 0)
  | .unlk .. => some (0x61, 0)
  | .lkup .. => some (0x62, 0)
  | .lkdn .. => some (0x63, 0)
  | .lkra .. => some (0x64, 0)
  | .lkqy .. => some (0x65, 0)
  | .lkag .. => some (0x66, 0)
  | .lkmx .. => some (0x67, 0)
  | .qpsh .. => some (0x68, 0)
  | .qpop .. => some (0x69, 0)
  | .qcnt .. => some (0x6A, 0)
  | .cpyj .. => some (0x6B, 0)
  | .colj .. => some (0x6C, 0)
  | .qbnd .. => some (0x6D, 0)
  | .mxcfConfig .. => some (0x70, 0)
  | .mxcfRelease .. => some (0x70, 1)
  | .mxlw .. => some (0x71, 0)
  | .mxst .. => some (0x72, 0)
  | .mxchBegin .. => some (0x73, 0)
  | .mxchEnd .. => some (0x73, 1)
  | .mxchDrain .. => some (0x73, 2)
  | .mxchZero .. => some (0x73, 3)
  | .bra .. => some (0x74, 0)
  | .bz .. => some (0x75, 0)
  | .bnz .. => some (0x76, 0)
  | .call .. => some (0x77, 0)
  | .jmpr .. => some (0x78, 0)
  | .callr .. => some (0x78, 1)
  | .exit .. => some (0x79, 0)
  | .span .. => some (0x7A, 0)
  | .trapc .. => some (0x7B, 0)
  | .trap .. => some (0x7D, 0)
  | .brk .. => some (0x7E, 0)
  | .sysMfs .. => some (0x7C, 0)
  | .sysMts .. => some (0x7C, 1)
  | .sysClkr .. => some (0x7C, 2)
  | .sysCycr .. => some (0x7C, 3)
  | .sysSqid .. => some (0x7C, 4)
  | .sysWgid .. => some (0x7C, 5)
  | .sysGngid .. => some (0x7C, 6)
  | .sysLnch .. => some (0x7C, 7)
  | .sysWardCreate .. => some (0x7C, 8)
  | .sysWardModify .. => some (0x7C, 8)
  | .sysWardDelete .. => some (0x7C, 8)
  | .sysWardRead .. => some (0x7C, 8)
  | .sysWardReset .. => some (0x7C, 8)
  | .sysWardClear .. => some (0x7C, 8)
  | .sysAmskRead .. => some (0x7C, 9)
  | .sysAmskSwap .. => some (0x7C, 9)
  | .sysXmsk .. => some (0x7C, 10)
  | .sysSegrd .. => some (0x7C, 11)
  | .sysSegld .. => some (0x7C, 12)
  | .sysSavep .. => some (0x7C, 13)
  | .sysPrio .. => some (0x7C, 14)
  | .sysIbinv .. => some (0x7C, 15)
  | .sysL1inv .. => some (0x7C, 16)
  | .sysTlbi .. => some (0x7C, 17)
  | .sysCapr .. => some (0x7C, 18)
  | .sysFtst .. => some (0x7C, 19)
  | .sysFclr .. => some (0x7C, 20)
  | .sysPstat .. => some (0x7C, 21)
  | .sysTags .. => some (0x7C, 22)
  | .sysTagc .. => some (0x7C, 23)
  | .sysSnap .. => some (0x7C, 24)
  | .sysCsum .. => some (0x7C, 25)
  | .sysRtbl .. => some (0x7C, 26)
  | .sysWtbl .. => some (0x7C, 27)
  | .sysDmap .. => some (0x7C, 28)
  | .sysPmap .. => some (0x7C, 29)
  | .sysHalt .. => some (0x7C, 30)
  | .sysResm .. => some (0x7C, 31)
  | .sysResmHalted .. => some (0x7C, 31)
  | .sysResmDefault .. => some (0x7C, 31)
  | .sysEvpst .. => some (0x7C, 32)
  | .sysSleep .. => some (0x7C, 33)
  | .sysShpr .. => some (0x7C, 34)
  | .sysDead .. => some (0x7C, 35)
  | .hintNop .. => some (0x7F, 0)
  | .hintImm .. => some (0x7F, 1)
  | .hintMem .. => some (0x7F, 2)
  | .hintArith .. => some (0x7F, 3)
  | .hintSched .. => some (0x7F, 4)
  | .hintKill .. => some (0x7F, 5)
  | .hintProf .. => some (0x7F, 6)
  | .powerOnReset | .deviceReset | .hostPortReset | .powerSample | .powerAlarmClear | .waferPowerRemoval |
    .romCheck | .harvest | .treeBuild | .hbmTraining | .memoryClear | .fullServiceBegin | .standardCommand |
    .setroles | .imgchunk | .imgcommit | .imgcommitComplete | .idreport | .certread | .mark | .bankEmptyDone |
    .chkpt | .checkpointComplete | .biasflip | .biasflipComplete | .biasread | .qctlEnable | .qctlDisable |
    .qctlRead | .poolbind | .peerset | .sampctl | .snapctl | .cxlLinkTraining | .portLinkDown | .flitCrcFail |
    .replayRequest | .flitAcknowledge | .replayWindowEnd | .linkRetrainDone | .packetInject | .packetDeliver |
    .headerUeDiscard | .resendTimeout | .requestTimeout | .commitRequest | .firmwareCommit | .commitDrainDone |
    .commitComplete | .tailSnoop | .tailReread | .launchPacketRead | .headWrite | .hostMemRead | .hostMemWrite |
    .hostSnoop | .bisnpInv | .bisnpData | .poolGroupLost | .faultRecordWrite | .launchAbort | .tenantReset |
    .placementDecision | .preemptRequest | .preemptStop | .preemptSave | .workgroupEnd | .gangRetire |
    .poolEntryReclaim | .skewHoldTimeout | .resultWriteback | .asyncTrapEntry | .engineTrapArrival |
    .pageWalkDone | .replayableFaultTimeout | .peerProbe | .anchorRequest | .regionEvaluation | .moveOrder |
    .migrationTransfer | .moveAck | .replicaInvalidate | .invalidationAck | .replicaFillArrival |
    .uncorrectableError | .jobStart | .jobWriteLand | .jobComplete | .jobStop | .followOnIssue |
    .matrixCommandAct | .mxstSumsArrive | .collectiveJoin | .collectiveJoinTimeout | .collectiveChunkLand |
    .collectiveGroupFail | .collectiveTreeRebuild | .hostMsgWrite | .outheadReread | .intailPoll |
    .lockRequestArrival | .lockReleaseArrival | .lockGrant | .grantResendTimeout | .woundTrap | .revocation |
    .sleepTimer | .sample | .reservedEncoding _ | .instructionFetchFault | .modulePowerLoss |
    .memoryDeviceCompletion | .peerChunkArrival | .poolbindComplete => none

/-- The major opcode, 128 for an event. -/
def Instr.opcode (i : Instr) : Nat := match i.code with | some c => c.1 | none => 128

/-- Long-latency instructions: opcodes 0x40-0x73 (R137). -/
def Instr.isLong (i : Instr) : Bool := 0x40 ≤ i.opcode && i.opcode ≤ 0x73

/-- The convergent class (R132). -/
def Instr.isConvergent (i : Instr) : Bool :=
  (0x60 ≤ i.opcode && i.opcode ≤ 0x6D) || (0x70 ≤ i.opcode && i.opcode ≤ 0x73) || i.opcode == 0x7A
    || i.code == some (0x7C, 32)

/-- The span terminators (R112). -/
def Instr.isTerminator (i : Instr) : Bool :=
  (0x50 ≤ i.opcode && i.opcode ≤ 0x57) || i.opcode == 0x5A || i.opcode == 0x5D || i.opcode == 0x68
    || i.opcode == 0x69 || i.opcode == 0x6B || i.opcode == 0x6C || (0x70 ≤ i.opcode && i.opcode ≤ 0x73)
    || (0x60 ≤ i.opcode && i.opcode ≤ 0x67) || i.code == some (0x7C, 32) || i.opcode == 0x7D

/-- The deschedule points among the instructions (R138): `WAITP`, `QPOP`, `SLEEP`, `YIELD`. -/
def Instr.isDeschedule (i : Instr) : Bool :=
  i.opcode == 0x5B || i.opcode == 0x69 || i.opcode == 0x5E || i.code == some (0x7C, 33)

/-- HINT words (R331). -/
def Instr.isHint (i : Instr) : Bool := i.opcode == 0x7F

/-- Experimental instructions, absent from stepping A0 (R251). -/
def Instr.isExperimental (i : Instr) : Bool :=
  i.opcode == 0x3E || i.opcode == 0x4D || i.code == some (0x7F, 6)

/-- The privileged sub-operations and `LKMX` (R303, R324). The write of a privileged field by MTS is decided by the
field (R325). -/
def Instr.isPrivileged (i : Instr) : Bool :=
  i.opcode == 0x67 || i.code == some (0x7C, 8) || i.code == some (0x7C, 12) || i.code == some (0x7C, 17)
    || i.code == some (0x7C, 27) || i.code == some (0x7C, 30)
    || (match i with | .sysResmHalted _ => true | _ => false)

/-! ### Roles by format -/

/-- A one-register use. -/
def one (o : Operand) : Option Use := some ⟨o, 1⟩
/-- A pair use. -/
def pair (o : Operand) : Option Use := some ⟨o, 2⟩

/-- `D, A, B`. -/
def Sig.dab (f : RForm) : Sig :=
  { dst := one f.d, first := one f.a, second := one f.b, kFirst := f.ka, kSecond := f.kb, uni := f.u
    uFirst := f.u, uSecond := f.u, uExtra := f.u }
/-- `D, A`. -/
def Sig.da (f : RForm) : Sig :=
  { dst := one f.d, first := one f.a, kFirst := f.ka, uni := f.u, uFirst := f.u
    fixed := f.b == .zero && !f.kb }
/-- `D, A, B` with D read as well (R264). -/
def Sig.dabd (f : RForm) : Sig := { Sig.dab f with extra := [⟨f.d, 1⟩] }
/-- Pairs D, A, B (R241). -/
def Sig.ppp (f : RForm) : Sig :=
  { dst := pair f.d, first := pair f.a, second := pair f.b, kFirst := f.ka, kSecond := f.kb, uni := f.u
    uFirst := f.u, uSecond := f.u, uExtra := f.u }
/-- Pairs D, A, B with D read. -/
def Sig.pppd (f : RForm) : Sig := { Sig.ppp f with extra := [⟨f.d, 2⟩] }
/-- Pairs D, A and a single B (R268, shifts). -/
def Sig.pp1 (f : RForm) : Sig := { Sig.ppp f with second := one f.b }
/-- Cross-lane `D, A, B`, U = 0 (R278). -/
def Sig.xab (f : RForm) : Sig := { Sig.dab f with fixed := !f.u }
/-- Cross-lane `D, A`, U = 0. -/
def Sig.xa (f : RForm) : Sig := { Sig.da f with fixed := !f.u && f.b == .zero && !f.kb }
/-- Barrier instructions: U = 0, A and B uniform-tagged, once for the group (R293). -/
def Sig.bar (f : RForm) (d dr b : Bool) : Sig :=
  { dst := if d then one f.d else none, first := one f.a, second := if b then one f.b else none
    extra := if dr then [⟨f.d, 1⟩] else [], kFirst := f.ka, kSecond := f.kb
    uni := true, uFirst := true, uSecond := true, uExtra := true
    fixed := !f.u && (d || dr || f.d == .zero) && (b || (f.b == .zero && !f.kb)) && (!d || f.d.isFileDest) }
/-- `D, A, imm`. -/
def Sig.di (f : IForm) (ok : Bool) : Sig :=
  { dst := one f.d, first := one f.a, uni := f.u, uFirst := f.u, fixed := ok }
/-- Sign extension may be set only on byte and half loads (R252). -/
def sxOk (f : MForm) : Bool := !f.sx || f.sz.toNat < 2
/-- The registers of a load's or store's data: a pair for SZ = 3 (R282). -/
def dataUse (f : MForm) : Use := ⟨f.t, if f.sz = 3 then 2 else 1⟩
/-- A load; `base` is the base pair its address names, if any. -/
def Sig.load (f : MForm) (base : Option (BitVec 3)) (fixed : Bool) : Sig :=
  { dst := some (dataUse f), first := one f.o, base := base, uni := f.u, uFirst := f.u
    fixed := fixed && sxOk f && f.t.isFileDest && (f.sz ≠ 3 || f.t.isPairOrZero) }
/-- A store. -/
def Sig.store (f : MForm) (base : Option (BitVec 3)) (fixed : Bool) : Sig :=
  { first := one f.o, second := some (dataUse f), base := base, uni := f.u, uFirst := f.u, uSecond := f.u
    fixed := fixed && !f.sx && (f.sz ≠ 3 || f.t.isPairOrZero) }
/-- The base pair of a `kseg` or `pseg` form, where BS = 0 means none (R239). -/
def kBase (f : MForm) : Option (BitVec 3) := if f.bs = 0 then none else some f.bs
/-- An address and no data: `PREF`, `FLSH`, `FLSHD` (R281). -/
def Sig.line (f : MForm) (sxOk : Bool) : Sig :=
  { first := one f.o, base := some f.bs, fixed := f.t == .zero && !f.u && sxOk }
/-- Plane moves: uniform O, SZ = 2, U = 0 (R281, R289). -/
def Sig.plane (f : MForm) (store : Bool) : Sig :=
  { dst := if store then none else one f.t, first := one f.o, second := if store then one f.t else none
    uFirst := true, fixed := f.sz == 2 && !f.u && !f.sx && (store || f.t.isFileDest) }
/-- Atomics: T is read and written (R290). -/
def Sig.atomic (f : AForm) (cas : Bool) : Sig :=
  let w := if f.w then 2 else 1
  let n := if cas then 2 * w else w
  { dst := some ⟨f.t, w⟩, first := one f.o, second := some ⟨f.t, n⟩, uni := f.u, uFirst := f.u, uSecond := f.u
    fixed := f.space ≠ 3 && (f.t == .zero ||
      (if cas then (if f.w then f.t.isGroup 4 4 else f.t.isGroup 1 2) else f.t.isGroup w w)) }
/-- A lock instruction that names an entry (R303). -/
def Sig.lock (f : LForm) (mode : Bool) : Sig :=
  { first := one f.a, second := if f.level = 0 then none else one f.b, uni := true, uFirst := true, uSecond := true
    fixed := (if mode then f.mode.toNat < 6 else f.mode == 0) && f.level ≠ 3 && (f.level ≠ 0 || f.b == .zero) }
/-- A queue instruction that only reads A. -/
def Sig.queue (dst : Option Use) (src : Option Use) (ok : Bool) : Sig :=
  { dst := dst, first := src, uni := true, uFirst := true, fixed := ok }
/-- A matrix instruction; `a` and `b` say which operands it reads (R358). -/
def Sig.matrix (f : XForm) (a b : Bool) : Sig :=
  { first := if a then one f.a else none, second := if b then one f.b else none, uni := true
    uFirst := true, uSecond := true
    fixed := f.tile.toNat < 8 && (a || f.a == .zero) && (b || f.b == .zero) }
/-- A SYS sub-operation with a source A (R323). -/
def Sig.sysSrc (f : SForm) (sub : Nat) (ok : Bool) : Sig :=
  { first := one f.a, uni := true, uFirst := true, fixed := f.sub.toNat == sub && ok }
/-- A SYS sub-operation with a destination A. -/
def Sig.sysDst (f : SForm) (sub : Nat) (ok : Bool) : Sig :=
  { dst := one f.a, uni := true, fixed := f.sub.toNat == sub && f.a.isFileDest && ok }
/-- Source, then destination. -/
def Sig.sysBoth (f : SForm) (sub : Nat) (ok : Bool) : Sig :=
  { dst := one f.a, first := one f.a, uni := true, uFirst := true
    fixed := f.sub.toNat == sub && f.a.isFileDest && ok }
/-- A pair, quad or six read or written. -/
def Sig.sysGroup (f : SForm) (sub align width : Nat) (reads : Nat) (writes : Nat) (ok : Bool) : Sig :=
  { dst := if writes = 0 then none else some ⟨f.a, writes⟩
    first := if reads = 0 then none else some ⟨f.a, reads⟩, uni := true, uFirst := true
    fixed := f.sub.toNat == sub && f.a.isGroup align width && ok }
/-- No operand: A = 124. -/
def Sig.sysNone (f : SForm) (sub imm : Nat) : Sig :=
  { uni := true, fixed := f.sub.toNat == sub && f.a == .zero && f.imm.toNat == imm }

/-- The selectors of MFS and MTS (R325). -/
def selectorOk (n : Nat) : Bool :=
  n == 0 || n == 1 || (3 ≤ n && n ≤ 6) || (8 ≤ n && n ≤ 0xF) || n == 0x40 || (0x100 ≤ n && n < 0x180)

/-- The level of a lock instruction that names an entry has an index only at tile and line level (R303). -/
def Instr.sig : Instr → Sig
  | .iadd f | .iadds f | .isub f | .isubs f | .imul f | .imulh f | .imin f | .iminn f | .imax f | .imaxn f
  | .andB f | .andn f | .orB f | .orn f | .xorB f | .xnor f | .shl f | .rol f | .shr f | .sar f
  | .cseq f | .csne f | .cslt f | .csltn f | .csle f | .cslen f | .bfx f | .bfxs f
  | .fadd f | .fsub f | .fmul f | .fscl f | .fmin f | .fmax f | .fcseq f | .fcsne f | .fcslt f | .fcsle f
  | .fcsun f | .fcsor f | .hadd2 f | .badd2 f | .hmul2 f | .bmul2 f | .narh f | .narb f | .widh f | .widb f
  | .e4up f | .e5up f | .q4up f => Sig.dab f
  | .imad f | .imadh f | .sel f | .bfi f | .movg f | .ffma f | .ffms f | .hfma2 f | .bfma2 f | .e4pk f | .e5pk f
  | .q4pk f => Sig.dabd f
  | .popc f | .clz f | .brev f | .ffs f | .mov f | .iabs f | .ineg f | .fabs f | .fneg f | .frcp f | .frsq f
  | .fex2 f | .flg2 f | .fsin f | .fcos f | .cvtfi f | .cvtfn f | .cvtif f | .cvtnf f | .callr f => Sig.da f
  | .wadd f | .wsub f | .wmul f | .wmulh f | .dadd f | .dsub f | .dmul f => Sig.ppp f
  | .dfma f => Sig.pppd f
  | .wshl f | .wshr f => Sig.pp1 f
  | .shfl f | .shfx f => Sig.xab f
  | .bcst f => { Sig.xab f with uSecond := true }
  | .iota f => { Sig.xab f with uFirst := true, uSecond := true }
  | .sqrd f | .sqrf f | .sqmx f | .sqmf f | .scan f | .scnx f | .balt f | .bcnt f | .rank f | .ranka f => Sig.xa f
  | .iaddi f | .imuli f | .andi f | .ori f | .xori f => Sig.di f true
  | .shli f => Sig.di f (f.imm.toNat < 32)
  | .shri f => Sig.di f (f.imm.extractLsb' 5 4 == 0)
  | .movi f => { dst := one f.d, uni := f.u, fixed := f.a == .zero }
  | .ldg f => Sig.load f (some f.bs) true
  | .ldk f | .ldp f => Sig.load f (kBase f) true
  | .lds f => Sig.load f none true
  | .ldx f => Sig.load f none (f.bs == 0 && !f.u)
  | .ldaq f => Sig.load f none true
  | .stg f => Sig.store f (some f.bs) true
  | .stp f => Sig.store f (kBase f) true
  | .sts f => Sig.store f none true
  | .stx f => Sig.store f none (f.bs == 0 && !f.u)
  | .strl f => Sig.store f none true
  | .pref f => Sig.line f (!f.sx)
  | .flsh f => Sig.line f (!f.sx)
  | .flshd f => Sig.line f f.sx
  | .place f => { first := one f.o, second := one f.t, base := some f.bs, uni := true, uFirst := true
                  uSecond := true, fixed := f.u && f.sz == 0 && !f.sx }
  | .psts f => Sig.plane f true
  | .plds f => Sig.plane f false
  | .aadd f | .amin f | .amax f | .aand f | .aor f | .afadd f | .axch f => Sig.atomic f false
  | .acas f => Sig.atomic f true
  | .fence f => { fixed := f.sub.extractLsb' 5 3 == 0 && f.a == .zero && f.imm == 0 }
  | .binit f => Sig.bar f false true true
  | .arrv f => Sig.bar f false false false
  | .arrx f | .bxpb f => Sig.bar f false false true
  | .waitp f | .tstp f => Sig.bar f true false true
  | .yield f => { fixed := !f.u && f.d == .zero && f.a == .zero && f.b == .zero && !f.ka && !f.kb }
  | .binv f => Sig.bar f false false false
  | .lock f | .lkup f | .lkdn f => Sig.lock f true
  | .unlk f => Sig.lock f false
  | .lkra f => { fixed := f.mode == 0 && f.level == 0 && f.a == .zero && f.b == .zero }
  | .lkqy f => { dst := one f.b, first := one f.a, second := if f.level = 0 then none else one f.b, uni := true
                 uFirst := true, uSecond := true
                 fixed := f.mode == 0 && f.level ≠ 3 && f.b.isGroup 1 1 }
  | .lkag f => { first := pair f.a, uni := true, uFirst := true
                 fixed := f.mode == 0 && f.level == 0 && f.a.isGroup 2 2 && f.b == .zero }
  | .lkmx f => { first := one f.a, second := pair f.b, uni := true, uFirst := true, uSecond := true
                 fixed := f.mode == 0 && f.level == 0 && f.b.isGroup 2 2 }
  | .qpsh f => Sig.queue none (pair f.a) (f.b == .zero && f.a.isPairOrZero)
  | .qpop f => Sig.queue (pair f.a) none (f.b == .zero && f.a.isPairOrZero)
  | .qcnt f => Sig.queue (one f.a) none (f.b == .zero && f.a.isFileDest)
  | .qbnd f => if f.q = 4 then Sig.queue none (pair f.a) (f.b == .zero && f.a.isPairOrZero)
               else Sig.queue none (one f.a) (f.b == .zero)
  | .cpyj f | .colj f => Sig.queue (one f.b) (one f.a) f.b.isFileDest
  | .mxcfConfig f | .mxcfRelease f | .mxchEnd f | .mxchZero f => Sig.matrix f false false
  | .mxlw f => Sig.matrix f true false
  | .mxst f | .mxchBegin f | .mxchDrain f => Sig.matrix f true true
  | .bra _ => {}
  | .call _ => { dst := some ⟨.v 111, 1⟩ }
  | .bz f | .bnz f => { first := one f.a, uni := f.u, uFirst := f.u }
  | .jmpr f => { first := one f.a, kFirst := f.ka, uni := f.u, uFirst := f.u
                 fixed := f.d == .zero && f.b == .zero && !f.kb }
  | .exit p => { fixed := p == 0 }
  | .span p => { fixed := p.extractLsb' 16 9 == 0 }
  | .trapc f => { first := one f.a, fixed := f.sub == 0 }
  | .trap f => { first := one f.a, uFirst := true, fixed := f.sub == 0 }
  | .brk f => { fixed := f.sub == 0 && f.a == .zero }
  | .sysMfs f => Sig.sysDst f 0 (selectorOk f.imm.toNat)
  | .sysMts f => Sig.sysSrc f 1 (selectorOk f.imm.toNat)
  | .sysClkr f => Sig.sysGroup f 2 2 2 0 2 (f.imm == 0)
  | .sysCycr f => Sig.sysGroup f 3 2 2 0 2 (f.imm == 0)
  | .sysSqid f => Sig.sysDst f 4 (f.imm == 0)
  | .sysWgid f => Sig.sysDst f 5 (f.imm == 0)
  | .sysGngid f => Sig.sysDst f 6 (f.imm == 0)
  | .sysLnch f => Sig.sysDst f 7 (f.imm.toNat ≤ 4)
  | .sysWardCreate f => Sig.sysBoth f 8 (f.imm == 0)
  | .sysWardModify f => Sig.sysBoth f 8 (f.imm == 1)
  | .sysWardDelete f => Sig.sysBoth f 8 (f.imm == 2)
  | .sysWardRead f => Sig.sysBoth f 8 (f.imm == 3)
  | .sysWardReset f => Sig.sysBoth f 8 (f.imm == 4)
  | .sysWardClear f => Sig.sysBoth f 8 (f.imm == 5)
  | .sysAmskRead f => Sig.sysBoth f 9 (f.imm == 0)
  | .sysAmskSwap f => Sig.sysBoth f 9 (f.imm == 1)
  | .sysXmsk f => Sig.sysDst f 10 (f.imm == 0)
  | .sysSegrd f => Sig.sysGroup f 11 2 2 0 2 (f.imm.toNat < 16)
  | .sysSegld f => Sig.sysGroup f 12 4 4 4 0 (f.imm.toNat < 8 && f.imm ≠ 1 && f.imm ≠ 5)
  | .sysSavep f => Sig.sysNone f 13 0
  | .sysPrio f => Sig.sysDst f 14 (f.imm == 0)
  | .sysIbinv f => Sig.sysNone f 15 0
  | .sysL1inv f => Sig.sysNone f 16 0
  | .sysTlbi f => Sig.sysGroup f 17 2 2 2 0 (f.imm.toNat < 256)
  | .sysCapr f => Sig.sysBoth f 18 (1 ≤ f.imm.toNat && f.imm.toNat ≤ 10)
  | .sysFtst f => Sig.sysDst f 19 (f.imm == 0)
  | .sysFclr f => Sig.sysNone f 20 0
  | .sysPstat f => Sig.sysDst f 21 (f.imm == 0)
  | .sysTags f => Sig.sysDst f 22 (f.imm.toNat < 112)
  | .sysTagc f => { uni := false, fixed := f.sub == 23 && f.a.isGroup 1 1 && f.imm == 0 }
  | .sysSnap f => Sig.sysSrc f 24 true
  | .sysCsum f => { Sig.sysBoth f 25 (f.imm.toNat < 112) with
                    extra := [⟨Operand.ofBits (f.imm.extractLsb' 0 7), 1⟩] }
  | .sysRtbl f => Sig.sysBoth f 26 (f.imm == 0)
  | .sysWtbl f => Sig.sysGroup f 27 2 2 2 0 (f.imm == 0)
  | .sysDmap f => Sig.sysBoth f 28 (f.imm == 0)
  | .sysPmap f => Sig.sysGroup f 29 2 6 2 6 (f.imm == 0)
  | .sysHalt f => Sig.sysSrc f 30 (f.imm == 0)
  | .sysResm f => Sig.sysNone f 31 0
  | .sysResmHalted f => Sig.sysSrc f 31 (f.imm == 1)
  | .sysResmDefault f => Sig.sysNone f 31 2
  | .sysEvpst f => Sig.sysSrc f 32 true
  | .sysSleep f => Sig.sysSrc f 33 (f.imm == 0)
  | .sysShpr f => Sig.sysDst f 34 (f.imm == 0)
  | .sysDead f => { fixed := f.sub == 35 && f.a.isGroup 1 1 && f.imm.toNat + f.a.toBits.toNat < 112 }
  | .hintNop _ | .hintImm _ | .hintMem _ | .hintArith _ | .hintSched _ | .hintKill _ | .hintProf _ => {}
  | .powerOnReset | .deviceReset | .hostPortReset | .powerSample | .powerAlarmClear | .waferPowerRemoval |
    .romCheck | .harvest | .treeBuild | .hbmTraining | .memoryClear | .fullServiceBegin | .standardCommand |
    .setroles | .imgchunk | .imgcommit | .imgcommitComplete | .idreport | .certread | .mark | .bankEmptyDone |
    .chkpt | .checkpointComplete | .biasflip | .biasflipComplete | .biasread | .qctlEnable | .qctlDisable |
    .qctlRead | .poolbind | .peerset | .sampctl | .snapctl | .cxlLinkTraining | .portLinkDown | .flitCrcFail |
    .replayRequest | .flitAcknowledge | .replayWindowEnd | .linkRetrainDone | .packetInject | .packetDeliver |
    .headerUeDiscard | .resendTimeout | .requestTimeout | .commitRequest | .firmwareCommit | .commitDrainDone |
    .commitComplete | .tailSnoop | .tailReread | .launchPacketRead | .headWrite | .hostMemRead | .hostMemWrite |
    .hostSnoop | .bisnpInv | .bisnpData | .poolGroupLost | .faultRecordWrite | .launchAbort | .tenantReset |
    .placementDecision | .preemptRequest | .preemptStop | .preemptSave | .workgroupEnd | .gangRetire |
    .poolEntryReclaim | .skewHoldTimeout | .resultWriteback | .asyncTrapEntry | .engineTrapArrival |
    .pageWalkDone | .replayableFaultTimeout | .peerProbe | .anchorRequest | .regionEvaluation | .moveOrder |
    .migrationTransfer | .moveAck | .replicaInvalidate | .invalidationAck | .replicaFillArrival |
    .uncorrectableError | .jobStart | .jobWriteLand | .jobComplete | .jobStop | .followOnIssue |
    .matrixCommandAct | .mxstSumsArrive | .collectiveJoin | .collectiveJoinTimeout | .collectiveChunkLand |
    .collectiveGroupFail | .collectiveTreeRebuild | .hostMsgWrite | .outheadReread | .intailPoll |
    .lockRequestArrival | .lockReleaseArrival | .lockGrant | .grantResendTimeout | .woundTrap | .revocation |
    .sleepTimer | .sample | .reservedEncoding _ | .instructionFetchFault | .modulePowerLoss |
    .memoryDeviceCompletion | .peerChunkArrival | .poolbindComplete => {}

/-- The use names storage its role allows: no field holds 127, and a pair or wider use names file registers or
`zero` (R136, R241). -/
def Use.ok (u : Use) : Bool :=
  u.op ≠ .bad && (u.width == 1 || u.op == .zero || (u.op.reg?.isSome && (u.op.isGroup 1 u.width)))

/-- A written use is a destination of R136, and file registers only for more than one register. -/
def Use.okDst (u : Use) : Bool := u.ok && u.op.isDest

/-- Pairs of opcodes 0x13-0x15, 0x2E, 0x2F name even registers (R241). -/
def Use.even (u : Use) : Bool := u.width ≠ 2 || u.op.isPairOrZero

/-- Instructions whose pair operands R241 binds. -/
def Instr.needsEven (i : Instr) : Bool :=
  (0x13 ≤ i.opcode && i.opcode ≤ 0x15) || i.opcode == 0x2E || i.opcode == 0x2F

/-- The checks of R240, R241 and R252 on an encoded instruction. An event is well formed when its link, ports and
tiles are in range, which the meaning decides; its term is never fetched. -/
def Instr.wf (i : Instr) : Bool :=
  let g := i.sig
  g.fixed && g.dst.all Use.okDst && g.first.all Use.ok && g.second.all Use.ok && g.extra.all Use.ok
    && (!i.needsEven || (g.dst.all Use.even && g.first.all Use.even && g.second.all Use.even))

end Sys2Proof
end

