-- ==== Sys2Proof/Machine/Operands.lean ====
section
/-! DEFINITION. The operands of an instruction: register values by shape, the sources and destinations of R136-R147,
dead marks, the general budget, long-latency results and the checks made at issue (R148). -/

namespace Sys2Proof.Machine

/-! ### Trap numbers (R316) -/

abbrev Trap.illegal : Nat := 1
abbrev Trap.shape : Nat := 2
abbrev Trap.stale : Nat := 3
abbrev Trap.deadread : Nat := 4
abbrev Trap.segment : Nat := 5
abbrev Trap.wound : Nat := 6
abbrev Trap.collective : Nat := 7
abbrev Trap.misalign : Nat := 8
abbrev Trap.page : Nat := 9
abbrev Trap.dataUe : Nat := 10
abbrev Trap.poolLost : Nat := 11
abbrev Trap.lock : Nat := 12
abbrev Trap.queue : Nat := 13
abbrev Trap.matrix : Nat := 14
abbrev Trap.accsum : Nat := 15
abbrev Trap.genovf : Nat := 16
abbrev Trap.priv : Nat := 17
abbrev Trap.trapi : Nat := 18
abbrev Trap.brk : Nat := 19
abbrev Trap.fpexc : Nat := 20
abbrev Trap.scale : Nat := 21
abbrev Trap.fabricLoss : Nat := 22
abbrev Trap.linkLoss : Nat := 23
abbrev Trap.lockRevoked : Nat := 24

/-! ### Values by shape -/

/-- The value in lane j (R143); a dead register reads 0 (R146). -/
def RegVal.lane : RegVal → Nat → Word
  | .uniform u, _ => u
  | .affine b s, j => b + s * BitVec.ofNat 32 j
  | .general v, j => v.toList.getD j 0
  | .dead, _ => 0

/-- The tag's number (R121, R324 TAGS). -/
def RegVal.tag : RegVal → Nat
  | .uniform _ => 0
  | .affine _ _ => 1
  | .general _ => 2
  | .dead => 3

/-- Uniform-tagged, as a read sees it: a dead register reads as uniform 0 (R146). -/
def RegVal.isUniform : RegVal → Bool
  | .uniform _ | .dead => true
  | .affine _ _ | .general _ => false

/-- A general register holds a slot of the banked file (R143). -/
def RegVal.isGeneral : RegVal → Bool
  | .general _ => true
  | .uniform _ | .affine _ _ | .dead => false

/-- Uniform or affine, as a read sees it. -/
def RegVal.isCompact (r : RegVal) : Bool := !r.isGeneral

/-- 32 lanes from a function of the lane. -/
def lanesFn (f : Nat → Word) : Lanes := Vector.ofFn fun i => f i.val

/-- The lanes of `m` take `r`, the others keep `old`, expanded (R143). -/
def RegVal.merge (old r : RegVal) (m : Mask) : RegVal :=
  .general (lanesFn fun j => if m.getLsbD j then r.lane j else old.lane j)

/-- A write by the lanes `m` (R143): a whole live set gives the register the shape of the result, any smaller group
makes it general. -/
def RegVal.put (old r : RegVal) (m : Mask) (whole : Bool) : RegVal :=
  if whole && !r.isGeneral then r else old.merge r m

/-- The shape a result takes (R143). -/
inductive Shape where
  | uniform | affine | general
deriving DecidableEq, Repr

/-- A result of a shape, from its value in each lane. -/
def Shape.value (sh : Shape) (f : Nat → Word) : RegVal :=
  match sh with
  | .uniform => .uniform (f 0)
  | .affine => .affine (f 0) (f 1 - f 0)
  | .general => .general (lanesFn f)

/-! ### A squad's storage -/

/-- File register n. -/
def Squad.reg (sq : Squad) (n : Nat) : RegVal := sq.regs.toList.getD n .dead
/-- Sets file register n. -/
def Squad.setReg (sq : Squad) (n : Nat) (r : RegVal) : Squad := { sq with regs := sq.regs.setIfInBounds n r }
/-- Operand-cache slot n. -/
def Squad.ocSlot (sq : Squad) (n : Nat) : LaneEntry := sq.oc.toList.getD n ⟨.uniform 0, 0⟩
/-- Result latch n. -/
def Squad.latch (sq : Squad) (n : Nat) : LaneEntry := sq.lt.toList.getD n ⟨.uniform 0, 0⟩

/-- Every `oc` and `lt` entry becomes invalid in every lane (R138). -/
def Squad.deschedule (sq : Squad) : Squad :=
  { sq with oc := sq.oc.map fun e => { e with valid := 0 }, lt := sq.lt.map fun e => { e with valid := 0 } }

/-- The pending immediate of a hint run (R244). -/
def hintImm (h : Option HintRun) : Option Word := h.bind (·.imm)

/-- The raw storage that a specifier names, with its tag; `himm` is the pending immediate (R136). -/
def Squad.peek (sq : Squad) (h : Option HintRun) : Operand → RegVal
  | .v n => sq.reg n.val
  | .oc n => (sq.ocSlot n.val).val
  | .lt n => (sq.latch n.val).val
  | .zero => .uniform 0
  | .lane => .affine 0 1
  | .himm => .uniform ((hintImm h).getD 0)
  | .bad => .uniform 0

/-- A source as the instruction reads it: a dead register is uniform 0 (R146). -/
def Squad.src (sq : Squad) (h : Option HintRun) (o : Operand) : RegVal :=
  match sq.peek h o with
  | .dead => .uniform 0
  | .uniform u => .uniform u
  | .affine b s => .affine b s
  | .general v => .general v

/-- The k-th register of a use: a pair's second register is k = 1. -/
def Operand.plus (o : Operand) (k : Nat) : Operand :=
  match o with
  | .v n => Operand.ofBits (BitVec.ofNat 7 (n.val + k))
  | .oc n => .oc n
  | .lt n => .lt n
  | .zero => .zero
  | .lane => .lane
  | .himm => .himm
  | .bad => .bad

/-- The specifiers a use names. -/
def useList (u : Use) : List Operand := (List.range u.width).map fun k => Operand.plus u.op k

/-- The file registers a use names. -/
def useRegs (u : Use) : List Nat := (useList u).filterMap Operand.reg?

/-- A 64-bit source: a pair's value in a lane (R221, R241, R242). -/
def Squad.pairSrc (sq : Squad) (h : Option HintRun) (o : Operand) (j : Nat) : DWord :=
  pairValue ((sq.src h o).lane j) ((sq.src h (Operand.plus o 1)).lane j)

/-- A write to an entry sets the value and the valid bit of each lane that writes (R138). -/
def LaneEntry.put (e : LaneEntry) (r : RegVal) (m : Mask) (whole : Bool) : LaneEntry :=
  ⟨e.val.put r m whole, e.valid ||| m⟩

/-- Writes one operand from the lanes `m` (R138, R143); `zero` discards. -/
def Squad.put (sq : Squad) (o : Operand) (m : Mask) (whole : Bool) (r : RegVal) : Squad :=
  match o with
  | .v n => sq.setReg n.val ((sq.reg n.val).put r m whole)
  | .oc n => { sq with oc := sq.oc.setIfInBounds n.val ((sq.ocSlot n.val).put r m whole) }
  | .lt n => { sq with lt := sq.lt.setIfInBounds n.val ((sq.latch n.val).put r m whole) }
  | .zero | .lane | .himm | .bad => sq

/-- A dead mark's effect on one register or entry (R145). -/
def Squad.kill (sq : Squad) : Operand → Squad
  | .v n => sq.setReg n.val .dead
  | .oc n => { sq with oc := sq.oc.setIfInBounds n.val { sq.ocSlot n.val with valid := 0 } }
  | .lt n => { sq with lt := sq.lt.setIfInBounds n.val { sq.latch n.val with valid := 0 } }
  | .zero | .lane | .himm | .bad => sq

/-! ### The group that issues -/

/-- The PC of the first word of the instruction's hint run (R245). -/
def Group.site (g : Group) : DWord := match g.hints with | some h => h.start | none => g.pc

/-- The group waits in an instruction that has issued, and which ends when its wait does. One that is held before it issues
(R292), that waits for its fetch, or that is issued again after a page fault (R115), has not. -/
def Group.inWait (g : Group) : Bool := g.read.isSome

/-- The group waits for a page, to issue its instruction again. -/
def Group.pageWait (g : Group) : Bool := match g.blocked with | some (.page _ _) => true | _ => false

/-- What an instruction of a squad that issues now reads. -/
def Squad.sources (sq : Squad) : Sources := ⟨sq.regs, sq.oc, sq.lt⟩
/-- A squad as an instruction read it. -/
def Squad.withSources (sq : Squad) (x : Sources) : Squad := { sq with regs := x.regs, oc := x.oc, lt := x.lt }

/-- The group that issues: its tile, workgroup, squad (its due results written) and itself. -/
structure Ctx where
  tile : Nat
  tl : Tile
  wg : Workgroup
  sq : Squad
  g : Group
deriving DecidableEq, Repr

/-- The tile's entry. -/
def State.tile (s : State) (t : Nat) : Tile := (tabFind t s.tiles).getD Tile.empty

/-- The squad of a slot. -/
def Workgroup.squad? (w : Workgroup) (slot : Nat) : Option Squad := w.squads.find? fun q => q.slot = slot

/-- The group that stands at a PC (R129: at most one). -/
def Squad.group? (q : Squad) (pc : DWord) : Option Group := q.groups.find? fun g => g.pc = pc

/-- The workgroup, squad and group that a cursor names. -/
def State.at? (s : State) (c : Cursor) : Option Ctx :=
  match tabFind c.tile s.tiles with
  | none => none
  | some tl =>
    match tl.wg with
    | none => none
    | some w =>
      match w.squad? c.slot with
      | none => none
      | some q => (q.group? c.pc).map fun g => ⟨c.tile, tl, w, q, g⟩

/-- The group that issues, if one does. -/
def State.ctx (s : State) : Option Ctx := s.cur.bind s.at?

/-- The group holds the whole live set. -/
def Ctx.whole (c : Ctx) : Bool := c.g.threads = c.sq.live

/-- The squad whose registers the instruction reads: as it stands, or as it was when an instruction that waits issued. -/
def Ctx.seen (c : Ctx) : Squad :=
  match c.g.read with
  | none => c.sq
  | some x => c.sq.withSources x

/-- A source of the issuing instruction. -/
def Ctx.src (c : Ctx) (o : Operand) : RegVal := c.seen.src c.g.hints o
/-- A source in a lane. -/
def Ctx.val (c : Ctx) (o : Operand) (j : Nat) : Word := (c.src o).lane j
/-- A uniform source. -/
def Ctx.uni (c : Ctx) (o : Operand) : Word := c.val o 0
/-- A pair source in a lane. -/
def Ctx.pair (c : Ctx) (o : Operand) (j : Nat) : DWord := c.seen.pairSrc c.g.hints o j

/-! ### What an instruction reads and writes -/

/-- The scope field of `LDAQ` and `STRL`, and the base pair pending for them and for atomics (R244). -/
def takesPendingBase : Instr → Bool
  | .ldaq _ | .strl _ | .aadd _ | .amin _ | .amax _ | .aand _ | .aor _ | .afadd _ | .axch _ | .acas _ => true
  | i => 0x50 ≤ i.opcode && i.opcode ≤ 0x57

/-- The base pair an instruction's address uses, as a use (R242, R244). -/
def baseUse (i : Instr) (h : Option HintRun) : Option Use :=
  let b := match i.sig.base with
    | some b => some b
    | none => if takesPendingBase i then h.bind (·.base) else none
  b.map fun b => ⟨Operand.ofBits (BitVec.ofNat 7 (2 * b.toNat)), 2⟩

/-- Every use an instruction reads. -/
def readUses (i : Instr) (h : Option HintRun) : List Use :=
  i.sig.first.toList ++ i.sig.second.toList ++ i.sig.extra ++ (baseUse i h).toList

/-- The specifiers an instruction reads. -/
def readOps (i : Instr) (h : Option HintRun) : List Operand := (readUses i h).flatMap useList

/-- The specifiers an instruction writes. -/
def writeOps (i : Instr) : List Operand := i.sig.dst.toList.flatMap useList

/-- The dead marks of R145: KA and KB, or those of HINT.KILL (R247). -/
def killMarks (i : Instr) (h : Option HintRun) : Bool × Bool :=
  match h.bind (·.kill) with
  | some k => (i.sig.kFirst || k.getLsbD 0, i.sig.kSecond || k.getLsbD 1)
  | none => (i.sig.kFirst, i.sig.kSecond)

/-- The registers and entries that an instruction's dead marks name. -/
def killOps (i : Instr) (h : Option HintRun) : List Operand :=
  (if (killMarks i h).1 then i.sig.first.toList.flatMap useList else [])
    ++ (if (killMarks i h).2 then i.sig.second.toList.flatMap useList else [])

/-- Formats R, J and H, which take no HINT.KILL (R247). -/
def noKill (i : Instr) : Bool :=
  i.opcode < 0x18 || (0x20 ≤ i.opcode && i.opcode < 0x40) || (0x59 ≤ i.opcode && i.opcode < 0x60)
    || i.opcode == 0x74 || i.opcode == 0x77 || i.opcode == 0x78 || i.opcode == 0x79 || i.opcode == 0x7A
    || i.opcode == 0x7F

/-- HINT.KILL marks only fields that it may mark (R247). -/
def killOk (i : Instr) (k : BitVec 2) : Bool :=
  !(noKill i) && (!k.getLsbD 0 || i.sig.first.isSome) && (!k.getLsbD 1 || (i.sig.second.isSome && i.opcode ≠ 0x4D))

/-- The instruction reads a dead file register (R146). -/
def Ctx.readsDead (c : Ctx) (i : Instr) : Bool :=
  (readOps i c.g.hints).any fun o => match o.reg? with | some n => c.seen.reg n = .dead | none => false

/-! ### Long-latency results (R140) -/

/-- The file registers a result writes. -/
def Outstanding.regs (o : Outstanding) : List Nat := useRegs ⟨o.dst, o.width⟩

/-- The lanes of `m` receive a result. A uniform result arrives whole. -/
def Squad.deliver (sq : Squad) (o : Outstanding) (m : Mask) : Squad :=
  let put (q : Squad) (k : Nat) (v : Lanes) : Squad :=
    q.put (Operand.plus o.dst k) m o.uniform (if o.uniform then .uniform ((RegVal.general v).lane 0) else .general v)
  let q := put sq 0 o.lo
  if o.width = 2 then put q 1 o.hi else q

/-- Delivers every result that satisfies `p`, oldest first. -/
def Squad.deliverAll (sq : Squad) (p : Outstanding → Bool) : Squad :=
  let q := sq.outstanding.foldl (fun q o => if p o then q.deliver o o.lanes else q) sq
  { q with outstanding := sq.outstanding.filter fun o => !p o }

/-- The result is outside its lookahead window for some lane of a group. -/
def Outstanding.closed (o : Outstanding) (m : Mask) : Bool :=
  (lanesOf (o.lanes &&& m)).any fun j => o.left.toList.getD j 0 = 0

/-- One instruction of the lanes `m` passes: their windows shrink (R140). -/
def Outstanding.pass (o : Outstanding) (m : Mask) : Outstanding :=
  { o with left := Vector.ofFn fun j =>
      if m.getLsbD j.val then o.left.toList.getD j.val 0 - 1 else o.left.toList.getD j.val 0 }

/-- Keeps the newest n results outstanding, delivering the older ones. -/
def Squad.drainTo (sq : Squad) (n : Nat) : Squad :=
  let late := sq.outstanding.take (sq.outstanding.length - n)
  let q := late.foldl (fun q o => q.deliver o o.lanes) sq
  { q with outstanding := sq.outstanding.drop (sq.outstanding.length - n) }

/-- The register that TAGC examines and tags again, though its row names no source (R327). -/
def tagOps : Instr → List Operand
  | .sysTagc f => [f.a]
  | _ => []

/-- The waits of R139, R140 and HINT.SCHED before an instruction issues: results that it reads or writes outside
their window are written first; at most OUTN stay outstanding, and at most seven before a ninth could be sent. Then
its lanes' windows shrink, once for an instruction that is tried again. -/
def Squad.settle (sq : Squad) (i : Instr) (g : Group) : Squad :=
  let names := ((readOps i g.hints) ++ writeOps i ++ tagOps i).filterMap Operand.reg?
  let q := sq.deliverAll fun o => o.closed g.threads && o.regs.any fun n => names.contains n
  let outn := match g.hints.bind (·.sched) with
    | some p => if p.toNat % 16 = 15 then 8 else p.toNat % 16
    | none => 8
  let q := q.drainTo (if i.isLong && (writeOps i).any (fun o => o.reg?.isSome) then min 7 outn else outn)
  if g.inWait || g.pageWait then q else { q with outstanding := q.outstanding.map fun o => o.pass g.threads }

/-! ### Shapes and the general budget -/

/-- The two sources of the four instructions of R143 that keep affine values. -/
def affineForm : Instr → Option (Operand × Operand × Bool × Bool)
  | .iadd f => some (f.a, f.b, true, true)
  | .isub f => some (f.a, f.b, true, true)
  | .imul f => some (f.a, f.b, false, true)
  | .shl f => some (f.a, f.b, false, false)
  | _ => none

/-- The shape of an instruction's result (R143). The flags of `affineForm` say whether two affine sources, and
whether an affine second source, keep the result affine. -/
def resultShape (i : Instr) (c : Ctx) : Shape :=
  if i.sig.uni || i.opcode == 0x77 || i.opcode == 0x78 || (i.opcode == 0x5B) || (i.opcode == 0x5C) then .uniform
  else if i.opcode == 0x3F then .affine
  else match affineForm i with
    | none => .general
    | some (a, b, both, second) =>
      let x := c.src a
      let y := c.src b
      if x.isUniform && y.isUniform then .uniform
      else if x.isCompact && y.isCompact && (both || x.isUniform || y.isUniform) && (second || y.isUniform)
      then .affine else .general

/-- The registers that hold a general slot: general registers, and those reserved for an outstanding result (R144). -/
def Squad.slots (sq : Squad) : List Nat :=
  (List.range 112).filter fun n =>
    (sq.reg n).isGeneral || sq.outstanding.any fun o => !o.uniform && o.regs.contains n

/-- The general registers of the squad (`sqst.GENUSE`); that a slot which is only reserved for a result on its way counts is the
model's choice (LOG 109). -/
def Squad.genUse (sq : Squad) : Nat := sq.slots.length

/-- Making the registers `ns` general keeps the bank's budget (R144); `freed` have given up their slots. -/
def Squad.fits (sq : Squad) (freed ns : List Nat) : Bool :=
  ns.all fun n =>
    (sq.slots.contains n && !freed.contains n) ||
      ((sq.slots.filter fun m => m % 4 = n % 4 && !freed.contains m) ++
        (ns.filter fun m => m % 4 = n % 4 && m < n && !(sq.slots.contains m))).length < sq.genregs / 4

/-- The destination registers that the result makes general. -/
def newGenerals (i : Instr) (c : Ctx) : List Nat :=
  if c.whole && resultShape i c ≠ .general then [] else (writeOps i).filterMap Operand.reg?

/-- GENOVF at issue (R144). -/
def genOverflow (i : Instr) (c : Ctx) : Bool :=
  let freed := if c.whole then (killOps i c.g.hints).filterMap Operand.reg? else []
  !c.sq.fits (freed.filter fun n => !c.sq.outstanding.any fun o => !o.uniform && o.regs.contains n) (newGenerals i c)

/-! ### The checks at issue (R148) -/

/-- The hints that make the governed instruction raise ILLEGAL (R244, R247, R252). -/
def hintIllegal (i : Instr) (h : HintRun) : Bool :=
  h.bad || h.upper.isSome || (h.kill.any fun k => !killOk i k)
    || (h.base.isSome && !takesPendingBase i)

/-- An atomic on scratchpad takes no base pair (R290). -/
def isScratchAtomic : Instr → Bool
  | .aadd f | .amin f | .amax f | .aand f | .aor f | .afadd f | .axch f | .acas f => f.space == 2
  | _ => false

/-- ILLEGAL: a field that R240 or R241 fixes, a bad hint run, `himm` with no immediate, an experimental instruction
on A0 (R252). -/
def isIllegal (i : Instr) (h : Option HintRun) (a0 : Bool) : Bool :=
  !i.wf || h.any (hintIllegal i) || ((readOps i h).contains .himm && (hintImm h).isNone)
    || (a0 && (i.isExperimental || (h.bind (·.prof)).isSome))
    || (isScratchAtomic i && (h.bind (·.base)).isSome)

/-- The lanes that an instruction reads of its first source: a cross-lane move reads the lanes it names (R279). -/
def lanesRead (i : Instr) (c : Ctx) : Mask :=
  match i with
  | .shfl f | .bcst f =>
    (lanesOf c.g.threads).foldl (fun m j => m ||| (1#32 <<< ((c.val f.b j).toNat % 32))) 0
  | .shfx f =>
    (lanesOf c.g.threads).foldl (fun m j => m ||| (1#32 <<< ((BitVec.ofNat 32 j ^^^ c.val f.b j).toNat % 32))) 0
  | _ => c.g.threads

/-- An `oc` or `lt` entry is read in a lane whose valid bit is 0 (R138). -/
def Ctx.staleOp (c : Ctx) (o : Operand) (m : Mask) : Bool :=
  match o with
  | .oc n => (c.sq.ocSlot n.val).valid &&& m ≠ m
  | .lt n => (c.sq.latch n.val).valid &&& m ≠ m
  | .v _ | .zero | .lane | .himm | .bad => false

/-- STALE (R138). -/
def isStale (i : Instr) (c : Ctx) : Bool :=
  (i.sig.first.toList.flatMap useList).any (fun o => c.staleOp o (lanesRead i c))
    || ((i.sig.second.toList ++ i.sig.extra).flatMap useList).any (fun o => c.staleOp o c.g.threads)

/-- Every register of a use is uniform-tagged. -/
def Ctx.uniformUse (c : Ctx) (u : Use) : Bool := (useList u).all fun o => (c.src o).isUniform

/-- SHAPE (R242, R243). -/
def isMisshapen (i : Instr) (c : Ctx) : Bool :=
  (i.sig.uFirst && i.sig.first.any fun u => !c.uniformUse u)
    || (i.sig.uSecond && i.sig.second.any fun u => !c.uniformUse u)
    || (i.sig.uExtra && i.sig.extra.any fun u => !c.uniformUse u)
    || (baseUse i c.g.hints).any fun u => !c.uniformUse u

/-- The first trap that R148 raises at issue, by number, if any. `priv` is the context's privilege (R87) and `privNeeded`
whether the instruction needs it. -/
def issueTrap (i : Instr) (c : Ctx) (a0 priv privNeeded : Bool) : Option Nat :=
  if isIllegal i c.g.hints a0 then some Trap.illegal
  else if privNeeded && !priv then some Trap.priv
  else if i.isConvergent && c.sq.groups.length ≠ 1 then some Trap.collective
  else if isStale i c then some Trap.stale
  else if isMisshapen i c then some Trap.shape
  else if genOverflow i c then some Trap.genovf
  else none

/-! ### Writing results -/

/-- The squad after the instruction's reads: dead marks are taken when the whole live set executes it (R145). -/
def Ctx.mark (c : Ctx) (i : Instr) (q : Squad) : Squad :=
  if c.whole then (killOps i c.g.hints).foldl Squad.kill q else q

/-- Writes a 32-bit result of the issuing group. -/
def Ctx.write (c : Ctx) (q : Squad) (o : Operand) (r : RegVal) : Squad := q.put o c.g.threads c.whole r

/-- Writes a 64-bit result to a pair, both registers together (R268). -/
def Ctx.writePair (c : Ctx) (q : Squad) (o : Operand) (sh : Shape) (f : Nat → DWord) : Squad :=
  let q := c.write q o (sh.value fun j => (f j).setWidth 32)
  c.write q (Operand.plus o 1) (sh.value fun j => (f j).extractLsb' 32 32)

/-- The lanes whose value a result needs: one for a uniform result. -/
def Shape.lanes (sh : Shape) (m : Mask) : List Nat := if sh = .uniform then [0] else lanesOf m

/-- A result that has just been sent comes from lines of the pool; `before` is the squad that had not sent it (R182). -/
def Squad.fromPool (q before : Squad) (lines : List (Nat × Nat)) : Squad :=
  { q with outstanding := q.outstanding.zipIdx.map fun o =>
      if o.2 < before.outstanding.length then o.1 else { o.1 with pool := lines } }

/-- Results on their way are lost with their requests, and the fault waits for the squad's next boundary (R61, R182, R317). -/
def Squad.loseResults (q : Squad) (p : Outstanding → Bool) (e : EngineTrap) : Squad :=
  { q with outstanding := q.outstanding.filter (fun o => !p o), late := if q.late.isNone then some e else q.late }

/-- Sends a long-latency result to a file register, in a window of `la` instructions (R140). -/
def Ctx.send (c : Ctx) (q : Squad) (dst : Operand) (width : Nat) (la : Nat) (uniform : Bool) (f : Nat → DWord) : Squad :=
  match dst with
  | .v _ =>
    let o : Outstanding :=
      { dst := dst, width := width, lanes := c.g.threads
        lo := lanesFn fun j => (f j).setWidth 32, hi := lanesFn fun j => (f j).extractLsb' 32 32
        left := Vector.replicate 32 la, uniform := uniform && c.whole, site := c.g.site, pool := [] }
    { q with outstanding := q.outstanding ++ [o] }
  | .oc _ | .lt _ | .zero | .lane | .himm | .bad => q

end Sys2Proof.Machine
end

