-- ==== Sys2Proof/Machine/Memory.lean ====
section
/-! DEFINITION. The one list of memory cells: its canonical form, reading and writing bytes, and the keys at which
HBM, pool, host memory and scratchpads lie in it (LOG 4). -/

namespace Sys2Proof.Machine

/-- What a byte that is not listed reads as: HBM and scratchpad are cleared before use (R29, R104), and the model
takes the same for pool and host memory (LOG 4). -/
def Memory.unlisted : Byte := 0

/-- Addresses rise strictly above a bound and no entry equals the unlisted value. -/
def Memory.wfFrom : Nat → List Host.Cell → Bool
  | _, [] => true
  | lo, (a, b) :: r => decide (lo ≤ a) && b ≠ Memory.unlisted && Memory.wfFrom (a + 1) r

/-- The canonical form: equal memories are equal lists. -/
def Memory.wf (m : List Host.Cell) : Bool := Memory.wfFrom 0 m

/-- Reads one byte. -/
def Memory.read : List Host.Cell → Nat → Byte
  | [], _ => Memory.unlisted
  | (k, b) :: r, a => if k = a then b else if a < k then Memory.unlisted else Memory.read r a

/-- Writes one byte. -/
def Memory.write : List Host.Cell → Nat → Byte → List Host.Cell
  | [], a, v => if v = Memory.unlisted then [] else [(a, v)]
  | (k, b) :: r, a, v =>
    if a < k then (if v = Memory.unlisted then (k, b) :: r else (a, v) :: (k, b) :: r)
    else if a = k then (if v = Memory.unlisted then r else (a, v) :: r)
    else (k, b) :: Memory.write r a v

/-- Reads n bytes from an address upwards. -/
def Memory.readN (m : List Host.Cell) (a : Nat) : Nat → List Byte
  | 0 => []
  | n + 1 => Memory.read m a :: Memory.readN m (a + 1) n

/-- Writes bytes from an address upwards. -/
def Memory.writeN (m : List Host.Cell) (a : Nat) : List Byte → List Host.Cell
  | [] => m
  | b :: r => Memory.writeN (Memory.write m a b) (a + 1) r

/-- Clears every byte at the addresses from `lo` to below `hi`. -/
def Memory.clear (m : List Host.Cell) (lo hi : Nat) : List Host.Cell := m.filter fun c => c.1 < lo || hi ≤ c.1

/-- A little-endian number of n bytes (R4). -/
def Memory.num (m : List Host.Cell) (a n : Nat) : Nat := leValue (Memory.readN m a n)

/-- The key of byte `a` of the memory of the host at port p (LOG 18). -/
def hostKey (p a : Nat) : Nat := 2 ^ 60 * (p + 1) + a

/-- The key of physical offset `o` of the scratchpad of tile t (R102). -/
def spadKey (t o : Nat) : Nat := 2 ^ 70 + t * 2 ^ 22 + o

/-- Reads n bytes of the state's memory. -/
def State.peekN (s : State) (a n : Nat) : List Byte := Memory.readN s.mem a n
/-- Reads a little-endian number of n bytes. -/
def State.num (s : State) (a n : Nat) : Nat := Memory.num s.mem a n
/-- Writes bytes. -/
def State.pokeN (s : State) (a : Nat) (bs : List Byte) : State := { s with mem := Memory.writeN s.mem a bs }
/-- Writes a little-endian number of n bytes. -/
def State.pokeNum (s : State) (a n v : Nat) : State := s.pokeN a (leBytes n v)

/-! ### Lists of entries -/

/-- Replaces the value at a key by a function of it. -/
def tabUpd {α : Type} (k : Nat) (f : α → α) (t : List (Nat × α)) : List (Nat × α) :=
  t.map fun e => if e.1 = k then (e.1, f e.2) else e

/-- Replaces the elements that satisfy a test. -/
def mapIf {α : Type} (p : α → Bool) (f : α → α) (l : List α) : List α := l.map fun x => if p x then f x else x

/-- The largest element under a strict order, the first on ties. -/
def best {α : Type} (better : α → α → Bool) : List α → Option α
  | [] => none
  | x :: r =>
    match best better r with
    | none => some x
    | some y => if better y x then some y else some x

/-- Inserts into a list sorted by `before`, after equals. -/
def insertBy {α : Type} (before : α → α → Bool) (x : α) : List α → List α
  | [] => [x]
  | y :: r => if before x y then x :: y :: r else y :: insertBy before x r

/-- Sorts a list by a strict order, keeping equals in their order. -/
def sortBy {α : Type} (before : α → α → Bool) (l : List α) : List α :=
  l.foldl (fun acc x => insertBy before x acc) []

/-- Removes repeats, keeping first occurrences. -/
def dedup {α : Type} [DecidableEq α] (l : List α) : List α :=
  l.foldl (fun acc x => if acc.contains x then acc else acc ++ [x]) []

end Sys2Proof.Machine
end

