-- ==== Sys2Proof/Machine/Topology.lean ====
section
/-! DEFINITION. The mesh, the street map and the routing tables (02_wafer_fabric.md): coordinates, reticles, the
default tables of R55 and the check of R58. -/

namespace Sys2Proof.Machine

open Sys2Proof.Config

/-! ### The mesh -/

/-- Column of a tile (R3). -/
def tileX (t : Nat) : Nat := t % 56
/-- Row of a tile (R3). -/
def tileY (t : Nat) : Nat := t / 56
/-- Tile id at a column and row (R3). -/
def tileAt (x y : Nat) : Nat := y * 56 + x

/-- The reticle of a tile: 8 x 8 tiles, 7 reticles along x (R3). -/
def reticleOf (t : Nat) : Nat := tileY t / 8 * 7 + tileX t / 8

/-- The index of a tile within its reticle (R3). -/
def localIndex (t : Nat) : Nat := tileY t % 8 * 8 + tileX t % 8

/-- The tile at a local index of a reticle. -/
def reticleTile (r k : Nat) : Nat := tileAt (r % 7 * 8 + k % 8) (r / 7 * 8 + k / 8)

/-- The neighbour through a port: 0 N, 1 E, 2 S, 3 W. -/
def neighbour (t p : Nat) : Option Nat :=
  match p with
  | 0 => if tileY t = 0 then none else some (t - 56)
  | 1 => if tileX t = 55 then none else some (t + 1)
  | 2 => if tileY t = 47 then none else some (t + 56)
  | 3 => if tileX t = 0 then none else some (t - 1)
  | _ => none

/-- The port at the other end of a link. -/
def farPort (p : Nat) : Nat := (p + 2) % 4

/-! ### The street map (R50) -/

/-- A street-map word; an unlisted word is 0. -/
def streetWord (m : List (Nat × BitVec 32)) (t : Nat) : BitVec 32 := (tabFind t m).getD 0

/-- Bit n of a tile's word. -/
def streetBit (m : List (Nat × BitVec 32)) (t n : Nat) : Bool := (streetWord m t).getLsbD n

/-- TGOOD, BGOOD and OGOOD of the committed map. -/
def State.tgood (s : State) (t : Nat) : Bool := streetBit s.street t 0
def State.bgood (s : State) (t : Nat) : Bool := streetBit s.street t 1
def State.ogood (s : State) (t : Nat) : Bool := streetBit s.street t 2

/-- Sets or clears a bit of a tile's word. -/
def streetSet (m : List (Nat × BitVec 32)) (t n : Nat) (v : Bool) : List (Nat × BitVec 32) :=
  let w := streetWord m t
  let w' := if v then w ||| (1#32 <<< n) else w &&& ~~~(1#32 <<< n)
  if w' = 0 then tabDel t m else tabSet t w' m

/-- HARV is set in the word of a tile that a map held before: a part of it that the fused list marks good became defective
(R50). -/
def harvested (before m : List (Nat × BitVec 32)) (t : Nat) : List (Nat × BitVec 32) :=
  if (tabFind t before).isSome then streetSet m t 12 true else m

/-- A link's bits are cleared at both of its ends (R51). -/
def cutLink (m : List (Nat × BitVec 32)) (t p : Nat) : List (Nat × BitVec 32) :=
  let one (m : List (Nat × BitVec 32)) (t p : Nat) := streetSet (streetSet m t (3 + p) false) t (7 + p) false
  match neighbour t p with
  | some n => one (one m t p) n (farPort p)
  | none => one m t p

/-- A router leaves the map with its tile, its bank and its links (R51). -/
def cutRouter (m : List (Nat × BitVec 32)) (t : Nat) : List (Nat × BitVec 32) :=
  (List.range 4).foldl (fun m p => cutLink m t p) ([0, 1, 2].foldl (fun m k => streetSet m t k false) m)

/-- The fused list marks a part defective; a link has a name at each of its ends. -/
def fusedPart (ds : List Part) (p : Part) : Bool :=
  ds.contains p || (match p with
    | .link t k => (match neighbour t k with | some n => ds.contains (.link n (farPort k)) | none => false)
    | .tile _ | .bank _ | .router _ => false)

/-- HARV is set at the tiles that a part belongs to, unless the fused list had marked it (R50, LOG 81). -/
def noteHarvest (ds : List Part) (before m : List (Nat × BitVec 32)) (p : Part) : List (Nat × BitVec 32) :=
  if fusedPart ds p then m
  else match p with
    | .tile t | .bank t | .router t => harvested before m t
    | .link t k => (match neighbour t k with
      | some n => harvested before (harvested before m t) n
      | none => harvested before m t)

/-- A part becomes defective in a map (R50, R51). -/
def defect (ds : List Part) (m : List (Nat × BitVec 32)) (p : Part) : List (Nat × BitVec 32) :=
  noteHarvest ds m (match p with
    | .tile t => streetSet m t 0 false
    | .bank t => streetSet m t 1 false
    | .router t => cutRouter m t
    | .link t k => cutLink m t k) p

/-- A good link is recorded at half width, at both of its ends (R42, R51). -/
def halveLink (m : List (Nat × BitVec 32)) (t p : Nat) : List (Nat × BitVec 32) :=
  if streetBit m t (3 + p) then
    match neighbour t p with
    | some n => streetSet (streetSet m t (7 + p) true) n (7 + farPort p) true
    | none => m
  else m

/-- PLAZA marks the root alone. -/
def markPlaza (m : List (Nat × BitVec 32)) (r : Option Nat) : List (Nat × BitVec 32) :=
  let m := m.map fun e => (e.1, e.2 &&& ~~~(1#32 <<< 13))
  match r with
  | some t => streetSet m t 13 true
  | none => m

/-- A link is usable from a tile through a port: its bit is set at the tile, whose own router is good, and the
router at the other end is good (R51). -/
def linkGood (m : List (Nat × BitVec 32)) (t p : Nat) : Bool :=
  streetBit m t (3 + p) && streetBit m t 2 &&
    (match neighbour t p with | some n => streetBit m n 2 | none => false)

/-! ### The default tables (R55) -/

/-- The good routers, in tile order. -/
def goodRouters (m : List (Nat × BitVec 32)) : List Nat := (m.filter fun e => e.2.getLsbD 2).map (·.1)

/-- The distance of a tile from (28, 24). -/
def plazaDist (t : Nat) : Nat := (max (tileX t) 28 - min (tileX t) 28) + (max (tileY t) 24 - min (tileY t) 24)

/-- The root: tile 1372 if its router is good, or else the nearest good router, the lowest id on ties. -/
def rootOf (m : List (Nat × BitVec 32)) : Option Nat := best (fun a b => plazaDist a < plazaDist b) (goodRouters m)

/-- One round of the search: the unseen good neighbours of a frontier. -/
def bfsNext (m : List (Nat × BitVec 32)) (seen : List (Nat × Nat)) (d : Nat) : List Nat → List (Nat × Nat)
  | [] => []
  | t :: r =>
    let new := (List.range 4).filterMap fun p =>
      if linkGood m t p then (neighbour t p).bind fun n => if (tabFind n seen).isSome then none else some (n, d)
      else none
    let seen' := new.foldl (fun acc e => tabSet e.1 e.2 acc) seen
    new ++ bfsNext m seen' d r

/-- The hop distances over good links, by rounds. -/
def bfs (m : List (Nat × BitVec 32)) : Nat → Nat → List Nat → List (Nat × Nat) → List (Nat × Nat)
  | 0, _, _, seen => seen
  | n + 1, d, frontier, seen =>
    let new := bfsNext m seen d frontier
    if new = [] then seen
    else bfs m n (d + 1) (new.map (·.1)) (new.foldl (fun acc e => tabSet e.1 e.2 acc) seen)

/-- The hop distances of the routers that good links join to a root. -/
def hopsFrom (m : List (Nat × BitVec 32)) (r : Nat) : List (Nat × Nat) := bfs m tileCount 1 [r] [(r, 0)]

/-- The hop distance of every router that reaches the root. -/
def hopMap (m : List (Nat × BitVec 32)) : List (Nat × Nat) :=
  match rootOf m with
  | none => []
  | some r => hopsFrom m r

/-- The parent port of a router: the neighbour one hop nearer the root, in the order N, S, E, W. -/
def parentPort (m : List (Nat × BitVec 32)) (hops : List (Nat × Nat)) (t : Nat) : Option Nat :=
  match tabFind t hops with
  | none => none
  | some h => [0, 2, 1, 3].find? fun p =>
      linkGood m t p && (match neighbour t p with
        | some n => (match tabFind n hops with | some k => k + 1 = h | none => false)
        | none => false)

/-- Climbs from d towards the root until router t is reached; answers the port of t that leads down to d. -/
def climb (m : List (Nat × BitVec 32)) (hops : List (Nat × Nat)) (t : Nat) : Nat → Nat → Option Nat
  | 0, _ => none
  | n + 1, d =>
    match parentPort m hops d with
    | none => none
    | some p =>
      match neighbour d p with
      | none => none
      | some u => if u = t then some (farPort p) else climb m hops t n u

/-- One step of a dimension-order path from t to d, x first or y first. -/
def dimStep (xFirst : Bool) (t d : Nat) : Option Nat :=
  let px := if tileX t < tileX d then some 1 else if tileX d < tileX t then some 3 else none
  let py := if tileY t < tileY d then some 2 else if tileY d < tileY t then some 0 else none
  if xFirst then px.orElse fun _ => py else py.orElse fun _ => px

/-- The dimension-order path from t to d uses only good routers and links. -/
def pathClean (m : List (Nat × BitVec 32)) (xFirst : Bool) (d : Nat) : Nat → Nat → Bool
  | 0, t => t = d && streetBit m t 2
  | n + 1, t =>
    if t = d then streetBit m t 2
    else match dimStep xFirst t d with
      | none => false
      | some p => linkGood m t p && (match neighbour t p with | some u => pathClean m xFirst d n u | none => false)

/-- The links between tiles of a set on the X-first path from t to d are good, with the routers at their ends (R49). -/
def pathCleanIn (m : List (Nat × BitVec 32)) (ts : List Nat) (d : Nat) : Nat → Nat → Bool
  | 0, t => t = d
  | n + 1, t =>
    if t = d then true
    else match dimStep true t d with
      | none => false
      | some p =>
        match neighbour t p with
        | none => false
        | some u => (!(ts.contains t && ts.contains u) || linkGood m t p) && pathCleanIn m ts d n u

/-- A bit as a number. -/
def bit (b : Bool) : Nat := if b then 1 else 0

/-- Firmware's default tables for a street map. -/
def TableBase.of (m : List (Nat × BitVec 32)) : TableBase := .default m (hopMap m)

/-- The default entry of a router for an index (R53-R55). -/
def defaultEntry (m : List (Nat × BitVec 32)) (hops : List (Nat × Nat)) (t d : Nat) : BitVec 16 :=
  if d = tileCount then
    match tabFind t hops with
    | none => 7
    | some h => BitVec.ofNat 16 ((parentPort m hops t).getD 7 + 8 * bit (h = 0) + 16 * h)
  else if (tabFind t hops).isSome && (tabFind d hops).isSome then
    let down := climb m hops t tileCount d
    let ud := if t = d then 4 + 8 else match down with
      | some p => p + 8
      | none => (parentPort m hops t).getD 0
    BitVec.ofNat 16 (ud + 16 * bit (pathClean m true d 110 t) + 32 * bit (pathClean m false d 110 t) + 64)
  else 0

/-- An entry of a set of tables (R53, R54); index 2688 is the header. -/
def Tables.entry (tb : Tables) (t d : Nat) : BitVec 16 :=
  match tabFind (t * 2689 + d) tb.written with
  | some e => e
  | none =>
    match tb.base with
    | .blank => if d = tileCount then 7 else 0
    | .default m hops => defaultEntry m hops t d

/-- The V bit of the entry of router t for tile d (R53). -/
def Tables.valid (tb : Tables) (t d : Nat) : Bool :=
  match tabFind (t * 2689 + d) tb.written, tb.base with
  | some e, _ => e.getLsbD 6
  | none, .blank => false
  | none, .default _ hops => (tabFind t hops).isSome && (tabFind d hops).isSome

/-- A packet from tile a can be routed to tile b (R47): the source router's entry is valid. A tile reaches its own
endpoint without a packet. -/
def State.routes (s : State) (a b : Nat) : Bool := a = b || s.active.valid a b

/-- The plaza router of the committed map. -/
def State.plaza (s : State) : Nat := ((s.street.find? fun e => e.2.getLsbD 13).map (·.1)).getD plazaTile

/-- ChooseClass (R47). -/
def chooseClass (e : BitVec 16) (h : Bool) : Option RouteClass :=
  if !e.getLsbD 6 then none
  else if !h && e.getLsbD 4 then some .xFirst
  else if h && e.getLsbD 5 then some .yFirst
  else if e.getLsbD 4 then some .xFirst
  else if e.getLsbD 5 then some .yFirst
  else some .upDown

/-! ### The maps in the making (R30, R52) -/

/-- A change of the map of good parts: the map in force, and during bring-up the one that is being built. -/
def State.updMaps (s : State) (f : List (Nat × BitVec 32) → List (Nat × BitVec 32)) : State :=
  { s with streetNext := f s.streetNext, harvestMap := if s.harvestMap = [] then [] else f s.harvestMap }

/-- A part becomes defective: the maps lose it, and firmware has a commit to make. -/
def State.loseParts (s : State) (ps : List Part) : State :=
  { s.updMaps fun m => ps.foldl (defect s.flash.defects) m with rt := { s.rt with want := true } }

/-! ### What the reticles carry (R19) -/

/-- The reticle to which an HBM stack attaches. -/
def stackReticle (k : Nat) : Nat := if k < 12 then k / 2 * 7 else (k - 12) / 2 * 7 + 6
/-- The reticle to which a CXL port attaches. -/
def portReticle (p : Nat) : Nat :=
  let q := p % 16
  (if q < 6 then q / 2 else if q < 10 then 3 else (q - 2) / 2) + (if p < 16 then 0 else 35)

/-- A router reaches the fabric of a reticle. -/
def State.reaches (s : State) (t r : Nat) : Bool :=
  (List.range 64).any fun k => s.ogood (reticleTile r k) && s.routes t (reticleTile r k)

/-! ### Anchors (R169) -/

/-- The bank in a placement slot: the good banks of the last full deal in turn, then the slots dealt again. -/
def State.slotBank (s : State) (slot : Nat) : Nat :=
  match s.placement with
  | [] => 0
  | [b] => if s.redealt = [] then b else (tabFind slot s.redealt).getD b
  | b :: r => (tabFind slot s.redealt).getD ((b :: r).getD (slot % (r.length + 1)) b)

/-- The anchor bank of a physical address (R169). -/
def State.anchor (s : State) (pa : Nat) : Nat := s.slotBank (placeHash (pa / 65536) % 65536)

/-- A bank takes slots, moves and replicas: it is good, and its removal has not begun (R169, R174, R179). -/
def State.takesBank (s : State) (t : Nat) : Bool := s.bgood t && streetBit s.streetNext t 1 && !s.emptying.contains t

/-! ### The check of a commit (R58) -/

/-- RSVD at one entry, valid or not (LOG 91). -/
def entryReserved (e : BitVec 16) (d : Nat) : Bool :=
  if d = tileCount then 4 ≤ e.toNat % 8 && e.toNat % 8 ≤ 6 else e.toNat / 128 ≠ 0 || 5 ≤ e.toNat % 8

/-- TREE at one router's header, given the staging tables: a root has parent 7; any other has a good parent link whose far
header is one less deep. -/
def headerWrong (m : List (Nat × BitVec 32)) (tb : Tables) (t : Nat) : Bool :=
  let h := (tb.entry t tileCount).toNat
  if bitOf h 3 then h % 8 ≠ 7
  else if h % 8 < 4 then
    !linkGood m t (h % 8) ||
      (match neighbour t (h % 8) with
        | some n => h / 16 ≠ (tb.entry n tileCount).toNat / 16 + 1
        | none => true)
  else true

/-- The next router up in staging headers. -/
def headerParent (tb : Tables) (t : Nat) : Option Nat := neighbour t ((tb.entry t tileCount).toNat % 8)

/-- Climbs staging headers from d to t; answers the port of t that leads down to d. -/
def climbHeaders (tb : Tables) (t : Nat) : Nat → Nat → Option Nat
  | 0, _ => none
  | n + 1, d =>
    match headerParent tb d with
    | none => none
    | some u => if u = t then some (farPort ((tb.entry d tileCount).toNat % 8)) else climbHeaders tb t n u

/-- UPDN at one entry. -/
def updnWrong (tb : Tables) (t d : Nat) : Bool :=
  let e := (tb.entry t d).toNat
  if !bitOf e 6 then false
  else if t = d then e % 8 ≠ 4
  else match climbHeaders tb t tileCount d with
    | some p => e % 8 ≠ p || !bitOf e 3
    | none => e % 8 ≠ (tb.entry t tileCount).toNat % 8 || bitOf e 3

/-- A router that good links do not join to the root may have no parent: it is no part of the tree (R55, LOG 91). -/
def noParent (hops : List (Nat × Nat)) (tb : Tables) (t : Nat) : Bool :=
  (tabFind t hops).isNone && (tb.entry t tileCount).toNat % 16 = 7

/-- The first failing condition over the good routers and every index: ERR, router, index. Where the number of roots is wrong,
what `rterr` names is the model's choice (LOG 91). -/
def checkTables (m : List (Nat × BitVec 32)) (tb : Tables) : Option (Nat × Nat × Nat) :=
  let rs := goodRouters m
  let pairs := rs.flatMap fun t => (List.range (tileCount + 1)).map fun d => (t, d)
  let hops := match rs.find? fun t => bitOf (tb.entry t tileCount).toNat 3 with
    | some r => hopsFrom m r
    | none => []
  let fails (code : Nat) (p : Nat × Nat → Bool) : Option (Nat × Nat × Nat) := (pairs.find? p).map fun q => (code, q)
  let roots := rs.filter fun t => bitOf (tb.entry t tileCount).toNat 3
  let tree := if rs ≠ [] && roots.length ≠ 1 then some (2, (roots.getD 1 (rs.headD 0)), tileCount)
    else fails 2 fun q => q.2 = tileCount && !noParent hops tb q.1 && headerWrong m tb q.1
  (fails 1 fun q => entryReserved (tb.entry q.1 q.2) q.2).orElse fun _ =>
  tree.orElse fun _ =>
  (fails 3 fun q => q.2 < tileCount && updnWrong tb q.1 q.2).orElse fun _ =>
  (fails 4 fun q => q.2 < tileCount && bitOf (tb.entry q.1 q.2).toNat 6 &&
    ((bitOf (tb.entry q.1 q.2).toNat 4 && !pathClean m true q.2 110 q.1)
      || (bitOf (tb.entry q.1 q.2).toNat 5 && !pathClean m false q.2 110 q.1))).orElse fun _ =>
  fails 5 fun q => q.2 < tileCount &&
    (bitOf (tb.entry q.1 q.2).toNat 6 ≠ ((tabFind q.1 hops).isSome && (tabFind q.2 hops).isSome))

end Sys2Proof.Machine
end

