-- ==== Sys2Proof/Machine/Formats.lean ====
section
/-! DEFINITION. Number formats and exact arithmetic (09_number_formats.md): decoding, one rounding of an exact value,
the operations of R223-R228 and the special functions of R273. Exceptions are a number: bit 0 IV, 1 DZ, 2 OF, 3 UF, 4 NX
(R224). -/

namespace Sys2Proof.Machine

/-! ### Formats (R220) -/

/-- A floating-point format: exponent and mantissa bits, bias, its largest finite value n·2^q, and whether it has
infinities. -/
structure Fmt where
  e : Nat
  m : Nat
  bias : Nat
  maxN : Nat
  maxQ : Int
  inf : Bool
deriving DecidableEq, Repr

def f32 : Fmt := ⟨8, 23, 127, 2 ^ 24 - 1, 104, true⟩
def f64 : Fmt := ⟨11, 52, 1023, 2 ^ 53 - 1, 971, true⟩
def fp16 : Fmt := ⟨5, 10, 15, 2 ^ 11 - 1, 5, true⟩
def bf16 : Fmt := ⟨8, 7, 127, 2 ^ 8 - 1, 120, true⟩
def e5m2 : Fmt := ⟨5, 2, 15, 7, 13, true⟩
def e4m3 : Fmt := ⟨4, 3, 7, 14, 5, false⟩

/-- A number read exactly: (-1)^s · m · 2^e when finite. -/
inductive FVal where
  | nan (signalling : Bool)
  | inf (s : Bool)
  | fin (s : Bool) (m : Nat) (e : Int)
deriving DecidableEq, Repr

/-- The width of a format. -/
def Fmt.width (f : Fmt) : Nat := 1 + f.e + f.m

/-- Decodes a number (R220). -/
def Fmt.decode (f : Fmt) (x : Nat) : FVal :=
  let man := x % 2 ^ f.m
  let ex := x / 2 ^ f.m % 2 ^ f.e
  let s := bitOf x (f.e + f.m)
  if ex = 2 ^ f.e - 1 && f.inf then (if man = 0 then .inf s else .nan (!bitOf man (f.m - 1)))
  else if ex = 2 ^ f.e - 1 && man = 2 ^ f.m - 1 && !f.inf then .nan false
  else if ex = 0 then .fin s man (1 - (f.bias : Int) - f.m)
  else .fin s (2 ^ f.m + man) ((ex : Int) - f.bias - f.m)

/-- The sign bit of a format. -/
def Fmt.signBit (f : Fmt) (s : Bool) : Nat := if s then 2 ^ (f.e + f.m) else 0
/-- The canonical NaN (R220). -/
def Fmt.nan (f : Fmt) : Nat := if f.inf then (2 ^ f.e - 1) * 2 ^ f.m + 2 ^ (f.m - 1) else 2 ^ (f.e + f.m) - 1
/-- An infinity. -/
def Fmt.infinity (f : Fmt) (s : Bool) : Nat := f.signBit s + (2 ^ f.e - 1) * 2 ^ f.m
/-- The largest finite value. -/
def Fmt.largest (f : Fmt) (s : Bool) : Nat :=
  f.signBit s + (if f.inf then (2 ^ f.e - 1) * 2 ^ f.m - 1 else 2 ^ (f.e + f.m) - 2)
/-- A zero. -/
def Fmt.zero (f : Fmt) (s : Bool) : Nat := f.signBit s

/-! ### The arithmetic control (R222) -/

/-- RM of a control: 0 RNE, 1 RZ, 2 RDN, 3 RUP. -/
def ctlRm (c : Nat) : Nat := c % 4
/-- SAT of a control. -/
def ctlSat (c : Nat) : Bool := bitOf c 2
/-- TRAPS of a control, in the order of the exceptions. -/
def ctlTraps (c : Nat) : Nat := c / 8 % 32

/-! ### One rounding (R223) -/

/-- m·2^e in units of 2^q, rounded by RM: the integer and whether it is inexact. -/
def roundUnits (rm : Nat) (s : Bool) (m : Nat) (e q : Int) : Nat × Bool :=
  if q ≤ e then (m * 2 ^ (e - q).toNat, false)
  else
    let d := 2 ^ (q - e).toNat
    let n := m / d
    let r := m % d
    let up := match rm with
      | 0 => 2 * r > d || (2 * r = d && n % 2 = 1)
      | 1 => false
      | 2 => s && r ≠ 0
      | _ => !s && r ≠ 0
    (if up then n + 1 else n, r ≠ 0)

/-- n·2^q exceeds n'·2^q'. -/
def exceeds (n : Nat) (q : Int) (n' : Nat) (q' : Int) : Bool :=
  let k := min q q'
  n * 2 ^ (q - k).toNat > n' * 2 ^ (q' - k).toNat

/-- The overflow result (R223), or E4M3's (R225). -/
def Fmt.overflow (f : Fmt) (rm : Nat) (sat s : Bool) : Nat :=
  if !f.inf || sat || rm = 1 || (rm = 2 && !s) || (rm = 3 && s) then f.largest s else f.infinity s

/-- Rounds the exact non-zero value (-1)^s·m·2^e to a format: its bits and the exceptions OF, UF, NX. -/
def Fmt.round (f : Fmt) (rm : Nat) (sat s : Bool) (m : Nat) (e : Int) : Nat × Nat :=
  if m = 0 then (f.zero s, 0)
  else
    let top : Int := e + Nat.log2 m
    let emin : Int := 1 - (f.bias : Int)
    let qu := top - f.m
    let qb := max top emin - f.m
    let u := roundUnits rm s m e qu
    let b := roundUnits rm s m e qb
    if exceeds u.1 qu f.maxN f.maxQ then (f.overflow rm sat s, 4 + 16)
    else
      let tiny := exceeds 1 emin u.1 qu
      let field : Nat := if b.1 < 2 ^ f.m then b.1 else ((qb + f.m + f.bias).toNat - 1) * 2 ^ f.m + b.1
      (f.signBit s + field, (if tiny && b.2 then 8 else 0) + (if b.2 then 16 else 0))

/-! ### Exact values -/

/-- m·2^e for a signed m. -/
structure Dy where
  m : Int
  e : Int
deriving DecidableEq, Repr

/-- A finite number as an exact value. -/
def dyOf (s : Bool) (m : Nat) (e : Int) : Dy := ⟨if s then -(m : Int) else m, e⟩
/-- Sum. -/
def Dy.add (a b : Dy) : Dy :=
  let k := min a.e b.e
  ⟨a.m * 2 ^ (a.e - k).toNat + b.m * 2 ^ (b.e - k).toNat, k⟩
/-- Product. -/
def Dy.mul (a b : Dy) : Dy := ⟨a.m * b.m, a.e + b.e⟩
/-- Negation. -/
def Dy.neg (a : Dy) : Dy := ⟨-a.m, a.e⟩
/-- Strictly less. -/
def Dy.lt (a b : Dy) : Bool := (a.add b.neg).m < 0
/-- Distance. -/
def Dy.dist (a b : Dy) : Dy := let d := a.add b.neg; ⟨d.m.natAbs, d.e⟩
/-- floor(a · 2^k). -/
def Dy.floorAt (a : Dy) (k : Int) : Int :=
  let e := a.e + k
  if 0 ≤ e then a.m * 2 ^ e.toNat else a.m / 2 ^ (-e).toNat

/-- Rounds an exact value; an exact zero takes the sign given. -/
def Fmt.roundDy (f : Fmt) (c : Nat) (zeroSign : Bool) (d : Dy) : Nat × Nat :=
  if d.m = 0 then (f.zero zeroSign, 0) else f.round (ctlRm c) (ctlSat c) (d.m < 0) d.m.natAbs d.e

/-- IV of a signalling operand. -/
def ivOf : FVal → Nat
  | .nan true => 1
  | .nan false | .inf _ | .fin _ _ _ => 0

/-- The exceptions of two operations together. -/
def excOr (a b : Nat) : Nat := a ||| b

/-- Changes the sign. -/
def FVal.negate : FVal → FVal
  | .nan q => .nan q
  | .inf s => .inf (!s)
  | .fin s m e => .fin (!s) m e

/-! ### Arithmetic (R223, R271) -/

/-- a + b. -/
def Fmt.addV (f : Fmt) (c : Nat) (a b : FVal) : Nat × Nat :=
  let iv := excOr (ivOf a) (ivOf b)
  match a, b with
  | .nan _, _ => (f.nan, iv)
  | _, .nan _ => (f.nan, iv)
  | .inf s, .inf t => if s = t then (f.infinity s, 0) else (f.nan, 1)
  | .inf s, .fin _ _ _ => (f.infinity s, 0)
  | .fin _ _ _, .inf t => (f.infinity t, 0)
  | .fin s m e, .fin t n k =>
    let sign := if s = t then s else ctlRm c = 2
    f.roundDy c sign ((dyOf s m e).add (dyOf t n k))

/-- a · b. -/
def Fmt.mulV (f : Fmt) (c : Nat) (a b : FVal) : Nat × Nat :=
  let iv := excOr (ivOf a) (ivOf b)
  match a, b with
  | .nan _, _ => (f.nan, iv)
  | _, .nan _ => (f.nan, iv)
  | .inf s, .inf t => (f.infinity (s != t), 0)
  | .inf s, .fin t n _ => if n = 0 then (f.nan, 1) else (f.infinity (s != t), 0)
  | .fin s m _, .inf t => if m = 0 then (f.nan, 1) else (f.infinity (s != t), 0)
  | .fin s m e, .fin t n k => f.roundDy c (s != t) ((dyOf s m e).mul (dyOf t n k))

/-- a · b + d, fused: 0 · ∞ is invalid even when d is a quiet NaN (R271). -/
def Fmt.fmaV (f : Fmt) (c : Nat) (a b d : FVal) : Nat × Nat :=
  let iv := excOr (excOr (ivOf a) (ivOf b)) (ivOf d)
  let zeroInf : Bool := match a, b with
    | .inf _, .fin _ n _ => n = 0
    | .fin _ m _, .inf _ => m = 0
    | _, _ => false
  if zeroInf then (f.nan, excOr iv 1)
  else
    match a, b, d with
    | .nan _, _, _ => (f.nan, iv)
    | _, .nan _, _ => (f.nan, iv)
    | _, _, .nan _ => (f.nan, iv)
    | .fin s m e, .fin t n k, .fin u o l =>
      let sign := if (s != t) = u then u else ctlRm c = 2
      f.roundDy c sign (((dyOf s m e).mul (dyOf t n k)).add (dyOf u o l))
    | .fin _ _ _, .fin _ _ _, .inf u => (f.infinity u, 0)
    | x, y, z =>
      let sg (v : FVal) : Bool := match v with | .inf s => s | .fin s _ _ => s | .nan _ => false
      let p := sg x != sg y
      match z with
      | .inf u => if u = p then (f.infinity p, 0) else (f.nan, 1)
      | .fin _ _ _ | .nan _ => (f.infinity p, 0)

/-- a · 2^n (R271, FSCL). -/
def Fmt.scaleV (f : Fmt) (c : Nat) (a : FVal) (n : Int) : Nat × Nat :=
  match a with
  | .nan q => (f.nan, bit q)
  | .inf s => (f.infinity s, 0)
  | .fin s m e => if m = 0 then (f.zero s, 0) else f.round (ctlRm c) (ctlSat c) s m (e + n)

/-- A number of another format, rounded (R225). -/
def Fmt.convert (f : Fmt) (c : Nat) (a : FVal) : Nat × Nat :=
  match a with
  | .nan q => (f.nan, bit q)
  | .inf s => if f.inf then (f.infinity s, 0) else (f.largest s, 1)
  | .fin s m e => if m = 0 then (f.zero s, 0) else f.round (ctlRm c) (ctlSat c) s m e

/-- The order of two numbers, zeros equal: -1, 0, 1; none with a NaN. -/
def cmpV (a b : FVal) : Option Int :=
  match a, b with
  | .nan _, _ => none
  | _, .nan _ => none
  | .inf s, .inf t => some (if s = t then 0 else if s then -1 else 1)
  | .inf s, .fin _ _ _ => some (if s then -1 else 1)
  | .fin _ _ _, .inf t => some (if t then 1 else -1)
  | .fin s m e, .fin t n k =>
    let d := ((dyOf s m e).add (dyOf t n k).neg).m
    some (if d < 0 then -1 else if d = 0 then 0 else 1)

/-- The sign of a number. -/
def FVal.neg : FVal → Bool
  | .nan _ => false
  | .inf s => s
  | .fin s _ _ => s

/-- a is below b under the rule of FMIN and FMAX, -0 below +0 (R272). -/
def belowV (a b : FVal) : Bool :=
  match cmpV a b with
  | some d => d < 0 || (d = 0 && a.neg && !b.neg)
  | none => false

/-- FMIN or FMAX of two F32 words (R272). -/
def f32Extreme (greater : Bool) (x y : Nat) : Nat × Nat :=
  let a := f32.decode x
  let b := f32.decode y
  let iv := excOr (ivOf a) (ivOf b)
  match a, b with
  | .nan _, .nan _ => (f32.nan, iv)
  | .nan _, _ => (y, iv)
  | _, .nan _ => (x, iv)
  | _, _ => (if belowV a b = greater then y else x, 0)

/-- A comparison (R272): its answer on the order, on a NaN, and whether every NaN is invalid. -/
def f32Compare (p : Int → Bool) (onNan every : Bool) (x y : Nat) : Nat × Nat :=
  let a := f32.decode x
  let b := f32.decode y
  match cmpV a b with
  | some d => (bit (p d), 0)
  | none => (bit onNan, if every then 1 else excOr (ivOf a) (ivOf b))

/-! ### Integers (R226) -/

/-- To an integer of w bits, signed or not: rounded under RM, clamped with IV. -/
def toInt (c : Nat) (w : Nat) (signed : Bool) (a : FVal) : Nat × Nat :=
  let lo : Int := if signed then -(2 ^ (w - 1) : Nat) else 0
  let hi : Int := if signed then (2 ^ (w - 1) : Nat) - 1 else (2 ^ w : Nat) - 1
  let out (v : Int) : Nat := (v % (2 ^ w : Nat)).toNat
  match a with
  | .nan _ => (0, 1)
  | .inf s => (out (if s then lo else hi), 1)
  | .fin s m e =>
    let r := roundUnits (ctlRm c) s m e 0
    let v : Int := if s then -(r.1 : Int) else r.1
    if v < lo then (out lo, 1) else if v > hi then (out hi, 1) else (out v, if r.2 then 16 else 0)

/-- From an integer. -/
def Fmt.ofInt (f : Fmt) (c : Nat) (v : Int) : Nat × Nat := f.roundDy c false ⟨v, 0⟩

/-! ### Sums over a group (R280, R355) -/

/-- The exact sum of numbers, rounded once to nearest even, with the special cases of R280. -/
def Fmt.sum (f : Fmt) (xs : List FVal) : Nat :=
  if xs.any fun x => match x with | .nan _ => true | .inf _ | .fin _ _ _ => false then f.nan
  else if xs.contains (.inf true) then (if xs.contains (.inf false) then f.nan else f.infinity true)
  else if xs.contains (.inf false) then f.infinity false
  else
    let d := xs.foldl (fun acc x => match x with | .fin s m e => acc.add (dyOf s m e) | .nan _ | .inf _ => acc) ⟨0, 0⟩
    (f.roundDy 0 (xs ≠ [] && xs.all fun x => x.neg) d).1

/-! ### Special functions (R273) -/

/-- The integer square root, bit by bit from bit n - 1. -/
def isqrtFrom (x : Nat) : Nat → Nat → Nat
  | 0, r => r
  | n + 1, r => let t := r + 2 ^ n; if t * t ≤ x then isqrtFrom x n t else isqrtFrom x n r

/-- FRCP: 1 ÷ A, correctly rounded. -/
def f32Rcp (c x : Nat) : Nat × Nat :=
  match f32.decode x with
  | .nan q => (f32.nan, bit q)
  | .inf s => (f32.zero s, 0)
  | .fin s m e =>
    if m = 0 then (f32.infinity s, 2)
    else
      let q := 2 ^ 80 / m
      f32.round (ctlRm c) (ctlSat c) s (2 * q + bit (2 ^ 80 % m ≠ 0)) (-81 - e)

/-- FRSQ: 1 ÷ √A, correctly rounded. -/
def f32Rsq (c x : Nat) : Nat × Nat :=
  match f32.decode x with
  | .nan q => (f32.nan, bit q)
  | .inf s => if s then (f32.nan, 1) else (f32.zero false, 0)
  | .fin s m e =>
    if m = 0 then (f32.infinity s, 2)
    else if s then (f32.nan, 1)
    else
      let odd := e % 2
      let m' := m * 2 ^ odd.toNat
      let e' := (e - odd) / 2
      let r := isqrtFrom (2 ^ 160 / m') 81 0
      f32.round (ctlRm c) (ctlSat c) false (2 * r + bit (r * r * m' ≠ 2 ^ 160)) (-81 - e')

/-- floor(ln 2 · 2^360). -/
def ln2Fixed : Nat := 0xb17217f7d1cf79abc9e3b39803f2f6af40f343267298b62d8a0d175b8baafa2be7b876206debac98559552fb4a
/-- floor(π · 2^600). -/
def piFixed : Nat := 0x3243f6a8885a308d313198a2e03707344a4093822299f31d0082efa98ec4e6c89452821e638d01377be5466cf34e90c6cc0ac29b7c97c50dd3f84d5b5b54709179216d5d98979fb1bd1310b

/-- Σ x^k/k! from a term, for numbers scaled by 2^360. -/
def expTerms (x : Nat) : Nat → Nat → Nat → Nat
  | 0, _, _ => 0
  | n + 1, k, term => term + expTerms x n (k + 1) (term * x / 2 ^ 360 / (k + 1))

/-- The rounding to nearest, whatever RM, of a value that is not representable: the integer below it in units of 2^e,
with a sticky bit. Overflow follows RM and SAT (R273). -/
def f32Near (c : Nat) (s : Bool) (n : Nat) (e : Int) : Nat × Nat :=
  let r := f32.round 0 false s (2 * n + 1) (e - 1)
  if bitOf r.2 2 then (f32.overflow (ctlRm c) (ctlSat c) s, r.2) else r

/-- FEX2: 2^A. -/
def f32Exp2 (c x : Nat) : Nat × Nat :=
  match f32.decode x with
  | .nan q => (f32.nan, bit q)
  | .inf s => (if s then f32.zero false else f32.infinity false, 0)
  | .fin s m e =>
    if m = 0 then (0x3F800000, 0)
    else
      let a := dyOf s m e
      let n := if e ≥ 16 then (if s then -100000 else 100000) else a.floorAt 0
      if n > 1000 then (f32.overflow (ctlRm c) (ctlSat c) false, 4 + 16)
      else if n < -1000 then (0, 8 + 16)
      else
        let frac := (a.add ⟨-n, 0⟩).floorAt 360
        if frac = 0 then
          -- 2^n: exact down to -149, and below that rounded to nearest even
          let r := f32.round 0 false false 1 n
          if bitOf r.2 2 then (f32.overflow (ctlRm c) (ctlSat c) false, r.2) else r
        else f32Near c false (expTerms (frac.toNat * ln2Fixed / 2 ^ 360) 90 0 (2 ^ 360)) (n - 360)

/-- Fraction bits of log2 of y/2^400, 1 ≤ y/2^400 < 2, by repeated squaring. -/
def log2Bits : Nat → Nat → Nat → Nat
  | 0, _, acc => acc
  | n + 1, y, acc =>
    let q := y * y / 2 ^ 400
    if q ≥ 2 ^ 401 then log2Bits n (q / 2) (2 * acc + 1) else log2Bits n q (2 * acc)

/-- FLG2: log2 A. -/
def f32Log2 (c x : Nat) : Nat × Nat :=
  match f32.decode x with
  | .nan q => (f32.nan, bit q)
  | .inf s => if s then (f32.nan, 1) else (f32.infinity false, 0)
  | .fin s m e =>
    if m = 0 then (f32.infinity true, 2)
    else if s then (f32.nan, 1)
    else
      let top := Nat.log2 m
      let whole : Int := e + top
      if m = 2 ^ top then f32.ofInt 0 whole
      else
        let frac := log2Bits 200 (m * 2 ^ (400 - top)) 0
        let v : Int := whole * (2 ^ 200 : Nat) + frac
        if v ≥ 0 then f32Near c false v.toNat (-200) else f32Near c true ((-v).toNat - 1) (-200)

/-- The alternating series of sine (from x, k = 1) or cosine (from 1, k = 0), scaled by 2^600: positive terms less
negative ones. -/
def trigTerms (xx : Nat) : Nat → Nat → Nat → Nat × Nat
  | 0, _, _ => (0, 0)
  | n + 1, k, term =>
    let r := trigTerms xx n (k + 2) (term * xx / 2 ^ 600 / ((k + 1) * (k + 2)))
    (term + r.2, r.1)

/-- FSIN and FCOS: the argument is reduced by the quarter turn, exactly enough for every F32. -/
def f32Trig (c : Nat) (cosine : Bool) (x : Nat) : Nat × Nat :=
  match f32.decode x with
  | .nan q => (f32.nan, bit q)
  | .inf _ => (f32.nan, 1)
  | .fin s m e =>
    if m = 0 then (if cosine then 0x3F800000 else f32.zero s, 0)
    else
      let a := m * 2 ^ (e + 600).toNat
      let quarter := piFixed / 2
      let k := a / quarter
      let r := a % quarter
      let turn := (k + bit cosine) % 4
      let xx := r * r / 2 ^ 600
      let t := if turn % 2 = 0 then trigTerms xx 80 1 r else trigTerms xx 80 0 (2 ^ 600)
      let sign := (turn ≥ 2) != (s && !cosine)
      f32Near c sign (t.1 - t.2) (-600)

/-! ### Scale words and Q4 (R217-R219, R227, R228) -/

/-- Eight times the value of a Q4 code under a type (R219). -/
def q4Eighths (ty code : Nat) : Int :=
  let mag := [[0, 0, 0, 0, 0, 0, 0, 0], [0, 4, 8, 12, 16, 24, 32, 48], [0, 1, 2, 4, 8, 16, 32, 64],
    [0, 8, 16, 24, 32, 48, 64, 96]].getD ty []
  if ty = 0 then 8 * toSigned 4 code
  else if code < 8 then (mag.getD code 0 : Nat) else -((mag.getD (code - 8) 0 : Nat) : Int)

/-- The value of a Q4 code. -/
def q4Value (ty code : Nat) : Dy := ⟨q4Eighths ty code, -3⟩

/-- The type of a scale word. -/
def scaleType (w : Nat) : Nat := w / 2 ^ 30 % 4
/-- The biased exponent of a scale word. -/
def scaleExp (w : Nat) : Nat := w / 2 ^ 21 % 256
/-- The value of a scale word with 1 ≤ EXP ≤ 254 (R218). -/
def scaleValue (w : Nat) : Dy := dyOf (bitOf w 29) (2 ^ 21 + w % 2 ^ 21) ((scaleExp w : Int) - 127 - 21)

/-- The codes that quantising may select: never 0x8 of types 1-3 (R227). -/
def q4Codes (ty : Nat) : List Nat := (List.range 16).filter fun k => ty = 0 || k ≠ 8

/-- Quantises a number to a Q4 code under a scale word (R227): the code and IV, OF, NX. -/
def quantise (x : FVal) (w : Nat) : Nat × Nat :=
  if scaleExp w = 0 then (0, 0)
  else
    let ty := scaleType w
    let hi := [7, 7, 7, 7].getD ty 7
    let lo := [8, 15, 15, 15].getD ty 15
    match x with
    | .nan _ => (0, 1)
    | .inf s => (if s then lo else hi, 4 + 16)
    | .fin s m e =>
      -- x and the codes' values times the scale, both divided by the scale's sign
      let v := dyOf (s != bitOf w 29) m e
      let sc := scaleValue (w % 2 ^ 29)
      let at8 (k : Nat) : Dy := (q4Value ty k).mul sc
      if (at8 hi).lt v then (hi, 4 + 16)
      else if v.lt (at8 lo) then (lo, 4 + 16)
      else
        let near := (best (fun a b => (v.dist (at8 a)).lt (v.dist (at8 b))
            || (!(v.dist (at8 b)).lt (v.dist (at8 a)) && a % 2 < b % 2)) (q4Codes ty)).getD 0
        (near, if (v.dist (at8 near)).m = 0 then 0 else 16)

/-- Dequantises a Q4 code under a scale word to F32 (R228). -/
def dequantise (c code w : Nat) : Nat × Nat :=
  if scaleExp w = 0 then (0, 0)
  else
    let v := q4Value (scaleType w) code
    f32.roundDy c (bitOf w 29) (v.mul (scaleValue w))

end Sys2Proof.Machine
end

