-- ==== Sys2Proof/Machine/Squads.lean ====
section
/-! DEFINITION. Finding and replacing squads in the state, and the groups of a squad: splitting, merging, the pool of
instruction-buffer entries (R128-R131). -/

namespace Sys2Proof.Machine

/-! ### Replacing parts of the state -/

/-- Replaces a tile. -/
def State.setTile (s : State) (t : Nat) (tl : Tile) : State := { s with tiles := tabSet t tl s.tiles }
/-- Replaces a tile by a function of it. -/
def State.updTile (s : State) (t : Nat) (f : Tile → Tile) : State := s.setTile t (f (s.tile t))

/-- Replaces a tile's workgroup by a function of it. -/
def Tile.updWg (tl : Tile) (f : Workgroup → Workgroup) : Tile := { tl with wg := tl.wg.map f }
/-- Replaces a workgroup's squad. -/
def Workgroup.updSquad (w : Workgroup) (slot : Nat) (f : Squad → Squad) : Workgroup :=
  { w with squads := mapIf (fun q => q.slot = slot) f w.squads }

/-- Replaces the workgroup of a tile. -/
def State.updWg (s : State) (t : Nat) (f : Workgroup → Workgroup) : State := s.updTile t fun tl => tl.updWg f
/-- A group outside a hint run, with its squad's home entry. -/
def Group.fresh (m : Mask) (pc : DWord) (now : Nat) : Group :=
  { threads := m, pc := pc, entry := .home, hints := none, blocked := none, since := now, issued := now, notBefore := 0
    fences := [], cause := 0, read := none }

/-- Replaces the squad of a slot of a tile. -/
def State.updSquad (s : State) (t slot : Nat) (f : Squad → Squad) : State := s.updWg t fun w => w.updSquad slot f

/-- The squad of a slot of a tile. -/
def State.squad? (s : State) (t slot : Nat) : Option Squad := (s.tile t).wg.bind fun w => w.squad? slot

/-- The tile that holds a member of a gang. -/
def State.memberTile (s : State) (g : GangKey) (m : Nat) : Option Nat :=
  (s.tiles.find? fun e => match e.2.wg with | some w => w.gang = g && w.member = m | none => false).map (·.1)

/-- The tile and slot of a squad that is on the wafer. -/
def State.locate (s : State) (k : SquadKey) : Option (Nat × Nat) :=
  (s.memberTile k.gang k.member).map fun t => (t, k.squad)

/-- The global squad id of a squad (R299). -/
def squadKey (w : Workgroup) (q : Squad) : SquadKey := ⟨w.gang, w.member, q.slot⟩
/-- The global squad id of the issuing squad. -/
def Ctx.key (c : Ctx) : SquadKey := squadKey c.wg c.sq

/-- The launch of a key. -/
def State.launch? (s : State) (k : LaunchKey) : Option Launch := s.launches.find? fun l => l.key = k
/-- Replaces a launch. -/
def State.updLaunch (s : State) (k : LaunchKey) (f : Launch → Launch) : State :=
  { s with launches := mapIf (fun l => l.key = k) f s.launches }
/-- The launch of the issuing squad. -/
def Ctx.launch (c : Ctx) (s : State) : Option Launch := s.launch? c.wg.gang.launch
/-- The gang of a key. -/
def State.gang? (s : State) (k : GangKey) : Option Gang := s.gangs.find? fun g => g.key = k
/-- Replaces a gang. -/
def State.updGang (s : State) (k : GangKey) (f : Gang → Gang) : State :=
  { s with gangs := mapIf (fun g => g.key = k) f s.gangs }

/-- The tenant of the issuing squad's launch. -/
def Ctx.tenant (c : Ctx) (s : State) : Nat := ((c.launch s).map (·.tenant)).getD 0
/-- The ward of the issuing squad's launch. -/
def Ctx.ward (c : Ctx) (s : State) : Nat := ((c.launch s).map (·.ward)).getD 0
/-- The privilege of the issuing squad (R87). -/
def Ctx.priv (c : Ctx) (s : State) : Bool := ((c.launch s).map (·.priv)).getD false

/-- Tiles along x and y of a gang shape (R73). -/
def shapeW (g : Nat) : Nat := match g with | 0 => 1 | 1 => 1 | 2 => 2 | 3 => 2 | 4 => 2 | 5 => 4 | _ => 4
def shapeH (g : Nat) : Nat := match g with | 0 => 1 | 1 => 2 | 2 => 1 | 3 => 2 | 4 => 4 | 5 => 2 | _ => 4
/-- The members of a gang shape. -/
def shapeTiles (g : Nat) : Nat := shapeW g * shapeH g

/-! ### Groups (R128, R129) -/

/-- The pool entry a group holds. -/
def Entry.pool? : Entry → Option Nat
  | .pool n => some n
  | .home | .parked _ => none

/-- A group is parked. -/
def Group.parked (g : Group) : Bool := match g.entry with | .parked _ => true | .home | .pool _ => false

/-- Larger group first, the lower PC on ties (R128). -/
def Group.before (a b : Group) : Bool :=
  maskCount a.threads > maskCount b.threads
    || (maskCount a.threads = maskCount b.threads && a.pc.toNat < b.pc.toNat)

/-- The entry of two groups that merge (R129): home, then the larger group's, then the lower number; parked only if
both were, and then parked as early as the earlier of them, which R129 leaves open (LOG 108). -/
def mergeEntry (a b : Group) : Entry :=
  match a.entry, b.entry with
  | .home, _ => .home
  | _, .home => .home
  | .parked m, .parked n => .parked (min m n)
  | .parked _, .pool n => .pool n
  | .pool n, .parked _ => .pool n
  | .pool m, .pool n =>
    if maskCount a.threads = maskCount b.threads then .pool (min m n)
    else if maskCount a.threads > maskCount b.threads then .pool m else .pool n

/-- What a hint run has set, wherever it began; a run that has set nothing is as no run. -/
def hintState (h : Option HintRun) : HintRun := { h.getD ⟨0, none, none, none, none, none, none, none, none, false⟩ with start := 0 }

/-- The hint state of two groups that merge: where they differ, the governed instruction is ILLEGAL (R245). -/
def mergeHints (pc : DWord) (a b : Option HintRun) : Option HintRun :=
  if hintState a = hintState b then a
  else match a, b with
    | some h, _ => some { h with bad := true }
    | none, some h => some { h with bad := true }
    | none, none => some ⟨pc, none, none, none, none, none, none, none, none, true⟩

/-- What a merged group last waited for: a parked group that gets an entry by it was parked (R377). -/
def mergeCause (a b : Group) : Nat := if a.parked ≠ b.parked then 3 else max a.cause b.cause

/-- What two groups that merge wait for: what both do; or an answer that is lost, which an instruction that one of them has
performed still awaits. -/
def mergeBlocked (a b : Group) : Option Blocked :=
  if a.blocked = b.blocked then a.blocked
  else match a.blocked, b.blocked with
    | some (.answer n x p), _ => some (.answer n x p)
    | _, some (.answer n x p) => some (.answer n x p)
    | _, _ => none

/-- Two groups at one PC become one (R129). -/
def mergeGroups (a b : Group) : Group :=
  { threads := a.threads ||| b.threads, pc := a.pc, entry := mergeEntry a b, hints := mergeHints a.pc a.hints b.hints
    blocked := mergeBlocked a b, since := min a.since b.since
    issued := min a.issued b.issued, notBefore := max a.notBefore b.notBefore
    fences := dedup (a.fences ++ b.fences), cause := mergeCause a b
    read := if a.blocked = b.blocked && a.read = b.read then a.read else none }

/-- Adds a group to a list, merging it with one at its PC; a group without threads disappears. -/
def addGroup (g : Group) : List Group → List Group
  | [] => if g.threads = 0 then [] else [g]
  | h :: r => if g.threads ≠ 0 && h.pc = g.pc then mergeGroups h g :: r else h :: addGroup g r

/-- Where the home entry has lost its group, it passes to the largest remaining one (R129). -/
def passHome (gs : List Group) : List Group :=
  if gs.any fun g => g.entry = .home then gs
  else match best Group.before gs with
    | none => gs
    | some b => mapIf (fun g => g.pc = b.pc) (fun g => { g with entry := .home, cause := if g.parked then 3 else g.cause }) gs

/-- The distinct next PCs of a group's lanes, ascending. -/
def nextPcs (m : Mask) (next : Nat → Option DWord) : List DWord :=
  sortBy (fun a b => a.toNat < b.toNat) (dedup ((lanesOf m).filterMap next))

/-- The lanes that go to a PC. -/
def lanesTo (m : Mask) (next : Nat → Option DWord) (pc : DWord) : Mask :=
  (lanesOf m).foldl (fun acc j => if next j = some pc then acc ||| (1#32 <<< j) else acc) 0

/-- A group whose lanes leave at the PCs of `next` splits (R128): the largest part keeps the entry, the others wait
for pool entries in descending size. The first number is the order of the next parking. -/
def splitGroup (g : Group) (next : Nat → Option DWord) (order now after : Nat) : List Group :=
  let parts := (nextPcs g.threads next).map fun pc =>
    { g with threads := lanesTo g.threads next pc, pc := pc, hints := none, blocked := none, since := now
             issued := now, notBefore := after, cause := if g.inWait then 6 else 0, read := none }
  let sorted := sortBy Group.before parts
  match sorted with
  | [] => []
  | h :: r => h :: (r.zipIdx.map fun e => { e.1 with entry := .parked (order + e.2) })

/-- Pool entries that no group of a core holds (R128). -/
def freePool (w : Workgroup) : List Nat :=
  let used := w.squads.flatMap fun q => q.groups.filterMap fun g => g.entry.pool?
  (List.range 64).filter fun n => !used.contains n

/-- The parked group of a core that was parked first: its slot, PC and order (R130). -/
def firstParked (w : Workgroup) : Option (Nat × DWord × Nat) :=
  best (fun a b => a.2.2 < b.2.2) (w.squads.flatMap fun q => q.groups.filterMap fun g =>
    match g.entry with | .parked n => some (q.slot, g.pc, n) | .home | .pool _ => none)

/-- Free pool entries go to the groups parked earliest (R130). -/
def fillPool : Nat → Workgroup → Workgroup
  | 0, w => w
  | n + 1, w =>
    match freePool w, firstParked w with
    | e :: _, some (slot, pc, _) =>
      fillPool n (w.updSquad slot fun q =>
        { q with groups := mapIf (fun g => g.pc = pc) (fun g => { g with entry := .pool e, cause := 3 }) q.groups })
    | _, _ => w

/-- Replaces a squad of a tile and settles its groups: merges are made by `addGroup`, the home entry is passed on and
freed entries are given out. `parked` is how many parkings the change has numbered. -/
def Tile.settle (tl : Tile) (q : Squad) (parked : Nat) : Tile :=
  match tl.wg with
  | none => tl
  | some w =>
    let q := { q with groups := passHome q.groups }
    { tl with wg := some (fillPool 512 (w.updSquad q.slot fun _ => q)), parkSeq := tl.parkSeq + parked }

/-- Writes back a squad of the issuing tile. -/
def State.putSquad (s : State) (t : Nat) (q : Squad) (parked : Nat) : State :=
  s.setTile t ((s.tile t).settle q parked)

/-- The fences of a squad that are not complete (R292). -/
def Squad.fences (q : Squad) : List Nat := dedup (q.groups.flatMap (·.fences))

/-- All live threads as one group at a PC (R115, R122, R304): what the squad's fences hold back stays held back. -/
def Squad.regroup (q : Squad) (live : Mask) (pc : DWord) (now : Nat) : Squad :=
  { q with live := live
           groups := if live = 0 then [] else [{ Group.fresh live pc now with fences := q.fences }] }

end Sys2Proof.Machine
end

