-- ==== Sys2Proof/Machine/LockManager.lean ====
section
/-! DEFINITION. The lock manager (R296-R310): modes, the hierarchy, requests, grants, wounds, releases and revocation
at the slices. -/

namespace Sys2Proof.Machine

/-- The mode of a code (R297). -/
def lockModeOf (n : Nat) : LockMode :=
  match n with | 0 => .is | 1 => .ix | 2 => .s | 3 => .six | 4 => .i | _ => .x

/-- The code of a mode (R297). -/
def lockCode : LockMode → Nat
  | .is => 0 | .ix => 1 | .s => 2 | .six => 3 | .i => 4 | .x => 5

/-- The compatibility matrix of a number: 0 is fixed, 1-8 are loaded by `LKMX` (R297). -/
def State.lockMatrix (s : State) (n : Nat) : Option (BitVec 36) :=
  if n = 0 then some 0x0100450CF#36 else tabFind n s.matrices

/-- A request in mode r is compatible with a holder in mode c (R297). -/
def compatible (mx : BitVec 36) (r c : LockMode) : Bool := mx.getLsbD (6 * lockCode r + lockCode c)

/-- A parent held in `p` covers a child in mode `c` (R298). -/
def covers (p c : LockMode) : Bool :=
  match c with
  | .is | .s => true
  | .ix | .six | .i | .x => p = .ix || p = .six || p = .x

/-- `n` is stronger than `m` (R298). -/
def stronger (m n : LockMode) : Bool :=
  match m with
  | .is => n ≠ .is
  | .ix | .s => n = .six || n = .x
  | .six | .i => n = .x
  | .x => false

/-- Lexicographic order of the global squad id (R299). -/
def squadKeyLt (a b : SquadKey) : Bool :=
  let f (k : SquadKey) := [k.gang.launch.qid, k.gang.launch.seq, k.gang.gang, k.member, k.squad]
  decide (f a < f b)

/-- The smaller age is older (R299). -/
def older (a b : Age) : Bool :=
  a.age.toNat < b.age.toNat || (a.age = b.age && (a.ward < b.ward || (a.ward = b.ward && squadKeyLt a.squad b.squad)))

/-- The parent of an entry (R298). -/
def lockParent (e : LockId) (linesPerTile : Nat) : Option LockId :=
  if e.level = 0 then none
  else if e.level = 1 then some { e with level := 0, index := 0 }
  else some { e with level := 1, index := e.index / max 1 linesPerTile }

/-- The entry of an identity, if the slice has one. -/
def State.lockEntry? (s : State) (e : LockId) : Option LockEntry := s.locks.find? fun l => l.id = e

/-- The mode a squad holds on an entry. -/
def LockEntry.holds (l : LockEntry) (q : SquadKey) : Option LockMode := (l.holders.find? fun h => h.1 = q).map (·.2)
/-- The request a squad has waiting at an entry. -/
def LockEntry.waits (l : LockEntry) (q : SquadKey) : Option Waiting := l.waiting.find? fun w => w.squad = q

/-- The mode a squad holds on an entry of the slice. -/
def State.lockHeld (s : State) (e : LockId) (q : SquadKey) : Option LockMode := (s.lockEntry? e).bind (·.holds q)
/-- The request a squad has waiting at an entry of the slice. -/
def State.lockWait (s : State) (e : LockId) (q : SquadKey) : Option Waiting := (s.lockEntry? e).bind (·.waits q)

/-- What the lock manager keeps of a squad. -/
def State.lockSquad (s : State) (q : SquadKey) : LockSquad :=
  (s.lockSquads.find? fun l => l.squad = q).getD ⟨q, 0, none, false, false, false, none, []⟩

/-- Replaces what the lock manager keeps of a squad. -/
def State.setLockSquad (s : State) (l : LockSquad) : State :=
  { s with lockSquads := l :: s.lockSquads.filter fun m => m.squad ≠ l.squad }

/-- The squad holds an entry or has a request waiting on one (`lkst.NONE` = 0, R309). -/
def State.lockBusy (s : State) (q : SquadKey) : Bool :=
  s.locks.any fun l => (l.holds q).isSome || (l.waits q).isSome

/-- Entries the squad holds. -/
def State.locksHeld (s : State) (q : SquadKey) : Nat := (s.locks.filter fun l => (l.holds q).isSome).length
/-- Requests outstanding: waiting, or granted and not yet counted (R303, MANY). -/
def State.locksOut (s : State) (q : SquadKey) : Nat :=
  (s.locks.filter fun l => (l.waits q).isSome).length + (s.sentGrants.filter fun g => g.grant.squad = q).length

/-- A request is covered only by a waiting request for its parent, and stands behind it (R300). -/
def State.lockBehind (s : State) (l : LockEntry) (w : Waiting) : Bool :=
  match lockParent l.id l.linesPerTile with
  | none => false
  | some p => !((s.lockHeld p w.squad).any fun m => covers m w.mode)

/-- Grantable (R300): compatible with every other holder and with every older request that is not behind its parent. -/
def State.grantable (s : State) (l : LockEntry) (w : Waiting) : Bool :=
  match s.lockMatrix l.matrix with
  | none => false
  | some mx =>
    (l.holders.all fun h => h.1 = w.squad || compatible mx w.mode h.2)
      && (l.waiting.all fun o => o.squad = w.squad || !older o.age w.age || s.lockBehind l o
            || compatible mx w.mode o.mode)

/-- Replaces an entry, which disappears when nobody holds or waits on it. -/
def State.setLock (s : State) (l : LockEntry) : State :=
  let rest := s.locks.filter fun m => m.id ≠ l.id
  { s with locks := if l.holders = [] ∧ l.waiting = [] then rest else rest ++ [l] }

/-- The widest scope of the entries that a squad holds. -/
def State.heldScope (s : State) (k : SquadKey) : Nat :=
  ((s.locks.filter fun l => (l.holds k).isSome).map (·.scope)).foldl max 0

/-- Marks a holding squad wounded, once (R302): on its tile, or at its gang while that is off the wafer (R124). -/
def State.wound (s : State) (q : SquadKey) : State :=
  let l := s.lockSquad q
  let s := s.setLockSquad { l with woundLeft := some (l.woundLeft.getD 65536) }
  match s.locate q with
  | some (t, slot) => s.updSquad t slot fun d => { d with wound := true }
  | none => s.updGang q.gang fun g => if g.wounds.contains q then g else { g with wounds := g.wounds ++ [q] }

/-- Sends one grant for an entry (R301). -/
def State.sendGrant (s : State) (l : LockEntry) (q : SquadKey) : State :=
  let g : Grant := ⟨q, l.id, l.scope, s.nextGrant⟩
  { s with nextGrant := s.nextGrant + 1, sentGrants := s.sentGrants ++ [⟨g, s.fabricCycles, 0⟩]
           agenda := s.agenda ++ [⟨.lockGrant, .lockGrant g⟩] }

/-- The entries one level down that a squad waits on under a granted parent (R300). -/
def State.lockChildren (s : State) (p : LockId) (q : SquadKey) : List (LockEntry × Waiting) :=
  s.locks.filterMap fun l =>
    if lockParent l.id l.linesPerTile = some p && l.id.tenant = p.tenant && l.id.descriptor = p.descriptor
    then (l.waits q).map fun w => (l, w) else none

/-- Decides a request that has arrived, or that stood behind its parent until that was granted (R300). The depth is that of the
hierarchy. -/
def State.decide : Nat → State → LockEntry → Waiting → State
  | 0, s, l, w => s.setLock { l with waiting := l.waiting ++ [w] }
  | n + 1, s, l, w =>
    let l := (s.lockEntry? l.id).getD l
    let l := { l with waiting := l.waiting.filter fun o => o.squad ≠ w.squad }
    if s.lockBehind l w then s.setLock { l with waiting := l.waiting ++ [w] }
    else if s.grantable l w then
      let l := { l with holders := (l.holders.filter fun h => h.1 ≠ w.squad) ++ [(w.squad, w.mode)] }
      let behind := (s.lockChildren l.id w.squad).filter fun e => s.lockBehind e.1 e.2
      let s := (s.setLock l).sendGrant l w.squad
      behind.foldl (fun s e => State.decide n s e.1 e.2) s
    else
      let hurt := l.holders.filter fun h =>
        h.1 ≠ w.squad && older w.age ⟨((s.lockSquad h.1).age).getD 0, (s.lockSquad h.1).ward, h.1⟩
          && ((s.lockMatrix l.matrix).any fun mx => !compatible mx w.mode h.2)
      (hurt.foldl (fun s h => s.wound h.1) s).setLock { l with waiting := l.waiting ++ [w] }

/-- After a release or withdrawal at an entry, its waiting requests are granted, oldest first, when grantable. -/
def State.retry (s : State) (e : LockId) : State :=
  match s.lockEntry? e with
  | none => s
  | some l =>
    (sortBy (fun a b => older a.age b.age) l.waiting).foldl (fun s w =>
      match s.lockEntry? e with
      | none => s
      | some l => if (l.waits w.squad).isSome && !s.lockBehind l w && s.grantable l w then State.decide 3 s l w else s) s

/-- A wound ends as soon as its squad holds nothing and has no request outstanding (R306); one that is not yet taken
is dropped (R304). -/
def State.endWound (s : State) (q : SquadKey) : State :=
  if s.lockBusy q then s
  else
    let s := s.setLockSquad { s.lockSquad q with woundLeft := none }
    match s.locate q with
    | some (t, slot) => s.updSquad t slot fun d => { d with wound := false }
    | none => s.updGang q.gang fun g => { g with wounds := g.wounds.filter fun k => k ≠ q }

/-- Removes every entry and request of a squad, then serves the entries it leaves (R305, R306). -/
def State.dropLocks (s : State) (q : SquadKey) : State :=
  let ids := (s.locks.filter fun l => (l.holds q).isSome || (l.waits q).isSome).map (·.id)
  let s := { s with locks := (s.locks.map fun l => { l with holders := l.holders.filter (fun h => h.1 ≠ q)
                                                            waiting := l.waiting.filter fun w => w.squad ≠ q }).filter
                             fun l => l.holders ≠ [] || l.waiting ≠ [] }
  (ids.foldl State.retry s).endWound q

/-- The lock-grant object of a squad slot is counted once for a grant (R152, R301), with the grant's scope (R193). -/
def State.countGrant (s : State) (g : Grant) : State :=
  match s.locate g.squad with
  | some (t, slot) =>
    let a := spadKey t (32 * slot)
    let ph := (s.num a 4 + 1) % 2 ^ 32
    let l := s.lockSquad g.squad
    let s := (s.pokeNum a 4 ph).setLockSquad { l with scopes := l.scopes ++ [(ph, g.scope)] }
    { s with sentGrants := s.sentGrants.filter fun x => x.grant ≠ g }
  | none =>
    let s := s.updGang g.squad.gang fun d => { d with grants := d.grants ++ [g] }
    { s with sentGrants := s.sentGrants.filter fun x => x.grant ≠ g }

/-- Every grant already sent to a squad reaches its object. -/
def State.countGrants (s : State) (q : SquadKey) : State :=
  (s.sentGrants.filter fun g => g.grant.squad = q).foldl (fun s g => s.countGrant g.grant) s

/-- The effect of `LKRA` (R305): grants already sent are counted, every entry is released, every request withdrawn;
AGE and REVOKED are cleared, but AGE is kept by the default action of R304. -/
def State.releaseAll (s : State) (q : SquadKey) (keepAge : Bool) : State :=
  let s := (s.countGrants q).dropLocks q
  let l := s.lockSquad q
  s.setLockSquad (if keepAge then { l with revoked := false } else { l with revoked := false, age := none, fixed := false })

/-- The records a slice spends (R296). -/
def LockEntry.records (l : LockEntry) : Nat := (l.holders.length + l.waiting.length + 7) / 8

/-- The slice of a descriptor has no free record for one more request (R296, R303 FULL). -/
def State.sliceFull (s : State) (e : LockId) : Bool :=
  let all := (s.locks.map LockEntry.records).foldl (· + ·) 0
  if all < 4096 then false
  else (((s.locks.filter fun l => s.anchor l.id.descriptor = s.anchor e.descriptor).map LockEntry.records).foldl
    (· + ·) 0) ≥ 4096

/-- Parent coverage of a request (R298): held, or asked for and waiting. -/
def State.hierOk (s : State) (e : LockId) (lpt : Nat) (q : SquadKey) (m : LockMode) : Bool :=
  match lockParent e lpt with
  | none => true
  | some p => ((s.lockHeld p q).any fun h => covers h m) || ((s.lockWait p q).any fun w => covers w.mode m)

/-- Every child that the squad holds or requests stays covered when its parent is held in `m` (R298). -/
def State.childrenOk (s : State) (e : LockId) (q : SquadKey) (m : Option LockMode) : Bool :=
  s.locks.all fun l =>
    !(lockParent l.id l.linesPerTile = some e) ||
      (((l.holds q).toList ++ ((l.waits q).map (·.mode)).toList).all fun c => m.any fun h => covers h c)

/-- The slice's checks of a request: the code of the first LOCK condition that fails (R303). -/
def State.requestCheck (s : State) (r : LockRequest) : Option Nat :=
  let held := s.lockHeld r.entry r.squad
  let waits := (s.lockWait r.entry r.squad).isSome
  if !s.hierOk r.entry r.linesPerTile r.squad r.mode then some 4
  else if !r.up && (held.isSome || waits) then some 5
  else if r.up && (held.isNone || waits) then some 6
  else if r.up && !(held.any fun m => stronger m r.mode) then some 7
  else if s.sliceFull r.entry then some 9
  else none

/-- A request is accepted at its slice and decided (R300). -/
def State.acceptRequest (s : State) (r : LockRequest) : State :=
  let l := (s.lockEntry? r.entry).getD ⟨r.entry, r.scope, r.matrix, r.tid, r.linesPerTile, [], []⟩
  State.decide 3 s l ⟨r.squad, r.mode, r.up, r.age⟩

/-- The slice's checks of a release or weakening (R303). -/
def State.releaseCheck (s : State) (r : LockRelease) : Option Nat :=
  let held := s.lockHeld r.entry r.squad
  let waits := (s.lockWait r.entry r.squad).isSome
  if !s.childrenOk r.entry r.squad r.down then some 4
  else if held.isNone || waits then some 6
  else match r.down, held with
    | some m, some h => if stronger m h then none else some 7
    | _, _ => none

/-- A release or weakening is applied at its slice (R300). -/
def State.acceptRelease (s : State) (r : LockRelease) : State :=
  match s.lockEntry? r.entry with
  | none => s
  | some l =>
    let hs := match r.down with
      | some m => l.holders.map fun h => if h.1 = r.squad then (h.1, m) else h
      | none => l.holders.filter fun h => h.1 ≠ r.squad
    ((s.setLock { l with holders := hs }).retry r.entry).endWound r.squad

end Sys2Proof.Machine
end

