-- ==== Sys2Proof/Machine/Wards.lean ====
section
/-! DEFINITION. Wards: effective values, budgets, fault records and their queues (04_wards_tenants_faults.md); the end
of a launch and its completion record (R75, R76, R98, R106). -/

namespace Sys2Proof.Machine

/-! ### The ward tree -/

/-- A valid ward. -/
def State.ward? (s : State) (w : Nat) : Option Ward := tabFind w s.wards

/-- A ward and its ancestors, nearest first; a tree is at most 8 levels deep (R86). -/
def State.wardPath (s : State) : Nat → Nat → List Nat
  | 0, _ => []
  | n + 1, w =>
    match s.ward? w with
    | none => []
    | some b => if b.parent = 0xFFF then [w] else w :: State.wardPath s n b.parent

/-- The ward and its ancestors. -/
def State.lineage (s : State) (w : Nat) : List Nat := s.wardPath 9 w

/-- Eff (R90): the nearest ward from w up that is a root or overrides the item whose OVR bit is `k`. -/
def State.eff (s : State) (w : Nat) (k : Nat) (item : Ward → Nat) : Nat :=
  match (s.lineage w).filterMap (fun v => s.ward? v) |>.find? (fun b => b.parent = 0xFFF || b.ovr.getLsbD k) with
  | some b => item b
  | none => 0

/-- The effective tile and scratchpad budgets and shares (R88, R90). -/
def State.effTiles (s : State) (w : Nat) : Nat := s.eff w 0 (·.tiles)
def State.effSpadb (s : State) (w : Nat) : Nat := s.eff w 1 (·.spadb)
/-- The effective share of the wafer cache (R90). -/
def State.effWcsh (s : State) (w : Nat) : Nat := s.eff w 2 (·.wcsh)
/-- The effective fault domain and its stop (R90). -/
def State.effFdom (s : State) (w : Nat) : Nat := s.eff w 6 (·.fdom)
def State.effDstop (s : State) (w : Nat) : Bool := s.eff w 6 (fun b => if b.dstop then 1 else 0) = 1

/-- EffPrio (R90): the least effective PRIO along the path to the root. -/
def State.effPrio (s : State) (w : Nat) : Nat :=
  ((s.lineage w).map fun v => s.eff v 5 (·.prio)).foldl min 7

/-- The root of a ward's tree. -/
def State.rootWard (s : State) (w : Nat) : Nat := (s.lineage w).getLastD w

/-- A ward is w or below it. -/
def State.under (s : State) (v w : Nat) : Bool := (s.lineage v).contains w

/-- The tiles that gangs of a ward and its descendants hold (R91). -/
def State.usedTiles (s : State) (w : Nat) : Nat :=
  (s.tiles.filter fun e => match e.2.wg with
    | some g => (s.launch? g.gang.launch).any fun l => s.under l.ward w
    | none => false).length

/-- The scratchpad in KiB that they hold (R91). -/
def State.usedSpad (s : State) (w : Nat) : Nat :=
  (s.tiles.map fun e => match e.2.wg with
    | some g => if (s.launch? g.gang.launch).any fun l => s.under l.ward w then g.spad / 1024 else 0
    | none => 0).foldl (· + ·) 0

/-- The ward of a launch and every ancestor can take a gang of `tiles` tiles and `spad` KiB (R91). -/
def State.fitsBudget (s : State) (w tiles spad : Nat) : Bool :=
  (s.lineage w).all fun v => s.usedTiles v + tiles ≤ s.effTiles v && s.usedSpad v + spad ≤ s.effSpadb v

/-! ### Host memory reached through a port -/

/-- A host-role port whose link is up. -/
def State.hostPort (s : State) (p : Nat) : Bool := (s.ports[p]?).any fun q => q.role = 0 && q.up

/-- Writes bytes to the memory of the host at a port. -/
def State.hostWrite (s : State) (p a : Nat) (bs : List Byte) : State := s.pokeN (hostKey p a) bs
/-- Sends an MSI-X message. -/
def State.sendMsix (s : State) (p v : Nat) : State := { s with msix := s.msix ++ [(p, v)] }

/-! ### Fault records (R95, R96) -/

/-- The ward whose queue takes the records of ward w, if the search does not end at ward 0 without one (R96). -/
def State.faultWard (s : State) (w : Nat) : Option Nat :=
  (s.lineage w).find? fun v => (s.ward? v).any fun b => b.fqLogn ≠ 0

/-- The 64 bytes of a record; SRC 4 lists ranges of retired gangs at 0x10 (R95). -/
def FaultRecord.bytes (r : FaultRecord) (fseq lostn : Nat) : List Byte :=
  let flags := r.src + 16 * bit r.more + 32 * bit r.abort + 64 * bit r.part
  let mid := if r.src = 4 then
      (List.range 4).flatMap fun k => leBytes 4 ((r.ranges.getD k (0, 0)).1) ++ leBytes 4 ((r.ranges.getD k (0, 0)).2)
    else leBytes 4 r.gang ++ leBytes 4 (r.tile + 4096 * r.squad) ++ leBytes 8 r.pc.toNat
      ++ leBytes 4 r.cmdSeq.toNat ++ leBytes 4 r.detail.toNat ++ leBytes 8 r.addr.toNat
  leBytes 4 fseq ++ leBytes 4 (r.num + 256 * flags) ++ leBytes 4 (r.ward + 4096 * r.qid) ++ leBytes 4 r.lseq
    ++ mid ++ leBytes 8 r.time.toNat ++ leBytes 8 (min lostn 0xFFFF)

/-- A record with nothing in it but its event. -/
def FaultRecord.blank : FaultRecord :=
  { queue := none, num := 0, src := 0, more := false, abort := false, part := false, ward := 0, qid := 0, lseq := 0
    gang := 0, tile := 0, squad := 0, pc := 0, cmdSeq := 0, detail := 0, addr := 0, time := 0, ranges := [] }

/-- Raises a record of a ward: its queue is chosen now (R96). -/
def State.raise (s : State) (r : FaultRecord) : State :=
  { s with faults := s.faults ++ [{ r with queue := s.faultWard r.ward, time := s.devclk }] }

/-- Writes one record to its queue, drops it because the ring is full, or keeps it while the port is down, of which R96 says nothing
(LOG 106). Answers the state and whether the record is done with. -/
def State.writeFault (s : State) (r : FaultRecord) : State × Bool :=
  match r.queue with
  | none => ({ s with eventLog := s.eventLog ++ [r] }, true)
  | some w =>
    match s.ward? w with
    | none => (s, true)
    | some b =>
      if !s.hostPort b.fqPort then (s, false)
      else
        let size := 2 ^ b.fqLogn
        let cons := if (b.written + 2 ^ 32 - b.consumed) % 2 ^ 32 > size then s.num (hostKey b.fqPort b.fqHead) 4 else b.consumed
        if (b.written + 2 ^ 32 - cons) % 2 ^ 32 > size then
          ({ s with wards := tabSet w { b with consumed := cons, lost := b.lost + 1 } s.wards }, true)
        else
          let s := s.hostWrite b.fqPort (b.fqRing + 64 * (b.written % size)) (r.bytes b.written b.lost)
          let next := if b.written + 1 = 2 ^ 32 then 1 else b.written + 1
          ({ s.sendMsix b.fqPort b.fqMsix with
              wards := tabSet w { b with consumed := cons, lost := 0, written := next } s.wards }, true)

/-- Writes every record that can be written, in the order in which they were raised. -/
def State.writeFaults (s : State) : State :=
  s.faults.foldl (fun s r =>
    let res := s.writeFault r
    if res.2 then { res.1 with faults := res.1.faults.erase r } else res.1) s

/-! ### Completion records (R75, R76) -/

/-- The 32 bytes of a completion record. -/
def recordBytes (qid seq status retired code : Nat) (time tag : DWord) : List Byte :=
  leBytes 4 seq ++ leBytes 4 (qid + 65536 * status) ++ leBytes 4 retired ++ leBytes 4 code ++ leBytes 8 time.toNat
    ++ leBytes 8 tag.toNat

/-- A completion record reaches its slot by two writes, its first eight bytes last (R76), and then the interrupt is sent. -/
def State.writeRecord (s : State) (q : LaunchQueue) (h : HeldRecord) : State :=
  let a := q.cring + 32 * (h.seq % 2 ^ q.logn)
  let s := (s.hostWrite q.port (a + 8) (h.bytes.drop 8)).hostWrite q.port a (h.bytes.take 8)
  if h.intr then s.sendMsix q.port q.msix else s

/-- Records in the order of their sequence numbers, which lie before the queue's head (R72). -/
def LaunchQueue.inOrder (q : LaunchQueue) (hs : List HeldRecord) : List HeldRecord :=
  sortBy (fun a b => (q.head + 2 ^ 32 - b.seq) % 2 ^ 32 < (q.head + 2 ^ 32 - a.seq) % 2 ^ 32) hs

/-- Writes the records that wait at a queue in sequence order: each behind the fault records of its launch (R96), and while
its port is up (R72). -/
def State.flushQueue (s : State) (qid : Nat) : State :=
  match tabFind qid s.queues with
  | none => s
  | some q =>
    if !s.hostPort q.port then s
    else
      let ready := q.held.filter fun h => !s.faults.any fun r => r.qid = qid && r.lseq = h.seq && r.queue.isSome
      (q.inOrder ready).foldl (fun s h =>
        let s := s.writeRecord q h
        { s with queues := tabUpd qid (fun q => { q with held := q.held.erase h }) s.queues }) s

/-- Writes fault records, then the completion records behind them. -/
def State.flush (s : State) : State :=
  s.queues.foldl (fun s e => s.flushQueue e.1) s.writeFaults

/-- A sequence number is one of the most recent N before a queue's head (R106). -/
def LaunchQueue.recent (q : LaunchQueue) (seq : Nat) : Bool := (q.head + 2 ^ 32 - seq) % 2 ^ 32 ≤ 2 ^ q.logn

/-- Notes the ending status of a sequence number of a queue, of the most recent N (R106). -/
def State.noteEnd (s : State) (qid seq status : Nat) : State :=
  { s with queues := tabUpd qid (fun q =>
      { q with ended := ((seq, status) :: q.ended.filter fun e => e.1 ≠ seq).filter fun e => q.recent e.1 }) s.queues }

/-- A record is posted and written when it can be. -/
def State.postRecord (s : State) (qid seq : Nat) (bytes : List Byte) (intr : Bool) : State :=
  ({ s with queues := tabUpd qid (fun q => { q with held := q.held ++ [{ seq := seq, bytes := bytes, intr := intr }] }) s.queues } : State).flush

/-- A launch ends once (R98): its status is set, its record written (R76), its status noted for dependents. -/
def State.endOne (s : State) (k : LaunchKey) (status code : Nat) : State :=
  match s.launch? k with
  | none => s
  | some l =>
    if l.status.isSome then s
    else
      let s := (s.updLaunch k fun l => { l with status := some (status, code) }).noteEnd k.qid k.seq status
      if status = 0 && !l.crec then s
      else s.postRecord k.qid k.seq (recordBytes k.qid k.seq status l.retired.length code s.devclk l.tag) l.intr

/-- The launches that wait for a launch and have placed no gang. -/
def State.dependents (s : State) (k : LaunchKey) : List LaunchKey :=
  (s.launches.filter fun l => l.dep = some k && l.status.isNone && l.nextGang = 0).map (·.key)

/-- A launch ends, and its dependents with it unless it ended DONE (R106). -/
def State.endLaunch : Nat → State → LaunchKey → Nat → Nat → State
  | 0, s, k, status, code => s.endOne k status code
  | n + 1, s, k, status, code =>
    let s := s.endOne k status code
    if status = 0 then s else (s.dependents k).foldl (fun s d => State.endLaunch n s d 4 0) s

/-- A launch ends with its dependents. -/
def State.finishLaunch (s : State) (k : LaunchKey) (status code : Nat) : State :=
  State.endLaunch s.launches.length s k status code

end Sys2Proof.Machine
end

