-- ==== Sys2Proof/Machine/Translate.lean ====
section
/-! DEFINITION. Translation (R155-R164): segments, the four-level walk, the TLBs and the physical ranges of R160. -/

namespace Sys2Proof.Machine

open Sys2Proof.Config

/-- A fault met by an access: its number, DETAIL and address, and the level of a replayable walk fault (R284). -/
structure MemFault where
  num : Nat
  detail : Nat
  addr : Nat
  replay : Option Nat
deriving DecidableEq, Repr

/-- What an access is for. -/
inductive AccessMode where
  | read | write | exec
deriving DecidableEq, Repr

/-- A page: its virtual and physical base, log2 size and permissions. -/
structure Page where
  va : Nat
  pa : Nat
  log : Nat
  w : Bool
  x : Bool
deriving DecidableEq, Repr

/-- DETAIL bit 2 of a faulting write (R161). -/
def AccessMode.bit2 : AccessMode → Nat
  | .write => 4
  | .read | .exec => 0

/-- PAGE, not replayable, with a DETAIL (R161). -/
def pageFault (m : AccessMode) (detail va : Nat) : MemFault := ⟨Trap.page, detail ||| m.bit2, va, none⟩

/-- The walk from a table at a level (R161): V, reserved fields, LEAF and alignment are met as the walk reads them;
the permissions of the whole walk are gathered. -/
def walkFrom (mem : List Host.Cell) (m : AccessMode) (va : Nat) : Nat → Nat → Bool → Bool → Except MemFault Page
  | 0, _, _, _ => .error (pageFault m 128 va)
  | n + 1, table, w, x =>
    let level := n + 1
    let shift := 12 + 9 * n
    let e := Memory.num mem (table + 8 * (va / 2 ^ shift % 512)) 8
    let pa := e / 4096 % 2 ^ 40 * 4096
    let bad : MemFault := pageFault m (128 + 8 * level) va
    if !bitOf e 0 then .error ⟨Trap.page, (2 + 8 * level) ||| m.bit2, va, some level⟩
    else if bitsOf e 11 4 ≠ 0 || e / 2 ^ 52 ≠ 0 then .error bad
    else if bitOf e 3 then
      if level = 4 || pa % 2 ^ shift ≠ 0 then .error bad
      else .ok ⟨va / 2 ^ shift * 2 ^ shift, pa, shift, w && bitOf e 1, x && bitOf e 2⟩
    else if level = 1 then .error bad
    else if pa ≥ hbmEnd then .error (pageFault m 128 va)
    else walkFrom mem m va n pa (w && bitOf e 1) (x && bitOf e 2)

/-- The root table of a tenant: its `ptbase` (R161, R325). -/
def State.root (s : State) (tenant : Nat) : Nat := (tabFind tenant s.ptbase).getD 0

/-- Reduced service (R31, R160). -/
def State.hbmLimit (s : State) : Nat := if s.bringUp.rsvc then stack1Top else hbmExposed

/-- Pool space (R160). -/
def isPool (pa : Nat) : Bool := poolBase ≤ pa && pa < poolEnd
/-- The host window (R160). -/
def isHostWindow (pa : Nat) : Bool := hostBase ≤ pa && pa < hostEnd

/-- A physical address that a translation may reach (R160); in reduced service only those of stacks 0 and 1 (R32). -/
def State.mapped (s : State) (pa : Nat) : Bool := pa < s.hbmLimit || (!s.bringUp.rsvc && (isPool pa || isHostWindow pa))

/-- The page lies over an address of a tenant. -/
def TlbEntry.covers (e : TlbEntry) (tenant va : Nat) : Bool := e.tenant = tenant && va / 2 ^ e.log = e.va / 2 ^ e.log

/-- An entry as a page. -/
def TlbEntry.page (e : TlbEntry) : Page := ⟨e.va, e.pa, e.log, e.w, e.x⟩

/-- A translation that a TLB holds, when the device uses it (R162, R163, LOG 7). -/
def State.tlbHit (s : State) (t tenant va : Nat) : Option Page :=
  match (s.tile t).tlb.find? fun e => e.covers tenant va with
  | some e => if freeBool s.freeCtr then some e.page else none
  | none =>
    match s.reticleTlb.find? fun e => e.1 = reticleOf t && e.2.covers tenant va with
    | some e => if freeBool s.freeCtr then some e.2.page else none
    | none => none

/-- The permission and range checks on a page (R160, R161). `pool` says that the access is a `pseg` access. -/
def State.pageCheck (s : State) (m : AccessMode) (pool : Bool) (va : Nat) (p : Page) : Except MemFault Nat :=
  let pa := (p.pa + va % 2 ^ p.log) / 4096 * 4096 + va % 4096
  if m = .write && !p.w then .error (pageFault m 128 va)
  else if m = .exec && !p.x then .error (pageFault m 128 va)
  else if !s.mapped pa then .error (pageFault m 128 va)
  else if pool ≠ isPool pa then .error (pageFault m 64 va)
  else .ok pa

/-! ### Segments (R155, R156) -/

/-- The numbers of the segments, in the order of R121. -/
inductive SegName where
  | gseg | sseg | kseg | pseg | xseg | vseg | iseg | lseg
deriving DecidableEq, Repr

/-- A segment's number. -/
def SegName.num : SegName → Nat
  | .gseg => 0 | .sseg => 1 | .kseg => 2 | .pseg => 3 | .xseg => 4 | .vseg => 5 | .iseg => 6 | .lseg => 7

/-- A squad's segment register. -/
def Squad.seg (q : Squad) (n : SegName) : Seg := q.segs.toList.getD n.num ⟨0, 0⟩

/-- The bytes of one lane's private area: `xseg.limit` div 32, rounded down to a multiple of 16 (R156). -/
def privateBytes (limit : Nat) : Nat := limit / 32 / 16 * 16

/-- SegCheck (R156), and for `xseg` its form within a private area. -/
def segCheck (q : Squad) (n : SegName) (e : Int) (size : Nat) : Bool :=
  let limit := (q.seg n).limit.toNat
  let limit := if n = .xseg then privateBytes limit else limit
  decide (0 ≤ e) && decide (e + size ≤ limit)

/-- The virtual address of an offset (R157); lane j's private area lies at `xseg.base` + j·P. -/
def segAddr (q : Squad) (n : SegName) (e : Int) (j : Nat) : Nat :=
  let base := (q.seg n).base.toNat
  let base := if n = .xseg then base + j * privateBytes (q.seg n).limit.toNat else base
  ((base + e) % (2 ^ 64 : Nat)).toNat

end Sys2Proof.Machine
end

