-- ==== Sys2Proof/Machine/Cache.lean ====
section
/-! DEFINITION. The wafer cache (R165-R184): region entries and their counters, replicas and their collapse, the lines that
banks hold, their sets and their eviction, their homes, the L1 of a tile, and what an access finds at its serving bank. -/

namespace Sys2Proof

/-- The size of a region (R170). -/
def RegionKey.size (k : RegionKey) : Nat := 65536 / 2 ^ k.level
/-- A region covers an address. -/
def RegionKey.has (k : RegionKey) (pa : Nat) : Bool := k.base ≤ pa && pa < k.base + k.size
/-- Two regions share an address. -/
def RegionKey.meets (k l : RegionKey) : Bool := k.base < l.base + l.size && l.base < k.base + k.size

namespace Machine

open Sys2Proof.Config

/-- The 128-byte line of a physical address. -/
def lineOf (pa : Nat) : Nat := pa / 128
/-- The aligned region of a level that holds an address. -/
def regionAt (pa level : Nat) : RegionKey := ⟨pa / (65536 / 2 ^ level) * (65536 / 2 ^ level), level⟩

/-- A new entry, with the reset values of R170 and LOC at the anchor. -/
def RegionEntry.fresh (k : RegionKey) (anchor now : Nat) : RegionEntry :=
  { key := k, state := .resident, wlo := false, whi := false, loc := anchor, rptr := [63, 63, 63, 63], coarse := 0
    hold := false, rhint := false, cnt := [0, 0, 0, 0], cret := [63, 63, 63, 63], other := 0, owner := 0, quiet := 0
    acks := [], moveTo := none, evaluated := now, moved := 0 }

/-- The entry that covers an address. -/
def State.region? (s : State) (pa : Nat) : Option RegionEntry := s.regions.find? fun e => e.key.has pa

/-- The entry of a region. -/
def State.regionOf? (s : State) (k : RegionKey) : Option RegionEntry := s.regions.find? fun e => e.key = k

/-- The largest region that holds an address and meets no entry. -/
def State.freeRegion (s : State) (pa : Nat) : RegionKey :=
  ((List.range 10).map (regionAt pa)).find? (fun k => s.regions.all fun e => !e.key.meets k) |>.getD (regionAt pa 9)

/-- The entry for an address: the one that covers it, or a new one. -/
def State.regionFor (s : State) (pa : Nat) : RegionEntry :=
  (s.region? pa).getD (.fresh (s.freeRegion pa) (s.anchor pa) s.fabricCycles)

/-- Removes the copies that replica banks hold of a region. -/
def State.dropReplicas (s : State) (k : RegionKey) : State :=
  { s with replicas := s.replicas.filter fun r => !k.has (128 * r.line) }

/-- Replaces an entry where it stands. -/
def State.setRegion (s : State) (e : RegionEntry) : State :=
  { s with regions := mapIf (fun r => r.key = e.key) (fun _ => e) s.regions }

/-! ### Lines and their homes (R79, R167, R287) -/

/-- A page in host bias (R79). -/
def State.inHostBias (s : State) (pa : Nat) : Bool := s.hostBias.contains (pa / 4096)

/-- The serving bank's record of a line, if it holds it. -/
def State.wcLine? (s : State) (line : Nat) : Option WcLine := s.wc.find? fun l => l.line = line

/-- The serving bank holds a line modified. -/
def State.modified (s : State) (line : Nat) : Bool := (s.wcLine? line).any fun l => l.modified

/-- Writes a modified line home and leaves it clean (R287). -/
def State.writeHome (s : State) (line : Nat) : State :=
  { s with wc := mapIf (fun l => l.line = line) (fun l => { l with modified := false, home := [], writers := [] }) s.wc }

/-- Every modified line is written home. -/
def State.writeAllHome (s : State) : State :=
  ((s.wc.filter fun l => l.modified).map (·.line)).foldl State.writeHome s

/-- A line whose home lies behind a port: the pool, the host window, a host-bias page. -/
def State.farLine (s : State) (line : Nat) : Bool :=
  isPool (128 * line) || isHostWindow (128 * line) || s.inHostBias (128 * line)

/-- The lowest-numbered host port that is up (R160). -/
def State.hostUp (s : State) : Option Nat := (List.range 32).find? fun p => s.hostPort p

/-- The granule of a pool address (R160). -/
def granuleOf (pa : Nat) : Nat := (pa - poolBase) / 2 ^ 30

/-- The reticles through which a line's home is reached, one of each list (R19, R79, R82): that of its stack, and of the host
port for a host-bias page; those of the ports of its link group that are up. -/
def State.homes (s : State) (pa : Nat) : List (List Nat) :=
  let host := s.hostUp.toList.map portReticle
  if isHostWindow pa then [host]
  else if isPool pa then
    match (tabFind (granuleOf pa) s.granules).bind fun g => tabFind g.group s.linkGroups with
    | some ps => [(ps.filter fun p => (s.ports[p]?).any fun q => q.up).map portReticle]
    | none => []
  else if s.inHostBias pa then [host, [stackReticle (pa / 2 ^ 36)]] else [[stackReticle (pa / 2 ^ 36)]]

/-- A bank reaches the home of a line; it reaches its own reticle (R19, R47). -/
def State.homeReached (s : State) (bank pa : Nat) : Bool :=
  (s.homes pa).all fun rs => rs.any fun r => r = reticleOf bank || s.reaches bank r

/-- The memory key of a physical address. -/
def State.memKey (s : State) (pa : Nat) : Nat :=
  if isHostWindow pa then hostKey (s.hostUp.getD 0) (pa - hostBase) else pa

/-- A line's only copy is lost: its home takes data 0 and an uncorrectable pattern (R184). -/
def State.loseCopies (s : State) (line : Nat) : State :=
  { s.pokeN (s.memKey (128 * line)) (List.replicate 128 0) with
      wc := s.wc.filter fun l => l.line ≠ line
      replicas := s.replicas.filter fun r => r.line ≠ line
      inError := if s.inError.contains line then s.inError else s.inError ++ [line] }

/-- The bank that serves a line reaches the line's home. -/
def State.lineReached (s : State) (line : Nat) : Bool := s.homeReached (s.regionFor (128 * line)).loc (128 * line)

/-- A modified line goes home; behind a port, its completion is awaited (R84, R287). A write that its bank cannot send is lost
with the line (R61, LOG 111). -/
def State.flushLine (s : State) (line : Nat) : State :=
  if s.modified line then
    if !s.lineReached line then s.loseCopies line
    else
      let s := s.writeHome line
      if s.farLine line then
        { s with deviceWrites := s.deviceWrites ++ [line]
                 agenda := s.agenda ++ [⟨.memoryDeviceCompletion, .memoryDeviceCompletion 0⟩] }
      else s
  else s

/-- Lines leave their banks: those that are modified go home first (R167). -/
def State.evict (s : State) (p : Nat → Bool) : State :=
  let s := ((s.wc.map (·.line)).filter p).foldl State.flushLine s
  { s with wc := s.wc.filter fun l => !p l.line }

/-! ### When an entry exists (R170) -/

/-- The lines of a region that are in error. -/
def State.lostIn (s : State) (k : RegionKey) : Bool := s.inError.any fun l => k.has (128 * l)

/-- An entry is wanted: it has a hint, a move or collapse in flight, or a line that is cached or lost
(LOG 94). -/
def State.wanted (s : State) (e : RegionEntry) : Bool :=
  e.state = .pinned || e.state = .streaming || e.rhint || e.hold || e.moveTo.isSome || e.acks ≠ []
    || s.wc.any (fun l => e.key.has (128 * l.line)) || s.replicas.any (fun r => e.key.has (128 * r.line)) || s.lostIn e.key

/-- Entries that are no longer wanted go. -/
def State.prune (s : State) : State := { s with regions := s.regions.filter s.wanted }

/-- The entry of an anchor accessed longest ago, of those that nothing holds. -/
def State.oldestAt (s : State) (a : Nat) (keep : RegionKey) : Option RegionEntry :=
  (s.regions.filter fun r => s.anchor r.key.base = a && !r.hold && r.key ≠ keep).getLast?

/-- An entry is removed: its modified lines are written home, its copies and replicas go. -/
def State.removeEntry (s : State) (k : RegionKey) : State :=
  let s := s.evict fun l => k.has (128 * l)
  ({ s with regions := s.regions.filter fun r => r.key ≠ k } : State).dropReplicas k

/-- A bank holds at most 32,768 entries: room is made for one that is needed. -/
def State.limitEntries (s : State) (keep : RegionKey) : State :=
  if s.regions.length ≤ 32768 then s
  else if (s.regions.filter fun r => s.anchor r.key.base = s.anchor keep.base).length ≤ 32768 then s
  else match s.oldestAt (s.anchor keep.base) keep with
    | some old => s.removeEntry old.key
    | none => s

/-- Puts an entry first, as the one accessed last. -/
def State.putRegion (s : State) (e : RegionEntry) : State :=
  ({ s with regions := e :: s.regions.filter fun r => r.key ≠ e.key } : State).limitEntries e.key

/-! ### Counting (R171) -/

/-- Replaces the element at an index. -/
def setAt {α : Type} (l : List α) (i : Nat) (x : α) : List α := l.set i x

/-- The access counts for the requester's reticle. -/
def RegionEntry.count (e : RegionEntry) (c : Nat) : RegionEntry :=
  match (List.range 4).find? fun i => e.cret.getD i 63 = c with
  | some i => { e with cnt := setAt e.cnt i (min 4095 (e.cnt.getD i 0 + 1)) }
  | none =>
    let open4 := (List.range 4).filter fun i => e.cret.getD i 63 = 63 || e.cnt.getD i 0 < e.other
    match best (fun i j => e.cnt.getD i 0 < e.cnt.getD j 0) open4 with
    | some i => { e with cret := setAt e.cret i c, cnt := setAt e.cnt i 1 }
    | none => { e with other := min 4095 (e.other + 1) }

/-- A write of n bytes marks the halves it touches. -/
def RegionEntry.wrote (e : RegionEntry) (pa n : Nat) : RegionEntry :=
  let mid := e.key.base + e.key.size / 2
  { e with wlo := e.wlo || decide (pa < mid), whi := e.whi || decide (mid < pa + n) }

/-! ### Replicas (R176, R177) -/

/-- The replica clusters of COARSE: bit rx·2 + (ry div 3) covers three reticles (R170). -/
def clusterOf (r : Nat) : Nat := r % 7 * 2 + r / 7 / 3

/-- The reticles that an entry's replicas may lie in. -/
def RegionEntry.covered (e : RegionEntry) : List Nat :=
  (List.range 42).filter fun r => e.rptr.contains r || e.coarse.getLsbD (clusterOf r)

/-- A write to a replicated region starts its collapse (R177): HOLD is set, invalidations go to every covered
reticle, and that of the writer's own reticle is acknowledged at once. A write while the region collapses waits for its own
reticle's copies in the same way. A region that moves keeps HOLD until it has moved. -/
def State.collapse (s : State) (e : RegionEntry) (mine : Nat) : State :=
  if e.covered = [] then s
  else
    let others := e.covered.filter fun r => r ≠ mine
    let s := { s with replicas := s.replicas.filter fun r => !e.key.has (128 * r.line) || r.reticle ≠ mine }
    if e.acks ≠ [] then s
    else if others = [] then
      s.putRegion { e with hold := e.moveTo.isSome, acks := [], rptr := [63, 63, 63, 63], coarse := 0
                           state := if e.loc = s.anchor e.key.base then .resident else .migrated }
    else
      { s.putRegion { e with hold := true, acks := others } with
          agenda := s.agenda ++ others.map fun r => ⟨.replicaInvalidate, .replicaInvalidate e.key r⟩ }

/-- An access at the anchor: counted for a tile's reticle, and for a write of n bytes marked, with the collapse of replicas
(R171, R177). -/
def State.touch (s : State) (t pa n : Nat) (write : Bool) : State :=
  let e := (s.regionFor pa).count (reticleOf t)
  let e := if write then e.wrote pa n else e
  if write then (s.putRegion e).collapse e (reticleOf t) else s.putRegion e

/-- Every invalidation of a region, or of the parts it has split into, is acknowledged. -/
def State.acked (s : State) (k : RegionKey) : Bool := s.regions.all fun e => !e.key.meets k || e.acks = []

/-- The region that covers an address still waits for invalidations (R177). -/
def State.pendingAcks (s : State) (pa : Nat) : Option RegionKey :=
  match s.region? pa with
  | some e => if e.acks = [] then none else some e.key
  | none => none

/-! ### Where bytes lie -/

/-- A pool address whose granule is unbound or lost (R181, R182). -/
def State.poolLost (s : State) (pa : Nat) : Bool :=
  isPool pa && (match tabFind (granuleOf pa) s.granules with | some g => g.lost | none => true)

/-- The line is in error (R184). -/
def State.lineBad (s : State) (pa : Nat) : Bool := s.inError.contains (lineOf pa)

/-- What an access finds before it can be performed at its serving bank. -/
inductive Verdict where
  | ok
  | wait (line : Nat)
  | fault (num detail : Nat)
deriving DecidableEq, Repr

/-- The fault of a verdict. -/
def Verdict.fault? : Verdict → Option (Nat × Nat)
  | .fault n d => some (n, d)
  | .ok | .wait _ => none

/-! ### Requests held at an anchor (R80, R83, R175, R177, R383) -/

/-- A held request still stands: its group waits at the anchor of the line in a squad that can go on, or its job is there. -/
def State.standing (s : State) (h : Held) : Bool :=
  match h.request with
  | .group c => (s.at? c).any fun x => x.g.blocked = some (.anchor h.line) && !x.sq.stopped
      && (!x.sq.intrap || x.g.threads &&& x.sq.handler ≠ 0)
  | .job t id => ((s.tile t).wg).any fun w => w.jobs.any fun j => j.id = id
  | .access _ | .hostRead _ _ _ | .hostWrite _ _ _ | .snoop _ _ _ _ => true

/-- The request of a line that came first. -/
def State.firstHeld (s : State) (line : Nat) : Option HeldRequest :=
  (s.held.find? fun h => h.line = line && s.standing h).map (·.request)

/-- A request is held behind those that came before it (LOG 86); one that is held already keeps its place. -/
def State.hold (s : State) (line : Nat) (r : HeldRequest) : State :=
  if s.held.contains ⟨line, r⟩ then s else { s with held := s.held.filter s.standing ++ [⟨line, r⟩] }

/-- A held request is served, and is held no longer. -/
def State.release (s : State) (line : Nat) (r : HeldRequest) : State := { s with held := s.held.erase ⟨line, r⟩ }

/-- What asks at an anchor in this step: the group that issues, or the agent of an event. -/
def State.asker (s : State) : Option HeldRequest :=
  match s.cur, s.input with
  | some c, _ => some (.group c)
  | none, .jobStart t id | none, .jobWriteLand t id | none, .collectiveJoin t id | none, .collectiveChunkLand t id =>
    some (.job t id)
  | none, .anchorRequest a => some (.access a)
  | none, .hostMemRead p a n => some (.hostRead p a n)
  | none, .hostMemWrite p a bs => some (.hostWrite p a bs)
  | none, .hostSnoop a inv bs => some (.snoop a true inv bs)
  | none, .bisnpInv a bs => some (.snoop a false true bs)
  | none, .bisnpData a => some (.snoop a false false none)
  | none, _ => none

/-- The region that covers an address moves. -/
def State.movingAt (s : State) (pa : Nat) : Bool := (s.region? pa).any fun e => e.moveTo.isSome

/-- Requests that reach the anchor now are held: a page flips bias (R80), or the region moves (R175). -/
def State.anchorBusy (s : State) (pa : Nat) : Bool := s.flipping.contains (pa / 4096) || s.movingAt pa

/-- Another request for the line came first and is not served. -/
def State.notFirst (s : State) (pa : Nat) : Bool := (s.firstHeld (lineOf pa)).any fun r => some r ≠ s.asker

/-- An access waits at the anchor. -/
def State.mustWait (s : State) (pa : Nat) : Bool := s.anchorBusy pa || s.notFirst pa

/-! ### What an access finds -/

/-- The fabric carries an access from a tile to the anchor, on to the serving bank, and for a line that the bank does not hold
from there to its home (R19, R47). -/
def State.carries (s : State) (t pa : Nat) : Bool :=
  let loc := (s.regionFor pa).loc
  s.routes t (s.anchor pa) && s.routes (s.anchor pa) loc && ((s.wcLine? (lineOf pa)).isSome || s.homeReached loc pa)

/-- An access of a tile sends packets: it leaves the tile for the anchor or the serving bank. -/
def State.crosses (s : State) (t pa : Nat) : Bool := s.anchor pa ≠ t || (s.regionFor pa).loc ≠ t

/-- A DETAIL that no field of 32 bits holds: it marks the FABRIC_LOSS of a request that is lost on its way, which comes at the
time-out of R61. -/
def lostMark : Nat := 2 ^ 32

/-- POOL_LOST, a wait, DATA_UE, FABRIC_LOSS of a request that cannot be carried or is lost (R47, R61, R284). A store of a whole coalesced line
clears an error instead. -/
def State.verdict (s : State) (t pa : Nat) (wholeLine : Bool) : Verdict :=
  if s.poolLost pa then .fault Trap.poolLost 0
  else if s.mustWait pa then .wait (lineOf pa)
  else if s.lineBad pa && !wholeLine then .fault Trap.dataUe (pa / 2 ^ 20 % 2 ^ 32)
  else if !s.carries t pa then .fault Trap.fabricLoss 0
  else if s.loss = .request && s.crosses t pa then .fault Trap.fabricLoss lostMark
  else .ok

/-! ### Lines of host-bias pages (R79, R383) -/

/-- The modified data that a host's caches hold of a line goes to HBM (R80). -/
def State.hostGives (s : State) (line : Nat) : State :=
  let mine := s.hostLines.filter fun h => h.1 / 2 = line
  { mine.foldl (fun s h => s.pokeN (64 * h.1) (h.2.take 64)) s with hostLines := s.hostLines.filter fun h => h.1 / 2 ≠ line }

/-- A line of a host-bias page is obtained from the host, shared or owned (LOG 18): a bank that holds it so changes nothing, since
no host then holds it modified. -/
def State.obtain (s : State) (pa : Nat) (own : Bool) : State :=
  if !s.inHostBias pa then s
  else
    let s := s.hostGives (lineOf pa)
    { s with wc := mapIf (fun l => l.line = lineOf pa) (fun l => { l with hostHeld := true, owned := l.owned || own }) s.wc }

/-! ### Sets and eviction (R167, R168) -/

/-- The sectors of a line: uniform 1, byte delta 2, half delta 3, full 4. -/
def sectors (bs : List Byte) : Nat :=
  let ws := (List.range 32).map fun i => leValue ((bs.drop (4 * i)).take 4)
  let near (n : Nat) : Bool := ws.all fun w => ws.headD 0 ≤ w + n && w < ws.headD 0 + n
  if ws.all (fun w => w = ws.headD 0) then 1 else if near 128 then 2 else if near 32768 then 3 else 4

/-- A line that lies in a set, as itself or as a replica of a reticle, with its ward, last use and sectors. -/
structure Resident where
  line : Nat
  replica : Option Nat
  ward : Nat
  used : Nat
  sectors : Nat
deriving DecidableEq, Repr

/-- The bank of a reticle in which the replica of a line served by a bank lies. -/
def State.replicaBank (s : State) (q b : Nat) : Option Nat :=
  ((List.range 64).map fun k => reticleTile q ((localIndex b + k) % 64)).find? s.bgood

/-- The bytes of a line at its serving bank. -/
def State.lineBytes (s : State) (line : Nat) : List Byte := s.peekN (s.memKey (128 * line)) 128

/-- The bank that serves a line. -/
def State.servingBank (s : State) (line : Nat) : Nat := (s.regionFor (128 * line)).loc

/-- What lies in a set of a bank. -/
def State.residents (s : State) (b n : Nat) : List Resident :=
  ((s.wc.filter fun l => wcSet l.line % 4096 = n && s.servingBank l.line = b).map fun l =>
      (⟨l.line, none, l.ward, l.used, sectors (s.lineBytes l.line)⟩ : Resident))
    ++ (s.replicas.filter fun r => wcSet r.line % 4096 = n && s.replicaBank r.reticle (s.servingBank r.line) = some b).map
        fun r => ⟨r.line, some r.reticle, r.ward, r.used, sectors r.bytes⟩

/-- The sectors that some residents take. -/
def sectorsOf (rs : List Resident) : Nat := (rs.map (·.sectors)).foldl (· + ·) 0

/-- A ward's lines hold more of a set than its share. -/
def State.exceeds (s : State) (rs : List Resident) (w : Nat) : Bool :=
  s.effWcsh w * 64 < 1024 * sectorsOf (rs.filter fun r => r.ward = w)

/-- The line that leaves a set when a ward needs space in it: of the other wards that exceed their shares first, the least
recently used (R168, LOG 94). -/
def State.victim (s : State) (rs : List Resident) (ward line : Nat) : Option Resident :=
  let can := rs.filter fun r => r.line ≠ line
  let over' := can.filter fun r => r.ward ≠ ward && s.exceeds rs r.ward
  best (fun a b => a.used < b.used) (if over' = [] then can else over')

/-- A resident leaves its set. -/
def State.dropResident (s : State) (r : Resident) : State :=
  match r.replica with
  | none => s.evict fun l => l = r.line
  | some q => { s with replicas := s.replicas.filter fun x => !(x.line = r.line && x.reticle = q) }

/-- Lines leave the set of a bank until what is in it fits its 32 tags and 64 sectors. -/
def State.fitSet (s : State) (b ward line : Nat) : Nat → State
  | 0 => s
  | n + 1 =>
    let rs := s.residents b (wcSet line % 4096)
    if rs.length ≤ 32 && sectorsOf rs ≤ 64 then s
    else match s.victim rs ward line with
      | some r => State.fitSet (s.dropResident r) b ward line n
      | none => s

/-- Room for a line in its set of a bank; sixteen lines always fit. -/
def State.makeRoom (s : State) (b ward line : Nat) : State :=
  if s.wc.length + s.replicas.length ≤ 16 then s else (s.fitSet b ward line 64).prune

/-- The ward of the launch whose workgroup a tile holds. -/
def State.tileWard (s : State) (t : Nat) : Nat :=
  (((s.tile t).wg.bind fun w => s.launch? w.gang.launch).map (·.ward)).getD 0

/-- A line is used at its serving bank, which brings it from its home for a ward if it does not hold it; a line of a
streaming region comes in at the eviction end. -/
def State.useLine (s : State) (pa ward : Nat) : State :=
  let n := s.useCtr + 1
  match s.wcLine? (lineOf pa) with
  | some _ => { s with useCtr := n, wc := mapIf (fun l => l.line = lineOf pa) (fun l => { l with used := n }) s.wc }
  | none =>
    let used := if (s.regionFor pa).state = .streaming then 0 else n
    { s with useCtr := n, wc := s.wc ++ [⟨lineOf pa, [], false, false, false, [], ward, used⟩] }

/-- Room for a line at its serving bank. -/
def State.settleLine (s : State) (pa ward : Nat) : State := s.makeRoom (s.servingBank (lineOf pa)) ward (lineOf pa)

/-! ### Writes (R167, R177) -/

/-- A write makes its line modified; the home keeps the bytes it had. -/
def WcLine.dirtied (l : WcLine) (home : List Byte) (tenant : Nat) : WcLine :=
  { l with modified := true, home := if l.modified then l.home else home
           writers := if l.writers.contains tenant then l.writers else l.writers ++ [tenant] }

/-- A line that its serving bank holds is written for a tenant. -/
def State.dirty (s : State) (pa tenant : Nat) : State :=
  let home := s.lineBytes (lineOf pa)
  { s with wc := mapIf (fun l => l.line = lineOf pa) (fun l => l.dirtied home tenant) s.wc }

/-- A line at its serving bank, ready to be written: used, owned, modified. -/
def State.readyWrite (s : State) (pa ward tenant : Nat) : State := ((s.useLine pa ward).obtain pa true).dirty pa tenant

/-- A store's bytes in the L1 copy of its line. -/
def L1Line.overwrite (pa : Nat) (bs : List Byte) (l : L1Line) : L1Line :=
  if l.line = lineOf pa then { l with bytes := l.bytes.take (pa % 128) ++ bs ++ l.bytes.drop (pa % 128 + bs.length) }
  else l

/-- Performs a write at the serving bank for a tile and tenant: counted, collapsing replicas, the line modified, an
error in it cleared, the tile's own L1 copy updated (R165, R177). -/
def State.bankWrite (s : State) (t tenant pa : Nat) (bs : List Byte) : State :=
  let s := (s.touch t pa bs.length true).readyWrite pa (s.tileWard t) tenant
  let s := { s with inError := s.inError.filter fun l => l ≠ lineOf pa }
  let s := (s.pokeN (s.memKey pa) bs).settleLine pa (s.tileWard t)
  s.updTile t fun tl => { tl with l1 := tl.l1.map (L1Line.overwrite pa bs) }

/-! ### Losing and discarding a line -/

/-- An entry covers an address (R170). -/
def State.ensureRegion (s : State) (pa : Nat) : State :=
  if (s.region? pa).isSome then s else s.putRegion (s.regionFor pa)

/-- A line whose only copy is lost, or in error while modified: its home takes data 0 and an uncorrectable pattern
(R184). -/
def State.loseLine (s : State) (line : Nat) : State := (s.ensureRegion (128 * line)).loseCopies line

/-- Every copy of a line leaves the wafer cache. -/
def State.dropLine (s : State) (line : Nat) : State :=
  { s with wc := s.wc.filter (fun l => l.line ≠ line), replicas := s.replicas.filter fun r => r.line ≠ line }

/-- `FLSHD`: every copy goes, and the line takes its home's values; an error is cleared and reads 0 (R287). -/
def State.discardLine (s : State) (line : Nat) : State :=
  let s := if s.inHostBias (128 * line) then s.hostGives line else s
  let home := match s.wcLine? line with
    | some l => if l.modified then l.home else s.lineBytes line
    | none => s.lineBytes line
  let s := (s.pokeN (s.memKey (128 * line)) home).dropLine line
  { s with inError := s.inError.filter (fun l => l ≠ line) }

/-- The wafer cache is empty: what was modified has gone home. -/
def State.clearCache (s : State) : State := { s.writeAllHome with wc := [], regions := [], replicas := [] }

/-- Firmware deals every placement slot over the good banks of the map in force (R169), and what was cached under the old
anchors is home; during full service's commit this is its last step (R33). -/
def State.dealBanks (s : State) : State :=
  { s.clearCache with
      placement := (s.street.filter fun e => e.2.getLsbD 1).map (·.1), redealt := []
      bringUp := { s.bringUp with worked := if s.bringUp.worked = 6 then 7 else s.bringUp.worked } }

/-! ### Loads (R165, R176, R208) -/

/-- Which copies a load may be served from (R208), whether it fills the L1, whether it is a `kseg` load, and whether it may
fill lines outside the serving bank (R178). -/
structure LoadWay where
  l1 : Bool
  replica : Bool
  fill : Bool
  kseg : Bool
  alloc : Bool
deriving DecidableEq, Repr

/-- The L1 copy of a line that the load may use: what a `kseg` load filled, acquires keep, and only `kseg` loads use (R165,
R199). -/
def State.l1Copy (s : State) (t tenant pa : Nat) (kseg : Bool) : Option L1Line :=
  (s.tile t).l1.find? fun l => l.line = lineOf pa && l.tenant = tenant && (kseg || !l.kseg)

/-- The copy in the replica bank of the requester's reticle (R176). -/
def State.replicaCopy (s : State) (t pa : Nat) : Option Replica :=
  if (s.tile t).replicaTable.any fun k => k.has pa then
    s.replicas.find? fun r => r.reticle = reticleOf t && r.line = lineOf pa
  else none

/-- A replica serves a load. -/
def State.useReplica (s : State) (r : Replica) : State :=
  { s with useCtr := s.useCtr + 1
           replicas := mapIf (fun x => x.line = r.line && x.reticle = r.reticle) (fun x => { x with used := s.useCtr + 1 }) s.replicas }

/-- Drops the tile's copy of a line. -/
def State.l1Drop (s : State) (t line : Nat) : State :=
  s.updTile t fun tl => { tl with l1 := tl.l1.filter fun l => l.line ≠ line }

/-- Fills a line into the tile's L1: 512 lines (R165). -/
def State.l1Fill (s : State) (t tenant line : Nat) (kseg : Bool) (bytes : List Byte) : State :=
  s.updTile t fun tl => { tl with l1 := (⟨line, bytes, kseg, tenant⟩ :: tl.l1.filter fun l => l.line ≠ line).take 512 }

/-- The reply of the anchor to a load (R176, R209): with a replica mark the region enters the tile's replica table and
the reticle's replica is filled, unless the load is hinted no-allocate (R178); without one it leaves the table. -/
def State.replicaMark (s : State) (t pa : Nat) (fill : Bool) : State :=
  match s.region? pa with
  | none => s
  | some e =>
    if e.state = .replicated && !e.hold && e.covered.contains (reticleOf t) then
      let s := s.updTile t fun tl => { tl with replicaTable := (e.key :: tl.replicaTable.filter fun k => k ≠ e.key).take 64 }
      if fill then
        { s with agenda := s.agenda ++ [⟨.replicaFillArrival, .replicaFillArrival e.key (reticleOf t) (lineOf pa)⟩] }
      else s
    else s.updTile t fun tl => { tl with replicaTable := tl.replicaTable.filter fun k => !k.has pa }

/-- What the serving bank returns to a tile is never older than what its reticle's replica bank returns later (R199): copies of a
region that the reticle's replica bank has still to drop go before the data (LOG 115). -/
def State.dropStale (s : State) (t pa : Nat) : State :=
  match s.region? pa with
  | some e =>
    if e.acks.contains (reticleOf t) then
      { s with replicas := s.replicas.filter fun r => !(r.reticle = reticleOf t && e.key.has (128 * r.line)) }
    else s
  | none => s

/-- A load at the serving bank: counted, the line obtained and used there (R171, R176). -/
def State.serveLoad (s : State) (t pa : Nat) (fill : Bool) : State :=
  ((((s.dropStale t pa).touch t pa 0 false).useLine pa (s.tileWard t)).obtain pa false).replicaMark t pa fill

/-- A line is read at its serving bank for a tile's instruction cache, or for a walk of the device's own. -/
def State.serveRead (s : State) (t pa : Nat) : State :=
  (((s.touch t pa 0 false).useLine pa (s.tileWard t)).obtain pa false).settleLine pa (s.tileWard t)

/-- A line that a load has brought fills the L1, where the load may fill it and the line is HBM's; or else an older copy of
it there goes, so that no later load returns it (R165, R199). -/
def State.fillTile (s : State) (t tenant pa : Nat) (way : LoadWay) (line : List Byte) : State :=
  if way.fill && pa < hbmEnd then s.l1Fill t tenant (lineOf pa) way.kseg line else s.l1Drop t (lineOf pa)

/-- Performs a load of bytes at a physical address: from the L1 or the reticle's replica where the load may use them
and the device does (LOG 7), or else at the serving bank. -/
def State.bankLoad (s : State) (t tenant pa n : Nat) (way : LoadWay) : State × List Byte :=
  let atBank (s : State) : State × List Byte :=
    let s := (s.serveLoad t pa way.alloc)
    let line := s.lineBytes (lineOf pa)
    ((s.fillTile t tenant pa way line).settleLine pa (s.tileWard t), s.peekN (s.memKey pa) n)
  match (if way.l1 then s.l1Copy t tenant pa way.kseg else none) with
  | some l =>
    if freeBool s.freeCtr then ({ s with freeCtr := s.freeCtr + 1 }, (l.bytes.drop (pa % 128)).take n)
    else atBank { s with freeCtr := s.freeCtr + 1 }
  | none =>
    match (if way.replica then s.replicaCopy t pa else none) with
    | some r =>
      if freeBool s.freeCtr then
        let s := ({ s with freeCtr := s.freeCtr + 1 }.touch t pa 0 false).useReplica r
        (s.fillTile t tenant pa way r.bytes, (r.bytes.drop (pa % 128)).take n)
      else atBank { s with freeCtr := s.freeCtr + 1 }
    | none => atBank s

/-! ### Atomics: near and far (R180) -/

/-- The index of a line in the contention predictor. -/
def contendIndex (line : Nat) : Nat := contendHash line % 256
/-- The contention counter of a line. -/
def Tile.contend (tl : Tile) (line : Nat) : Nat := (tabFind (contendIndex line) tl.contention).getD 0

/-- Whatever its region has moved, an atomic may run near the requester (R180). -/
def State.nearLine (s : State) (t pa : Nat) : Bool :=
  (s.tile t).contend (lineOf pa) < 2 && !isPool pa && s.takesBank t
    && !((s.region? pa).any fun e => e.state = .pinned || e.state = .streaming)

/-- The entry that covers an address has moved in the last 2^14 fabric cycles. -/
def State.movedNow (s : State) (pa : Nat) : Bool := (s.region? pa).any fun e => e.moved ≠ 0 && s.fabricCycles < e.moved + 16384

/-- An atomic that issues now runs near the requester (R180). -/
def State.nearMode (s : State) (t pa : Nat) : Bool := s.nearLine t pa && !s.movedNow pa

/-- The halves of an entry, each a copy one level down with the counts halved (R172). -/
def RegionEntry.split (e : RegionEntry) : List RegionEntry :=
  let half := e.key.size / 2
  [0, 1].map fun i => { e with key := ⟨e.key.base + i * half, e.key.level + 1⟩, cnt := e.cnt.map (· / 2), other := e.other / 2 }

/-- An entry splits where it stands. -/
def State.splitEntry (s : State) (e : RegionEntry) (halves : List RegionEntry) : State :=
  ({ s with regions := s.regions.flatMap fun r => if r.key = e.key then halves else [r] } : State).limitEntries
    ((halves.head?.map (·.key)).getD e.key)

/-- Splits the entry that covers an address until it has a level. -/
def State.splitTo (s : State) (pa level : Nat) : Nat → State
  | 0 => s
  | n + 1 =>
    match s.region? pa with
    | none => s
    | some e => if e.key.level ≥ level then s else State.splitTo (s.splitEntry e e.split) pa level n

/-- Move: the anchor sets HOLD and sends a move order (R175). -/
def State.startMove (s : State) (e : RegionEntry) (b : Nat) : State :=
  { s.setRegion { e with hold := true, moveTo := some b } with agenda := s.agenda ++ [⟨.moveOrder, .moveOrder e.key⟩] }

/-- A near atomic's line is not yet at the requester's bank. -/
def State.mustMove (s : State) (t pa : Nat) : Bool := s.nearMode t pa && (s.regionFor pa).loc ≠ t

/-- The anchor splits the region down to the line, and begins to move its LOC to the requester's bank (R180). -/
def State.moveNear (s : State) (t pa : Nat) : State :=
  let s := (s.ensureRegion pa).splitTo pa 9 9
  match s.region? pa with
  | some e => if e.moveTo.isSome then s else (s.startMove e t).prune
  | none => s

/-- An atomic's path (R180): near, the line is at the requester's bank in a region of its own; far, the reply trains the
contention predictor. The tile's L1 copy goes either way (R165). -/
def State.atomicPath (s : State) (t pa n : Nat) (near : Bool) : State :=
  let line := lineOf pa
  let s := (s.touch t pa n true).l1Drop t line
  let s := if near then s.splitTo pa 9 9
    else
      let hot := s.lastAtomic.any fun a => a.1 = line && a.2.1 ≠ t && s.fabricCycles ≤ a.2.2 + 1024
      s.updTile t fun tl =>
        let c := tl.contend line
        { tl with contention := tabSet (contendIndex line) (if hot then min 3 (c + 1) else c - 1) tl.contention }
  { s with lastAtomic := (line, t, s.fabricCycles) :: s.lastAtomic.filter fun a =>
             (a.1 ≠ line || a.2.1 ≠ t) && s.fabricCycles ≤ a.2.2 + 1024 }

/-- One read-modify-write at the serving bank of a line: the value it found, and the state with the new one (R180, R188). -/
def State.bankAtomic (s : State) (t tenant pa size : Nat) (near : Bool) (op : Nat → Nat) : State × Nat :=
  let ward := s.tileWard t
  let s := (s.atomicPath t pa size near).readyWrite pa ward tenant
  let old := s.num (s.memKey pa) size
  (((s.pokeNum (s.memKey pa) size (op old)).settleLine pa ward).prune, old)

/-! ### Hints (R172, R178) -/

/-- An entry without hints. -/
def RegionEntry.unhinted (e : RegionEntry) (anchor : Nat) : RegionEntry :=
  { e with rhint := false
           state := match e.state with
             | .pinned | .streaming => if e.loc = anchor then .resident else .migrated
             | .resident | .migrated | .replicated => e.state }

/-- A hint on one entry: 0 none, 1 pin, 2 stream, 3 replicate; it replaces those of another tenant (R178). -/
def RegionEntry.hint (e : RegionEntry) (kind tenant anchor : Nat) : RegionEntry :=
  let e := { if e.owner ≠ tenant || kind = 0 then e.unhinted anchor else e with owner := tenant }
  match kind with
  | 1 => { e with state := .pinned, rptr := [63, 63, 63, 63], coarse := 0 }
  | 2 => { e with state := .streaming, rptr := [63, 63, 63, 63], coarse := 0 }
  | 3 => { e with rhint := true }
  | _ => { e with state := if e.loc = anchor then .resident else .migrated, rptr := [63, 63, 63, 63], coarse := 0 }

/-- A region that is pinned, streaming or without hints keeps no replica (LOG 24). -/
def State.dropHinted (s : State) (k : RegionKey) (kind : Nat) : State := if kind = 3 then s else s.dropReplicas k

/-- Every part of a block has an entry: one for the whole where no entry meets it, or else for the parts that none covers. -/
def State.coverBlock (s : State) (k : RegionKey) : Nat → State
  | 0 => s
  | n + 1 =>
    if (s.region? k.base).any fun e => e.key.level ≤ k.level then s
    else if s.regions.all fun e => !e.key.meets k then s.putRegion (.fresh k (s.anchor k.base) s.fabricCycles)
    else
      let low : RegionKey := ⟨k.base, k.level + 1⟩
      let high : RegionKey := ⟨k.base + k.size / 2, k.level + 1⟩
      State.coverBlock (State.coverBlock s low n) high n

/-- Applies a hint to an aligned physical block of a level, splitting the entries that it covers in part (R172): every entry
inside the block takes the hint. -/
def State.hintBlock (s : State) (pa level kind tenant : Nat) : State :=
  let k := regionAt pa level
  let s := s.splitTo k.base level 9
  let s := (if kind = 0 then s else s.coverBlock k 10).dropHinted k kind
  ({ s with regions := s.regions.map fun e =>
      if k.base ≤ e.key.base && e.key.base + e.key.size ≤ k.base + k.size
      then e.hint kind tenant (s.anchor e.key.base) else e } : State).prune

/-- Applies a hint to the whole entry that covers a line (R332, PLC). -/
def State.hintEntry (s : State) (pa kind tenant : Nat) : State :=
  if kind = 0 then s
  else (s.putRegion ((s.regionFor pa).hint kind tenant (s.anchor pa))).dropHinted (s.regionFor pa).key kind

/-- The 192 bits of an entry (R170). -/
def RegionEntry.bits (e : RegionEntry) : Nat :=
  let st := match e.state with | .resident => 0 | .migrated => 1 | .replicated => 2 | .pinned => 3 | .streaming => 4
  let f (l : List Nat) (w : Nat) := (l.zipIdx.map fun x => x.1 * 2 ^ (w * x.2)).foldl (· + ·) 0
  st + 2 ^ 3 * bit e.wlo + 2 ^ 4 * bit e.whi + 2 ^ 5 * e.key.level + 2 ^ 9 * e.loc + 2 ^ 21 * f e.rptr 6
    + 2 ^ 45 * e.coarse.toNat + 2 ^ 59 * bit e.hold + 2 ^ 60 * bit e.rhint + 2 ^ 64 * f e.cnt 12 + 2 ^ 112 * f e.cret 6
    + 2 ^ 136 * e.other + 2 ^ 148 * e.owner + 2 ^ 154 * e.quiet

end Machine

end Sys2Proof
end

