-- ==== Sys2Proof/Machine/Walks.lean ====
section
/-! DEFINITION. Page walks and translation (R19, R157, R161-R163): what a walk reads, from where, and what it answers. -/

namespace Sys2Proof.Machine

open Sys2Proof.Config

/-- A walk for a tenant. -/
def State.walk (s : State) (tenant : Nat) (m : AccessMode) (va : Nat) : Except MemFault Page :=
  walkFrom s.mem m va 4 (s.root tenant) true true

/-- The physical addresses of the entries that a walk reads, down to its leaf or to the entry that ends it. -/
def walkReads (mem : List Host.Cell) (va : Nat) : Nat → Nat → List Nat
  | 0, _ => []
  | n + 1, table =>
    let at_ := table + 8 * (va / 2 ^ (12 + 9 * n) % 512)
    let e := Memory.num mem at_ 8
    let pa := e / 4096 % 2 ^ 40 * 4096
    at_ :: (if bitOf e 0 && !bitOf e 3 && pa < hbmEnd then walkReads mem va n pa else [])

/-- The entries of a walk for a tenant. -/
def State.walkEntries (s : State) (tenant va : Nat) : List Nat := walkReads s.mem va 4 (s.root tenant)

/-- A line that the device reads of a host-bias page for itself is obtained from the host first (R79, R383). -/
def State.obtainRead (s : State) (pa : Nat) : State :=
  if s.inHostBias pa then (((s.ensureRegion pa).useLine pa 0).obtain pa false).settleLine pa 0 else s

/-- A walk obtains the lines of its entries that lie in host-bias pages, level by level. -/
def State.obtainEntries (s : State) (tenant va : Nat) : State :=
  if s.hostBias = [] then s
  else (List.range 4).foldl (fun s _ => (s.walkEntries tenant va).foldl State.obtainRead s) s

/-- The fabric carries every read of a walk by the walker of a tile's reticle (R19). -/
def State.walkCarried (s : State) (t tenant va : Nat) : Bool := (s.walkEntries tenant va).all fun a => s.carries t a

/-- A walk of the walker of a tile's reticle; one that the fabric does not carry ends in FABRIC_LOSS (R47). -/
def State.walkFor (s : State) (t tenant : Nat) (m : AccessMode) (va : Nat) : State × Except MemFault Page :=
  let o := s.obtainEntries tenant va
  if o.walkCarried t tenant va then (o, o.walk tenant m va) else (s, .error ⟨Trap.fabricLoss, 0, va, none⟩)

/-- Fills the TLBs of a tile and its reticle (R162). -/
def State.tlbFill (s : State) (t tenant : Nat) (p : Page) : State :=
  let e : TlbEntry := ⟨tenant, p.va, p.pa, p.log, p.w, p.x⟩
  let s := s.updTile t fun tl => { tl with tlb := (e :: tl.tlb.filter fun x => x.va ≠ e.va || x.tenant ≠ tenant).take 64 }
  let mine := (reticleOf t, e) :: (s.reticleTlb.filter fun x => x.1 = reticleOf t && (x.2.va ≠ e.va || x.2.tenant ≠ tenant))
  { s with reticleTlb := mine.take 8192 ++ s.reticleTlb.filter (fun x => x.1 ≠ reticleOf t), freeCtr := s.freeCtr + 1 }

/-- Translation of a virtual address for a tile and tenant (R157 orders 3 and 4, R161). -/
def State.translate (s : State) (t tenant : Nat) (m : AccessMode) (pool : Bool) (va : Nat) : State × Except MemFault Nat :=
  if va ≥ 2 ^ 48 then (s, .error (pageFault m 64 va))
  else
    match s.tlbHit t tenant va with
    | some p => ({ s with freeCtr := s.freeCtr + 1 }, s.pageCheck m pool va p)
    | none =>
      match s.walkFor t tenant m va with
      | (s, .error f) => (s, .error f)
      | (s, .ok p) => (s.tlbFill t tenant p, s.pageCheck m pool va p)

end Sys2Proof.Machine
end

