-- ==== Sys2Proof/Machine/Access.lean ====
section
/-! DEFINITION. The accesses of a squad (R155-R159, R188-R192, R281-R284): forming and checking the lanes' addresses,
scratchpad and swizzle, loads and stores at their serving places, acquires and releases (R207-R210). -/

namespace Sys2Proof.Machine

open Sys2Proof.Config

/-! ### Where a lane's access goes -/

/-- A physical address, or bytes of a tile's scratchpad. -/
inductive Target where
  | phys (pa : Nat)
  | spad (tile key : Nat)
deriving DecidableEq, Repr

/-- Swizzle mode s on a member-local offset (R158). -/
def swizzle (s m : Nat) : Nat := if s = 0 then m else m ^^^ (m / 2 ^ (s + 9) % 8 * 64)

/-- The bytes of one member's allocation. -/
def Ctx.spad (c : Ctx) : Nat := c.wg.spad

/-- The scratchpad target of a gang offset (R102, R158). An offset past the gang's members lies in no tile of the wafer, and no
tile routes to it (R11). -/
def State.spadTarget (s : State) (w : Workgroup) (swz off : Nat) : Target :=
  let m := off / max 1 w.spad
  let t := (s.memberTile w.gang m).getD tileCount
  .spad t (spadKey t (0x400 + swizzle swz (off % max 1 w.spad)))

/-- The targets of the active lanes, after the checks of R157: the first condition that any lane meets decides, and
the fault names the lowest such lane. -/
def State.resolve (s : State) (c : Ctx) (n : SegName) (mode : AccessMode) (pool : Bool) (size swz : Nat)
    (lanes : List Nat) (off : Nat → Int) : State × Except MemFault (List (Nat × Target)) :=
  let va (j : Nat) : Nat := if n = .sseg then (off j).toNat else segAddr c.sq n (off j) j
  let fail (num j : Nat) : MemFault := ⟨num, 0, va j, none⟩
  match lanes.find? fun j => !segCheck c.sq n (off j) size with
  | some j => (s, .error (fail Trap.segment j))
  | none =>
    match lanes.find? fun j => va j % size ≠ 0 with
    | some j => (s, .error (fail Trap.misalign j))
    | none =>
      if n = .sseg then (s, .ok (lanes.map fun j => (j, s.spadTarget c.wg swz (va j))))
      else
        match lanes.find? fun j => va j ≥ 2 ^ 48 with
        | some j => (s, .error (pageFault mode 64 (va j)))
        | none =>
          lanes.foldl (fun acc j =>
            match acc.2 with
            | .error f => (acc.1, .error f)
            | .ok l =>
              match acc.1.translate c.tile (c.tenant s) mode pool (va j) with
              | (s', .ok pa) => (s', .ok (l ++ [(j, .phys pa)]))
              | (s', .error f) => (s', .error f)) (s, .ok [])

/-- What became of an access. -/
inductive Served (α : Type) where
  | ok (v : α)
  | wait (line : Nat)
  | fault (f : MemFault) (part : Bool)
deriving Repr

/-- The verdict on one target: scratchpad of another member is reached over the fabric (R159). -/
def State.targetVerdict (s : State) (t : Nat) (x : Target) (whole : Bool) : Verdict :=
  match x with
  | .phys pa => s.verdict t pa whole
  | .spad u _ =>
    if !(u < tileCount && s.routes t u) then .fault Trap.fabricLoss 0
    else if s.loss = .request && u ≠ t then .fault Trap.fabricLoss lostMark
    else .ok

/-- An access to a target sends packets over the fabric. -/
def State.crossesTo (s : State) (t : Nat) (x : Target) : Bool :=
  match x with
  | .phys pa => s.crosses t pa
  | .spad u _ => u ≠ t

/-- The answer to an access of some targets is lost: what it does is done, and its requester waits (R61). -/
def State.answerLost (s : State) (t : Nat) (ts : List Target) : Bool := s.loss = .answer && ts.any (s.crossesTo t)

/-- The lanes of a coalesced access of `gseg` or `pseg` name the words of one aligned line in ascending order (R190). -/
def coalesced (n : SegName) (size : Nat) (ts : List (Nat × Target)) : Option Nat :=
  match ts with
  | (_, .phys pa) :: _ =>
    if (n = .gseg || n = .pseg) && ts.length * size = 128 && (size = 4 || size = 8) && pa % 128 = 0 &&
        (ts.zipIdx.all fun e => match e.1.2 with | .phys p => p = pa + size * e.2 | .spad _ _ => false)
    then some pa else none
  | _ => none

/-- The first lane whose access cannot be performed now. -/
def State.firstWait (s : State) (t : Nat) (ts : List (Nat × Target)) (whole : Bool) : Option Nat :=
  ts.findSome? fun e => match s.targetVerdict t e.2 whole with | .wait l => some l | .ok | .fault _ _ => none

/-- The virtual address a fault of a lane names. -/
def laneFault (va : Nat → Nat) (j num detail : Nat) : MemFault := ⟨num, detail, va j, none⟩

/-- The fault that an access of the lanes meets: POOL_LOST before DATA_UE before FABRIC_LOSS, of its lowest lane (R284). -/
def State.laneTrap (s : State) (t : Nat) (va : Nat → Nat) (ts : List (Nat × Target)) (whole : Bool) : Option MemFault :=
  let bad (num : Nat) := ts.findSome? fun e => match s.targetVerdict t e.2 whole with
    | .fault k d => if k = num then some (laneFault va e.1 k d) else none
    | .ok | .wait _ => none
  (bad Trap.poolLost).orElse fun _ => (bad Trap.dataUe).orElse fun _ => bad Trap.fabricLoss

/-- The lanes below the first that fails. -/
def State.soundLanes (s : State) (t : Nat) (ts : List (Nat × Target)) : List (Nat × Target) :=
  ts.takeWhile fun e => s.targetVerdict t e.2 false = .ok

/-- Loads of `size` bytes by the lanes (R282): none is performed when one fails. -/
def State.loads (s : State) (t tenant size : Nat) (n : SegName) (way : LoadWay) (va : Nat → Nat) (ts : List (Nat × Target)) :
    State × Served (List (Nat × List Byte)) :=
  match s.firstWait t ts false with
  | some l => (s, .wait l)
  | none =>
    match s.laneTrap t va ts false with
    | some f => (s, .fault f false)
    | none =>
      match coalesced n size ts with
      | some pa =>
        let r := s.bankLoad t tenant pa 128 way
        (r.1, .ok (ts.zipIdx.map fun e => (e.1.1, (r.2.drop (size * e.2)).take size)))
      | none =>
        let r := ts.foldl (fun acc e =>
          match e.2 with
          | .phys pa =>
            let r := acc.1.bankLoad t tenant pa size way
            (r.1, acc.2 ++ [(e.1, r.2)])
          | .spad _ k => (acc.1, acc.2 ++ [(e.1, acc.1.peekN k size)])) (s, ([] : List (Nat × List Byte)))
        (r.1, .ok r.2)

/-- What a squad notes of a write at an address: the invalidations it leaves outstanding, and lines of the pool and the
host window that it wrote (R177, R84). -/
def Squad.noteWrite (q : Squad) (pa : Nat) (ack : Option RegionKey) : Squad :=
  let q := if isPool pa || isHostWindow pa then
      { q with poolWrites := if q.poolWrites.contains (lineOf pa) then q.poolWrites else q.poolWrites ++ [lineOf pa] } else q
  match ack with
  | some k => { q with invals := if q.invals.contains k then q.invals else q.invals ++ [k] }
  | none => q

/-- The issuing squad notes a write. -/
def State.noteWrite (s : State) (c : Ctx) (pa : Nat) : State :=
  s.updSquad c.tile c.sq.slot fun q => q.noteWrite pa (s.pendingAcks pa)

/-- One store at its target. -/
def State.storeAt (s : State) (c : Ctx) (x : Target) (bs : List Byte) : State :=
  match x with
  | .spad _ k => s.pokeN k bs
  | .phys pa => (s.bankWrite c.tile (c.tenant s) pa bs).noteWrite c pa

/-- Stores by the lanes in ascending order (R282): a lane that fails leaves the lanes before it performed (R284). -/
def State.stores (s : State) (c : Ctx) (size : Nat) (n : SegName) (va : Nat → Nat) (data : Nat → List Byte)
    (ts : List (Nat × Target)) : State × Served Unit :=
  match coalesced n size ts with
  | some pa =>
    match s.verdict c.tile pa true with
    | .wait l => (s, .wait l)
    | .fault k d => (s, .fault (laneFault va ((ts.map (·.1)).headD 0) k d) false)
    | .ok => (s.storeAt c (.phys pa) (ts.flatMap fun e => data e.1), .ok ())
  | none =>
    match s.firstWait c.tile ts false with
    | some l => (s, .wait l)
    | none =>
      let put (s : State) (ts : List (Nat × Target)) : State := ts.foldl (fun s e => s.storeAt c e.2 (data e.1)) s
      match s.laneTrap c.tile va ts false with
      | none => (put s ts, .ok ())
      | some f => (put s (s.soundLanes c.tile ts), .fault f (s.soundLanes c.tile ts ≠ []))

/-! ### Acquires (R208) -/

/-- The effects of an acquire of a scope on a tile: the L1, but for lines that `kseg` loads filled, and the replica
table. -/
def State.acquire (s : State) (t scope : Nat) : State :=
  if scope < 3 then s
  else s.updTile t fun tl =>
    { tl with l1 := tl.l1.filter (fun l => l.kseg), replicaTable := if scope < 5 then tl.replicaTable else [] }

/-- Every back-invalidate snoop that has arrived is answered. -/
def State.answered (s : State) : Bool :=
  s.held.all fun h => match h.request with
    | .snoop _ host _ _ => host
    | .group _ | .job _ _ | .access _ | .hostRead _ _ _ | .hostWrite _ _ _ => true

/-- A pool-scope acquire waits until every back-invalidate snoop that has arrived is answered. -/
def State.acquireReady (s : State) (scope : Nat) : Bool := scope ≠ 7 || s.answered

/-! ### Releases (R207, R210, R84) -/

/-- The replica invalidations that a release of device scope or wider by a squad of a tile waits for: those counted for
every agent of its reticle, the squads and the others. -/
def State.releaseInvals (s : State) (t : Nat) : List RegionKey :=
  s.tiles.flatMap fun e =>
    if reticleOf e.1 = reticleOf t then e.2.invals ++ (e.2.wg.toList.flatMap fun w => w.squads.flatMap fun q => q.invals)
    else []

/-- A tile notes a write of an agent of its own other than its squads: the invalidations that it has caused (R210), and a line
of the pool or the host window (R76, R198). -/
def Tile.noteWrite (tl : Tile) (pa : Nat) (ack : Option RegionKey) : Tile :=
  let far := (isPool pa || isHostWindow pa) && !tl.poolWrites.contains (lineOf pa)
  { tl with invals := tl.invals ++ ack.toList.filter fun k => !tl.invals.contains k
            poolWrites := if far then tl.poolWrites ++ [lineOf pa] else tl.poolWrites }

/-- An agent of a tile other than its squads has written. -/
def State.noteAgent (s : State) (t pa : Nat) : State :=
  if (s.pendingAcks pa).isSome || isPool pa || isHostWindow pa then s.updTile t fun tl => tl.noteWrite pa (s.pendingAcks pa) else s

/-- Lines of the pool and the host window that agents of the device wrote and that no release of theirs has completed. -/
def State.farWrites (s : State) : List Nat :=
  (s.tiles.flatMap fun e => e.2.poolWrites ++ e.2.wg.toList.flatMap fun w => w.squads.flatMap (·.poolWrites))
    ++ s.gangs.flatMap fun g => g.kept.flatMap fun m => m.squads.flatMap (·.poolWrites)

/-- The lines that a release of system or pool scope by a squad sends home and waits for: its own, and those of other agents,
since a chain of synchronisation may have carried any of them to it (R198, LOG 114). -/
def State.releaseLines (s : State) (q : Squad) (scope : Nat) : List Nat :=
  (q.poolWrites ++ s.farWrites.filter fun l => !s.poolLost (128 * l)).filter fun l => scope = 7 || isHostWindow (128 * l)

/-- An entry of which a reticle's acknowledgement has arrived; with the last one its replicas have collapsed. -/
def RegionEntry.ackFrom (e : RegionEntry) (r anchor : Nat) : RegionEntry :=
  if !e.acks.contains r then e
  else
    let acks := e.acks.filter fun q => q ≠ r
    if acks ≠ [] then { e with acks := acks }
    else { e with acks := [], rptr := [63, 63, 63, 63], coarse := 0, hold := e.moveTo.isSome
                  state := match e.state with
                    | .pinned => .pinned
                    | .streaming => .streaming
                    | .resident | .migrated | .replicated => if e.loc = anchor then .resident else .migrated }

/-- The counts of outstanding invalidations of a tile's agents, without those that are acknowledged. -/
def Tile.settleInvals (tl : Tile) (done : RegionKey → Bool) : Tile :=
  ({ tl with invals := tl.invals.filter (fun k => !done k) } : Tile).updWg fun w =>
    { w with squads := w.squads.map fun q => { q with invals := q.invals.filter fun k => !done k } }

/-- The counts of outstanding invalidations are brought up to date. -/
def State.settleInvals (s : State) : State := { s with tiles := s.tiles.map fun e => (e.1, e.2.settleInvals s.acked) }

/-- Whether a release of a scope may complete now. -/
inductive ReleaseState where
  | ready
  | waiting
  | poolLost
deriving DecidableEq, Repr

/-- The conditions of R207 for a squad. -/
def State.releaseState (s : State) (t : Nat) (q : Squad) (scope : Nat) : ReleaseState :=
  if scope < 5 then .ready
  else if s.releaseInvals t ≠ [] then .waiting
  else if scope < 6 then .ready
  else
    if scope = 7 && q.poolWrites.any (fun l => s.poolLost (128 * l)) then .poolLost
    else if (s.releaseLines q scope).any fun l => s.deviceWrites.contains l || s.modified l then .waiting
    else .ready

/-- A release of system or pool scope starts the writes it waits for: modified lines go home, and each awaits its
completion (R84). -/
def State.startRelease (s : State) (q : Squad) (scope : Nat) : State :=
  if scope < 6 then s else ((s.releaseLines q scope).filter s.modified).foldl State.flushLine s

/-- A completed release: every earlier load has returned, and what it waited for is done (R207). -/
def Squad.released (q : Squad) (scope : Nat) : Squad :=
  let q := q.deliverAll fun _ => true
  if scope < 6 then q
  else { q with poolWrites := if scope = 7 then [] else q.poolWrites.filter fun l => !isHostWindow (128 * l) }

/-- The invalidations of a region that are awaited are acknowledged. -/
def State.ackRegion (s : State) (k : RegionKey) : State :=
  ({ s with replicas := s.replicas.filter (fun r => !k.has (128 * r.line) || s.acked k)
            regions := s.regions.map fun e =>
              if e.key.meets k then e.acks.foldl (fun e r => e.ackFrom r (s.anchor e.key.base)) e else e } : State).settleInvals

/-- A release of a scope that the device performs for a squad of a tile in a step of its own (R93, R304, LOG 99): the conditions
of R207 hold when it is done. What was awaited has been acknowledged, and the lines that the release sends home are home. -/
def State.finishRelease (s : State) (t scope : Nat) (q : Squad) : State :=
  let s := if scope < 5 then s else (s.releaseInvals t).foldl State.ackRegion s
  if scope < 6 then s
  else
    let mine := s.releaseLines q scope
    let s := mine.foldl State.flushLine s
    { s with deviceWrites := s.deviceWrites.filter fun l => !mine.contains l }

/-! ### HINT.MEM (R332) -/

/-- The fields of HINT.MEM's payload. -/
structure MemHint where
  ro : Bool
  na : Bool
  plc : Nat
  sc : Bool
  scope : Nat
deriving DecidableEq, Repr

/-- The hint in force for an access; none is all zeros. -/
def memHint (h : Option HintRun) : MemHint :=
  match h.bind (·.mem) with
  | some p => ⟨p.getLsbD 0, p.getLsbD 1, p.toNat / 4 % 4, p.getLsbD 4, p.toNat / 32⟩
  | none => ⟨false, false, 0, false, 0⟩

/-- The copies a plain or scoped load may use (R208, R178). -/
def plainWay (h : MemHint) (kseg : Bool) : LoadWay :=
  ⟨!(h.sc && 3 ≤ h.scope), true, !h.na, kseg, !h.na⟩

/-- The copies an `LDAQ` may use (R208). -/
def acquireWay (scope : Nat) : LoadWay := ⟨scope < 3, false, true, false, true⟩

/-- The placement hint on every entry that covers an accessed line (R332). -/
def State.placeHint (s : State) (plc tenant : Nat) (ts : List (Nat × Target)) : State :=
  if plc = 0 then s
  else ts.foldl (fun s e => match e.2 with | .phys pa => s.hintEntry pa plc tenant | .spad _ _ => s) s

end Sys2Proof.Machine
end

