-- ==== Sys2Proof/Machine/Engine.lean ====
section
/-! DEFINITION. Barrier objects (R150-R152), queue elements and their notifications (R153, R338), event records (R341),
and the accesses of a tile's engines (R343, R352). -/

namespace Sys2Proof.Machine

open Sys2Proof.Config

/-! ### Barrier objects -/

/-- A barrier object's fields (R150). -/
structure BarrierObj where
  phase : Nat
  exparr : Nat
  arrived : Nat
  expbytes : Nat
  landed : Nat
  scope : Nat
  lkg : Bool
  reserved : Bool
deriving DecidableEq, Repr

/-- Reads an object at a key. -/
def State.barrier (s : State) (k : Nat) : BarrierObj :=
  { phase := s.num k 4, exparr := s.num (k + 4) 2, arrived := s.num (k + 6) 2, expbytes := s.num (k + 8) 8
    landed := s.num (k + 16) 8, scope := s.num (k + 24) 4 % 8, lkg := bitOf (s.num (k + 24) 4) 3
    reserved := s.num (k + 24) 4 / 16 ≠ 0 || s.num (k + 28) 4 ≠ 0 }

/-- Writes an object at a key. -/
def State.setBarrier (s : State) (k : Nat) (o : BarrierObj) : State :=
  s.pokeN k (leBytes 4 o.phase ++ leBytes 2 o.exparr ++ leBytes 2 o.arrived ++ leBytes 8 o.expbytes
    ++ leBytes 8 o.landed ++ leBytes 4 (o.scope + 8 * bit o.lkg) ++ leBytes 4 0)

/-- A reserved field or a reserved SCOPE (R150). -/
def BarrierObj.broken (o : BarrierObj) : Bool := o.reserved || o.scope = 0 || 4 ≤ o.scope

/-- Complete (R151). With EXPARR = 0 carried bytes may complete several phases at once; an object whose SCOPE is 0
completes none (R293). -/
def BarrierObj.complete (o : BarrierObj) : BarrierObj :=
  if o.scope = 0 || (o.exparr = 0 && o.expbytes = 0) then o
  else if o.exparr = 0 then
    { o with phase := (o.phase + o.landed / o.expbytes) % 2 ^ 32, landed := o.landed % o.expbytes
             arrived := if o.landed < o.expbytes then o.arrived else 0 }
  else if o.exparr ≤ o.arrived && o.expbytes ≤ o.landed then
    { o with phase := (o.phase + 1) % 2 ^ 32, arrived := 0, landed := o.landed - o.expbytes }
  else o

/-- n arrivals (R293). -/
def BarrierObj.arrive (o : BarrierObj) (n : Nat) : BarrierObj :=
  { o with arrived := min 0xFFFF (o.arrived + n) }.complete

/-- n bytes land (R151, R205). -/
def BarrierObj.land (o : BarrierObj) (n : Nat) : BarrierObj :=
  { o with landed := (o.landed + n) % 2 ^ 64 }.complete

/-- Counts landed bytes on the object at a key. -/
def State.countBytes (s : State) (k n : Nat) : State := s.setBarrier k ((s.barrier k).land n)
/-- Arrives at the object at a key. -/
def State.arriveAt (s : State) (k n : Nat) : State := s.setBarrier k ((s.barrier k).arrive n)

/-- The key of the bytes at a gang offset, unswizzled. -/
def State.gangKeyAt (s : State) (w : Workgroup) (off : Nat) : Nat :=
  match s.spadTarget w 0 off with
  | .spad _ k => k
  | .phys pa => pa

/-! ### Queues -/

/-- The notification of an element that enters a queue (R338): one arrival at the bound object. -/
def State.notify (s : State) (w : Workgroup) (b : Option Nat) : State :=
  match b with
  | none => s
  | some off => s.arriveAt (s.gangKeyAt w off) 1

/-- Posts a record to a tile's event queue (R341): 64 places in the reserved kilobyte. Answers none when it is full. -/
def State.postEvent (s : State) (t : Nat) (code slot kind val : Nat) : Option State :=
  match (s.tile t).wg with
  | none => none
  | some w =>
    if w.q3.count ≥ 64 then none
    else
      let place := (w.q3.head + w.q3.count) % 64
      let rec8 := code % 2 ^ 16 + 2 ^ 16 * slot + 2 ^ 20 * kind + 2 ^ 24 * w.q3.lost + 2 ^ 32 * val
      let s := s.pokeNum (spadKey t (0x200 + 8 * place)) 8 rec8
      let s := s.updWg t fun w =>
        { w with q3 := { w.q3 with count := w.q3.count + 1, lost := 0, phase := (w.q3.phase + 1) } }
      some (s.notify w w.q3.bind)

/-- An engine's record: one that finds the queue full is dropped and counted (R341). -/
def State.postEngine (s : State) (t : Nat) (code slot kind val : Nat) : State :=
  (s.postEvent t code slot kind val).getD
    (s.updWg t fun w => { w with q3 := { w.q3 with lost := min 255 (w.q3.lost + 1) } })

/-! ### Engine accesses -/

/-- Pieces of at most 64 bytes that do not cross a 64-byte boundary of their address, as (offset from the start,
size). -/
def pieces (start : Nat) : Nat → Nat → Nat → List (Nat × Nat)
  | 0, _, _ => []
  | fuel + 1, off, left =>
    if left = 0 then []
    else
      let n := min left (64 - (start + off) % 64)
      (off, n) :: pieces start fuel (off + n) (left - n)

/-- The segment of a space code (R343). -/
def spaceSeg (sp : Nat) : SegName := match sp with | 0 => .gseg | 1 => .pseg | _ => .sseg

/-- The address of an engine's offset: the offset itself in the scratchpad, or else a virtual address. -/
def engineStart (segs : Vector Seg 8) (sp : Nat) (e : Int) : Nat :=
  if spaceSeg sp = .sseg then e.toNat
  else (((segs.toList.getD (spaceSeg sp).num ⟨0, 0⟩).base.toNat + e) % (2 ^ 64 : Nat)).toNat

/-- The n bytes at offset e of a space lie inside its segment (R157): `sseg` covers the gang's allocations, or for MCAST
one member's. -/
def engineInside (w : Workgroup) (segs : Vector Seg 8) (sp : Nat) (member : Option Nat) (e : Int) (n : Nat) : Bool :=
  let limit := (segs.toList.getD (spaceSeg sp).num ⟨0, 0⟩).limit.toNat
  0 ≤ e && e + n ≤ (if spaceSeg sp = .sseg && member.isSome then w.spad else limit : Nat)

/-- The target of one piece of an engine's access inside its segment: offset e in a space, for the workgroup w of tile t,
with the submitter's segments; a member-local offset for MCAST (R343, R347, R352). -/
def State.engineTarget (s : State) (t : Nat) (w : Workgroup) (segs : Vector Seg 8) (tenant : Nat) (mode : AccessMode)
    (sp swz : Nat) (member : Option Nat) (e : Int) : State × Except MemFault Target :=
  if spaceSeg sp = .sseg then (s, .ok (s.spadTarget w swz (member.getD 0 * w.spad + e.toNat)))
  else
    match s.translate t tenant mode (sp = 1) (engineStart segs sp e) with
    | (s, .ok pa) => (s, .ok (.phys pa))
    | (s, .error f) => (s, .error f)

/-- Reads n bytes for an engine. -/
def State.engineRead (s : State) (t : Nat) (w : Workgroup) (segs : Vector Seg 8) (tenant sp swz : Nat) (e : Int)
    (n : Nat) : State × Served (List Byte) :=
  if !engineInside w segs sp none e n then (s, .fault ⟨Trap.segment, 0, engineStart segs sp e, none⟩ false)
  else (pieces (engineStart segs sp e) n 0 n).foldl (fun acc p =>
    match acc.2 with
    | .ok bs =>
      match acc.1.engineTarget t w segs tenant .read sp swz none (e + p.1) with
      | (s, .error f) => (s, .fault f false)
      | (s, .ok x) =>
        match s.targetVerdict t x false with
        | .wait l => (s, .wait l)
        | .fault k d => (s, .fault ⟨k, d, (engineStart segs sp e) + p.1, none⟩ false)
        | .ok =>
          match x with
          | .spad _ k => (s, .ok (bs ++ s.peekN k p.2))
          | .phys pa =>
            let r := s.bankLoad t tenant pa p.2 ⟨false, false, false, false, true⟩
            if s.answerLost t [x] then (r.1, .fault ⟨Trap.fabricLoss, lostMark, engineStart segs sp e + p.1, none⟩ false)
            else (r.1, .ok (bs ++ r.2))
    | r => (acc.1, r)) (s, .ok [])

/-- The bytes of the 128-byte line, or in the scratchpad of the 64-byte block, in which an engine's offset lies. -/
def State.engineBlock (s : State) (t : Nat) (w : Workgroup) (segs : Vector Seg 8) (tenant sp swz : Nat) (e : Int) :
    State × Served (List Byte) :=
  match s.engineTarget t w segs tenant .read sp swz none (if spaceSeg sp = .sseg then e - e % 64 else e) with
  | (s, .error f) => (s, .fault f false)
  | (s, .ok x) =>
    match s.targetVerdict t x false with
    | .wait l => (s, .wait l)
    | .fault k d => (s, .fault ⟨k, d, engineStart segs sp e, none⟩ false)
    | .ok =>
      match x with
      | .spad _ k => (s, .ok (s.peekN k 64))
      | .phys pa =>
        let r := s.bankLoad t tenant (128 * lineOf pa) 128 ⟨false, false, false, false, true⟩
        if s.answerLost t [x] then (r.1, .fault ⟨Trap.fabricLoss, lostMark, engineStart segs sp e, none⟩ false)
        else (r.1, .ok r.2)

/-- How far a write of an engine has come: the bytes performed, the regions whose invalidations it waits for, and what stopped
it. -/
structure EngineRun where
  state : State
  landed : Nat
  regions : List RegionKey
  stopped : Option (Served Unit)

/-- One piece of an engine's write at its target. -/
def State.engineStore (s : State) (t tenant : Nat) (x : Target) (b : List Byte) (ks : List RegionKey) : State × List RegionKey :=
  match x with
  | .spad _ k => (s.pokeN k b, ks)
  | .phys pa =>
    let s := (s.bankWrite t tenant pa b).noteAgent t pa
    (s, ks ++ ((s.pendingAcks pa).toList.filter fun k => !ks.contains k))

/-- Writes bytes for an engine, piece by piece, until one cannot be performed. A write that a stopped launch drains has
reached the anchor before whatever holds later requests there, and waits for nothing (`drain`). -/
def State.engineRun (s : State) (t : Nat) (w : Workgroup) (segs : Vector Seg 8) (tenant sp swz : Nat)
    (member : Option Nat) (e : Int) (bs : List Byte) (drain : Bool) : EngineRun :=
  let start := engineStart segs sp e
  if !engineInside w segs sp member e bs.length then
    ⟨s, 0, [], some (.fault ⟨Trap.segment, 0, start, none⟩ false)⟩
  else (pieces start bs.length 0 bs.length).foldl (fun r p =>
    if r.stopped.isSome then r
    else match r.state.engineTarget t w segs tenant .write sp swz member (e + p.1) with
      | (s, .error f) => { r with state := s, stopped := some (.fault f false) }
      | (s, .ok x) =>
        match s.targetVerdict t x false, drain with
        | .fault k d, _ => { r with state := s, stopped := some (.fault ⟨k, d, start + p.1, none⟩ false) }
        | .wait l, false => { r with state := s, stopped := some (.wait l) }
        | .wait _, true | .ok, _ =>
          let y := s.engineStore t tenant x ((bs.drop p.1).take p.2) r.regions
          ⟨y.1, r.landed + p.2, y.2, if s.answerLost t [x] then some (.fault ⟨Trap.fabricLoss, lostMark, start + p.1, none⟩ false) else none⟩)
      ⟨s, 0, [], none⟩

/-- Writes bytes for an engine; answers the regions whose invalidations the write waits for (R205). -/
def State.engineWrite (s : State) (t : Nat) (w : Workgroup) (segs : Vector Seg 8) (tenant sp swz : Nat)
    (member : Option Nat) (e : Int) (bs : List Byte) : State × Served (List RegionKey) :=
  let r := s.engineRun t w segs tenant sp swz member e bs false
  match r.stopped with
  | none => (r.state, .ok r.regions)
  | some (.wait l) => (r.state, .wait l)
  | some (.fault f p) => (r.state, .fault f p)
  | some (.ok ()) => (r.state, .ok r.regions)

/-- The completion object of a job card: none, a gang offset, or an offset in one member for MCAST (R343). -/
def State.cardBarrier (s : State) (w : Workgroup) (card : BitVec 1024) (member : Option Nat) : Option Nat :=
  let off := card.toNat / 2 ^ 32 % 2 ^ 32
  if off = 0xFFFFFFFF then none else some (s.gangKeyAt w (member.getD 0 * w.spad + off))

/-- The card of a job. -/
def Job.card (j : Job) : BitVec 1024 :=
  match j.kind with
  | .copy c => c
  | .collective c => c
  | .matrix _ _ => 0

/-- The swizzle mode of a card's accesses (R343, R353). -/
def Job.swz (j : Job) : Nat :=
  match j.kind with
  | .copy c => c.toNat / 2 ^ 10 % 8
  | .collective c => c.toNat / 2 ^ (8 * 0x30 + 4) % 8
  | .matrix _ _ => 0

/-- The tiles of a gang's members. -/
def State.gangTiles (s : State) (w : Workgroup) : List Nat := (List.range 16).filterMap (s.memberTile w.gang)

/-- The X-first tree from a bank's tile to the members of an MCAST card's mask uses, inside the gang's rectangle, good links alone
(R49). -/
def State.treeGood (s : State) (w : Workgroup) (j : Job) (b : Nat) : Bool :=
  ((List.range 16).filter fun m => bitOf (j.card.toNat / 2 ^ (8 * 0x30)) m).all fun m =>
    (s.memberTile w.gang m).all fun u => pathCleanIn s.street (s.gangTiles w) u 110 b

/-- The tile from which a job's write is made: the job's; for MCAST the member's own, which the write's copy has reached (R49). -/
def State.writeSource (s : State) (t : Nat) (w : Workgroup) (x : JobWrite) : Nat := (x.member.bind (s.memberTile w.gang)).getD t

/-- The run of a job's write. -/
def State.jobRun (s : State) (t : Nat) (w : Workgroup) (tenant : Nat) (j : Job) (x : JobWrite) (drain : Bool) : EngineRun :=
  s.engineRun (s.writeSource t w x) w j.segs tenant x.space j.swz x.member x.offset x.bytes drain

/-- A write of which the first n bytes are performed, with the regions that they wait for: what is performed, and the rest. -/
def JobWrite.parts (x : JobWrite) (n : Nat) (ks : List RegionKey) : List JobWrite :=
  let k := min n x.count
  { x with bytes := [], regions := ks, count := k } ::
    (if x.bytes.length ≤ n then []
     else [{ x with offset := x.offset + n, bytes := x.bytes.drop n, count := x.count - k }])

/-- Performs the first write of a started job, whose copy has come, and counts it once it has landed (R205): bytes whose invalidations are not
acknowledged yet are performed and wait to be counted. A write that stops after some of its bytes leaves those landed, and
goes on from where it stopped (R164). -/
def State.landFirst (s : State) (t : Nat) (w : Workgroup) (tenant : Nat) (j : Job) : State × Served Job :=
  match j.writes with
  | [] => (s, .ok j)
  | x :: r =>
    let count (s : State) (n : Nat) : State :=
      match s.cardBarrier w j.card x.member with
      | some k => if n = 0 then s else s.countBytes k n
      | none => s
    if x.copy.isSome then (s, .ok j)
    else if x.bytes = [] then
      if x.regions.all s.acked then (count s x.count, .ok { j with writes := r })
      else (s, .ok j)
    else
      let y := s.jobRun t w tenant j x false
      match y.stopped with
      | none | some (.ok ()) =>
        if y.regions = [] then (count y.state x.count, .ok { j with writes := r })
        else (y.state, .ok { j with writes := x.parts x.bytes.length y.regions ++ r })
      | some (.wait l) => if y.landed = 0 then (y.state, .wait l) else (y.state, .ok { j with writes := x.parts y.landed y.regions ++ r })
      | some (.fault f p) =>
        if y.landed = 0 || f.detail = lostMark then (y.state, .fault f p) else (y.state, .ok { j with writes := x.parts y.landed y.regions ++ r })

end Sys2Proof.Machine
end

