-- ==== Sys2Proof/Machine/Ops.lean ====
section
/-! DEFINITION. The shared operations of an instruction: issue and its traps (R148), completing and moving on (R128,
R145, R146), blocking, taking a trap and returning from one (R316-R321), the default action of a wound (R304),
replayable page faults (R115, R164) and the abort of a launch (R93, R94). -/

namespace Sys2Proof.Machine

open Sys2Proof.Config

/-! ### Abort (R93, R94) -/

/-- The launch site of the issuing instruction. -/
def Ctx.site (c : Ctx) : DWord := c.g.site

/-- A fault record of a squad (R95). -/
def State.squadRecord (s : State) (t : Nat) (w : Workgroup) (slot : Nat) (r : TrapRegs) (src : Nat) : FaultRecord :=
  let l := s.launch? w.gang.launch
  { FaultRecord.blank with
      num := r.num.toNat, src := src, part := r.part, ward := (l.map (·.ward)).getD 0
      abort := (l.map fun l => l.status.isSome || l.ending.isSome).getD true
      qid := w.gang.launch.qid, lseq := w.gang.launch.seq, gang := w.gang.gang, tile := t, squad := slot, pc := r.site
      cmdSeq := r.seq, detail := r.det, addr := r.addr }

/-- Every squad key that the slices know of a launch. -/
def State.lockKeys (s : State) (k : LaunchKey) : List SquadKey :=
  dedup ((s.locks.flatMap fun l => l.holders.map (·.1) ++ l.waiting.map (·.squad)).filter fun q => q.gang.launch = k)

/-- The launch of a gang goes on: nothing is stopping it (R93, R97). -/
def State.goesOn (s : State) (k : LaunchKey) : Bool := (s.launch? k).all fun l => l.status.isNone && l.ending.isNone

/-! ### Jobs of a tile -/

/-- A job of a tile. -/
def State.job? (s : State) (t id : Nat) : Option (Workgroup × Job) :=
  (s.tile t).wg.bind fun w => (w.jobs.find? fun j => j.id = id).map fun j => (w, j)

/-- Replaces a job by a function of it. -/
def State.updJob (s : State) (t id : Nat) (f : Job → Job) : State :=
  s.updWg t fun w => { w with jobs := mapIf (fun j => j.id = id) f w.jobs }

/-- A job leaves its tile. -/
def State.dropJob (s : State) (t id : Nat) : State := s.updWg t fun w => { w with jobs := w.jobs.filter fun j => j.id ≠ id }

/-- The tenant of a workgroup's launch. -/
def State.tenantOf (s : State) (w : Workgroup) : Nat := ((s.launch? w.gang.launch).map (·.tenant)).getD 0

/-- The job stops, but for the stop itself: it has met a fault. -/
def State.failJob (s : State) (t id num detail addr : Nat) : State :=
  s.updJob t id fun j => { j with stage := .faulted num detail addr }

/-- The walker of a tile's reticle keeps its 64 walks (R162). -/
def State.walkerFull (s : State) (t : Nat) : Bool := 64 ≤ (s.walks.filter fun w => w.reticle = reticleOf t).length

/-- A walk for the page is outstanding (R162). -/
def State.walkPending (s : State) (tenant va : Nat) : Bool :=
  s.walks.any fun w => w.tenant = tenant && w.va / 4096 = va / 4096

/-- The trap registers of a fault of a job. -/
def Job.regs (j : Job) (num detail addr : Nat) : TrapRegs :=
  ⟨0, BitVec.ofNat 8 num, true, false, false, BitVec.ofNat 32 detail, BitVec.ofNat 64 addr, j.seq, 0, j.site⟩

/-- A job meets a replayable page fault: it pauses, with a record of SRC 1 unless the page's walk is outstanding or the walker
keeps as many walks as it can (R162). -/
def State.pauseJob (s : State) (t : Nat) (w : Workgroup) (j : Job) (f : MemFault) (level : Nat) : State :=
  let tenant := s.tenantOf w
  let r := s.squadRecord t w j.slot (j.regs f.num f.detail f.addr) 1
  let s := if s.walkPending tenant f.addr || s.walkerFull t then s
    else { s.raise r with walks := s.walks ++ [⟨tenant, f.addr, bitOf f.detail 2, false, level, s.devclk.toNat, false, r, reticleOf t⟩] }
  s.updJob t j.id fun j => { j with stage := .paused (f.addr / 4096) }

/-- The job has started: it is past its place in the scheduler, or waits at an anchor with its reads begun. -/
def State.begun (s : State) (t : Nat) (j : Job) : Bool :=
  match j.stage with
  | .started | .paused _ | .faulted _ _ _ => true
  | .queued => s.held.any fun h => h.request = .job t j.id

/-- A fault of a draining job is recorded with ABORT = 1 (R98): its launch has been stopped. -/
def State.recordDrained (s : State) (t : Nat) (w : Workgroup) (j : Job) (f : MemFault) : State :=
  s.raise { s.squadRecord t w j.slot (j.regs f.num f.detail f.addr) 1 with abort := true }

/-- The trap registers that an engine trap gives. -/
def engineRegs (e : EngineTrap) : TrapRegs :=
  ⟨0, BitVec.ofNat 8 e.number, true, false, false, e.detail, e.address, e.seq, 0, e.site⟩

/-- The engine traps of a workgroup that are on their way to its squads. -/
def State.trapsUnderWay (s : State) (w : Workgroup) : List (Nat × EngineTrap) :=
  s.agenda.filterMap fun p => match p.input with
    | .engineTrapArrival k e => if k.gang = w.gang && k.member = w.member then some (k.squad, e) else none
    | _ => none

/-- The engine traps under way to the squads of a launch that is being stopped are recorded with ABORT = 1 (R98). -/
def State.recordTraps (s : State) (t : Nat) (w : Workgroup) : State :=
  let s' := (s.trapsUnderWay w).foldl (fun s x =>
    s.raise { s.squadRecord t w x.1 (engineRegs x.2) 1 with abort := true }) s
  { s' with agenda := s'.agenda.filter fun p => match p.input with
      | .engineTrapArrival k _ => !(k.gang = w.gang && k.member = w.member)
      | _ => true }

/-- Lands the writes of a started job, one by one, as a stop of its launch drains it (R93 step 2, R97 step 3); the job is then
over. A fault ends it with a record, but for a member that cannot be reached (R348); at a page whose fault is replayable it
pauses, and goes on when that is resolved (R164, LOG 113). -/
def State.drainWrites (s : State) (t : Nat) (w : Workgroup) (tenant : Nat) (j : Job) : List JobWrite → State
  | [] => s.dropJob t j.id
  | x :: r =>
    if x.bytes = [] then State.drainWrites s t w tenant j r
    else
      let y := s.jobRun t w tenant j x true
      match y.stopped with
      | some (.fault f _) =>
        (match f.replay, x.member with
          | some level, _ =>
            (y.state.updJob t j.id fun j => { j with writes := (x.parts y.landed []).tail ++ r }).pauseJob t w j f level
          | none, some _ =>
            if f.num = Trap.fabricLoss then State.drainWrites y.state t w tenant j r
            else (y.state.recordDrained t w j f).dropJob t j.id
          | none, none => (y.state.recordDrained t w j f).dropJob t j.id)
      | none | some (.ok ()) | some (.wait _) => State.drainWrites y.state t w tenant j r

/-- A job of a launch that is being stopped: one that has started lands its writes, one that has not is discarded; one that
waits for a page or in its reads goes on by itself; a fault that it has met is recorded. -/
def State.drainJob (s : State) (t : Nat) (w : Workgroup) (tenant : Nat) (j : Job) : State :=
  match j.stage with
  | .faulted num detail addr => (s.recordDrained t w j ⟨num, detail, addr, none⟩).dropJob t j.id
  | .started => s.drainWrites t w tenant j j.writes
  | .queued | .paused _ => if s.begun t j then s else s.dropJob t j.id

/-- A collective group loses its members on some tiles and fails; it is over where no other has joined it (R356). -/
def Junction.lose (g : Junction) (p : Nat → Bool) : Option Junction :=
  let rest := g.members.filter fun m => !p m.tile
  if rest.length = g.members.length then some g else if rest = [] then none else some { g with members := rest, failed := true }

/-- The collective groups that have a member on some tiles have lost it. -/
def State.failGroups (s : State) (p : Nat → Bool) : State :=
  { s with junctions := s.junctions.filterMap fun e => (e.2.lose p).map fun g => (e.1, g) }

/-- The squads of a launch stop where they are, and its engine commands that have started run on (R93 steps 1 and 2). -/
def State.drainTiles (s : State) (p : GangKey → Bool) (tenant : Nat) : State :=
  s.tiles.foldl (fun s e =>
    match e.2.wg with
    | some w =>
      if p w.gang then
        let s := (s.recordTraps e.1 w).updWg e.1 fun w => { w with squads := w.squads.map fun q => { q with stopped := true } }
        (w.jobs.foldl (fun s j => s.drainJob e.1 w tenant j) s).failGroups fun t => t = e.1
      else s
    | none => s) s

/-- A tile's workgroup leaves it; what its squads' writes have caused and left stays counted (R198, R210). -/
def Tile.vacate (tl : Tile) : Tile :=
  { tl with wg := none, skew := none
            invals := dedup (tl.invals ++ tl.wg.toList.flatMap fun w => w.squads.flatMap fun q => q.invals)
            poolWrites := dedup (tl.poolWrites ++ tl.wg.toList.flatMap fun w => w.squads.flatMap fun q => q.poolWrites) }

/-- Empties the tiles of a launch's gangs: the allocations are freed (R93 step 4), and collective groups lose their members there
(R356). -/
def State.freeTiles (s : State) (p : GangKey → Bool) : State :=
  let s := s.failGroups fun t => (s.tile t).wg.any fun w => p w.gang
  { s with tiles := s.tiles.map fun e => if e.2.wg.any fun w => p w.gang then (e.1, e.2.vacate) else e }

/-- The squads of a launch that are on the wafer, with their tiles, and what is kept of those that are off it. -/
def State.launchSquads (s : State) (k : LaunchKey) : List (Nat × SquadKey × Squad) :=
  s.tiles.flatMap fun e => e.2.wg.toList.flatMap fun w =>
    if w.gang.launch = k then w.squads.map fun q => (e.1, squadKey w q, q) else []

/-- Lines go home, and what awaits their completion waits no longer. -/
def State.homeLines (s : State) (ls : List Nat) : State :=
  let s := ls.foldl State.flushLine s
  { s with deviceWrites := s.deviceWrites.filter fun l => !ls.contains l }

/-- The releases of an abort (R76, R93 step 3): of every squad, at system scope or the widest scope of its locks, and of what its
engines and its gangs that are off the wafer have written. -/
def State.releaseLaunch (s : State) (k : LaunchKey) : State :=
  let s := (s.launchSquads k).foldl (fun s x => s.finishRelease x.1 (max 6 (s.heldScope x.2.1)) x.2.2) s
  let kept := (s.gangs.filter fun g => g.key.launch = k).flatMap fun g => g.kept.flatMap fun m => m.squads.flatMap (·.poolWrites)
  s.homeLines (kept ++ s.farWrites.filter fun l => isHostWindow (128 * l))

/-- Forgets the gangs of a launch and what the lock manager keeps of their squads. -/
def State.forgetGangs (s : State) (p : GangKey → Bool) : State :=
  { s with gangs := s.gangs.filter (fun g => !p g.key), lockSquads := s.lockSquads.filter (fun l => !p l.squad.gang)
           sentGrants := s.sentGrants.filter fun g => !p g.grant.squad.gang }

/-- A running launch is being stopped (R93 steps 1 and 2): the first terminal event decides the status with which it ends (R98). -/
def State.haltLaunch (s : State) (k : LaunchKey) (status code : Nat) : State :=
  match s.launch? k with
  | none => s
  | some l =>
    if l.status.isSome then s
    else
      (s.updLaunch k fun l => { l with ending := l.ending.orElse fun _ => some (status, code) }).drainTiles (fun g => g.launch = k) l.tenant

/-- Engine commands of a launch are still under way. -/
def State.jobsLeft (s : State) (k : LaunchKey) : Bool := s.tiles.any fun e => e.2.wg.any fun w => w.gang.launch = k && w.jobs ≠ []

/-- A launch that is being stopped ends (R93 steps 3 to 6): its locks are released as by `LKRA`, its tiles freed, its records
written before its completion record. -/
def State.closeLaunch (s : State) (k : LaunchKey) : State :=
  match (s.launch? k).bind (·.ending) with
  | none => s
  | some (status, code) =>
    let s := s.releaseLaunch k
    let s := (s.lockKeys k).foldl (fun s q => s.releaseAll q false) s
    let s := (s.freeTiles fun g => g.launch = k).forgetGangs fun g => g.launch = k
    s.finishLaunch k status code

/-- Stops one running launch with a status, and ends it unless engine commands of it wait for a page (R93, R164, LOG 113). -/
def State.stopLaunch (s : State) (k : LaunchKey) (status code : Nat) : State :=
  if (s.launch? k).all fun l => l.status.isSome then s
  else if (s.haltLaunch k status code).jobsLeft k then s.haltLaunch k status code
  else (s.haltLaunch k status code).closeLaunch k

/-- The running launches that a domain stop takes with a launch of ward w (R94). -/
def State.domain (s : State) (w : Nat) : List LaunchKey :=
  if !s.effDstop w then []
  else (s.launches.filter fun l => l.status.isNone && s.rootWard l.ward = s.rootWard w
      && s.effFdom l.ward = s.effFdom w).map (·.key)

/-- The wards of the tenant that become DSTOPPED. -/
def State.stopDomain (s : State) (w : Nat) : State :=
  if !s.effDstop w then s
  else { s with wards := s.wards.map fun e =>
      if s.rootWard e.1 = s.rootWard w && s.effFdom e.1 = s.effFdom w then (e.1, { e.2 with dstopped := true }) else e }

/-- The abort of a launch after an unhandled fault, and of its fault domain (R93, R94). -/
def State.abortLaunch (s : State) (k : LaunchKey) (num : Nat) : State :=
  match s.launch? k with
  | none => s
  | some l =>
    let others := s.domain l.ward
    others.foldl (fun s k => s.stopLaunch k 2 num) ((s.stopDomain l.ward).stopLaunch k 2 num)

/-! ### Taking a trap (R316-R319) -/

/-- The squad's groups that keep issuing: all of them, or in a handler those of the threads that took the trap (R149). -/
def Squad.runs (q : Squad) (g : Group) : Bool := !q.intrap || g.threads &&& q.handler ≠ 0

/-- Moves the group at a PC elsewhere, out of its hint run, with a block. -/
def Squad.moveGroup (q : Squad) (pc dest : DWord) (blocked : Option Blocked) (now : Nat) : Squad :=
  match q.group? pc with
  | none => q
  | some g =>
    let rest := q.groups.filter fun h => h.pc ≠ pc
    { q with groups := addGroup { g with pc := dest, hints := none, blocked := blocked, since := now
                                         read := none } rest }

/-- Entry to the handler: the trap registers are written, `oc` and `lt` become invalid, INTRAP is set, and the taking
group, at `gpc`, continues at TRAPPC (R317). -/
def State.enterTrap (s : State) (t slot : Nat) (gpc trapPc : DWord) (r : TrapRegs) : State :=
  match s.squad? t slot with
  | none => s
  | some q =>
    let taking := ((q.group? gpc).map (·.threads)).getD 0
    s.putSquad t (({ q.deschedule with trap := r, intrap := true, handler := taking }).moveGroup gpc trapPc none s.coreCycles) 0

/-- The handler's PC where the trap is delivered to it (R316): the object declares one, the trap's bit in `hmsk` is 1
and the squad does not run its handler. -/
def handlerPc (l : Option Launch) (q : Squad) (num : Nat) : Option DWord :=
  match l with
  | none => none
  | some l => if !q.intrap && q.hmsk.getLsbD num then l.header.trapPc.map (BitVec.ofNat 64) else none

/-- Where a restarted span begins: SPANPC, or the entry PC when no `SPAN` has executed since the squad's placement or restore
(R304). -/
def Squad.spanPc (q : Squad) : DWord := if q.spanned then (q.span.map (·.pc)).getD q.entryPc else q.entryPc

/-- The default action for WOUND (R304, R320): the effect of `LKRA`, whose releases wait for R207 at the scopes of the entries,
keeping AGE; `lkst.WOUNDED`, and every live thread
at SPANPC as one group. -/
def State.defaultWound (s : State) (t slot : Nat) (w : Workgroup) : State :=
  let key : SquadKey := ⟨w.gang, w.member, slot⟩
  let s := ((w.squad? slot).map (s.finishRelease t (s.heldScope key))).getD s
  let s := s.releaseAll key true
  let s := s.setLockSquad { s.lockSquad key with wounded := true }
  match s.squad? t slot with
  | none => s
  | some q =>
    let q := (q.deliverAll fun _ => true).deschedule
    s.putSquad t { q.regroup q.live q.spanPc s.coreCycles with intrap := false, wound := false } 0

/-- Taking a trap (R316): by the handler; WOUND by its default action; an unhandled `BRK` by halting the squad with a
record (R321); anything else by a record with SRC 0 and the abort of the launch (R92). The taking group stands at `gpc`;
an unhandled `BRK` leaves it at the return PC. -/
def State.takeTrap (s : State) (t slot : Nat) (gpc : DWord) (r : TrapRegs) : State :=
  match (s.tile t).wg with
  | none => s
  | some w =>
    match w.squad? slot with
    | none => s
    | some q =>
      match handlerPc (s.launch? w.gang.launch) q r.num.toNat with
      | some pc => s.enterTrap t slot gpc pc r
      | none =>
        if r.num.toNat = Trap.wound then s.defaultWound t slot w
        else if r.num.toNat = Trap.brk then
          (s.raise (s.squadRecord t w slot r 0)).putSquad t { q.moveGroup gpc r.pc none s.coreCycles with halted := true } 0
        else (s.raise (s.squadRecord t w slot r 0)).abortLaunch w.gang.launch r.num.toNat

/-- The trap registers of a synchronous trap at the issuing instruction (R316, R319). -/
def Ctx.regs (c : Ctx) (num detail addr : Nat) (part : Bool) : TrapRegs :=
  { pc := c.site, num := BitVec.ofNat 8 num, async := false, past := false, part := part
    det := BitVec.ofNat 32 detail, addr := BitVec.ofNat 64 addr, seq := 0, arg := 0, site := c.site }

/-- A synchronous trap at the issuing instruction, which is not executed. -/
def State.trapAt (s : State) (c : Ctx) (num detail addr : Nat) : State :=
  s.takeTrap c.tile c.sq.slot c.g.pc (c.regs num detail addr false)

/-! ### Completing an instruction -/

/-- The squad after the group g leaves its instruction at the PCs of `next`: it splits by R128 and merges by R129. -/
def Squad.advance (q : Squad) (g : Group) (next : Nat → Option DWord) (order now after : Nat) : Squad :=
  let rest := q.groups.filter fun h => h.pc ≠ g.pc
  { q with groups := (splitGroup g next order now after).foldl (fun gs h => addGroup h gs) rest }

/-- Every lane continues at p + 4. -/
def Ctx.fall (c : Ctx) (_ : Nat) : Option DWord := some (c.g.pc + 4)

/-- DEADREAD after the instruction, when DRTRAP asks for it (R146): the return PC lies after the launch site. -/
def State.deadTrap (s : State) (i : Instr) (c : Ctx) : State :=
  if c.readsDead i && c.sq.drtrap then
    match (s.squad? c.tile c.sq.slot).bind fun q => q.groups.find? fun g => g.threads &&& c.g.threads ≠ 0 with
    | some g =>
      s.takeTrap c.tile c.sq.slot g.pc { c.regs Trap.deadread 0 0 false with pc := g.pc, past := true }
    | none => s
  else s

/-- The instruction completes: `f` writes its results after its dead marks, a terminator ends the span, and the lanes
go on at the PCs of `next`. -/
def State.retireTo (s : State) (i : Instr) (c : Ctx) (f : Squad → Squad) (next : Nat → Option DWord) (after : Nat) : State :=
  match s.squad? c.tile c.sq.slot with
  | none => s
  | some q =>
    let q := f (c.mark i q)
    let q := if i.isTerminator then { q with inSpan := false } else q
    let parts := (nextPcs c.g.threads next).length
    (s.putSquad c.tile (q.advance c.g next (s.tile c.tile).parkSeq s.coreCycles after) parts).deadTrap i c

/-- The instruction completes and the group continues at p + 4. -/
def State.retire (s : State) (i : Instr) (c : Ctx) (f : Squad → Squad) : State := s.retireTo i c f c.fall 0

/-- A group begins to wait, or waits on: a wait tried again keeps its start. -/
def Group.wait (g : Group) (b : Blocked) (read : Option Sources) (now : Nat) : Group :=
  { g with blocked := some b, since := if g.blocked.isSome then g.since else now, cause := 6, read := read }

/-- The group waits at its instruction, with its hints, and with what the instruction has read if it has issued. One that waits
at an anchor is held there in its turn. -/
def State.waitAt (s : State) (c : Ctx) (b : Blocked) (read : Option Sources) : State :=
  let s := match b with
    | .anchor line => s.hold line (.group ⟨c.tile, c.sq.slot, c.g.pc⟩)
    | .waitp _ _ | .qpop _ | .sleep _ _ | .home _ | .release _ | .fence | .snoops | .unbind | .page _ _ | .answer _ _ _ => s
  s.updSquad c.tile c.sq.slot fun q =>
    { q with groups := mapIf (fun g => g.pc = c.g.pc) (fun g => g.wait b read s.coreCycles) q.groups }

/-- The group waits in an instruction that has issued: it keeps what the instruction read then. -/
def State.block (s : State) (c : Ctx) (b : Blocked) : State := s.waitAt c b (some (c.g.read.getD c.sq.sources))

/-- The group waits before its instruction issues. -/
def State.stall (s : State) (c : Ctx) (b : Blocked) : State := s.waitAt c b none

/-! ### Issue (R148) -/

/-- A fence's payload: it releases unless its kind is acq (0), it acquires unless its kind is rel (1); its scope (R240, R292). -/
def fenceReleases (sub : Nat) : Bool := sub / 8 % 4 ≠ 0
def fenceAcquires (sub : Nat) : Bool := sub / 8 % 4 ≠ 1
def fenceScope (sub : Nat) : Nat := sub % 8
/-- The scope at which it releases. -/
def fenceRelease (sub : Nat) : Nat := if fenceReleases sub then fenceScope sub else 0

/-- The conditions of a fence of a squad hold (R292). -/
def State.fenceOver (s : State) (t : Nat) (q : Squad) (sub : Nat) : Bool :=
  s.releaseState t q (fenceRelease sub) = .ready && (!fenceAcquires sub || s.acquireReady (fenceScope sub))

/-- A fence of a squad has earlier writes to a granule that is lost (R182). -/
def State.fenceLost (s : State) (t : Nat) (q : Squad) (sub : Nat) : Bool := s.releaseState t q (fenceRelease sub) = .poolLost

/-- The effects of a fence that is complete: earlier loads have returned; as a release, what the squad waits for is done; as an
acquire, the tile's copies go. One of thread scope is complete once the squad's accesses have been issued. -/
def State.fenceDone (s : State) (t slot sub : Nat) : State :=
  if fenceScope sub = 0 then s
  else
    let s := s.updSquad t slot fun q => q.released (fenceRelease sub)
    if fenceAcquires sub then s.acquire t (fenceScope sub) else s

/-- Opcodes 0x40-0x73, which wait for the fences of their group. -/
def fencedRow (i : Instr) : Bool := 0x40 ≤ i.opcode && i.opcode ≤ 0x73

/-- The issuing group with other fences. -/
def Ctx.withFences (c : Ctx) (fs : List Nat) : Ctx :=
  let g := { c.g with fences := fs }
  { c with sq := { c.sq with groups := mapIf (fun h => h.pc = g.pc) (fun _ => g) c.sq.groups }, g := g }

/-- Before a group issues, its fences that are complete take their effects (R292). -/
def State.passFences (s : State) (c : Ctx) : State × Ctx :=
  if c.g.fences = [] then (s, c)
  else
    let done := c.g.fences.filter (s.fenceOver c.tile c.sq)
    let c := c.withFences (c.g.fences.filter fun f => !done.contains f)
    let s := done.foldl (fun s f => s.fenceDone c.tile c.sq.slot f) (s.updSquad c.tile c.sq.slot fun _ => c.sq)
    (s, { c with sq := (s.squad? c.tile c.sq.slot).getD c.sq })

/-- A group waits for its fences; one that cannot complete raises POOL_LOST. -/
def State.waitFences (s : State) (c : Ctx) : State :=
  if c.g.fences.any (s.fenceLost c.tile c.sq) then
    let c := c.withFences []
    (s.updSquad c.tile c.sq.slot fun _ => c.sq).trapAt c Trap.poolLost 0 0
  else (c.g.fences.foldl (fun s f => s.startRelease c.sq (fenceRelease f)) s).stall c .fence

/-- The instruction reads its sources as it issues: a dead register sets DEADRD, whether or not the instruction then traps (R146). -/
def Ctx.reading (c : Ctx) (i : Instr) : Ctx :=
  if c.g.inWait then c else { c with sq := { c.sq with deadrd := c.sq.deadrd || c.readsDead i } }

/-- The trap of an instruction that issues, if any (R148): ILLEGAL for what its own rule makes so (`wrong`), or the first of the
others. -/
def Ctx.trap (c : Ctx) (i : Instr) (wrong need : Ctx → Bool) (s : State) : Option Nat :=
  if c.g.inWait then none
  else if wrong c then some Trap.illegal
  else issueTrap i c (s.flash.stepping = 0) (c.priv s) (i.isPrivileged || need c)

/-- Issues an instruction: results that it must wait for are written, the issue traps are tried in order, and then its
body acts. An instruction that waits has issued already (R330). `wrong` says what its own rule makes ILLEGAL, and `need` that it
needs privilege beyond its row. -/
def issueIf (i : Instr) (wrong need : Ctx → Bool) (s : State) (body : State → Ctx → State) : Host.Outcome State Fault Refusal :=
  match s.ctx with
  | none => .fault .noIssuingGroup
  | some c =>
    let r := s.passFences c
    let c := r.2
    let s := r.1
    if c.g.fences ≠ [] && fencedRow i then .next (s.waitFences c)
    else
    let q := c.sq.settle i c.g
    let c : Ctx := { c with sq := q }
    let s := s.updSquad c.tile q.slot fun _ => q
    match c.trap i wrong need s with
    | some n => .next (s.trapAt c n 0 0)
    | none =>
      let c := c.reading i
      .next (body (s.updSquad c.tile q.slot fun _ => c.sq) c)

/-- Issues an instruction that may need privilege beyond its row. -/
def issueWith (i : Instr) (need : Ctx → Bool) (s : State) (body : State → Ctx → State) : Host.Outcome State Fault Refusal :=
  issueIf i (fun _ => false) need s body

/-- Issues an instruction. -/
def issue (i : Instr) (s : State) (body : State → Ctx → State) : Host.Outcome State Fault Refusal :=
  issueWith i (fun _ => false) s body

/-! ### Faults after issue (R284, R115, R164) -/

/-- Discards the squad's span (R115): every thread of the entry mask is live again, at SPANPC as one group, with `oc`
and `lt` invalid. -/
def Squad.discard (q : Squad) (now : Nat) : Squad :=
  match q.span with
  | none => q
  | some p => ((q.deliverAll fun _ => true).deschedule).regroup p.entryMask p.pc now

/-- Waits for the resolution of a page: the span is discarded, or the instruction alone waits (R115). -/
def State.waitPage (s : State) (c : Ctx) (b : Blocked) : State :=
  match s.squad? c.tile c.sq.slot with
  | none => s
  | some q =>
    if q.inSpan && !q.intrap then
      let q := q.discard s.coreCycles
      s.putSquad c.tile { q with groups := q.groups.map fun g => g.wait b none s.coreCycles } 0
    else s.stall c b

/-- A fault met by the instruction's own access: a replayable page fault makes a record, unless its walk is outstanding
already, and the squad waits; while the walker keeps as many walks as it can, the instruction waits for it; a request that is
lost is waited for until its time-out (R61); anything else is a synchronous trap (R284). -/
def State.memFault (s : State) (c : Ctx) (f : MemFault) (part : Bool) : State :=
  let tenant := c.tenant s
  match f.replay with
  | some level =>
    let b : Blocked := .page (f.addr / 4096) (c.regs f.num (f.detail - 2) f.addr part)
    let r := s.squadRecord c.tile c.wg c.sq.slot (c.regs f.num f.detail f.addr part) 0
    if s.walkPending tenant f.addr then s.waitPage c b
    else if s.walkerFull c.tile then s.stall c b
    else ({ s.raise r with walks := s.walks ++
            [⟨tenant, f.addr, bitOf f.detail 2, false, level, s.devclk.toNat, false, r, reticleOf c.tile⟩] } : State).waitPage c b
  | none =>
    if f.num = Trap.fabricLoss && f.detail = lostMark then s.block c (.answer s.fabricCycles f.addr part)
    else s.takeTrap c.tile c.sq.slot c.g.pc (c.regs f.num f.detail f.addr part)

/-- A fault that reaches a squad which is on no tile is recorded, with ABORT = 1 where its launch is stopped or over (R98); SRC 1
for an engine's. -/
def State.recordGone (s : State) (k : SquadKey) (e : EngineTrap) : State :=
  let l := s.launch? k.gang.launch
  let tile := ((s.gang? k.gang).map (·.origin)).getD 0
  (s.raise { FaultRecord.blank with
      num := e.number, src := if e.seq = 0 then 0 else 1, ward := (l.map (·.ward)).getD 0, abort := !s.goesOn k.gang.launch || l.isNone
      qid := k.gang.launch.qid, lseq := k.gang.launch.seq, gang := k.gang.gang, tile := tile, squad := k.squad, pc := e.site
      cmdSeq := e.seq, detail := e.detail, addr := e.address }).flush

/-- An engine trap reaches its squad (R335): it is held; while one is held, a further one only marks it. A squad that has
ended leaves it unhandled; one whose launch is being stopped has it recorded (R98). -/
def State.engineTrap (s : State) (t : Nat) (w : Workgroup) (slot : Nat) (e : EngineTrap) : State :=
  match w.squad? slot with
  | none => s
  | some q =>
    if !s.goesOn w.gang.launch then s.raise (s.squadRecord t w slot (engineRegs e) 1)
    else match q.engine with
    | some h => s.updSquad t slot fun q => { q with engine := some { h with detail := h.detail ||| 0x80000000#32 } }
    | none =>
      if q.ended then (s.raise (s.squadRecord t w slot (engineRegs e) 0)).abortLaunch w.gang.launch e.number
      else s.updSquad t slot fun q => { q with engine := some e }

/-! ### Returning from a trap (R320) -/

/-- `RESM` 0: the handler's group resumes at `trpc`, INTRAP is cleared, `oc` and `lt` are invalid. -/
def Squad.leaveHandler (q : Squad) (g : Group) (now : Nat) : Squad :=
  ({ q.deschedule with intrap := false, handler := 0 }).moveGroup g.pc q.trap.pc none now

/-! ### The next number of a command (R334) -/

/-- The number after n, modulo 2^32, skipping 0. -/
def nextSeq (n : Word) : Word := if n + 1 = 0 then 1 else n + 1

end Sys2Proof.Machine
end

