-- ==== Sys2Proof/Machine/Flags.lean ====
section
/-! DEFINITION. The status registers as words: `sqst` (R147), `lkst` (R309), `trnum` (R319), `pwrst` (R26), `bstat` (R34),
`rtstat` and `rterr` (R57), `accfix` (R237), `ptbase` (R325); and their writes field by field. -/

namespace Sys2Proof.Machine

/-- A word from fields given with their lowest bits. -/
def packFields (fs : List (Nat × Nat)) : Word := BitVec.ofNat 32 ((fs.map fun f => f.1 * 2 ^ f.2).foldl (· + ·) 0)

/-- `sqst` (R147). -/
def Squad.sqst (q : Squad) : Word :=
  packFields [(bit q.deadrd, 0), (bit q.drtrap, 1), (bit q.intrap, 2), (q.slot, 4), (q.slot % 4, 8)
    , (q.groups.length, 10), ((q.groups.filter Group.parked).length, 16), (q.genUse, 21)]

/-- A write to `sqst`: DEADRD clears by a 1, DRTRAP is written (R147). -/
def Squad.writeSqst (q : Squad) (v : Word) : Squad :=
  { q with deadrd := q.deadrd && !v.getLsbD 0, drtrap := v.getLsbD 1 }

/-- `lkst` of a squad (R309). -/
def State.lkst (s : State) (k : SquadKey) : Word :=
  let l := s.lockSquad k
  packFields [(bit (!s.lockBusy k), 0), (min 255 (s.locksHeld k), 1), (s.locksOut k, 9), (bit l.wounded, 14)
    , (bit l.revoked, 15), (bit l.age.isSome, 16)]

/-- A write to `lkst`: WOUNDED clears by a 1 (R309). -/
def State.writeLkst (s : State) (k : SquadKey) (v : Word) : State :=
  let l := s.lockSquad k
  if v.getLsbD 14 then s.setLockSquad { l with wounded := false } else s

/-- `trnum` (R319). -/
def TrapRegs.trnum (r : TrapRegs) : Word := packFields [(r.num.toNat, 0), (bit r.async, 8), (bit r.past, 9), (bit r.part, 10)]

/-- `pwrst` (R26). -/
def Power.pwrst (p : Power) : Word :=
  packFields [(bit p.narrow, 0), (bit p.alarm, 1), (bit p.hot, 2), (p.count.toNat, 8), (min 65535 (p.average / 10), 16)]

/-- `bstat` (R34). -/
def BringUp.bstat (b : BringUp) : Word :=
  packFields [(b.phase, 0), (bit b.rsvc, 4), (bit b.fwfail, 5), (bit b.short, 6), (bit b.roledef, 7), (b.good, 8)
    , (b.svn.toNat, 20)]

/-- `rtstat` (R57). -/
def RtStat.word (r : RtStat) : Word := packFields [(r.gen.toNat, 0), (r.state, 16), (r.err, 18), (bit r.fwc, 23)]
/-- `rterr` (R57). -/
def RtStat.errWord (r : RtStat) : Word := packFields [(r.router, 0), (r.dest, 12)]
/-- `accfix` (R237). -/
def Tile.accfix (t : Tile) : Word := packFields [(t.accCorr, 0), (t.accFail, 24)]

/-- A 64-bit value's half. -/
def half (v : DWord) (high : Bool) : Word := if high then v.extractLsb' 32 32 else v.setWidth 32

/-- A register read by MFS (R325). -/
def State.mfs (s : State) (c : Ctx) (sel : Nat) : Word :=
  match sel with
  | 0x00 => c.sq.sqst
  | 0x01 => s.bringUp.bstat
  | 0x03 => (s.tile c.tile).accfix
  | 0x04 => s.rt.word
  | 0x05 => s.rt.errWord
  | 0x06 => half c.sq.trap.site false
  | 0x08 => half c.sq.trap.pc false
  | 0x09 => c.sq.trap.trnum
  | 0x0A => c.sq.trap.det
  | 0x0B => half c.sq.trap.addr false
  | 0x0C => half c.sq.trap.addr true
  | 0x0D => c.sq.trap.seq
  | 0x0E => c.sq.trap.arg
  | 0x0F => half (match c.sq.span with | some p => p.pc | none => 0) false
  | 0x40 => s.lkst c.key
  | n =>
    if n < 0x100 then 0
    else
      let root := s.root ((n - 0x100) / 2)
      if n % 2 = 0 then BitVec.ofNat 32 (root % 2 ^ 32 / 4096 * 4096) else BitVec.ofNat 32 (root / 2 ^ 32 % 2 ^ 20)

/-- A write by MTS of a register with an RWP field needs privilege, whatever is written: `rtstat`, `ptbase` (R7, R325). -/
def mtsPriv (sel : Nat) : Bool := sel = 4 || 0x100 ≤ sel

/-- A write of a half of a tenant's `ptbase`: the low half is held, and the high half makes both take effect (R325). -/
def State.writePtbase (s : State) (sel : Nat) (v : Word) : State :=
  let tenant := (sel - 0x100) / 2
  if sel % 2 = 0 then { s with ptbaseLow := tabSet tenant v s.ptbaseLow }
  else
    let low := match tabFind tenant s.ptbaseLow with
      | some w => w.toNat / 4096 * 4096
      | none => s.root tenant % 2 ^ 32
    { s with ptbase := tabSet tenant (low + v.toNat % 2 ^ 20 * 2 ^ 32) s.ptbase, ptbaseLow := tabDel tenant s.ptbaseLow }

/-- A request to commit the staging tables (R56, R58): ignored with BUSY while one runs; refused at the first failing
condition; refused with MAPCHG when the street map has lost a part that firmware has still to commit, whereupon firmware
commits its own tables; or else the commit drains the old generation, and FWC says whose commit that is from then on, which R57
leaves open (LOG 102). -/
def State.requestCommit (s : State) : State :=
  if s.rt.state ≠ 0 then { s with rt := { s.rt with err := 6 } }
  else match checkTables s.street s.staging with
    | some (e, r, d) => { s with rt := { s.rt with err := e, router := r, dest := d } }
    | none =>
      if s.rt.want then { s with rt := { s.rt with err := 7 } }
      else { s with rt := { s.rt with state := 2, err := 0, fwc := false, swapped := false }, streetCommit := s.streetNext }

/-- A write by MTS, field by field (R7, R8, R325). -/
def State.mts (s : State) (c : Ctx) (sel : Nat) (v : Word) : State :=
  match sel with
  | 0x00 => s.updSquad c.tile c.sq.slot fun q => q.writeSqst v
  | 0x04 => if v.getLsbD 24 then s.requestCommit else s
  | 0x08 => if c.sq.intrap then
      s.updSquad c.tile c.sq.slot fun q => { q with trap := { q.trap with pc := v.setWidth 64 } } else s
  | 0x40 => s.writeLkst c.key v
  | n => if n < 0x100 then s else s.writePtbase n v

end Sys2Proof.Machine
end

