-- ==== Sys2Proof/Machine/LoadStore.lean ====
section
/-! DEFINITION. Loads, stores, prefetch, flush, placement and plane moves (R281-R289): opcodes 0x40-0x4F. -/

namespace Sys2Proof.Machine

open Sys2Proof.Config

/-! ### Addresses (R156) -/

/-- The signed immediate term, 0 when none is pending (R244). -/
def Ctx.immTerm (c : Ctx) : Int := ((hintImm c.g.hints).getD 0).toInt

/-- The base pair's value, 0 where the instruction names none. -/
def Ctx.baseTerm (c : Ctx) (i : Instr) : Nat :=
  match baseUse i c.g.hints with
  | some u => (c.pair u.op 0).toNat
  | none => 0

/-- The offset of a lane: base, scaled per-lane offset and immediate, in unbounded integers. -/
def Ctx.offset (c : Ctx) (i : Instr) (o : Operand) (scale j : Nat) : Int :=
  (c.baseTerm i : Int) + ((c.val o j).toNat * scale : Nat) + c.immTerm

/-- The lanes of which each performs an access: one when U = 1 (R282). -/
def Ctx.accessLanes (c : Ctx) (u : Bool) : List Nat := if u then [0] else lanesOf c.g.threads

/-- The address a fault names: an offset in the scratchpad, or else a virtual address. -/
def Ctx.addressOf (c : Ctx) (n : SegName) (off : Nat → Int) (j : Nat) : Nat :=
  if n = .sseg then (off j).toNat else segAddr c.sq n (off j) j

/-! ### Peer probes (R166) -/

/-- A line of a peer's L1 that a probe may return: filled for the same tenant. -/
def State.peerLine (s : State) (peer tenant line : Nat) : Option L1Line :=
  (s.tile peer).l1.find? fun l => l.line = line && l.tenant = tenant

/-- A probe of the predicted peer for a line that misses the L1: a hit fills the requester's L1. -/
def State.probe (s : State) (t tenant : Nat) (kseg : Bool) (line : Nat) : State :=
  if (s.l1Copy t tenant (128 * line) kseg).isSome then s
  else match tabFind line (s.tile t).predictor with
    | none => s
    | some peer =>
      match s.peerLine peer tenant line with
      | none => s
      | some l => s.l1Fill t tenant line kseg l.bytes

/-- Probes for every line of a load that may probe. -/
def State.probes (s : State) (c : Ctx) (kseg : Bool) (ts : List (Nat × Target)) : State :=
  ts.foldl (fun s e => match e.2 with | .phys pa => s.probe c.tile (c.tenant s) kseg (lineOf pa) | .spad _ _ => s) s

/-- The copy of a line in a tile's L1. -/
def Tile.l1Line? (tl : Tile) (line : Nat) : Option L1Line := tl.l1.find? fun l => l.line = line

/-- A load hinted no-allocate leaves no line in the L1 but as it was there before (R178, R332). -/
def State.unfill (s before : State) (t : Nat) (ts : List (Nat × Target)) : State :=
  ts.foldl (fun s e => match e.2 with
    | .phys pa =>
      if (s.tile t).l1Line? (lineOf pa) = (before.tile t).l1Line? (lineOf pa) then s else s.l1Drop t (lineOf pa)
    | .spad _ _ => s) s

/-- The pool lines that the lanes of a `pseg` access name, with their virtual addresses (R182). -/
def poolLines (n : SegName) (va : Nat → Nat) (ts : List (Nat × Target)) : List (Nat × Nat) :=
  if n = .pseg then ts.filterMap fun e => match e.2 with | .phys pa => some (lineOf pa, va e.1) | .spad _ _ => none else []

/-! ### Loads (R282-R285) -/

/-- The lane whose address a lost answer names: the lowest. -/
def Ctx.firstLane (c : Ctx) (u : Bool) : Nat := (c.accessLanes u).headD 0

/-- An instruction has done what it does. If its answer is lost the group waits for the time-out, its span over if the
instruction ends one; or else it completes (R61, R284). -/
def State.unlessLost (s : State) (i : Instr) (c : Ctx) (ts : List Target) (addr : Nat) (done : State → State) : State :=
  if s.answerLost c.tile ts then
    ((if i.isTerminator then s.updSquad c.tile c.sq.slot fun q => { q with inSpan := false } else s)).block c (.answer s.fabricCycles addr false)
  else done s

/-- The value of a load of SZ with SX (R282). -/
def loadValue (sz : Nat) (sx : Bool) (bs : List Byte) : DWord :=
  let v := leValue bs
  if sx then BitVec.ofInt 64 (toSigned (8 * 2 ^ sz) v) else BitVec.ofNat 64 v

/-- What distinguishes one load from another: its segment, whether its offset is scaled, its swizzle mode, the copies
that may serve it, whether it may probe a peer, and the effect that follows it. -/
structure LoadKind where
  seg : SegName
  scaled : Bool
  swz : Nat
  way : LoadWay
  probe : Bool
  plc : Nat
  acquire : Nat
deriving DecidableEq, Repr

/-- One load instruction. -/
def State.load (i : Instr) (f : MForm) (kind : Ctx → LoadKind) (s : State) : Host.Outcome State Fault Refusal :=
  issue i s fun s c =>
    let k := kind c
    let size := 2 ^ f.sz.toNat
    let off := c.offset i f.o (if k.scaled then size else 1)
    let va := c.addressOf k.seg off
    if !s.acquireReady k.acquire then s.block c .snoops
    else
      match s.resolve c k.seg .read (k.seg = .pseg) size k.swz (c.accessLanes f.u) off with
      | (s, .error e) => s.memFault c e false
      | (s, .ok ts) =>
        let before := s
        let s := (if k.probe then s.probes c (k.seg = .kseg) ts else s).placeHint k.plc (c.tenant s) ts
        let r := s.loads c.tile (c.tenant s) size k.seg k.way va ts
        let s := if k.way.alloc then r.1 else r.1.unfill before c.tile ts
        match r.2 with
        | .wait l => s.block c (.anchor l)
        | .fault e p => s.memFault c e p
        | .ok vs =>
          let value (j : Nat) : DWord := loadValue f.sz.toNat f.sx ((tabFind (if f.u then 0 else j) vs).getD [])
          s.unlessLost i c (ts.map (·.2)) (va (c.firstLane f.u)) fun s => (s.acquire c.tile k.acquire).retire i c fun q =>
            (c.send q f.t (if f.sz = 3 then 2 else 1) f.la.toNat f.u value).fromPool q (poolLines k.seg va ts)

/-- A plain or scoped `gseg`, `pseg` or `sseg` load (R283, R332). -/
def plainLoad (seg : SegName) (swz : Nat) (c : Ctx) : LoadKind :=
  let h := memHint c.g.hints
  ⟨seg, seg ≠ .sseg, swz, plainWay h false, h.ro && seg = .gseg, if seg = .sseg then 0 else h.plc, 0⟩

/-- An `LDK` or `LDX`: the scope kind is ignored (R283). -/
def privateLoad (seg : SegName) (c : Ctx) : LoadKind :=
  let h := { memHint c.g.hints with sc := false }
  ⟨seg, seg = .kseg, 0, plainWay h (seg = .kseg), seg = .kseg || h.ro, 0, 0⟩

/-- An `LDAQ` (R285): `pseg` at pool scope. -/
def acquireLoad (scope : Nat) (c : Ctx) : LoadKind :=
  let h := memHint c.g.hints
  ⟨if scope = 7 then .pseg else .gseg, true, 0, { acquireWay scope with fill := !h.na, alloc := !h.na }, h.ro && scope < 3, h.plc, scope⟩

/-- LDG. -/
def execLdg (f : MForm) (s : State) : Host.Outcome State Fault Refusal := s.load (.ldg f) f (plainLoad .gseg 0)
/-- LDS: BS is the swizzle mode (R158). -/
def execLds (f : MForm) (s : State) : Host.Outcome State Fault Refusal := s.load (.lds f) f (plainLoad .sseg f.bs.toNat)
/-- LDK. -/
def execLdk (f : MForm) (s : State) : Host.Outcome State Fault Refusal := s.load (.ldk f) f (privateLoad .kseg)
/-- LDP. -/
def execLdp (f : MForm) (s : State) : Host.Outcome State Fault Refusal := s.load (.ldp f) f (plainLoad .pseg 0)
/-- LDX. -/
def execLdx (f : MForm) (s : State) : Host.Outcome State Fault Refusal := s.load (.ldx f) f (privateLoad .xseg)
/-- LDAQ: BS is the scope. -/
def execLdaq (f : MForm) (s : State) : Host.Outcome State Fault Refusal := s.load (.ldaq f) f (acquireLoad f.bs.toNat)

/-! ### Stores -/

/-- Performs an act after the conditions of R207 hold for a release of a scope. -/
def State.afterRelease (s : State) (c : Ctx) (scope : Nat) (act : State → State) : State :=
  let q := (s.squad? c.tile c.sq.slot).getD c.sq
  let s := s.startRelease q scope
  match s.releaseState c.tile q scope with
  | .waiting => s.block c (.release scope)
  | .poolLost => s.trapAt c Trap.poolLost 0 0
  | .ready => act (s.updSquad c.tile c.sq.slot fun q => q.released scope)

/-- The bytes a lane stores (R282). -/
def Ctx.storeData (c : Ctx) (f : MForm) (j : Nat) : List Byte :=
  leBytes (2 ^ f.sz.toNat) (if f.sz = 3 then (c.pair f.t j).toNat else (c.val f.t j).toNat)

/-- A failing store that has performed some lanes ends its span no more than any other store; an error is taken at the
instruction (R284). -/
def State.storeLanes (s : State) (i : Instr) (c : Ctx) (f : MForm) (seg : SegName) (plc : Nat) (off : Nat → Int)
    (ts : List (Nat × Target)) : State :=
  match (s.placeHint plc (c.tenant s) ts).stores c (2 ^ f.sz.toNat) seg (c.addressOf seg off) (c.storeData f) ts with
  | (s, .wait l) => s.block c (.anchor l)
  | (s, .fault e p) => s.memFault c e p
  | (s, .ok ()) => s.unlessLost i c (ts.map (·.2)) (c.addressOf seg off (c.firstLane f.u)) fun s => s.retire i c id

/-- One store instruction; `release` is the scope of a `STRL`. -/
def State.store (i : Instr) (f : MForm) (seg : SegName) (scaled : Bool) (swz : Nat) (release : Option Nat) (s : State) :
    Host.Outcome State Fault Refusal :=
  issue i s fun s c =>
    let off := c.offset i f.o (if scaled then 2 ^ f.sz.toNat else 1)
    let plc := if seg = .gseg || seg = .pseg then (memHint c.g.hints).plc else 0
    match s.resolve c seg .write (seg = .pseg) (2 ^ f.sz.toNat) swz (c.accessLanes f.u) off with
    | (s, .error e) => s.memFault c e false
    | (s, .ok ts) =>
      match release with
      | none => s.storeLanes i c f seg plc off ts
      | some scope => s.afterRelease c scope fun s => s.storeLanes i c f seg plc off ts

/-- STG. -/
def execStg (f : MForm) (s : State) : Host.Outcome State Fault Refusal := s.store (.stg f) f .gseg true 0 none
/-- STS: BS is the swizzle mode (R158). -/
def execSts (f : MForm) (s : State) : Host.Outcome State Fault Refusal := s.store (.sts f) f .sseg false f.bs.toNat none
/-- STP. -/
def execStp (f : MForm) (s : State) : Host.Outcome State Fault Refusal := s.store (.stp f) f .pseg true 0 none
/-- STX. -/
def execStx (f : MForm) (s : State) : Host.Outcome State Fault Refusal := s.store (.stx f) f .xseg false 0 none
/-- STRL: BS is the scope; `pseg` at pool scope (R285). -/
def execStrl (f : MForm) (s : State) : Host.Outcome State Fault Refusal :=
  s.store (.strl f) f (if f.bs = 7 then .pseg else .gseg) true 0 (some f.bs.toNat)

/-! ### Prefetch and flush (R286, R287) -/

/-- The distinct lines of targets. -/
def targetLines (ts : List (Nat × Target)) : List Nat :=
  dedup (ts.filterMap fun e => match e.2 with | .phys pa => some (lineOf pa) | .spad _ _ => none)

/-- The lanes of a `PREF` that pass checks 1-3 of R157. -/
def Ctx.prefLanes (c : Ctx) (size : Nat) (off : Nat → Int) : List Nat :=
  (c.accessLanes false).filter fun j =>
    segCheck c.sq .gseg (off j) size && segAddr c.sq .gseg (off j) j % size = 0 && segAddr c.sq .gseg (off j) j < 2 ^ 48

/-- The fill that a `PREF` starts for one address, with the placement hint on its entry (R332): nothing where its translation
faults or it cannot be performed. -/
def State.prefetch (s : State) (c : Ctx) (h : MemHint) (va : Nat) : State :=
  match s.translate c.tile (c.tenant s) .read false va with
  | (s, .error _) => s
  | (s, .ok pa) =>
    match s.verdict c.tile pa false with
    | .ok => ((s.hintEntry pa h.plc (c.tenant s)).bankLoad c.tile (c.tenant s) (128 * lineOf pa) 128
        ⟨true, true, !h.na, false, !h.na⟩).1
    | .wait _ | .fault _ _ => s

/-- PREF. -/
def execPref (f : MForm) (s : State) : Host.Outcome State Fault Refusal :=
  issue (.pref f) s fun s c =>
    let size := 2 ^ f.sz.toNat
    let off := c.offset (.pref f) f.o size
    let vas := dedup ((c.prefLanes size off).map fun j => segAddr c.sq .gseg (off j) j / 128 * 128)
    let h := memHint c.g.hints
    (vas.foldl (fun s va => s.prefetch c h va) s).retire (.pref f) c id

/-- A modified line whose home its bank does not reach cannot be flushed (R19, R47). -/
def State.homeLost (s : State) (x : Target) : Bool :=
  match x with
  | .phys pa => s.modified (lineOf pa) && !s.lineReached (lineOf pa)
  | .spad _ _ => false

/-- The addresses of a flush, each a distinct line of its lanes, or what stops it. -/
def State.flushLines (s : State) (c : Ctx) (i : Instr) (f : MForm) (mode : AccessMode) : State × Served (List Nat) :=
  let size := 2 ^ f.sz.toNat
  let off := c.offset i f.o size
  match s.resolve c .gseg mode false size 0 (c.accessLanes false) off with
  | (s, .error e) => (s, .fault e false)
  | (s, .ok ts) =>
    let va := c.addressOf .gseg off
    match s.firstWait c.tile ts true, s.laneTrap c.tile va ts true, ts.find? fun e => s.homeLost e.2 with
    | some l, _, _ => (s, .wait l)
    | none, some e, _ => (s, .fault e false)
    | none, none, some e => (s, .fault (laneFault va e.1 Trap.fabricLoss 0) false)
    | none, none, none => (s, .ok (targetLines ts))

/-- Lines as targets. -/
def lineTargets (ls : List Nat) : List Target := ls.map fun l => .phys (128 * l)
/-- The address that a flush of its lowest lane names. -/
def Ctx.flushAddress (c : Ctx) (i : Instr) (f : MForm) : Nat :=
  c.addressOf .gseg (c.offset i f.o (2 ^ f.sz.toNat)) (c.firstLane false)

/-- FLSH: complete when every home has acknowledged. -/
def execFlsh (f : MForm) (s : State) : Host.Outcome State Fault Refusal :=
  issue (.flsh f) s fun s c =>
    match s.flushLines c (.flsh f) f .read with
    | (s, .wait l) => s.block c (.anchor l)
    | (s, .fault e p) => s.memFault c e p
    | (s, .ok ls) =>
      let s := ls.foldl (fun s l => (s.flushLine l).l1Drop c.tile l) s
      match ls.find? fun l => s.deviceWrites.contains l with
      | none => s.unlessLost (.flsh f) c (lineTargets ls) (c.flushAddress (.flsh f) f) fun s => s.retire (.flsh f) c id
      | some l => s.block c (.home l)

/-- FLSHD: every copy goes, and one write gives the line its home's bytes. -/
def execFlshd (f : MForm) (s : State) : Host.Outcome State Fault Refusal :=
  issue (.flshd f) s fun s c =>
    match s.flushLines c (.flshd f) f .write with
    | (s, .wait l) => s.block c (.anchor l)
    | (s, .fault e p) => s.memFault c e p
    | (s, .ok ls) =>
      let s := ls.foldl State.discardLine s
      let s := (ls.foldl (fun s l => ((s.touch c.tile (128 * l) 128 true).noteWrite c (128 * l)).l1Drop c.tile l) s).prune
      s.unlessLost (.flshd f) c (lineTargets ls) (c.flushAddress (.flshd f) f) fun s => s.retire (.flshd f) c id

/-! ### PLACE (R288) -/

/-- A hint word with a reserved value. -/
def placeBad (h : Word) : Bool := h.toNat % 8 ≥ 4 || h.getLsbD 3 || h.toNat / 16 % 16 ≥ 10 || h.toNat ≥ 256

/-- The blocks that a hint names: virtual base and region level, one for each page of a block larger than a page. -/
def placeBlocks (va size : Nat) : List (Nat × Nat) :=
  if size ≤ 5 then [(va, 9 - size)] else (List.range (2 ^ (size - 5))).map fun k => (va + 4096 * k, 4)

/-- The physical bases of blocks, or the fault of the lowest address that fails. -/
def State.placeAll (s : State) (c : Ctx) (bs : List (Nat × Nat)) : State × Except MemFault (List (Nat × Nat)) :=
  bs.foldl (fun acc b =>
    match acc.2 with
    | .error e => (acc.1, .error e)
    | .ok l =>
      match acc.1.translate c.tile (c.tenant s) .read false b.1 with
      | (s, .ok pa) => (s, .ok (l ++ [(pa, b.2)]))
      | (s, .error e) => (s, .error e)) (s, .ok [])

/-- PLACE. -/
def execPlace (f : MForm) (s : State) : Host.Outcome State Fault Refusal :=
  issueIf (.place f) (fun c => placeBad (c.uni f.t)) (fun _ => false) s fun s c =>
    let h := c.uni f.t
    let e := c.offset (.place f) f.o 1 0
    let bytes := 128 * 2 ^ (h.toNat / 16 % 16)
    let va := segAddr c.sq .gseg e 0
    if !segCheck c.sq .gseg e bytes then s.trapAt c Trap.segment 0 va
    else if va % bytes ≠ 0 then s.trapAt c Trap.misalign 0 va
    else
      match s.placeAll c (placeBlocks va (h.toNat / 16 % 16)) with
      | (s, .error e) => s.memFault c e false
      | (s, .ok bs) =>
        if bs.any fun b => !s.routes c.tile (s.anchor b.1) then s.trapAt c Trap.fabricLoss 0 va
        else if s.loss = .request && bs.any fun b => s.crosses c.tile b.1 then s.block c (.answer s.fabricCycles va false)
        else
          (bs.foldl (fun s b => s.hintBlock b.1 b.2 (h.toNat % 4) (c.tenant s)) s).unlessLost (.place f) c (bs.map fun b => .phys b.1) va fun s =>
            s.retire (.place f) c id

/-! ### Plane moves (R289) -/

/-- The targets of the 32 words at a uniform offset, or what stops the move. -/
def State.planeWords (s : State) (c : Ctx) (i : Instr) (f : MForm) : Except MemFault (List Target) :=
  let e := c.offset i f.o 1 0
  if !segCheck c.sq .sseg e 128 then .error ⟨Trap.segment, 0, e.toNat, none⟩
  else if e.toNat % 128 ≠ 0 then .error ⟨Trap.misalign, 0, e.toNat, none⟩
  else
    let ts := (List.range 32).map fun k => s.spadTarget c.wg f.bs.toNat (e.toNat + 4 * k)
    match ts.findSome? fun t => (s.targetVerdict c.tile t false).fault? with
    | some (k, d) => .error ⟨k, d, e.toNat, none⟩
    | none => .ok ts

/-- The offset that a plane move names, as an address. -/
def Ctx.planeAddress (c : Ctx) (i : Instr) (f : MForm) : Nat := (c.offset i f.o 1 0).toNat

/-- The key of a scratchpad target. -/
def Target.key : Target → Nat
  | .phys pa => pa
  | .spad _ k => k

/-- PSTS: word k holds bit k of every active lane. -/
def execPsts (f : MForm) (s : State) : Host.Outcome State Fault Refusal :=
  issue (.psts f) s fun s c =>
    match s.planeWords c (.psts f) f with
    | .error e => s.memFault c e false
    | .ok ts =>
      let word (k : Nat) : Nat :=
        ((lanesOf c.g.threads).map fun j => bit ((c.val f.t j).getLsbD k) * 2 ^ j).foldl (· + ·) 0
      (ts.zipIdx.foldl (fun s e => s.pokeNum e.1.key 4 (word e.2)) s).unlessLost (.psts f) c ts (c.planeAddress (.psts f) f) fun s =>
        s.retire (.psts f) c id

/-- PLDS: bit k of lane j is bit j of word k. -/
def execPlds (f : MForm) (s : State) : Host.Outcome State Fault Refusal :=
  issue (.plds f) s fun s c =>
    match s.planeWords c (.plds f) f with
    | .error e => s.memFault c e false
    | .ok ts =>
      let words := ts.map fun t => s.num t.key 4
      let value (j : Nat) : DWord :=
        BitVec.ofNat 64 ((words.zipIdx.map fun w => bit (bitOf w.1 j) * 2 ^ w.2).foldl (· + ·) 0)
      s.unlessLost (.plds f) c ts (c.planeAddress (.plds f) f) fun s => s.retire (.plds f) c fun q => c.send q f.t 1 f.la.toNat false value

end Sys2Proof.Machine
end

