-- ==== Sys2Proof/Machine/Atomics.lean ====
section
/-! DEFINITION. The atomics (R290, R291): opcodes 0x50-0x57. -/

namespace Sys2Proof.Machine

/-- The segment of a space code (R239): 0 `gseg`, 1 `pseg`, 2 `sseg`. -/
def atomSeg (f : AForm) : SegName := if f.space = 0 then .gseg else if f.space = 1 then .pseg else .sseg

/-- The bytes of an atomic's location. -/
def atomSize (f : AForm) : Nat := if f.w then 8 else 4

/-- T as the operand in a lane, at the atomic's width. -/
def Ctx.atomOperand (c : Ctx) (f : AForm) (j : Nat) : Nat := if f.w then (c.pair f.t j).toNat else (c.val f.t j).toNat

/-- m + t in F32 or F64, to nearest even (R290). -/
def atomicFadd (w : Bool) (m t : Nat) : Nat :=
  if w then (f64.addV 0 (f64.decode m) (f64.decode t)).1 else (f32.addV 0 (f32.decode m) (f32.decode t)).1

/-- The new value of a location of some bytes, from the old value m, the operand t and, for a compare-and-swap, the new value n
(R290). -/
def atomValue (op : AtomOp) (size m t n : Nat) : Nat :=
  match op with
  | .add => (m + t) % 2 ^ (8 * size)
  | .min => if toSigned (8 * size) t < toSigned (8 * size) m then t else m
  | .max => if toSigned (8 * size) m < toSigned (8 * size) t then t else m
  | .and => m &&& t
  | .or => m ||| t
  | .fadd => atomicFadd (size = 8) m t
  | .xch => t
  | .cas => if m = t then n else m

/-- An atomic of a group that has waited while its line moved to its own bank runs near there (R180). -/
def State.nearNow (s : State) (c : Ctx) (pa : Nat) : Bool :=
  s.nearMode c.tile pa || (c.g.inWait && s.nearLine c.tile pa && s.movedNow pa && (s.regionFor pa).loc = c.tile)

/-- One read-modify-write at a target: the value it found, and the state with the new one (R180, R188). -/
def State.rmw (s : State) (c : Ctx) (x : Target) (size : Nat) (op : Nat → Nat) : State × Nat :=
  match x with
  | .spad _ k => (s.pokeNum k size (op (s.num k size)), s.num k size)
  | .phys pa =>
    let r := s.bankAtomic c.tile (c.tenant s) pa size (s.nearNow c pa) op
    (r.1.noteWrite c pa, r.2)

/-- What the lanes of an atomic have done: the lanes and the values they found. -/
structure AtomRun where
  state : State
  found : List (Nat × Nat)

/-- The lanes in ascending order. -/
def State.atomLanes (s : State) (c : Ctx) (f : AForm) (op : Nat → Nat → Nat) (ts : List (Nat × Target)) : AtomRun :=
  ts.foldl (fun r e =>
    let x := r.state.rmw c e.2 (atomSize f) (op e.1)
    ⟨x.1, r.found ++ [(e.1, x.2)]⟩) ⟨s, []⟩

/-- The lines of near atomics that are not yet at the requester's bank (R180). -/
def State.nearMoves (s : State) (t : Nat) (ts : List (Nat × Target)) : List Nat :=
  dedup (ts.filterMap fun e => match e.2 with
    | .phys pa => if s.mustMove t pa then some (lineOf pa) else none
    | .spad _ _ => none)

/-- One atomic instruction: `op c j` gives the new value from the old one in lane j. -/
def State.atomic (i : Instr) (f : AForm) (op : Ctx → Nat → Nat → Nat) (s : State) : Host.Outcome State Fault Refusal :=
  issue i s fun s c =>
    let off := c.offset i f.o (if (atomSeg f) = .sseg then 1 else (atomSize f))
    let va := c.addressOf (atomSeg f) off
    match s.resolve c (atomSeg f) .write ((atomSeg f) = .pseg) (atomSize f) 0 (c.accessLanes f.u) off with
    | (s, .error e) => s.memFault c e false
    | (s, .ok ts) =>
      match s.firstWait c.tile ts false with
      | some l => s.block c (.anchor l)
      | none =>
        match s.laneTrap c.tile va ts false with
        | some e =>
          let r := s.atomLanes c f (op c) (s.soundLanes c.tile ts)
          let part : Bool := !r.found.isEmpty
          let s := if part then r.state.updSquad c.tile c.sq.slot fun q => { q with inSpan := false } else r.state
          s.memFault c e part
        | none =>
          match s.nearMoves c.tile ts with
          | l :: r => ((l :: r).foldl (fun s l => s.moveNear c.tile (128 * l)) s).block c (.anchor l)
          | [] =>
            let r := s.atomLanes c f (op c) ts
            let value (j : Nat) : DWord := BitVec.ofNat 64 ((tabFind (if f.u then 0 else j) r.found).getD 0)
            r.state.unlessLost i c (ts.map (·.2)) (va (c.firstLane f.u)) fun s => s.retire i c fun q =>
              (c.send q f.t (if f.w then 2 else 1) f.la.toNat f.u value).fromPool q (poolLines (atomSeg f) va ts)

/-- An atomic of two numbers of the location's width: the old value and T. -/
def State.atomic2 (i : Instr) (f : AForm) (op : AtomOp) (s : State) : Host.Outcome State Fault Refusal :=
  s.atomic i f fun c j m => atomValue op (atomSize f) m (c.atomOperand f j) 0

/-- AADD. -/
def execAadd (f : AForm) (s : State) : Host.Outcome State Fault Refusal := s.atomic2 (.aadd f) f .add
/-- AMIN, signed. -/
def execAmin (f : AForm) (s : State) : Host.Outcome State Fault Refusal := s.atomic2 (.amin f) f .min
/-- AMAX, signed. -/
def execAmax (f : AForm) (s : State) : Host.Outcome State Fault Refusal := s.atomic2 (.amax f) f .max
/-- AAND. -/
def execAand (f : AForm) (s : State) : Host.Outcome State Fault Refusal := s.atomic2 (.aand f) f .and
/-- AOR. -/
def execAor (f : AForm) (s : State) : Host.Outcome State Fault Refusal := s.atomic2 (.aor f) f .or
/-- AFADD. -/
def execAfadd (f : AForm) (s : State) : Host.Outcome State Fault Refusal := s.atomic2 (.afadd f) f .fadd
/-- AXCH. -/
def execAxch (f : AForm) (s : State) : Host.Outcome State Fault Refusal := s.atomic2 (.axch f) f .xch

/-- The comparand and the new value of an `ACAS` in a lane: T and T+1, or T:T+1 and T+2:T+3. -/
def Ctx.casOperands (c : Ctx) (f : AForm) (j : Nat) : Nat × Nat :=
  if f.w then ((c.pair f.t j).toNat, (c.pair (Operand.plus f.t 2) j).toNat)
  else ((c.val f.t j).toNat, (c.val (Operand.plus f.t 1) j).toNat)

/-- ACAS. -/
def execAcas (f : AForm) (s : State) : Host.Outcome State Fault Refusal :=
  s.atomic (.acas f) f fun c j m => atomValue .cas (atomSize f) m (c.casOperands f j).1 (c.casOperands f j).2

end Sys2Proof.Machine
end

