-- ==== Sys2Proof/Decode.lean ====
section
/-! DEFINITION. Decoding and encoding of the 32-bit instruction words (10_isa_encoding.md R238-R252): fields are
pulled out here, once. -/

namespace Sys2Proof

/-! ### Fields (R239) -/

/-- An operand specifier at a bit position. -/
def opAt (w : Word) (lo : Nat) : Operand := Operand.ofBits (w.extractLsb' lo 7)
/-- One bit. -/
def bitAt (w : Word) (n : Nat) : Bool := w.extractLsb' n 1 == 1#1
/-- Bit 0: X of the R format, SX of the M format. -/
def xBit (w : Word) : Bool := bitAt w 0

def rForm (w : Word) : RForm :=
  { u := bitAt w 24, d := opAt w 17, a := opAt w 10, b := opAt w 3, ka := bitAt w 2, kb := bitAt w 1 }
def iForm (w : Word) : IForm :=
  { u := bitAt w 24, d := opAt w 17, a := opAt w 10, imm := w.extractLsb' 0 10 }
def mForm (w : Word) : MForm :=
  { u := bitAt w 24, la := w.extractLsb' 20 4, t := opAt w 13, o := opAt w 6, sz := w.extractLsb' 4 2
    bs := w.extractLsb' 1 3, sx := bitAt w 0 }
def aForm (w : Word) : AForm :=
  { u := bitAt w 24, la := w.extractLsb' 20 4, t := opAt w 13, o := opAt w 6, scope := w.extractLsb' 3 3
    space := w.extractLsb' 1 2, w := bitAt w 0 }
def lForm (w : Word) : LForm :=
  { mode := w.extractLsb' 21 3, level := w.extractLsb' 19 2, a := opAt w 12, b := opAt w 5 }
/-- U = 1 and bits [4:0] zero (R252). -/
def lFixed (w : Word) : Bool := bitAt w 24 && w.extractLsb' 0 5 == 0#5
def qForm (w : Word) : QForm :=
  { u := bitAt w 24, la := w.extractLsb' 20 4, q := w.extractLsb' 16 4, a := opAt w 9, b := opAt w 2 }
def xForm (w : Word) : XForm :=
  { u := bitAt w 24, la := w.extractLsb' 20 4, tile := w.extractLsb' 16 4, a := opAt w 9, b := opAt w 2 }
def subField (w : Word) : BitVec 2 := w.extractLsb' 0 2
def bForm (w : Word) : BForm := { u := bitAt w 24, a := opAt w 17, offset := w.extractLsb' 0 17 }
def jField (w : Word) : BitVec 25 := w.extractLsb' 0 25
def sForm (w : Word) : SForm := { sub := w.extractLsb' 17 8, a := opAt w 10, imm := w.extractLsb' 0 10 }
def hField (w : Word) : BitVec 22 := w.extractLsb' 0 22

/-- `SYS` by sub8, and by imm10 where one sub-operation has several rows (R249, R324). -/
def decodeSys (w : Word) : Option Instr :=
  match (sForm w).sub.toNat with
  | 0 => some (.sysMfs (sForm w))
  | 1 => some (.sysMts (sForm w))
  | 2 => some (.sysClkr (sForm w))
  | 3 => some (.sysCycr (sForm w))
  | 4 => some (.sysSqid (sForm w))
  | 5 => some (.sysWgid (sForm w))
  | 6 => some (.sysGngid (sForm w))
  | 7 => some (.sysLnch (sForm w))
  | 8 => match (sForm w).imm.toNat with
    | 0 => some (.sysWardCreate (sForm w))
    | 1 => some (.sysWardModify (sForm w))
    | 2 => some (.sysWardDelete (sForm w))
    | 3 => some (.sysWardRead (sForm w))
    | 4 => some (.sysWardReset (sForm w))
    | 5 => some (.sysWardClear (sForm w))
    | _ => none
  | 9 => match (sForm w).imm.toNat with
    | 0 => some (.sysAmskRead (sForm w))
    | 1 => some (.sysAmskSwap (sForm w))
    | _ => none
  | 10 => some (.sysXmsk (sForm w))
  | 11 => some (.sysSegrd (sForm w))
  | 12 => some (.sysSegld (sForm w))
  | 13 => some (.sysSavep (sForm w))
  | 14 => some (.sysPrio (sForm w))
  | 15 => some (.sysIbinv (sForm w))
  | 16 => some (.sysL1inv (sForm w))
  | 17 => some (.sysTlbi (sForm w))
  | 18 => some (.sysCapr (sForm w))
  | 19 => some (.sysFtst (sForm w))
  | 20 => some (.sysFclr (sForm w))
  | 21 => some (.sysPstat (sForm w))
  | 22 => some (.sysTags (sForm w))
  | 23 => some (.sysTagc (sForm w))
  | 24 => some (.sysSnap (sForm w))
  | 25 => some (.sysCsum (sForm w))
  | 26 => some (.sysRtbl (sForm w))
  | 27 => some (.sysWtbl (sForm w))
  | 28 => some (.sysDmap (sForm w))
  | 29 => some (.sysPmap (sForm w))
  | 30 => some (.sysHalt (sForm w))
  | 31 => match (sForm w).imm.toNat with
    | 0 => some (.sysResm (sForm w))
    | 1 => some (.sysResmHalted (sForm w))
    | 2 => some (.sysResmDefault (sForm w))
    | _ => none
  | 32 => some (.sysEvpst (sForm w))
  | 33 => some (.sysSleep (sForm w))
  | 34 => some (.sysShpr (sForm w))
  | 35 => some (.sysDead (sForm w))
  | _ => none

/-- `HINT` by kind (R249). -/
def decodeHint (w : Word) : Option Instr :=
  match (w.extractLsb' 22 3).toNat with
  | 0 => some (.hintNop (hField w))
  | 1 => some (.hintImm (hField w))
  | 2 => some (.hintMem (hField w))
  | 3 => some (.hintArith (hField w))
  | 4 => some (.hintSched (hField w))
  | 5 => some (.hintKill (hField w))
  | 6 => some (.hintProf (hField w))
  | _ => none

/-- The opcode map (R248, R249): the row a word belongs to, whatever its other fields hold. -/
def decodeRow (w : Word) : Option Instr :=
  match (w.extractLsb' 25 7).toNat with
  | 0x00 => some (if xBit w then .iadds (rForm w) else .iadd (rForm w))
  | 0x01 => some (if xBit w then .isubs (rForm w) else .isub (rForm w))
  | 0x02 => some (if xBit w then .imulh (rForm w) else .imul (rForm w))
  | 0x03 => some (if xBit w then .imadh (rForm w) else .imad (rForm w))
  | 0x04 => some (if xBit w then .iminn (rForm w) else .imin (rForm w))
  | 0x05 => some (if xBit w then .imaxn (rForm w) else .imax (rForm w))
  | 0x06 => some (if xBit w then .andn (rForm w) else .andB (rForm w))
  | 0x07 => some (if xBit w then .orn (rForm w) else .orB (rForm w))
  | 0x08 => some (if xBit w then .xnor (rForm w) else .xorB (rForm w))
  | 0x09 => some (if xBit w then .rol (rForm w) else .shl (rForm w))
  | 0x0A => some (if xBit w then .sar (rForm w) else .shr (rForm w))
  | 0x0B => some (if xBit w then .csne (rForm w) else .cseq (rForm w))
  | 0x0C => some (if xBit w then .csltn (rForm w) else .cslt (rForm w))
  | 0x0D => some (if xBit w then .cslen (rForm w) else .csle (rForm w))
  | 0x0E => if xBit w then none else some (.sel (rForm w))
  | 0x0F => some (if xBit w then .clz (rForm w) else .popc (rForm w))
  | 0x10 => some (if xBit w then .ffs (rForm w) else .brev (rForm w))
  | 0x11 => some (if xBit w then .bfxs (rForm w) else .bfx (rForm w))
  | 0x12 => if xBit w then none else some (.bfi (rForm w))
  | 0x13 => some (if xBit w then .wsub (rForm w) else .wadd (rForm w))
  | 0x14 => some (if xBit w then .wmulh (rForm w) else .wmul (rForm w))
  | 0x15 => some (if xBit w then .wshr (rForm w) else .wshl (rForm w))
  | 0x16 => some (if xBit w then .movg (rForm w) else .mov (rForm w))
  | 0x17 => some (if xBit w then .ineg (rForm w) else .iabs (rForm w))
  | 0x18 => some (.iaddi (iForm w))
  | 0x19 => some (.imuli (iForm w))
  | 0x1A => some (.andi (iForm w))
  | 0x1B => some (.ori (iForm w))
  | 0x1C => some (.xori (iForm w))
  | 0x1D => some (.shli (iForm w))
  | 0x1E => some (.shri (iForm w))
  | 0x1F => some (.movi (iForm w))
  | 0x20 => some (if xBit w then .fsub (rForm w) else .fadd (rForm w))
  | 0x21 => some (if xBit w then .fscl (rForm w) else .fmul (rForm w))
  | 0x22 => some (if xBit w then .ffms (rForm w) else .ffma (rForm w))
  | 0x23 => some (if xBit w then .fmax (rForm w) else .fmin (rForm w))
  | 0x24 => some (if xBit w then .fcsne (rForm w) else .fcseq (rForm w))
  | 0x25 => some (if xBit w then .fcsle (rForm w) else .fcslt (rForm w))
  | 0x26 => some (if xBit w then .fcsor (rForm w) else .fcsun (rForm w))
  | 0x27 => some (if xBit w then .fneg (rForm w) else .fabs (rForm w))
  | 0x28 => some (if xBit w then .frsq (rForm w) else .frcp (rForm w))
  | 0x29 => some (if xBit w then .flg2 (rForm w) else .fex2 (rForm w))
  | 0x2A => some (if xBit w then .fcos (rForm w) else .fsin (rForm w))
  | 0x2B => some (if xBit w then .badd2 (rForm w) else .hadd2 (rForm w))
  | 0x2C => some (if xBit w then .bmul2 (rForm w) else .hmul2 (rForm w))
  | 0x2D => some (if xBit w then .bfma2 (rForm w) else .hfma2 (rForm w))
  | 0x2E => some (if xBit w then .dsub (rForm w) else .dadd (rForm w))
  | 0x2F => some (if xBit w then .dfma (rForm w) else .dmul (rForm w))
  | 0x30 => some (if xBit w then .cvtfn (rForm w) else .cvtfi (rForm w))
  | 0x31 => some (if xBit w then .cvtnf (rForm w) else .cvtif (rForm w))
  | 0x32 => some (if xBit w then .narb (rForm w) else .narh (rForm w))
  | 0x33 => some (if xBit w then .widb (rForm w) else .widh (rForm w))
  | 0x34 => some (if xBit w then .e5pk (rForm w) else .e4pk (rForm w))
  | 0x35 => some (if xBit w then .e5up (rForm w) else .e4up (rForm w))
  | 0x36 => if xBit w then none else some (.q4pk (rForm w))
  | 0x37 => if xBit w then none else some (.q4up (rForm w))
  | 0x38 => some (if xBit w then .shfx (rForm w) else .shfl (rForm w))
  | 0x39 => if xBit w then none else some (.bcst (rForm w))
  | 0x3A => some (if xBit w then .sqrf (rForm w) else .sqrd (rForm w))
  | 0x3B => some (if xBit w then .sqmf (rForm w) else .sqmx (rForm w))
  | 0x3C => some (if xBit w then .scnx (rForm w) else .scan (rForm w))
  | 0x3D => some (if xBit w then .bcnt (rForm w) else .balt (rForm w))
  | 0x3E => some (if xBit w then .ranka (rForm w) else .rank (rForm w))
  | 0x3F => if xBit w then none else some (.iota (rForm w))
  | 0x40 => some (.ldg (mForm w))
  | 0x41 => some (.stg (mForm w))
  | 0x42 => some (.lds (mForm w))
  | 0x43 => some (.sts (mForm w))
  | 0x44 => some (.ldk (mForm w))
  | 0x45 => some (.ldp (mForm w))
  | 0x46 => some (.stp (mForm w))
  | 0x47 => some (.ldx (mForm w))
  | 0x48 => some (.stx (mForm w))
  | 0x49 => some (.ldaq (mForm w))
  | 0x4A => some (.strl (mForm w))
  | 0x4B => some (.pref (mForm w))
  | 0x4C => some (if xBit w then .flshd (mForm w) else .flsh (mForm w))
  | 0x4D => some (.place (mForm w))
  | 0x4E => some (.psts (mForm w))
  | 0x4F => some (.plds (mForm w))
  | 0x50 => some (.aadd (aForm w))
  | 0x51 => some (.amin (aForm w))
  | 0x52 => some (.amax (aForm w))
  | 0x53 => some (.aand (aForm w))
  | 0x54 => some (.aor (aForm w))
  | 0x55 => some (.afadd (aForm w))
  | 0x56 => some (.axch (aForm w))
  | 0x57 => some (.acas (aForm w))
  | 0x58 => some (.fence (sForm w))
  | 0x59 => if xBit w then none else some (.binit (rForm w))
  | 0x5A => some (if xBit w then .arrx (rForm w) else .arrv (rForm w))
  | 0x5B => if xBit w then none else some (.waitp (rForm w))
  | 0x5C => if xBit w then none else some (.tstp (rForm w))
  | 0x5D => if xBit w then none else some (.bxpb (rForm w))
  | 0x5E => if xBit w then none else some (.yield (rForm w))
  | 0x5F => if xBit w then none else some (.binv (rForm w))
  | 0x60 => if lFixed w then some (.lock (lForm w)) else none
  | 0x61 => if lFixed w then some (.unlk (lForm w)) else none
  | 0x62 => if lFixed w then some (.lkup (lForm w)) else none
  | 0x63 => if lFixed w then some (.lkdn (lForm w)) else none
  | 0x64 => if lFixed w then some (.lkra (lForm w)) else none
  | 0x65 => if lFixed w then some (.lkqy (lForm w)) else none
  | 0x66 => if lFixed w then some (.lkag (lForm w)) else none
  | 0x67 => if lFixed w then some (.lkmx (lForm w)) else none
  | 0x68 => if subField w = 0 then some (.qpsh (qForm w)) else none
  | 0x69 => if subField w = 0 then some (.qpop (qForm w)) else none
  | 0x6A => if subField w = 0 then some (.qcnt (qForm w)) else none
  | 0x6B => if subField w = 0 then some (.cpyj (qForm w)) else none
  | 0x6C => if subField w = 0 then some (.colj (qForm w)) else none
  | 0x6D => if subField w = 0 then some (.qbnd (qForm w)) else none
  | 0x6E => none
  | 0x6F => none
  | 0x70 => match (subField w).toNat with
    | 0 => some (.mxcfConfig (xForm w))
    | 1 => some (.mxcfRelease (xForm w))
    | _ => none
  | 0x71 => if subField w = 0 then some (.mxlw (xForm w)) else none
  | 0x72 => if subField w = 0 then some (.mxst (xForm w)) else none
  | 0x73 => match (subField w).toNat with
    | 0 => some (.mxchBegin (xForm w))
    | 1 => some (.mxchEnd (xForm w))
    | 2 => some (.mxchDrain (xForm w))
    | _ => some (.mxchZero (xForm w))
  | 0x74 => some (.bra (jField w))
  | 0x75 => some (.bz (bForm w))
  | 0x76 => some (.bnz (bForm w))
  | 0x77 => some (.call (jField w))
  | 0x78 => some (if xBit w then .callr (rForm w) else .jmpr (rForm w))
  | 0x79 => some (.exit (jField w))
  | 0x7A => some (.span (jField w))
  | 0x7B => some (.trapc (sForm w))
  | 0x7C => decodeSys w
  | 0x7D => some (.trap (sForm w))
  | 0x7E => some (.brk (sForm w))
  | _ => decodeHint w

/-- Why a word is no instruction (R252). -/
inductive DecodeError where
  /-- The opcode, sub-operation or kind is reserved. -/
  | reservedOpcode
  /-- A field holds a value that the row does not allow. -/
  | illegalField
  /-- Fewer than four bytes. -/
  | tooShort
deriving DecidableEq, Repr

/-- The instruction of a word, or why there is none. -/
def decodeWord (w : Word) : Except DecodeError Instr :=
  match decodeRow w with
  | none => .error .reservedOpcode
  | some i => if i.wf then .ok i else .error .illegalField

/-- The word at the front of a list of bytes, little-endian (R238). -/
def wordOfBytes : List Byte → Option (Word × List Byte)
  | b0 :: b1 :: b2 :: b3 :: rest => some (b3 ++ b2 ++ b1 ++ b0, rest)
  | _ => none

/-- Decoding a list of bytes: total, the instruction with the rest of the list, or the reason for none. -/
def decode (bytes : List Byte) : Except DecodeError (Instr × List Byte) :=
  match wordOfBytes bytes with
  | none => .error .tooShort
  | some (w, rest) =>
    match decodeWord w with
    | .ok i => .ok (i, rest)
    | .error e => .error e

/-- The four bytes of a word as memory holds them (R238). -/
def bytesOfWord (w : Word) : List Byte :=
  [w.extractLsb' 0 8, w.extractLsb' 8 8, w.extractLsb' 16 8, w.extractLsb' 24 8]

/-- The instruction the decoder reads from an instruction whose bits are `w`: every instruction is one word, so the
bits above the first 32 are none. -/
def decodeTableWord (nbits w : Nat) : Option Instr :=
  if nbits ≤ 32 then
    match decode (bytesOfWord (BitVec.ofNat 32 (w % 2 ^ nbits))) with
    | .ok (i, _) => some i
    | .error _ => none
  else none

/-! ### Encoding (R239): the word of an instruction, from the same formats -/

def bit (b : Bool) : BitVec 1 := BitVec.ofBool b

def packR (op : BitVec 7) (x : Bool) (f : RForm) : Word :=
  op ++ bit f.u ++ f.d.toBits ++ f.a.toBits ++ f.b.toBits ++ bit f.ka ++ bit f.kb ++ bit x
def packI (op : BitVec 7) (f : IForm) : Word := op ++ bit f.u ++ f.d.toBits ++ f.a.toBits ++ f.imm
def packM (op : BitVec 7) (f : MForm) : Word :=
  op ++ bit f.u ++ f.la ++ f.t.toBits ++ f.o.toBits ++ f.sz ++ f.bs ++ bit f.sx
def packA (op : BitVec 7) (f : AForm) : Word :=
  op ++ bit f.u ++ f.la ++ f.t.toBits ++ f.o.toBits ++ f.scope ++ f.space ++ bit f.w
def packL (op : BitVec 7) (f : LForm) : Word :=
  op ++ 1#1 ++ f.mode ++ f.level ++ f.a.toBits ++ f.b.toBits ++ 0#5
def packQ (op : BitVec 7) (f : QForm) : Word :=
  op ++ bit f.u ++ f.la ++ f.q ++ f.a.toBits ++ f.b.toBits ++ 0#2
def packX (op : BitVec 7) (sub : BitVec 2) (f : XForm) : Word :=
  op ++ bit f.u ++ f.la ++ f.tile ++ f.a.toBits ++ f.b.toBits ++ sub
def packB (op : BitVec 7) (f : BForm) : Word := op ++ bit f.u ++ f.a.toBits ++ f.offset
def packJ (op : BitVec 7) (p : BitVec 25) : Word := op ++ p
def packS (op : BitVec 7) (f : SForm) : Word := op ++ f.sub ++ f.a.toBits ++ f.imm
def packH (kind : BitVec 3) (p : BitVec 22) : Word := 0x7F#7 ++ kind ++ p

/-- The word of an instruction; an event has none. -/
def encode : Instr → Option Word
  | .iadd f => some (packR 0x00#7 false f)
  | .iadds f => some (packR 0x00#7 true f)
  | .isub f => some (packR 0x01#7 false f)
  | .isubs f => some (packR 0x01#7 true f)
  | .imul f => some (packR 0x02#7 false f)
  | .imulh f => some (packR 0x02#7 true f)
  | .imad f => some (packR 0x03#7 false f)
  | .imadh f => some (packR 0x03#7 true f)
  | .imin f => some (packR 0x04#7 false f)
  | .iminn f => some (packR 0x04#7 true f)
  | .imax f => some (packR 0x05#7 false f)
  | .imaxn f => some (packR 0x05#7 true f)
  | .andB f => some (packR 0x06#7 false f)
  | .andn f => some (packR 0x06#7 true f)
  | .orB f => some (packR 0x07#7 false f)
  | .orn f => some (packR 0x07#7 true f)
  | .xorB f => some (packR 0x08#7 false f)
  | .xnor f => some (packR 0x08#7 true f)
  | .shl f => some (packR 0x09#7 false f)
  | .rol f => some (packR 0x09#7 true f)
  | .shr f => some (packR 0x0A#7 false f)
  | .sar f => some (packR 0x0A#7 true f)
  | .cseq f => some (packR 0x0B#7 false f)
  | .csne f => some (packR 0x0B#7 true f)
  | .cslt f => some (packR 0x0C#7 false f)
  | .csltn f => some (packR 0x0C#7 true f)
  | .csle f => some (packR 0x0D#7 false f)
  | .cslen f => some (packR 0x0D#7 true f)
  | .sel f => some (packR 0x0E#7 false f)
  | .popc f => some (packR 0x0F#7 false f)
  | .clz f => some (packR 0x0F#7 true f)
  | .brev f => some (packR 0x10#7 false f)
  | .ffs f => some (packR 0x10#7 true f)
  | .bfx f => some (packR 0x11#7 false f)
  | .bfxs f => some (packR 0x11#7 true f)
  | .bfi f => some (packR 0x12#7 false f)
  | .wadd f => some (packR 0x13#7 false f)
  | .wsub f => some (packR 0x13#7 true f)
  | .wmul f => some (packR 0x14#7 false f)
  | .wmulh f => some (packR 0x14#7 true f)
  | .wshl f => some (packR 0x15#7 false f)
  | .wshr f => some (packR 0x15#7 true f)
  | .mov f => some (packR 0x16#7 false f)
  | .movg f => some (packR 0x16#7 true f)
  | .iabs f => some (packR 0x17#7 false f)
  | .ineg f => some (packR 0x17#7 true f)
  | .iaddi f => some (packI 0x18#7 f)
  | .imuli f => some (packI 0x19#7 f)
  | .andi f => some (packI 0x1A#7 f)
  | .ori f => some (packI 0x1B#7 f)
  | .xori f => some (packI 0x1C#7 f)
  | .shli f => some (packI 0x1D#7 f)
  | .shri f => some (packI 0x1E#7 f)
  | .movi f => some (packI 0x1F#7 f)
  | .fadd f => some (packR 0x20#7 false f)
  | .fsub f => some (packR 0x20#7 true f)
  | .fmul f => some (packR 0x21#7 false f)
  | .fscl f => some (packR 0x21#7 true f)
  | .ffma f => some (packR 0x22#7 false f)
  | .ffms f => some (packR 0x22#7 true f)
  | .fmin f => some (packR 0x23#7 false f)
  | .fmax f => some (packR 0x23#7 true f)
  | .fcseq f => some (packR 0x24#7 false f)
  | .fcsne f => some (packR 0x24#7 true f)
  | .fcslt f => some (packR 0x25#7 false f)
  | .fcsle f => some (packR 0x25#7 true f)
  | .fcsun f => some (packR 0x26#7 false f)
  | .fcsor f => some (packR 0x26#7 true f)
  | .fabs f => some (packR 0x27#7 false f)
  | .fneg f => some (packR 0x27#7 true f)
  | .frcp f => some (packR 0x28#7 false f)
  | .frsq f => some (packR 0x28#7 true f)
  | .fex2 f => some (packR 0x29#7 false f)
  | .flg2 f => some (packR 0x29#7 true f)
  | .fsin f => some (packR 0x2A#7 false f)
  | .fcos f => some (packR 0x2A#7 true f)
  | .hadd2 f => some (packR 0x2B#7 false f)
  | .badd2 f => some (packR 0x2B#7 true f)
  | .hmul2 f => some (packR 0x2C#7 false f)
  | .bmul2 f => some (packR 0x2C#7 true f)
  | .hfma2 f => some (packR 0x2D#7 false f)
  | .bfma2 f => some (packR 0x2D#7 true f)
  | .dadd f => some (packR 0x2E#7 false f)
  | .dsub f => some (packR 0x2E#7 true f)
  | .dmul f => some (packR 0x2F#7 false f)
  | .dfma f => some (packR 0x2F#7 true f)
  | .cvtfi f => some (packR 0x30#7 false f)
  | .cvtfn f => some (packR 0x30#7 true f)
  | .cvtif f => some (packR 0x31#7 false f)
  | .cvtnf f => some (packR 0x31#7 true f)
  | .narh f => some (packR 0x32#7 false f)
  | .narb f => some (packR 0x32#7 true f)
  | .widh f => some (packR 0x33#7 false f)
  | .widb f => some (packR 0x33#7 true f)
  | .e4pk f => some (packR 0x34#7 false f)
  | .e5pk f => some (packR 0x34#7 true f)
  | .e4up f => some (packR 0x35#7 false f)
  | .e5up f => some (packR 0x35#7 true f)
  | .q4pk f => some (packR 0x36#7 false f)
  | .q4up f => some (packR 0x37#7 false f)
  | .shfl f => some (packR 0x38#7 false f)
  | .shfx f => some (packR 0x38#7 true f)
  | .bcst f => some (packR 0x39#7 false f)
  | .sqrd f => some (packR 0x3A#7 false f)
  | .sqrf f => some (packR 0x3A#7 true f)
  | .sqmx f => some (packR 0x3B#7 false f)
  | .sqmf f => some (packR 0x3B#7 true f)
  | .scan f => some (packR 0x3C#7 false f)
  | .scnx f => some (packR 0x3C#7 true f)
  | .balt f => some (packR 0x3D#7 false f)
  | .bcnt f => some (packR 0x3D#7 true f)
  | .rank f => some (packR 0x3E#7 false f)
  | .ranka f => some (packR 0x3E#7 true f)
  | .iota f => some (packR 0x3F#7 false f)
  | .ldg f => some (packM 0x40#7 f)
  | .stg f => some (packM 0x41#7 f)
  | .lds f => some (packM 0x42#7 f)
  | .sts f => some (packM 0x43#7 f)
  | .ldk f => some (packM 0x44#7 f)
  | .ldp f => some (packM 0x45#7 f)
  | .stp f => some (packM 0x46#7 f)
  | .ldx f => some (packM 0x47#7 f)
  | .stx f => some (packM 0x48#7 f)
  | .ldaq f => some (packM 0x49#7 f)
  | .strl f => some (packM 0x4A#7 f)
  | .pref f => some (packM 0x4B#7 f)
  | .flsh f | .flshd f => some (packM 0x4C#7 f)
  | .place f => some (packM 0x4D#7 f)
  | .psts f => some (packM 0x4E#7 f)
  | .plds f => some (packM 0x4F#7 f)
  | .aadd f => some (packA 0x50#7 f)
  | .amin f => some (packA 0x51#7 f)
  | .amax f => some (packA 0x52#7 f)
  | .aand f => some (packA 0x53#7 f)
  | .aor f => some (packA 0x54#7 f)
  | .afadd f => some (packA 0x55#7 f)
  | .axch f => some (packA 0x56#7 f)
  | .acas f => some (packA 0x57#7 f)
  | .fence f => some (packS 0x58#7 f)
  | .binit f => some (packR 0x59#7 false f)
  | .arrv f => some (packR 0x5A#7 false f)
  | .arrx f => some (packR 0x5A#7 true f)
  | .waitp f => some (packR 0x5B#7 false f)
  | .tstp f => some (packR 0x5C#7 false f)
  | .bxpb f => some (packR 0x5D#7 false f)
  | .yield f => some (packR 0x5E#7 false f)
  | .binv f => some (packR 0x5F#7 false f)
  | .lock f => some (packL 0x60#7 f)
  | .unlk f => some (packL 0x61#7 f)
  | .lkup f => some (packL 0x62#7 f)
  | .lkdn f => some (packL 0x63#7 f)
  | .lkra f => some (packL 0x64#7 f)
  | .lkqy f => some (packL 0x65#7 f)
  | .lkag f => some (packL 0x66#7 f)
  | .lkmx f => some (packL 0x67#7 f)
  | .qpsh f => some (packQ 0x68#7 f)
  | .qpop f => some (packQ 0x69#7 f)
  | .qcnt f => some (packQ 0x6A#7 f)
  | .cpyj f => some (packQ 0x6B#7 f)
  | .colj f => some (packQ 0x6C#7 f)
  | .qbnd f => some (packQ 0x6D#7 f)
  | .mxcfConfig f => some (packX 0x70#7 0#2 f)
  | .mxcfRelease f => some (packX 0x70#7 1#2 f)
  | .mxlw f => some (packX 0x71#7 0#2 f)
  | .mxst f => some (packX 0x72#7 0#2 f)
  | .mxchBegin f => some (packX 0x73#7 0#2 f)
  | .mxchEnd f => some (packX 0x73#7 1#2 f)
  | .mxchDrain f => some (packX 0x73#7 2#2 f)
  | .mxchZero f => some (packX 0x73#7 3#2 f)
  | .bra p => some (packJ 0x74#7 p)
  | .bz f => some (packB 0x75#7 f)
  | .bnz f => some (packB 0x76#7 f)
  | .call p => some (packJ 0x77#7 p)
  | .jmpr f => some (packR 0x78#7 false f)
  | .callr f => some (packR 0x78#7 true f)
  | .exit p => some (packJ 0x79#7 p)
  | .span p => some (packJ 0x7A#7 p)
  | .trapc f => some (packS 0x7B#7 f)
  | .trap f => some (packS 0x7D#7 f)
  | .brk f => some (packS 0x7E#7 f)
  | .sysMfs f | .sysMts f | .sysClkr f | .sysCycr f | .sysSqid f | .sysWgid f | .sysGngid f | .sysLnch f
    | .sysWardCreate f | .sysWardModify f | .sysWardDelete f | .sysWardRead f | .sysWardReset f
    | .sysWardClear f | .sysAmskRead f | .sysAmskSwap f | .sysXmsk f | .sysSegrd f | .sysSegld f
    | .sysSavep f | .sysPrio f | .sysIbinv f | .sysL1inv f | .sysTlbi f | .sysCapr f | .sysFtst f
    | .sysFclr f | .sysPstat f | .sysTags f | .sysTagc f | .sysSnap f | .sysCsum f | .sysRtbl f | .sysWtbl f
    | .sysDmap f | .sysPmap f | .sysHalt f | .sysResm f | .sysResmHalted f | .sysResmDefault f | .sysEvpst f
    | .sysSleep f | .sysShpr f | .sysDead f => some (packS 0x7C#7 f)
  | .hintNop p => some (packH 0#3 p)
  | .hintImm p => some (packH 1#3 p)
  | .hintMem p => some (packH 2#3 p)
  | .hintArith p => some (packH 3#3 p)
  | .hintSched p => some (packH 4#3 p)
  | .hintKill p => some (packH 5#3 p)
  | .hintProf p => some (packH 6#3 p)
  | .powerOnReset | .deviceReset | .hostPortReset | .powerSample | .powerAlarmClear | .waferPowerRemoval |
    .romCheck | .harvest | .treeBuild | .hbmTraining | .memoryClear | .fullServiceBegin | .standardCommand |
    .setroles | .imgchunk | .imgcommit | .imgcommitComplete | .idreport | .certread | .mark | .bankEmptyDone |
    .chkpt | .checkpointComplete | .biasflip | .biasflipComplete | .biasread | .qctlEnable | .qctlDisable |
    .qctlRead | .poolbind | .peerset | .sampctl | .snapctl | .cxlLinkTraining | .portLinkDown | .flitCrcFail |
    .replayRequest | .flitAcknowledge | .replayWindowEnd | .linkRetrainDone | .packetInject | .packetDeliver |
    .headerUeDiscard | .resendTimeout | .requestTimeout | .commitRequest | .firmwareCommit | .commitDrainDone |
    .commitComplete | .tailSnoop | .tailReread | .launchPacketRead | .headWrite | .hostMemRead | .hostMemWrite |
    .hostSnoop | .bisnpInv | .bisnpData | .poolGroupLost | .faultRecordWrite | .launchAbort | .tenantReset |
    .placementDecision | .preemptRequest | .preemptStop | .preemptSave | .workgroupEnd | .gangRetire |
    .poolEntryReclaim | .skewHoldTimeout | .resultWriteback | .asyncTrapEntry | .engineTrapArrival |
    .pageWalkDone | .replayableFaultTimeout | .peerProbe | .anchorRequest | .regionEvaluation | .moveOrder |
    .migrationTransfer | .moveAck | .replicaInvalidate | .invalidationAck | .replicaFillArrival |
    .uncorrectableError | .jobStart | .jobWriteLand | .jobComplete | .jobStop | .followOnIssue |
    .matrixCommandAct | .mxstSumsArrive | .collectiveJoin | .collectiveJoinTimeout | .collectiveChunkLand |
    .collectiveGroupFail | .collectiveTreeRebuild | .hostMsgWrite | .outheadReread | .intailPoll |
    .lockRequestArrival | .lockReleaseArrival | .lockGrant | .grantResendTimeout | .woundTrap | .revocation |
    .sleepTimer | .sample | .reservedEncoding _ | .instructionFetchFault | .modulePowerLoss |
    .memoryDeviceCompletion | .peerChunkArrival | .poolbindComplete => none

end Sys2Proof
end

