-- ==== Sys2Proof/Machine/Schedule.lean ====
section
/-! DEFINITION. What moves next: time, the groups that may issue and their order (R133-R135, R149), fetching (R238), and
the traps held for a squad at an instruction boundary (R148, R317). -/

namespace Sys2Proof.Machine

open Sys2Proof.Config

/-! ### Time (LOG 2) -/

/-- The `devclk` ticks that one quantum of 5 ns gives: `devclk` counts nanoseconds (R23). -/
def ticksPerQuantum : Nat := 5

/-- The core cycles of the squads that are on the wafer count towards the end of their wounds (R306). -/
def State.agewounds (s : State) (n : Nat) : List LockSquad :=
  s.lockSquads.map fun l =>
    match l.woundLeft with
    | some k => if (s.locate l.squad).isSome then { l with woundLeft := some (k - n) } else l
    | none => l

/-- Time passes: n quanta of 5 ns, each of 3 core cycles and 6 fabric cycles, half as many at reduced service. -/
def State.tick (s : State) : State :=
  let n := s.pace.headD 1
  let k := if s.bringUp.rsvc then 2 * n else n
  { s with devclk := s.devclk + BitVec.ofNat 64 (ticksPerQuantum * k), coreCycles := s.coreCycles + 3 * n
           fabricCycles := s.fabricCycles + 6 * n, pace := s.pace.tail, lockSquads := s.agewounds (3 * n) }

/-! ### Waits -/

/-- The elements that a pop queue or mailbox holds (R153). -/
def Workgroup.held (w : Workgroup) (q : Nat) : Nat :=
  if q = 3 then w.q3.count else ((w.boxes[q - 5]?).map (·.items.length)).getD 0

/-- The lock-grant object of a squad slot (R152). -/
def grantKey (t slot : Nat) : Nat := spadKey t (32 * slot)

/-- The squad has a lock request waiting (R294). -/
def State.lockWaits (s : State) (k : SquadKey) : Bool :=
  s.locks.any (fun l => (l.waits k).isSome) || s.sentGrants.any fun g => g.grant.squad = k

/-- PHASE of the squad's own lock-grant object. -/
def State.grantPhase (s : State) (t slot : Nat) : Word := BitVec.ofNat 32 (s.num (grantKey t slot) 4)

/-- The widest scope of the grants that advanced PHASE beyond a value (R193). -/
def State.grantScope (s : State) (k : SquadKey) (from_ ph : Word) : Nat :=
  ((s.lockSquad k).scopes.map fun e =>
    let d := BitVec.ofNat 32 e.1 - from_
    if d ≠ 0 && !(ph - from_).ult d then e.2 else 0).foldl max 0

/-- A release of a scope by a squad has lines still to send home. -/
def State.toSend (s : State) (q : Squad) (scope : Nat) : Bool := 6 ≤ scope && (s.releaseLines q scope).any s.modified

/-- The wait of a blocked group has ended, so that the group may issue again. -/
def State.ready (s : State) (t : Nat) (w : Workgroup) (q : Squad) (b : Blocked) : Bool :=
  match b with
  | .waitp none v =>
    let ph := s.grantPhase t q.slot
    if ph ≠ v then s.acquireReady (s.grantScope (squadKey w q) v ph) else !s.lockWaits (squadKey w q)
  | .waitp (some off) v =>
    let o := s.barrier (s.gangKeyAt w off)
    o.broken || (BitVec.ofNat 32 o.phase ≠ v && s.acquireReady o.scope)
  | .qpop n => w.held n ≠ 0
  | .sleep _ fired => fired
  | .anchor line => !s.anchorBusy (128 * line) && (match s.firstHeld line with
      | some (.group c) => c.tile = t && c.slot = q.slot
      | some _ => false
      | none => true)
  | .home line => !s.deviceWrites.contains line
  | .release scope => s.releaseState t q scope ≠ .waiting || s.toSend q scope
  | .fence => q.groups.any fun g => g.blocked = some .fence &&
      g.fences.any fun f => s.fenceOver t q f || s.fenceLost t q f || s.toSend q (fenceRelease f)
  | .snoops => s.answered
  | .unbind => w.q4.items = []
  | .answer _ _ _ => false
  | .page va _ => !s.walkPending (((s.launch? w.gang.launch).map (·.tenant)).getD 0) (4096 * va)

/-! ### Eligible groups (R133) -/

/-- A squad that issues nothing: stopped, ended, or held by the skew rule. -/
def squadHeld (tl : Tile) (q : Squad) : Bool :=
  q.stopped || q.ended || (match tl.skew with | some (slot, _) => slot = q.slot | none => false)

/-- The group stands at a boundary at which its squad may stop: outside a hint run and not in an instruction, but for
one that waits without having taken effect (R114, R245). An instruction that a fence holds back, or that waits for its fetch, has
not issued (R292). -/
def Group.atStop (g : Group) : Bool :=
  match g.blocked with
  | some (.waitp _ _) | some (.qpop _) | some (.sleep _ _) | some (.page _ _) => true
  | none | some .fence | some (.anchor _) | some (.home _) | some (.release _) | some .snoops | some .unbind | some (.answer _ _ _) =>
    g.read.isNone && g.hints.isNone

/-- A trap is held for the squad: WOUND, an engine trap or a late fault. -/
def Squad.pendingTrap (q : Squad) : Bool := q.wound || q.engine.isSome || q.late.isSome

/-- The squad is where it can stop but for its groups: ended, or inside a span, outside its handler and with no trap
pending (R114). -/
def Squad.restartable (q : Squad) : Bool := q.inSpan && !q.intrap && !q.halted && !q.pendingTrap

/-- The squad is at a restart point (R114). -/
def Squad.atRestart (q : Squad) : Bool := q.ended || (q.restartable && q.groups.all Group.atStop)

/-- The gang of a workgroup is asked to stop, and a squad that can stop issues no more (R116). -/
def State.stopping (s : State) (w : Workgroup) : Bool := (s.gang? w.gang).any fun g => g.stage ≠ .running

/-- The group may issue, apart from the competition of others. In a halted squad only an instruction that waits goes on, when
its wait has ended (R329). -/
def State.eligible (s : State) (t : Nat) (tl : Tile) (w : Workgroup) (q : Squad) (g : Group) : Bool :=
  !squadHeld tl q && (!q.halted || g.inWait) && q.runs g && !g.parked && g.notBefore ≤ s.coreCycles
    && !(q.restartable && g.atStop && s.stopping w)
    && (match g.blocked with | none => true | some b => s.ready t w q b)

/-- HINT.SCHED with FIRST is in force (R331). -/
def Group.first (g : Group) : Bool := (g.hints.bind (·.sched)).any fun p => p.getLsbD 4

/-- Starved: not issued for 64 core cycles, or FIRST. -/
def Group.starved (g : Group) (now : Nat) : Bool := g.issued + 64 ≤ now || g.first

/-- The order of PickIssue, as a key compared lexicographically. -/
def pickKey (now : Nat) (q : Squad) (g : Group) : List Nat :=
  [1 - bit q.intrap, 1 - bit (g.starved now), if g.starved now then g.issued else 0, 32 - maskCount g.threads
    , g.pc.toNat, q.slot]

/-- The eligible groups of a scheduler of a tile, as cursors with their keys. -/
def State.candidates (s : State) (t : Nat) (tl : Tile) (w : Workgroup) (n : Nat) : List (List Nat × Cursor) :=
  (w.squads.filter fun q => q.slot % 4 = n).flatMap fun q =>
    (q.groups.filter fun g => s.eligible t tl w q g).map fun g => (pickKey s.coreCycles q g, ⟨t, q.slot, g.pc⟩)

/-- The head of PickIssue for a scheduler. -/
def State.pick (s : State) (t : Nat) (tl : Tile) (w : Workgroup) (n : Nat) : Option Cursor :=
  (best (fun a b => a.1 < b.1) (s.candidates t tl w n)).map (·.2)

/-- What each scheduler that has an eligible group would issue. -/
def State.picks (s : State) : List Cursor :=
  s.tiles.flatMap fun e =>
    match e.2.wg with
    | none => []
    | some w => (List.range 4).filterMap fun n => s.pick e.1 e.2 w n

/-! ### Skew holds (R135) -/

/-- The PCs of the groups of a workgroup that are neither blocked, parked nor in a handler. -/
def activePcs (w : Workgroup) : List (Nat × Nat) :=
  w.squads.flatMap fun q =>
    (q.groups.filter fun g => g.blocked.isNone && !g.parked && !(q.intrap && g.threads &&& q.handler ≠ 0)).map
      fun g => (g.pc.toNat, q.slot)

/-- The squad whose fetch address leads the slowest group by more than 8 KiB: a squad's fetch address is taken to be the highest PC
of its groups that run, which R135 leaves open (LOG 58). -/
def skewed (w : Workgroup) : Option Nat :=
  match best (fun a b => a.1 > b.1) (activePcs w), best (fun a b => a.1 < b.1) (activePcs w) with
  | some f, some p => if f.1 > p.1 + 8192 then some f.2 else none
  | _, _ => none

/-- A squad's groups wait for a skew hold. -/
def Squad.inHold (q : Squad) : Squad := { q with groups := q.groups.map fun g => { g with cause := 4 } }

/-- A hold of a squad begins. -/
def Tile.beginHold (tl : Tile) (slot now : Nat) : Tile :=
  ({ tl with skew := some (slot, now) } : Tile).updWg fun w => w.updSquad slot Squad.inHold

/-- A tile's hold begins, goes on, passes to the squad that leads now, as a hold that begins (LOG 58), or ends by distance. -/
def Tile.holdSkew (tl : Tile) (now : Nat) : Tile :=
  match tl.wg with
  | none => tl
  | some w =>
    match skewed w, tl.skew with
    | some slot, none => if w.skewQuiet ≤ now then tl.beginHold slot now else tl
    | some slot, some (held, _) => if slot = held then tl else tl.beginHold slot now
    | none, _ => { tl with skew := none }

/-- Every tile's hold is brought up to date. -/
def State.holdSkew (s : State) : State :=
  { s with tiles := s.tiles.map fun e => (e.1, e.2.holdSkew s.coreCycles) }

/-! ### Fetch (R238) -/

/-- A word read through the tile's instruction cache (R165): a copy of the line that differs from memory may serve the
fetch (LOG 7). -/
def State.icacheWord (s : State) (t pa : Nat) : State × Word :=
  let now : Word := BitVec.ofNat 32 (s.num (s.memKey pa) 4)
  match (s.tile t).icache.find? fun l => l.line = lineOf pa with
  | some l =>
    let old : Word := BitVec.ofNat 32 (leValue ((l.bytes.drop (pa % 128)).take 4))
    if old = now then (s, now)
    else if freeBool s.freeCtr then ({ s with freeCtr := s.freeCtr + 1 }, old)
    else ({ s with freeCtr := s.freeCtr + 1 }, now)
  | none =>
    let s := s.serveRead t pa
    let l : L1Line := ⟨lineOf pa, s.lineBytes (lineOf pa), false, 0⟩
    let now : Word := BitVec.ofNat 32 (s.num (s.memKey pa) 4)
    (s.updTile t fun tl => { tl with icache := (l :: tl.icache).take 512 }, now)

/-- The word at a group's PC, or the fault of its fetch. -/
def State.fetch (s : State) (c : Ctx) : State × Served Word :=
  let p := c.g.pc.toNat
  let va := segAddr c.sq .iseg p 0
  if !segCheck c.sq .iseg p 4 then (s, .fault ⟨Trap.segment, 0, va, none⟩ false)
  else
    match s.translate c.tile (c.tenant s) .exec false va with
    | (s, .error f) => (s, .fault f false)
    | (s, .ok pa) =>
      let held := (s.tile c.tile).icache.any fun l => l.line = lineOf pa
      match ({ s with loss := if held then .none else s.loss } : State).verdict c.tile pa false with
      | .wait l => (s, .wait l)
      | .fault k d => (s, .fault ⟨k, d, va, none⟩ false)
      | .ok =>
        if !held && s.answerLost c.tile [.phys pa] then (s, .fault ⟨Trap.fabricLoss, lostMark, va, none⟩ false)
        else
          let r := s.icacheWord c.tile pa
          (r.1, .ok r.2)

/-- The instruction that the group of `cur` issues: that of its word, or the row for a fetch that fails. -/
def State.nextInstr (s : State) : State × Instr :=
  match s.ctx with
  | none => (s, .instructionFetchFault)
  | some c =>
    match s.fetch c with
    | (s, .ok w) => (s, (decodeRow w).getD (.reservedEncoding w))
    | (_, .wait _) | (_, .fault _ _) => (s, .instructionFetchFault)

/-! ### Traps held at a boundary (R148, R245, R317, R318) -/

/-- A trap is held for the squad and may be taken: WOUND, an engine trap or a late fault, outside its handler. -/
def Squad.held (q : Squad) : Bool := !q.intrap && q.pendingTrap

/-- A held trap is taken at this boundary unless the instruction traps: the group is not inside a hint run. -/
def State.heldAt (s : State) (c : Cursor) : Bool :=
  match s.at? c with
  | none => false
  | some x => x.sq.held && x.g.hints.isNone

/-- The instruction has trapped or its squad is gone: the squad runs its handler, a `BRK` has halted it (R321), or its launch is
stopped. -/
def State.left (s : State) (c : Cursor) (i : Instr) : Bool :=
  match s.squad? c.tile c.slot with
  | none => true
  | some q => q.intrap || q.stopped || (q.halted && i.opcode == 0x7E)

/-- The row by which a squad takes a trap that it holds: WOUND first. -/
def heldRow (wound : Bool) (t slot : Nat) : Pending :=
  if wound then ⟨.woundTrap, .woundTrap t slot⟩ else ⟨.asyncTrapEntry, .asyncTrapEntry t slot⟩

/-- The row for the squad of a cursor. -/
def State.heldRow (s : State) (c : Cursor) : Pending :=
  Sys2Proof.Machine.heldRow ((s.squad? c.tile c.slot).any (·.wound)) c.tile c.slot

end Sys2Proof.Machine
end

