-- ==== Sys2Proof/Machine/Barriers.lean ====
section
/-! DEFINITION. `FENCE`, the barrier instructions and `YIELD` (R292-R295): opcodes 0x58-0x5F. -/

namespace Sys2Proof.Machine

/-! ### FENCE (R292) -/

/-- FENCE: bits [2:0] of sub8 are the scope and [4:3] the kind, 0 acq, 1 rel, 2 ar, 3 sc. It completes at once, or the group goes
on and its instructions of opcodes 0x40-0x73 wait for it. -/
def execFence (f : SForm) (s : State) : Host.Outcome State Fault Refusal :=
  issue (.fence f) s fun s c =>
    let n := f.sub.toNat
    let s := s.startRelease c.sq (fenceRelease n)
    if s.fenceLost c.tile c.sq n then s.trapAt c Trap.poolLost 0 0
    else if s.fenceOver c.tile c.sq n then (s.fenceDone c.tile c.sq.slot n).retire (.fence f) c id
    else s.retire (.fence f) { c with g := { c.g with fences := c.g.fences ++ [n] } } id

/-! ### Barrier objects named by an instruction (R293) -/

/-- The offset that A names. -/
def Ctx.object (c : Ctx) (a : Operand) : Nat := (c.uni a).toNat

/-- The fabric reaches the tile of an object (R47). -/
def State.objectReached (s : State) (c : Ctx) (off : Nat) : Bool :=
  match (s.targetVerdict c.tile (s.spadTarget c.wg 0 off) false).fault? with
  | some (_, d) => d = lostMark
  | none => true

/-- What naming an object at an offset raises: SEGMENT for 124 and for an object outside the allocation, then
MISALIGN, then SEGMENT for reserved fields where the instruction uses the object. `own` limits it to the executing
member's allocation. -/
def State.objectCheck (s : State) (c : Ctx) (a : Operand) (own used : Bool) : Option Nat :=
  let off := c.object a
  let lo := if own then c.wg.member * c.wg.spad else 0
  let hi := if own then (c.wg.member + 1) * c.wg.spad else (c.sq.seg .sseg).limit.toNat
  if a = .zero then some Trap.segment
  else if off < lo || hi < off + 32 then some Trap.segment
  else if off % 32 ≠ 0 then some Trap.misalign
  else if !s.objectReached c off then some Trap.fabricLoss
  else if used && (s.barrier (s.gangKeyAt c.wg off)).broken then some Trap.segment
  else none

/-- The instruction acts on the object that A names, or raises what naming it raises, or waits for an answer to a request that is
lost (R61). -/
def State.onObject (s : State) (c : Ctx) (a : Operand) (own used : Bool) (act : State → Nat → State) : State :=
  match s.objectCheck c a own used with
  | some n => s.trapAt c n 0 (c.object a)
  | none =>
    if s.loss = .request && s.crossesTo c.tile (s.spadTarget c.wg 0 (c.object a)) then
      s.block c (.answer s.fabricCycles (c.object a) false)
    else act s (s.gangKeyAt c.wg (c.object a))

/-- BINIT: B[15:0] EXPARR, B[18:16] SCOPE, D EXPBYTES. -/
def execBinit (f : RForm) (s : State) : Host.Outcome State Fault Refusal :=
  issue (.binit f) s fun s c => s.onObject c f.a true false fun s k =>
    let b := (c.uni f.b).toNat
    let scope := b / 2 ^ 16 % 8
    if b / 2 ^ 19 ≠ 0 || scope = 0 || 4 ≤ scope then s.trapAt c Trap.segment 0 (c.object f.a)
    else (s.setBarrier k ⟨0, b % 2 ^ 16, 0, (c.uni f.d).toNat, 0, scope, false, false⟩).retire (.binit f) c id

/-- The groups of a tile's workgroup that wait on the object at a key: slot and PC. -/
def State.waiters (s : State) (w : Workgroup) (k : Nat) : List (Nat × Group) :=
  w.squads.flatMap fun q => q.groups.filterMap fun g =>
    match g.blocked with
    | some (.waitp (some off) _) => if s.gangKeyAt w off = k then some (q.slot, g) else none
    | some (.waitp none _) | some (.qpop _) | some (.sleep _ _) | some (.anchor _) | some (.home _)
    | some (.release _) | some .fence | some .snoops | some .unbind | some (.page _ _) | some (.answer _ _ _) | none => none

/-- A blocked `WAITP` ends with SEGMENT (R294). -/
def State.endWait (s : State) (t slot : Nat) (g : Group) (addr : Nat) : State :=
  s.takeTrap t slot g.pc { pc := g.site, num := BitVec.ofNat 8 Trap.segment, async := false, past := false, part := false
                           det := 0, addr := BitVec.ofNat 64 addr, seq := 0, arg := 0, site := g.site }

/-- BINV: the fields go, PHASE stays, and every blocked `WAITP` on the object ends with SEGMENT. -/
def execBinv (f : RForm) (s : State) : Host.Outcome State Fault Refusal :=
  issue (.binv f) s fun s c => s.onObject c f.a true true fun s k =>
    let waiting := s.waiters ((s.tile c.tile).wg.getD c.wg) k
    let s := (s.setBarrier k ⟨(s.barrier k).phase, 0, 0, 0, 0, 0, (s.barrier k).lkg, false⟩).retire (.binv f) c id
    waiting.foldl (fun s e => s.endWait c.tile e.1 e.2 (c.object f.a)) s

/-- Arrivals at the object that A names, as a release at its scope (R194, R293). -/
def State.arrival (s : State) (i : Instr) (c : Ctx) (a : Operand) (change : BarrierObj → BarrierObj) (n : Nat) : State :=
  s.onObject c a false true fun s k =>
    s.afterRelease c (s.barrier k).scope fun s =>
      (s.setBarrier k ((change (s.barrier k)).arrive n)).unlessLost i c [s.spadTarget c.wg 0 (c.object a)] (c.object a) fun s => s.retire i c id

/-- ARRV: one arrival for each thread of the group. -/
def execArrv (f : RForm) (s : State) : Host.Outcome State Fault Refusal :=
  issue (.arrv f) s fun s c => s.arrival (.arrv f) c f.a id (maskCount c.g.threads)

/-- ARRX: B[15:0] arrivals. -/
def execArrx (f : RForm) (s : State) : Host.Outcome State Fault Refusal :=
  issue (.arrx f) s fun s c => s.arrival (.arrx f) c f.a id ((c.uni f.b).toNat % 2 ^ 16)

/-- BXPB: EXPBYTES is written, and one arrival follows. -/
def execBxpb (f : RForm) (s : State) : Host.Outcome State Fault Refusal :=
  issue (.bxpb f) s fun s c =>
    s.arrival (.bxpb f) c f.a (fun o => { o with expbytes := (c.uni f.b).toNat }) 1

/-! ### Waiting (R294) -/

/-- The phase of the object that a wait names: none for the lock-grant object. -/
def State.phaseOf (s : State) (c : Ctx) (object : Option Nat) : Word :=
  match object with
  | none => s.grantPhase c.tile c.sq.slot
  | some off => BitVec.ofNat 32 (s.barrier (s.gangKeyAt c.wg off)).phase

/-- The scope at which observing a changed phase acquires. -/
def State.phaseScope (s : State) (c : Ctx) (object : Option Nat) (old new : Word) : Nat :=
  match object with
  | none => s.grantScope c.key old new
  | some off => (s.barrier (s.gangKeyAt c.wg off)).scope

/-- The object that A of `WAITP` or `TSTP` names. -/
def Ctx.waitObject (c : Ctx) (a : Operand) : Option Nat := if a = .zero then none else some (c.object a)

/-- A `WAITP` on an object and value that have been read: it takes effect or waits, an acquire of pool scope until every snoop
that has arrived is answered (R208). -/
def State.waitOn (s : State) (i : Instr) (c : Ctx) (d : Operand) (object : Option Nat) (v : Word) : State :=
  let ph := s.phaseOf c object
  let write (q : Squad) : Squad := c.write q d (.uniform ph)
  if ph ≠ v then
    if s.acquireReady (s.phaseScope c object v ph) then (s.acquire c.tile (s.phaseScope c object v ph)).retire i c write
    else s.block c (.waitp object v)
  else if object = none && !s.lockWaits c.key then s.retire i c write
  else s.block c (.waitp object v)

/-- WAITP: a deschedule point, once for each execution. A wait that is tried again keeps the operands it has read. -/
def execWaitp (f : RForm) (s : State) : Host.Outcome State Fault Refusal :=
  match s.ctx with
  | none => .fault .noIssuingGroup
  | some c =>
    match c.g.blocked with
    | some (.waitp object v) => .next (s.waitOn (.waitp f) c f.d object v)
    | some (.qpop _) | some (.sleep _ _) | some (.anchor _) | some (.home _) | some (.release _) | some .fence | some .snoops
    | some .unbind | some (.page _ _) | some (.answer _ _ _) | none =>
      issue (.waitp f) s fun s c =>
        match (if f.a = .zero then none else s.objectCheck c f.a true true) with
        | some n => s.trapAt c n 0 (c.object f.a)
        | none =>
          (s.updSquad c.tile c.sq.slot Squad.deschedule).waitOn (.waitp f) c f.d (c.waitObject f.a) (c.uni f.b)

/-- TSTP: the phase, and an acquire when it has changed. -/
def execTstp (f : RForm) (s : State) : Host.Outcome State Fault Refusal :=
  issue (.tstp f) s fun s c =>
    match (if f.a = .zero then none else s.objectCheck c f.a true true) with
    | some n => s.trapAt c n 0 (c.object f.a)
    | none =>
      let object := c.waitObject f.a
      let ph := s.phaseOf c object
      let scope := if ph ≠ c.uni f.b then s.phaseScope c object (c.uni f.b) ph else 0
      if s.acquireReady scope then (s.acquire c.tile scope).retire (.tstp f) c fun q => c.write q f.d (.uniform ph)
      else s.block c .snoops

/-- YIELD: the squad's groups wait for the following 4 core cycles (R295). -/
def execYield (f : RForm) (s : State) : Host.Outcome State Fault Refusal :=
  issue (.yield f) s fun s c =>
    let after := s.coreCycles + 5
    s.retireTo (.yield f) c (fun q =>
      let q := q.deschedule
      { q with groups := q.groups.map fun g => { g with notBefore := max g.notBefore after } }) c.fall after

end Sys2Proof.Machine
end

