-- ==== Sys2Proof/Machine/Digest.lean ====
section
/-! DEFINITION. The digest that the firmware image, its key and the street map are hashed with (R35, R36, R38). The specification
names SHA-256 and leaves its definition to the standard of that name (LOG 9). -/

namespace Sys2Proof.Machine

/-- The constants of the 64 rounds: the first 32 bits of the fractions of the cube roots of the first 64 primes. -/
def roundWords : List Word :=
  [0x428A2F98, 0x71374491, 0xB5C0FBCF, 0xE9B5DBA5, 0x3956C25B, 0x59F111F1, 0x923F82A4, 0xAB1C5ED5]
    ++ [0xD807AA98, 0x12835B01, 0x243185BE, 0x550C7DC3, 0x72BE5D74, 0x80DEB1FE, 0x9BDC06A7, 0xC19BF174]
    ++ [0xE49B69C1, 0xEFBE4786, 0x0FC19DC6, 0x240CA1CC, 0x2DE92C6F, 0x4A7484AA, 0x5CB0A9DC, 0x76F988DA]
    ++ [0x983E5152, 0xA831C66D, 0xB00327C8, 0xBF597FC7, 0xC6E00BF3, 0xD5A79147, 0x06CA6351, 0x14292967]
    ++ [0x27B70A85, 0x2E1B2138, 0x4D2C6DFC, 0x53380D13, 0x650A7354, 0x766A0ABB, 0x81C2C92E, 0x92722C85]
    ++ [0xA2BFE8A1, 0xA81A664B, 0xC24B8B70, 0xC76C51A3, 0xD192E819, 0xD6990624, 0xF40E3585, 0x106AA070]
    ++ [0x19A4C116, 0x1E376C08, 0x2748774C, 0x34B0BCB5, 0x391C0CB3, 0x4ED8AA4A, 0x5B9CCA4F, 0x682E6FF3]
    ++ [0x748F82EE, 0x78A5636F, 0x84C87814, 0x8CC70208, 0x90BEFFFA, 0xA4506CEB, 0xBEF9A3F7, 0xC67178F2]

/-- The working variables of a block. -/
structure HashState where
  a : Word
  b : Word
  c : Word
  d : Word
  e : Word
  f : Word
  g : Word
  h : Word
deriving DecidableEq, Repr

/-- The first chaining value: the fractions of the square roots of the first 8 primes. -/
def HashState.start : HashState :=
  ⟨0x6A09E667, 0xBB67AE85, 0x3C6EF372, 0xA54FF53A, 0x510E527F, 0x9B05688C, 0x1F83D9AB, 0x5BE0CD19⟩

/-- Sum of two states, variable by variable. -/
def HashState.add (x y : HashState) : HashState :=
  ⟨x.a + y.a, x.b + y.b, x.c + y.c, x.d + y.d, x.e + y.e, x.f + y.f, x.g + y.g, x.h + y.h⟩

/-- One round with its constant and its schedule word. -/
def HashState.round (x : HashState) (k : Word × Word) : HashState :=
  let s1 := x.e.rotateRight 6 ^^^ x.e.rotateRight 11 ^^^ x.e.rotateRight 25
  let s0 := x.a.rotateRight 2 ^^^ x.a.rotateRight 13 ^^^ x.a.rotateRight 22
  let choice := (x.e &&& x.f) ^^^ (~~~x.e &&& x.g)
  let majority := (x.a &&& x.b) ^^^ (x.a &&& x.c) ^^^ (x.b &&& x.c)
  let t := x.h + s1 + choice + k.1 + k.2
  ⟨t + s0 + majority, x.a, x.b, x.c, x.d + t, x.e, x.f, x.g⟩

/-- n further words of a schedule whose newest word comes first. -/
def hashSchedule : Nat → List Word → List Word
  | 0, r => r
  | n + 1, r =>
    let x := r.getD 1 0
    let y := r.getD 14 0
    let s1 := x.rotateRight 17 ^^^ x.rotateRight 19 ^^^ (x >>> 10)
    let s0 := y.rotateRight 7 ^^^ y.rotateRight 18 ^^^ (y >>> 3)
    hashSchedule n ((s1 + r.getD 6 0 + s0 + r.getD 15 0) :: r)

/-- Big-endian words of a list of bytes. -/
def hashWords : List Byte → List Word
  | a :: b :: c :: d :: r => (a ++ b ++ c ++ d) :: hashWords r
  | _ => []

/-- One block of 64 bytes. -/
def HashState.block (x : HashState) (bs : List Byte) : HashState :=
  x.add ((roundWords.zip (hashSchedule 48 (hashWords bs).reverse).reverse).foldl HashState.round x)

/-- n blocks. -/
def HashState.blocks : Nat → List Byte → HashState → HashState
  | 0, _, x => x
  | n + 1, bs, x => HashState.blocks n (bs.drop 64) (x.block (bs.take 64))

/-- A message with its padding: a one bit, zeros, and its length in bits. -/
def hashPad (bs : List Byte) : List Byte :=
  bs ++ 0x80 :: List.replicate ((119 - bs.length % 64) % 64) 0 ++ (leBytes 8 (8 * bs.length)).reverse

/-- SHA-256, with the first byte of the digest most significant. -/
def sha256 (bs : List Byte) : BitVec 256 :=
  let x := HashState.blocks ((bs.length + 72) / 64) (hashPad bs) .start
  x.a ++ x.b ++ x.c ++ x.d ++ x.e ++ x.f ++ x.g ++ x.h

end Sys2Proof.Machine
end

