-- ==== Sys2Proof/Machine/Cards.lean ====
section
/-! DEFINITION. Job and collective cards: their fields, their footprints and the checks made at the push (R343-R345, R347,
R349, R351, R353). -/

namespace Sys2Proof.Machine

/-! ### Fields -/

/-- Bits [h:l] of the 64-bit word at a byte offset of a card. -/
def cardField (c : BitVec 1024) (o h l : Nat) : Nat := bitsOf (c.toNat / 2 ^ (8 * o) % 2 ^ 64) h l

/-- A signed stride of a card. -/
def cardStride (c : BitVec 1024) (o l : Nat) : Int := toSigned 32 (cardField c o (l + 31) l)

/-- The types of a job card (R343). -/
inductive CopyType where
  | copy | gather | scatter | mcast | plane | select | compact
deriving DecidableEq, Repr

/-- The type of a card, if its TYPE is not reserved. -/
def copyType (c : BitVec 1024) : Option CopyType :=
  [CopyType.copy, .gather, .scatter, .mcast, .plane, .select, .compact][cardField c 0 3 0]?

/-- Strided bytes: a base, bytes per row, rows and planes with their strides. -/
structure Strided where
  base : Int
  n0 : Nat
  n1 : Nat
  s1 : Int
  n2 : Nat
  s2 : Int
deriving DecidableEq, Repr

/-- The offsets of the rows, planes outermost. -/
def Strided.rows (g : Strided) : List Int :=
  (List.range g.n2).flatMap fun (i : Nat) => (List.range g.n1).map fun (k : Nat) => g.base + i * g.s2 + k * g.s1

/-- The lowest offset of any row. -/
def Strided.low (g : Strided) : Int :=
  g.base + min 0 (((g.n1 : Int) - 1) * g.s1) + min 0 (((g.n2 : Int) - 1) * g.s2)
/-- The offset beyond the last byte of any row. -/
def Strided.high (g : Strided) : Int :=
  g.base + max 0 (((g.n1 : Int) - 1) * g.s1) + max 0 (((g.n2 : Int) - 1) * g.s2) + g.n0

/-- The source that a card fixes, rows and planes by R347; that of GATHER is indexed. -/
def cardSource (c : BitVec 1024) : Strided :=
  { base := cardField c 0x08 63 0, n0 := cardField c 0x18 23 0, n1 := cardField c 0x18 39 24, s1 := cardStride c 0x20 0
    n2 := cardField c 0x18 55 40, s2 := cardStride c 0x20 32 }

/-- SELECT's K. -/
def cardK (c : BitVec 1024) : Nat := cardField c 0x30 12 0

/-- The destination that a card fixes: rows and planes by R347, the ranks of SELECT. -/
def cardDest (c : BitVec 1024) : Strided :=
  let base : Int := cardField c 0x10 63 0
  if copyType c = some .select then ⟨base, 4 * cardK c, 1, 0, 1, 0⟩
  else { cardSource c with base := base, s1 := cardStride c 0x28 0, s2 := cardStride c 0x28 32 }

/-- SSP and DSP. -/
def cardSsp (c : BitVec 1024) : Nat := cardField c 0 7 6
def cardDsp (c : BitVec 1024) : Nat := cardField c 0 9 8
/-- EVT and FON. -/
def cardEvt (c : BitVec 1024) : Bool := cardField c 0 4 4 = 1
def cardFon (c : BitVec 1024) : Bool := cardField c 0 5 5 = 1
/-- EVCODE. -/
def cardCode (c : BitVec 1024) : Nat := cardField c 0 31 16
/-- CBAR; all ones for none. -/
def cardCbar (c : BitVec 1024) : Nat := cardField c 0 63 32
/-- AUX, and AUX2 of COMPACT, the word of FOLLOW. -/
def cardAux (c : BitVec 1024) : Nat := cardField c 0x30 63 0
def cardFollow (c : BitVec 1024) : Nat := cardField c 0x38 63 0

/-! ### Footprints (R344) -/

/-- A region of offsets in a space. -/
structure Region where
  sp : Nat
  lo : Nat
  hi : Nat
deriving DecidableEq, Repr

/-- Footprint word k of a card, empty regions left out. -/
def cardRegion (c : BitVec 1024) (k : Nat) : List Region :=
  let f (h l : Nat) := cardField c (0x40 + 8 * k) h l
  if f 63 43 = 0 then [] else [⟨f 1 0, 128 * f 42 2, 128 * (f 42 2 + f 63 43)⟩]

/-- The read and write regions of a card. -/
def cardReads (c : BitVec 1024) : List Region := (List.range 4).flatMap (cardRegion c)
def cardWrites (c : BitVec 1024) : List Region := [4, 5, 6, 7].flatMap (cardRegion c)

/-- Two regions overlap. -/
def Region.meets (a b : Region) : Bool := a.sp = b.sp && a.lo < b.hi && b.lo < a.hi

/-- Some region of a list meets some region of another. -/
def meetAny (xs ys : List Region) : Bool := xs.any fun x => ys.any x.meets

/-! ### The checks of a card (R345) -/

/-- The gang scratchpad's bytes, W·H·SPAD. -/
def State.gangBytes (s : State) (w : Workgroup) : Nat :=
  shapeTiles (((s.launch? w.gang.launch).map (·.shape)).getD 0) * w.spad

/-- An offset's first byte lies in the member's allocation. -/
def Workgroup.ownsByte (w : Workgroup) (off : Nat) : Bool := w.member * w.spad ≤ off && off < (w.member + 1) * w.spad

/-- The `sseg` ranges that a copy card fixes, each with the bytes that bound it (R345, R347). -/
def cardRanges (c : BitVec 1024) (top spad : Nat) : List (Int × Int × Nat) :=
  let span (g : Strided) (bound : Nat) := (g.low, g.high, bound)
  let aux : Int := cardAux c
  let n1 : Int := cardField c 0x18 39 24
  let src := if cardSsp c = 2 && copyType c ≠ some .gather then [span (cardSource c) top] else []
  let dst := if cardDsp c = 2 && copyType c ≠ some .scatter then
      [span (cardDest c) (if copyType c = some .mcast then spad else top)] else []
  let table := match copyType c with
    | some .gather | some .scatter => [(aux, aux + 4 * n1, top)]
    | some .compact => [(aux, aux + (n1 + 7) / 8, top), ((cardFollow c : Int), (cardFollow c : Int) + 4 * n1 + 4, top)]
    | some .copy | some .mcast | some .plane | some .select | none => []
  let bar := if cardCbar c = 0xFFFFFFFF then [] else
    [((cardCbar c : Int), (cardCbar c : Int) + 32, if copyType c = some .mcast then spad else top)]
  src ++ dst ++ table ++ bar

/-- Check RSVD of a job card. -/
def cardReserved (c : BitVec 1024) : Bool :=
  (copyType c).isNone || cardField c 0 15 13 ≠ 0 || cardField c 0x18 63 56 ≠ 0 || cardSsp c = 3 || cardDsp c = 3
    || (copyType c = some .select && cardAux c / 2 ^ 15 ≠ 0)

/-- Check SPACE. -/
def cardSpaces (c : BitVec 1024) : Bool := copyType c = some .mcast && (cardSsp c = 2 || cardDsp c ≠ 2)

/-- Check GEOM; `members` is W·H. -/
def cardGeom (c : BitVec 1024) (members : Nat) : Bool :=
  let n0 := cardField c 0x18 23 0
  let n1 := cardField c 0x18 39 24
  let n2 := cardField c 0x18 55 40
  n1 = 0 || n2 = 0 ||
    (match copyType c with
      | some .gather | some .scatter => n2 ≠ 1
      | some .mcast => cardAux c % 2 ^ 16 = 0 || cardAux c / 2 ^ members ≠ 0
      | some .plane => n0 ≠ 128
      | some .select => n2 ≠ 1 || n0 ≠ 4 || 4096 < n1 || cardK c = 0 || n1 < cardK c
      | some .compact => n2 ≠ 1 || cardFon c
      | some .copy | none => false)

/-- Check ALIGN. -/
def cardAlign (c : BitVec 1024) : Bool :=
  let off (n o : Nat) : Bool := cardField c o 63 0 % n ≠ 0
  (cardCbar c ≠ 0xFFFFFFFF && cardCbar c % 32 ≠ 0) ||
    (match copyType c with
      | some .gather | some .scatter => off 4 0x30
      | some .plane => off 128 0x08 || off 128 0x10 || [0x20, 0x28].any fun o =>
          cardField c o 31 0 % 128 ≠ 0 || cardField c o 63 32 % 128 ≠ 0
      | some .select => off 4 0x08 || off 4 0x10 || cardField c 0x20 31 0 % 4 ≠ 0
      | some .compact => off 4 0x30 || off 4 0x38
      | some .copy | some .mcast | none => false)

/-- Check FOOT of either card. -/
def cardFoot (c : BitVec 1024) (top : Nat) : Bool :=
  (cardReads c ++ cardWrites c).any fun r => r.sp = 3 || (r.sp = 2 && top < r.hi)

/-- Check FOLLOW (R351). -/
def followBad (w : Workgroup) (f : Nat) : Bool :=
  let av := f / 2 ^ 32
  1 < f % 4 || f / 4 % 4 ≠ 0 || 7 < f / 16 % 16 || (if f % 4 = 0 then f / 256 % 2 ^ 24 ≠ 0 else f / 2 ^ 27 % 32 ≠ 0)
    || !w.ownsByte av || av % 32 ≠ 0

/-- The first check that a job card fails (R345). -/
def State.cardCheck (s : State) (w : Workgroup) (c : BitVec 1024) : Option Nat :=
  let top := s.gangBytes w
  if cardReserved c then some 1
  else if cardSpaces c then some 2
  else if cardGeom c (top / max 1 w.spad) then some 3
  else if cardAlign c then some 4
  else if (cardRanges c top w.spad).any fun r => r.1 < 0 || (r.2.2 : Int) < r.2.1 then some 5
  else if cardFoot c top then some 6
  else if cardFon c && followBad w (cardFollow c) then some 7
  else none

/-! ### Collective cards (R353) -/

/-- The number of ones of a number below 2^64. -/
def ones (n : Nat) : Nat := ((List.range 64).filter fun k => bitOf n k).length

/-- LEN, NLOCAL, RANK, NPEER, PEERS and CHUNK. -/
def collLen (c : BitVec 1024) : Nat := cardField c 0x10 63 32
def collLocal (c : BitVec 1024) : Nat := cardField c 0x10 11 0
def collRank (c : BitVec 1024) : Nat := cardField c 0x10 23 12
def collPeers (c : BitVec 1024) : Nat := cardField c 0x10 30 24
def collPeerSet (c : BitVec 1024) : Nat := cardField c 0x18 63 0
def collChunk (c : BitVec 1024) : Nat := cardField c 0x30 14 7
/-- SSP and DSP. -/
def collSsp (c : BitVec 1024) : Nat := cardField c 0x30 1 0
def collDsp (c : BitVec 1024) : Nat := cardField c 0x30 3 2

/-- GEOM covers the ranges of the table. -/
def collGeom (c : BitVec 1024) : Bool :=
  collLocal c = 0 || 2560 < collLocal c || collLocal c ≤ collRank c || 64 < collPeers c || collLen c = 0
    || collLen c % 128 ≠ 0 || ones (collPeerSet c) ≠ collPeers c || collChunk c = 0 || 64 < collChunk c

/-- The `sseg` ranges of a collective card. -/
def collRanges (c : BitVec 1024) : List (Nat × Nat) :=
  (if collSsp c = 2 then [(cardField c 0x20 63 0, collLen c)] else [])
    ++ (if collDsp c = 2 then [(cardField c 0x28 63 0, collLen c)] else [])
    ++ (if cardCbar c = 0xFFFFFFFF then [] else [(cardCbar c, 32)])

/-- The first check that a collective card fails. -/
def State.collCheck (s : State) (w : Workgroup) (c : BitVec 1024) : Option Nat :=
  let top := s.gangBytes w
  if 6 ≤ cardField c 0 3 0 || cardField c 0 7 5 ≠ 0 || cardField c 0x10 31 31 ≠ 0 || cardField c 0x30 63 15 ≠ 0
      || cardFollow c ≠ 0 || collSsp c = 3 || collDsp c = 3 then some 1
  else if collGeom c then some 3
  else if cardCbar c ≠ 0xFFFFFFFF && cardCbar c % 32 ≠ 0 then some 4
  else if (collRanges c).any fun r => top < r.1 + r.2 then some 5
  else if cardFoot c top then some 6
  else none

/-! ### The footprint of a job (R350) -/

/-- The largest block of any format (R350). -/
def blockMax : Nat := 131104

/-- A region of a matrix command, clipped at the end of the member's allocation. -/
def Workgroup.clip (w : Workgroup) (off n : Nat) : Region := ⟨2, off, min (off + n) ((w.member + 1) * w.spad)⟩

/-- The most bytes of a row of an `MXST` (R350). -/
def rowMax (format : Nat) : Nat := if format = 0 then 160 else if format ≤ 3 then 288 else 512

/-- The weight blocks that an `MXST` may read: that of the latest earlier `MXLW` of its tile, or its chain's. -/
def Workgroup.chainBlock (w : Workgroup) (j : Job) (tile : Nat) : Nat :=
  let earlier := w.jobs.filter fun k => k.id < j.id && (match k.kind with
    | .matrix c _ => c.op = .loadWeights && c.tile = tile
    | .copy _ | .collective _ => false)
  match earlier.getLast? with
  | some k => (match k.kind with | .matrix c _ => c.av.toNat | .copy _ | .collective _ => 0)
  | none => ((w.accs[tile]?).map (·.waddr)).getD 0

/-- The bytes of a drained element (R362). -/
def drainSize (target : Nat) : Nat := match target with | 0 => 4 | 1 => 2 | 2 => 4 | _ => 16

/-- The read and write regions of a job. -/
def Workgroup.footprint (w : Workgroup) (j : Job) : List Region × List Region :=
  match j.kind with
  | .copy c | .collective c => (cardReads c, cardWrites c)
  | .matrix c _ =>
    let b := c.bv.toNat
    match c.op with
    | .loadWeights => ([w.clip c.av.toNat blockMax], [])
    | .stream => ([w.clip c.av.toNat (bitsOf b 13 8 * rowMax (b % 256)), w.clip (w.chainBlock j c.tile) blockMax], [])
    | .drain => ([], [w.clip c.av.toNat (bitsOf b 12 7 * 256 * drainSize (b % 4))])
    | .config | .release | .openChain | .closeChain | .zero => ([], [])

/-- J is ordered behind an earlier job K (R206), or is the follow-on of it. -/
def Workgroup.behind (w : Workgroup) (k j : Job) : Bool :=
  let a := w.footprint k
  let b := w.footprint j
  meetAny b.2 (a.1 ++ a.2) || meetAny b.1 a.2 || (match j.kind with | .matrix _ (some n) => n = k.id | _ => false)

/-- Every job that J follows has completed: completed jobs leave the list. -/
def Workgroup.free (w : Workgroup) (j : Job) : Bool := w.jobs.all fun k => !(k.id < j.id) || !w.behind k j

end Sys2Proof.Machine
end

