-- ==== Sys2Proof/Machine/Queues.lean ====
section
/-! DEFINITION. The queue and job instructions (R333-R353): opcodes 0x68-0x6D. -/

namespace Sys2Proof.Machine

open Sys2Proof.Config

/-! ### The QUEUE trap (R336) -/

abbrev QueueCode.full : Nat := 1
abbrev QueueCode.dir : Nat := 2
abbrev QueueCode.unbound : Nat := 3
abbrev QueueCode.card : Nat := 4
abbrev QueueCode.msg : Nat := 5
abbrev QueueCode.event : Nat := 6

/-- QUEUE with a code. -/
def State.queueTrap (s : State) (c : Ctx) (code : Nat) : State := s.trapAt c Trap.queue code 0

/-- The workgroup of the issuing squad, as it is now. -/
def State.wgOf (s : State) (c : Ctx) : Workgroup := (s.tile c.tile).wg.getD c.wg

/-! ### Elements of `q4` and the mailboxes -/

/-- Pushes that the out ring still takes, with OUTHEAD as last read (R340). -/
def Workgroup.outRoom (w : Workgroup) : Nat :=
  if w.area.bound then 16 - (w.area.outTail - w.area.outHead).toNat - w.q4.items.length else 0

/-- The queue record of `q5`-`q13`. -/
def Workgroup.box (w : Workgroup) (q : Nat) : QueueState := w.boxes.getD (q - 5) ⟨[], 0, none⟩
/-- Replaces it. -/
def Workgroup.setBox (w : Workgroup) (q : Nat) (b : QueueState) : Workgroup := { w with boxes := w.boxes.set (q - 5) b }

/-- An element enters at the end, and the phase counter advances (R153). -/
def QueueState.push (q : QueueState) (x : DWord) : QueueState := { q with items := q.items ++ [x], phase := q.phase + 1 }

/-- An element enters a mailbox, and its notification follows (R338). -/
def State.pushBox (s : State) (t q : Nat) (x : DWord) : State :=
  match (s.tile t).wg with
  | none => s
  | some w =>
    let w := w.setBox q ((w.box q).push x)
    (s.updWg t fun _ => w).notify w (w.box q).bind

/-- QPSH: a release at system scope to `q4`, at workgroup scope to a mailbox (R337). -/
def execQpsh (f : QForm) (s : State) : Host.Outcome State Fault Refusal :=
  issue (.qpsh f) s fun s c =>
    let q := f.q.toNat
    let w := s.wgOf c
    if q = 4 then
      if !w.area.bound then s.queueTrap c QueueCode.unbound
      else if w.outRoom = 0 then s.queueTrap c QueueCode.full
      else s.afterRelease c 6 fun s =>
        (s.updWg c.tile fun w => { w with q4 := w.q4.push (c.pair f.a 0) }).retire (.qpsh f) c id
    else if q < 6 || 13 < q then s.queueTrap c QueueCode.dir
    else if 16 ≤ (w.box q).items.length then s.queueTrap c QueueCode.full
    else s.afterRelease c 2 fun s => (s.pushBox c.tile q (c.pair f.a 0)).retire (.qpsh f) c id

/-- The oldest element of a pop queue or mailbox, if it holds one. -/
def State.popHead (s : State) (t : Nat) (w : Workgroup) (q : Nat) : Option DWord :=
  if q = 3 then (if w.q3.count = 0 then none else some (BitVec.ofNat 64 (s.num (spadKey t (0x200 + 8 * (w.q3.head % 64))) 8)))
  else (w.box q).items.head?

/-- The queue without its oldest element. -/
def Workgroup.popped (w : Workgroup) (q : Nat) : Workgroup :=
  if q = 3 then { w with q3 := { w.q3 with count := w.q3.count - 1, head := (w.q3.head + 1) % 64 } }
  else w.setBox q { w.box q with items := (w.box q).items.tail }

/-- A pop, after the deschedule point: an acquire when it takes effect, a wait on an empty queue. -/
def State.pop (s : State) (c : Ctx) (f : QForm) : State :=
  let q := f.q.toNat
  match s.popHead c.tile (s.wgOf c) q with
  | none => s.block c (.qpop q)
  | some x =>
    let s := (s.updWg c.tile fun w => w.popped q).acquire c.tile (if q = 5 then 6 else 2)
    s.retire (.qpop f) c fun d => c.send d f.a 2 f.la.toNat true fun _ => x

/-- The group waits in a `QPOP` that has not taken effect. -/
def Group.popping (g : Group) : Bool :=
  match g.blocked with
  | some (.qpop _) => true
  | some (.waitp _ _) | some (.sleep _ _) | some (.anchor _) | some (.home _) | some (.release _) | some .fence | some .snoops
  | some .unbind | some (.page _ _) | some (.answer _ _ _) | none => false

/-- QPOP: a deschedule point, once for each execution (R138, R154). -/
def execQpop (f : QForm) (s : State) : Host.Outcome State Fault Refusal :=
  issue (.qpop f) s fun s c =>
    let q := f.q.toNat
    if q < 3 || q = 4 || 13 < q then s.queueTrap c QueueCode.dir
    else (if c.g.popping then s else s.updSquad c.tile c.sq.slot Squad.deschedule).pop c f

/-- The jobs of `q0`, `q1` and `q2` that are not completed. -/
def Workgroup.jobsOf (w : Workgroup) (q : Nat) : Nat :=
  (w.jobs.filter fun j => match j.kind with | .copy _ => q = 0 | .matrix _ _ => q = 1 | .collective _ => q = 2).length

/-- Free places of `q0`, `q1` and `q2`. -/
def Workgroup.freeOf (w : Workgroup) (q : Nat) : Nat := (if q = 1 then 32 else 16) - w.jobsOf q

/-- What `QCNT` answers (R337). -/
def Workgroup.count (w : Workgroup) (q : Nat) : Nat :=
  if q < 3 then w.freeOf q else if q = 4 then w.outRoom else w.held q

/-- QCNT. -/
def execQcnt (f : QForm) (s : State) : Host.Outcome State Fault Refusal :=
  issue (.qcnt f) s fun s c =>
    let q := f.q.toNat
    if 13 < q then s.queueTrap c QueueCode.dir
    else
      let n := (s.wgOf c).count q
      s.retire (.qcnt f) c fun d => c.send d f.a 1 f.la.toNat true fun _ => BitVec.ofNat 64 n

/-! ### QBND (R338) -/

/-- The binding of a pop queue or mailbox. -/
def Workgroup.setBind (w : Workgroup) (q : Nat) (b : Option Nat) : Workgroup :=
  if q = 3 then { w with q3 := { w.q3 with bind := b } } else w.setBox q { w.box q with bind := b }

/-- An engine access to the message area at an offset from its start: `gseg`, with the submitter's segments (R338). -/
def State.areaRead (s : State) (c : Ctx) (e : DWord) (off n : Nat) : State × Served Nat :=
  match s.engineRead c.tile (s.wgOf c) c.sq.segs (c.tenant s) 0 0 ((e.toNat + off : Nat) : Int) n with
  | (s, .ok bs) => (s, .ok (leValue bs))
  | (s, .wait l) => (s, .wait l)
  | (s, .fault f p) => (s, .fault f p)

/-- A fault of an access to the message area: QUEUE, code MSG, as an engine trap of the squad that bound it (R340). No
rule names its launch site: that PC is a free value (LOG 8). -/
def State.msgFault (s : State) (t : Nat) (w : Workgroup) (slot : Nat) (num : Nat) (addr : Nat) : State :=
  let site : DWord := (freeWord s.freeCtr).setWidth 64
  let s := { s with freeCtr := s.freeCtr + 1 }.updWg t fun w => { w with area := { w.area with bound := false } }
  s.engineTrap t w slot ⟨Trap.queue, BitVec.ofNat 32 (QueueCode.msg + 256 * num), BitVec.ofNat 64 addr, site, 0⟩

/-- Binds the area at e: OUTTAIL, INHEAD and OUTHEAD as it holds them. -/
def State.bindArea (s : State) (c : Ctx) (f : QForm) (e : DWord) : State :=
  let read (s : State) (off : Nat) (k : State → Nat → State) : State :=
    match s.areaRead c e off 4 with
    | (s, .wait l) => s.block c (.anchor l)
    | (s, .fault x p) =>
      if x.replay.isSome then s.memFault c x p
      else (s.retire (.qbnd f) c id).msgFault c.tile (s.wgOf c) c.sq.slot x.num x.addr
    | (s, .ok v) => k s v
  read s 0x000 fun s outTail => read s 0x0C0 fun s inHead => read s 0x040 fun s outHead =>
    (s.updWg c.tile fun w => { w with area := ⟨true, e, c.sq.slot, BitVec.ofNat 32 outTail, BitVec.ofNat 32 outHead, BitVec.ofNat 32 inHead⟩ }).retire
      (.qbnd f) c id

/-- QBND of `q4`: an unbind, and the bind of another area, wait until every accepted element has been written. -/
def State.bindMessages (s : State) (c : Ctx) (f : QForm) : State :=
  let w := s.wgOf c
  let e := c.pair f.a 0
  if f.a = .zero then
    if w.q4.items ≠ [] then s.block c .unbind
    else (s.updWg c.tile fun w => { w with area := { w.area with bound := false } }).retire (.qbnd f) c id
  else if !segCheck c.sq .gseg (e.toNat : Int) 512 then s.trapAt c Trap.segment 0 (segAddr c.sq .gseg (e.toNat : Int) 0)
  else if e.toNat % 512 ≠ 0 then s.trapAt c Trap.misalign 0 (segAddr c.sq .gseg (e.toNat : Int) 0)
  else if w.area.bound && w.area.offset = e && w.area.slot = c.sq.slot then s.retire (.qbnd f) c id
  else if w.q4.items ≠ [] then s.block c .unbind
  else s.bindArea c f e

/-- QBND. -/
def execQbnd (f : QForm) (s : State) : Host.Outcome State Fault Refusal :=
  issue (.qbnd f) s fun s c =>
    let q := f.q.toNat
    if q < 3 || 13 < q then s.queueTrap c QueueCode.dir
    else if q = 4 then s.bindMessages c f
    else if f.a = .zero then (s.updWg c.tile fun w => w.setBind q none).retire (.qbnd f) c id
    else match s.objectCheck c f.a true true with
      | some n => s.trapAt c n 0 (c.object f.a)
      | none => (s.updWg c.tile fun w => w.setBind q (some (c.object f.a))).retire (.qbnd f) c id

/-! ### Pushing jobs and commands (R334, R346, R351, R353) -/

/-- The matrix command of a FOLLOW word (R351). -/
def followCmd (x : Nat) : MatrixCmd :=
  { op := if x % 4 = 0 then .loadWeights else .stream, tile := x / 16 % 16, av := BitVec.ofNat 32 (x / 2 ^ 32)
    bv := BitVec.ofNat 32 (x / 256 % 2 ^ 24) }

/-- The queue of a kind of job. -/
def JobKind.queue : JobKind → Nat
  | .copy _ => 0
  | .matrix _ _ => 1
  | .collective _ => 2

/-- A job enters the task scheduler under a number, and its queue's phase counter advances. -/
def Workgroup.addJob (w : Workgroup) (c : Ctx) (kind : JobKind) (seq : Word) : Workgroup :=
  let j : Job := ⟨w.nextJob, c.sq.slot, seq, c.site, kind, .queued, none, [], c.sq.segs, [], []⟩
  { w with jobs := w.jobs ++ [j], nextJob := w.nextJob + 1
           jobPhases := w.jobPhases.set kind.queue (w.jobPhases.getD kind.queue 0 + 1) }

/-- Takes the squad's next command sequence number for a job and pushes it. -/
def State.push (s : State) (c : Ctx) (kind : JobKind) : State × Word :=
  let n := ((s.squad? c.tile c.sq.slot).getD c.sq).cmdSeq
  ((s.updWg c.tile fun w => w.addJob c kind n).updSquad c.tile c.sq.slot fun q => { q with cmdSeq := nextSeq n }, n)

/-- The 128 bytes of a card. -/
def State.readCard (s : State) (c : Ctx) (a : Operand) : BitVec 1024 :=
  BitVec.ofNat 1024 (s.num (s.gangKeyAt c.wg (c.object a)) 128)

/-- What naming a card raises: MISALIGN, then SEGMENT for one outside the member's allocation (R346). -/
def Ctx.cardTrap (c : Ctx) (a : Operand) : Option Nat :=
  if c.object a % 128 ≠ 0 then some Trap.misalign
  else if !(c.wg.ownsByte (c.object a)) then some Trap.segment else none

/-- CPYJ, in the order of R346; a push at workgroup scope. -/
def execCpyj (f : QForm) (s : State) : Host.Outcome State Fault Refusal :=
  issue (.cpyj f) s fun s c =>
    if f.q ≠ 0 then s.queueTrap c QueueCode.dir
    else match c.cardTrap f.a with
      | some n => s.trapAt c n 0 (c.object f.a)
      | none =>
        let card := s.readCard c f.a
        let w := s.wgOf c
        match s.cardCheck w card with
        | some k => s.queueTrap c (QueueCode.card + 256 * k)
        | none =>
          if w.freeOf 0 = 0 || (cardFon card && w.freeOf 1 = 0) then s.queueTrap c QueueCode.full
          else s.afterRelease c 2 fun s =>
            let r := s.push c (.copy card)
            let s := if cardFon card then (r.1.push c (.matrix (followCmd (cardFollow card)) (some w.nextJob))).1 else r.1
            s.retire (.cpyj f) c fun d => c.send d f.b 1 f.la.toNat true fun _ => r.2.setWidth 64

/-- COLJ. -/
def execColj (f : QForm) (s : State) : Host.Outcome State Fault Refusal :=
  issue (.colj f) s fun s c =>
    if f.q ≠ 2 then s.queueTrap c QueueCode.dir
    else match c.cardTrap f.a with
      | some n => s.trapAt c n 0 (c.object f.a)
      | none =>
        let card := s.readCard c f.a
        let w := s.wgOf c
        match s.collCheck w card with
        | some k => s.queueTrap c (QueueCode.card + 256 * k)
        | none =>
          if w.freeOf 2 = 0 then s.queueTrap c QueueCode.full
          else s.afterRelease c 2 fun s =>
            let r := s.push c (.collective card)
            r.1.retire (.colj f) c fun d => c.send d f.b 1 f.la.toNat true fun _ => r.2.setWidth 64

end Sys2Proof.Machine
end

