-- ==== Sys2Proof/Machine/Matrix.lean ====
section
/-! DEFINITION. The matrix instructions (R357-R363): opcodes 0x70-0x73, and what a command does when the array reaches it
(R229-R237, R359-R362). -/

namespace Sys2Proof.Machine

/-! ### Instructions (R358) -/

/-- What an operand offset raises: SEGMENT outside the member's allocation, then MISALIGN. -/
def Ctx.matrixTrap (c : Ctx) (a : Operand) : Option Nat :=
  if !(c.wg.ownsByte (c.object a)) then some Trap.segment
  else if c.object a % 32 ≠ 0 then some Trap.misalign else none

/-- MATRIX, code BOPER: reserved bits of B (R363). -/
def boper : Nat := 9 * 256

/-- Pushes a matrix command whose A is checked when it is an offset and whose reserved bits of B are `rsvd`. -/
def State.matrixPush (i : Instr) (f : XForm) (op : MatrixOp) (offset : Bool) (rsvd : Nat → Bool) (s : State) :
    Host.Outcome State Fault Refusal :=
  issue i s fun s c =>
    let av := c.uni f.a
    let bv := c.uni f.b
    match (if offset then c.matrixTrap f.a else none) with
    | some n => s.trapAt c n 0 (c.object f.a)
    | none =>
      if rsvd bv.toNat then s.trapAt c Trap.matrix boper 0
      else if (s.wgOf c).freeOf 1 = 0 then s.queueTrap c QueueCode.full
      else ((s.push c (.matrix ⟨op, f.tile.toNat, av, bv⟩ none)).1).retire i c id

/-- MXCF CONFIG. -/
def execMxcfConfig (f : XForm) (s : State) : Host.Outcome State Fault Refusal :=
  s.matrixPush (.mxcfConfig f) f .config false fun _ => false
/-- MXCF RELEASE. -/
def execMxcfRelease (f : XForm) (s : State) : Host.Outcome State Fault Refusal :=
  s.matrixPush (.mxcfRelease f) f .release false fun _ => false
/-- MXLW. -/
def execMxlw (f : XForm) (s : State) : Host.Outcome State Fault Refusal :=
  s.matrixPush (.mxlw f) f .loadWeights true fun _ => false
/-- MXST: B[31:19] is reserved. -/
def execMxst (f : XForm) (s : State) : Host.Outcome State Fault Refusal :=
  s.matrixPush (.mxst f) f .stream true fun b => b / 2 ^ 19 ≠ 0
/-- MXCH BEGIN: B[31:8] is reserved. -/
def execMxchBegin (f : XForm) (s : State) : Host.Outcome State Fault Refusal :=
  s.matrixPush (.mxchBegin f) f .openChain false fun b => b / 2 ^ 8 ≠ 0
/-- MXCH END. -/
def execMxchEnd (f : XForm) (s : State) : Host.Outcome State Fault Refusal :=
  s.matrixPush (.mxchEnd f) f .closeChain false fun _ => false
/-- MXCH DRAIN: B[13] is reserved (R362). -/
def execMxchDrain (f : XForm) (s : State) : Host.Outcome State Fault Refusal :=
  s.matrixPush (.mxchDrain f) f .drain true fun b => bitOf b 13
/-- MXCH ZERO. -/
def execMxchZero (f : XForm) (s : State) : Host.Outcome State Fault Refusal :=
  s.matrixPush (.mxchZero f) f .zero false fun _ => false

/-! ### Errors of a command (R363) -/

abbrev MatrixCode.notcfg : Nat := 1
abbrev MatrixCode.opened : Nat := 2
abbrev MatrixCode.nochain : Nat := 3
abbrev MatrixCode.nowt : Nat := 4
abbrev MatrixCode.fmt : Nat := 5
abbrev MatrixCode.anchor : Nat := 6
abbrev MatrixCode.geom : Nat := 7
abbrev MatrixCode.value : Nat := 8

/-- An error that the array finds: trap number, DETAIL and ADDR. -/
structure MatrixFault where
  num : Nat
  detail : Nat
  addr : Nat
deriving DecidableEq, Repr

/-- MATRIX with a code and a stream row. -/
def matrixFault (code row : Nat) : MatrixFault := ⟨Trap.matrix, 256 * code + row, 0⟩

/-! ### Blocks and rows (R216, R359, R360) -/

/-- Bits of an element of a format. -/
def elemBits (fmt : Nat) : Nat := if fmt = 0 then 4 else if fmt ≤ 3 then 8 else 16

/-- The format has scale words. -/
def scaled (fmt : Nat) : Bool := fmt ≤ 3

/-- The shape of a weight block: columns, k-blocks and format. -/
structure BlockShape where
  n : Nat
  kb : Nat
  fmt : Nat
deriving DecidableEq, Repr

/-- The header of a block. -/
def blockShape (bs : List Byte) : BlockShape := ⟨leValue (bs.take 2), leValue ((bs.drop 2).take 1), leValue ((bs.drop 3).take 1)⟩

/-- CB: bytes of a column or of a row's elements. -/
def BlockShape.cb (b : BlockShape) : Nat := 4 * b.kb * elemBits b.fmt
/-- Bytes of the scale words of a column or row. -/
def BlockShape.sb (b : BlockShape) : Nat := if scaled b.fmt then 4 * b.kb else 0
/-- RB: bytes of a row of the stream. -/
def BlockShape.rb (b : BlockShape) : Nat := b.cb + b.sb
/-- Bytes of the whole block. -/
def BlockShape.size (b : BlockShape) : Nat := 32 + b.n * b.rb

/-- Element k of packed elements (R221). -/
def element (fmt : Nat) (bs : List Byte) (k : Nat) : Nat :=
  if fmt = 0 then leValue ((bs.drop (k / 2)).take 1) / 16 ^ (k % 2) % 16
  else if fmt ≤ 3 then leValue ((bs.drop k).take 1)
  else leValue ((bs.drop (2 * k)).take 2)

/-- The value of an element under the type of its scale word; none for a NaN or an infinity (R219, R220). -/
def elementValue (fmt ty x : Nat) : Option Dy :=
  let of (v : FVal) : Option Dy := match v with | .fin s m e => some (dyOf s m e) | .nan _ | .inf _ => none
  match fmt with
  | 0 => some (q4Value ty x)
  | 1 => some ⟨toSigned 8 x, 0⟩
  | 2 => of (e4m3.decode x)
  | 3 => of (e5m2.decode x)
  | 4 => of (bf16.decode x)
  | _ => of (fp16.decode x)

/-- A weight column or a stream row: its elements and its scale words. -/
structure Vec where
  fmt : Nat
  kb : Nat
  elems : List Byte
  scales : List Byte
deriving DecidableEq, Repr

/-- Scale word b. -/
def Vec.scale (v : Vec) (b : Nat) : Nat := leValue ((v.scales.drop (4 * b)).take 4)

/-- A scale word raises SCALE (R218). -/
def Vec.badScale (v : Vec) : Bool :=
  scaled v.fmt && (List.range v.kb).any fun b => scaleExp (v.scale b) = 255 || (v.fmt ≠ 0 && scaleType (v.scale b) ≠ 0)

/-- The k-block of an element contributes: its scale word's EXP is not 0. -/
def Vec.live (v : Vec) (b : Nat) : Bool := !scaled v.fmt || scaleExp (v.scale b) ≠ 0

/-- The value of element k. -/
def Vec.value (v : Vec) (k : Nat) : Option Dy :=
  elementValue v.fmt (if v.fmt = 0 then scaleType (v.scale (k / 32)) else 0) (element v.fmt v.elems k)

/-- A contributing NaN or infinity (R231). -/
def Vec.badValue (v : Vec) : Bool := (List.range (32 * v.kb)).any fun k => v.live (k / 32) && (v.value k).isNone

/-- Column j of a block. -/
def column (b : BlockShape) (bs : List Byte) (j : Nat) : Vec :=
  ⟨b.fmt, b.kb, (bs.drop (32 + j * b.cb)).take b.cb, (bs.drop (32 + b.n * b.cb + j * b.sb)).take b.sb⟩

/-- Row i of a stream. -/
def streamRow (b : BlockShape) (bs : List Byte) (i : Nat) : Vec :=
  ⟨b.fmt, b.kb, (bs.drop (i * b.rb)).take b.cb, (bs.drop (i * b.rb + b.cb)).take b.sb⟩

/-! ### Reading scratchpad, under swizzle mode 0 -/

/-- Bytes at a gang offset of the member's own allocation. -/
def State.ownBytes (s : State) (w : Workgroup) (off n : Nat) : List Byte := s.peekN (s.gangKeyAt w off) n

/-- A range runs past the end of the member's allocation (R358). -/
def Workgroup.pastEnd (w : Workgroup) (off n : Nat) : Bool := !w.ownsByte off || (w.member + 1) * w.spad < off + n

/-! ### MXLW (R359, R361) -/

/-- The block at an offset, for a chain of a format: the checks of `MXLW` in their order, then its bytes. -/
def State.readBlock (s : State) (w : Workgroup) (off : Nat) (format : BitVec 8) : Except MatrixFault (List Byte) :=
  let head := s.ownBytes w off 32
  let b := blockShape head
  if 6 ≤ b.fmt || b.fmt ≠ format.toNat then .error (matrixFault MatrixCode.fmt 0)
  else if b.n = 0 || 256 < b.n || b.kb = 0 || 8 < b.kb || (head.drop 4).any (fun x => x ≠ 0) then
    .error (matrixFault MatrixCode.geom 0)
  else if w.pastEnd off b.size then .error ⟨Trap.segment, 0, off⟩
  else
    let bs := s.ownBytes w off b.size
    if (List.range b.n).any fun j => (column b bs j).badScale then .error ⟨Trap.scale, 0, 0⟩
    else if (List.range b.n).any fun j => (column b bs j).badValue then .error (matrixFault MatrixCode.value 0)
    else .ok bs

/-! ### MXST (R232, R360) -/

/-- Trunc (R232), modulo 2^136. -/
def truncate (anchor : Int) (p : Dy) : BitVec 136 := BitVec.ofInt 136 (p.floorAt (96 - anchor))

/-- The exact product of element k of a row and a column. -/
def elementProduct (r c : Vec) (k : Nat) : Dy :=
  match r.value k, c.value k with
  | some a, some b => a.mul b
  | _, _ => ⟨0, 0⟩

/-- The truncated block products of a row and a column, added: one block for each 32 elements, or one for each element
of BF16 and FP16 (R230, R232). -/
def contribution (anchor : Int) (r c : Vec) : BitVec 136 :=
  if scaled r.fmt then
    ((List.range r.kb).map fun b =>
      if r.live b && c.live b then
        let sum := ((List.range 32).map fun k => elementProduct r c (32 * b + k)).foldl Dy.add ⟨0, 0⟩
        truncate anchor ((sum.mul (scaleValue (r.scale b))).mul (scaleValue (c.scale b)))
      else 0).foldl (· + ·) 0
  else ((List.range (32 * r.kb)).map fun k => truncate anchor (elementProduct r c k)).foldl (· + ·) 0

/-- Adds to an entry of a tile's table, where 0 is not listed. -/
def tabAdd (k : Nat) (v : BitVec 136) (t : List (Nat × BitVec 136)) : List (Nat × BitVec 136) :=
  let x := (tabFind k t).getD 0 + v
  if x = 0 then tabDel k t else tabSet k x t

/-- Adds one row's contributions to accumulator row i: entries 256·i + j. -/
def rowSums (anchor : Int) (b : BlockShape) (bs : List Byte) (r : Vec) (i : Nat) (t : List (Nat × BitVec 136)) :
    List (Nat × BitVec 136) :=
  (List.range b.n).foldl (fun t j => tabAdd (256 * i + j) (contribution anchor r (column b bs j)) t) t

/-- The rows of a stream in order, until one is in error (R231): the sums, and the error. -/
def streamSums (anchor : Int) (b : BlockShape) (wt bs : List Byte) (row0 : Nat) :
    List Nat → List (Nat × BitVec 136) → List (Nat × BitVec 136) × Option MatrixFault
  | [], t => (t, none)
  | i :: rest, t =>
    let r := streamRow b bs i
    if r.badScale then (t, some ⟨Trap.scale, i, 0⟩)
    else if r.badValue then (t, some (matrixFault MatrixCode.value i))
    else streamSums anchor b wt bs row0 rest (rowSums anchor b wt r (row0 + i) t)

/-! ### Tiles -/

/-- Accumulator tile t of a workgroup. -/
def Workgroup.acc (w : Workgroup) (t : Nat) : AccTile := w.accs.getD t ⟨.uncfg, [], [], [], 0, 0, 0, []⟩
/-- Replaces it. -/
def State.setAcc (s : State) (t k : Nat) (a : AccTile) : State := s.updWg t fun w => { w with accs := w.accs.set k a }

/-- A configured tile at zero (R357). -/
def AccTile.idle : AccTile := ⟨.idle, [], [], [], 96, 0, 0, []⟩
/-- A tile that is not configured. -/
def AccTile.empty : AccTile := ⟨.uncfg, [], [], [], 0, 0, 0, []⟩

/-- Sums that have been sent reach the tile (R232, R364). -/
def AccTile.arrive (a : AccTile) : AccTile :=
  a.sums.foldl (fun a e =>
    { a with a := tabAdd e.1 e.2 a.a, cr := tabAdd (e.1 % 256) e.2 a.cr, cc := tabAdd (e.1 / 256) e.2 a.cc }) { a with sums := [] }

/-! ### DRAIN (R235, R236, R362) -/

/-- Sat128: signed 136 bits clamped to signed 128 bits. -/
def sat128 (a : BitVec 136) : Int := max (-(2 ^ 127)) (min (2 ^ 127 - 1) a.toInt)

/-- A drained element's bytes: 0 F32, 1 BF16, 2 INT32, 3 raw. -/
def drainElement (target : Nat) (anchor : Int) (a : BitVec 136) : List Byte :=
  let v : Dy := ⟨sat128 a, anchor - 96⟩
  match target with
  | 0 => leBytes 4 (f32.roundDy 0 false v).1
  | 1 => leBytes 2 (bf16.roundDy 0 false v).1
  | 2 => leBytes 4 (toInt 0 32 true (.fin (v.m < 0) v.m.natAbs v.e)).1
  | _ => leBytes 16 (BitVec.ofInt 128 v.m).toNat

/-- The rows or columns whose stored checksum differs from the one recomputed, with the difference. -/
def checkDiff (n : Nat) (stored : List (Nat × BitVec 136)) (a : List (Nat × BitVec 136)) (line : Nat → Nat) :
    List (Nat × BitVec 136) :=
  (List.range n).filterMap fun j =>
    let sum := (a.filter fun e => line e.1 = j).foldl (fun acc e => acc + e.2) 0
    let d := (tabFind j stored).getD 0 - sum
    if d = 0 then none else some (j, d)

/-- The check of the whole tile (R236): the tile, corrected where it can be, and whether a correction was made; none
when it fails. -/
def AccTile.check (a : AccTile) : Option (AccTile × Bool) :=
  match checkDiff 256 a.cr a.a (· % 256), checkDiff 32 a.cc a.a (· / 256) with
  | [], [] => some (a, false)
  | [(j, d)], [(i, e)] => if d = e then some ({ a with a := tabAdd (256 * i + j) d a.a }, true) else none
  | [(j, d)], [] => some ({ a with cr := tabAdd j (-d) a.cr }, true)
  | [], [(i, d)] => some ({ a with cc := tabAdd i (-d) a.cc }, true)
  | _, _ => none

/-- The barrier object of a drain with CV: its gang offset, if it lies in the member's allocation and is sound. -/
def State.drainObject (s : State) (w : Workgroup) (b : Nat) : Option Nat :=
  let off := w.member * w.spad + 32 * (b / 2 ^ 15)
  if w.spad < 32 * (b / 2 ^ 15) + 32 then none
  else if (s.barrier (s.gangKeyAt w off)).broken then none else some off

/-- Writes the drained rows, and counts their bytes. -/
def State.writeDrain (s : State) (w : Workgroup) (a : AccTile) (av b : Nat) : State :=
  let rows := bitsOf b 12 7
  let bytes := (List.range (256 * rows)).flatMap fun e =>
    drainElement (b % 4) a.anchor ((tabFind (256 * bitsOf b 6 2 + e) a.a).getD 0)
  let s := s.pokeN (s.gangKeyAt w av) bytes
  if bitOf b 14 then s.countBytes (s.gangKeyAt w (w.member * w.spad + 32 * (b / 2 ^ 15))) bytes.length else s

/-- DRAIN of a configured tile. -/
def State.drain (s : State) (t : Nat) (w : Workgroup) (cmd : MatrixCmd) : State × Option MatrixFault :=
  let b := cmd.bv.toNat
  let rows := bitsOf b 12 7
  if rows = 0 || 32 < rows || 32 < bitsOf b 6 2 + rows then (s, some (matrixFault MatrixCode.geom 0))
  else if w.pastEnd cmd.av.toNat (rows * 256 * drainSize (b % 4)) then (s, some ⟨Trap.segment, 0, cmd.av.toNat⟩)
  else if bitOf b 14 && (s.drainObject w b).isNone then
    (s, some ⟨Trap.segment, 0, w.member * w.spad + 32 * (b / 2 ^ 15)⟩)
  else match (w.acc cmd.tile).check with
    | none => (s.updTile t fun tl => { tl with accFail := min 255 (tl.accFail + 1) }, some ⟨Trap.accsum, 0, 0⟩)
    | some (a, fixed) =>
      let s := if fixed then
          (s.setAcc t cmd.tile a).updTile t fun tl => { tl with accCorr := min 0xFFFFFF (tl.accCorr + 1) }
        else s
      (s.writeDrain w a cmd.av.toNat b, none)

/-! ### The state table (R361) -/

/-- BEGIN of a configured tile without a chain. -/
def AccTile.begin (a : AccTile) (cmd : MatrixCmd) : Except MatrixFault AccTile :=
  let anchor := cmd.av.toInt
  if anchor < -1024 || 1023 < anchor then .error (matrixFault MatrixCode.anchor 0)
  else if 6 ≤ cmd.bv.toNat % 256 then .error (matrixFault MatrixCode.fmt 0)
  else .ok { a with st := .openChain, anchor := anchor, format := cmd.bv.setWidth 8 }

/-- The chain's weights, latched again when the block in force is not theirs, under their code (R229, R360). -/
def State.latched (s : State) (w : Workgroup) (a : AccTile) : Except MatrixFault Latch :=
  match w.latch with
  | some l =>
    if l.offset = a.waddr && l.format = a.format then .ok l
    else (s.readBlock w a.waddr a.format).map fun bs => ⟨a.waddr, bs, a.format⟩
  | none => (s.readBlock w a.waddr a.format).map fun bs => ⟨a.waddr, bs, a.format⟩

/-- MXST of a chain with weights. -/
def State.stream (s : State) (t : Nat) (w : Workgroup) (cmd : MatrixCmd) : State × Option MatrixFault :=
  let a := w.acc cmd.tile
  let b := cmd.bv.toNat
  let rows := bitsOf b 13 8
  if b % 256 ≠ a.format.toNat then (s, some (matrixFault MatrixCode.fmt 0))
  else if rows = 0 || 32 < rows || 32 < bitsOf b 18 14 + rows then (s, some (matrixFault MatrixCode.geom 0))
  else match s.latched w a with
    | .error e => (s, some e)
    | .ok l =>
      let shape := blockShape l.bytes
      if w.pastEnd cmd.av.toNat (rows * shape.rb) then (s, some ⟨Trap.segment, 0, cmd.av.toNat⟩)
      else
        let s := s.updWg t fun w => { w with latch := some l }
        let r := streamSums a.anchor shape l.bytes (s.ownBytes w cmd.av.toNat (rows * shape.rb)) (bitsOf b 18 14)
          (List.range rows) a.sums
        (s.setAcc t cmd.tile { a with sums := r.1 }, r.2)

/-- A matrix command acts on its accumulator tile. -/
def State.matrixAct (s : State) (t : Nat) (w : Workgroup) (cmd : MatrixCmd) : State × Option MatrixFault :=
  let a := w.acc cmd.tile
  let fail (code : Nat) : State × Option MatrixFault := (s, some (matrixFault code 0))
  match cmd.op, a.st with
  | .config, _ => (s.setAcc t cmd.tile .idle, none)
  | .release, _ => (s.setAcc t cmd.tile .empty, none)
  | .openChain, .uncfg => fail MatrixCode.notcfg
  | .openChain, .idle =>
    match a.begin cmd with
    | .ok a => (s.setAcc t cmd.tile a, none)
    | .error e => (s, some e)
  | .openChain, .openChain | .openChain, .loaded => fail MatrixCode.opened
  | .loadWeights, .uncfg | .stream, .uncfg | .closeChain, .uncfg | .drain, .uncfg | .zero, .uncfg => fail MatrixCode.notcfg
  | .loadWeights, .idle | .stream, .idle | .closeChain, .idle => fail MatrixCode.nochain
  | .loadWeights, .openChain | .loadWeights, .loaded =>
    match s.readBlock w cmd.av.toNat a.format with
    | .ok bs =>
      ((s.updWg t fun w => { w with latch := some ⟨cmd.av.toNat, bs, a.format⟩ }).setAcc t cmd.tile
        { a with st := .loaded, waddr := cmd.av.toNat }, none)
    | .error e => (s, some e)
  | .stream, .openChain => fail MatrixCode.nowt
  | .stream, .loaded => s.stream t w cmd
  | .closeChain, .openChain | .closeChain, .loaded => (s.setAcc t cmd.tile { a with st := .idle }, none)
  | .drain, .idle | .drain, .openChain | .drain, .loaded => s.drain t w cmd
  | .zero, .idle | .zero, .openChain | .zero, .loaded => (s.setAcc t cmd.tile { a with a := [], cr := [], cc := [] }, none)

end Sys2Proof.Machine
end

