-- ==== Sys2Proof/Machine/SquadEvents.lean ====
section
/-! DEFINITION. The events of a squad and its workgroup: results that arrive, traps taken at a boundary, timers, the pool
of entries, page walks, and the ends of workgroups and gangs (R99, R131, R135, R140, R161-R166, R304, R314, R317, R330). -/

namespace Sys2Proof.Machine

open Sys2Proof.Config

/-! ### Results (R140) -/

/-- A result reaches the lanes of a mask; a uniform one arrives whole. -/
def Squad.arriveResult (q : Squad) (n : Nat) (m : Mask) : Squad :=
  match q.outstanding[n]? with
  | none => q
  | some o =>
    let m := if o.uniform then o.lanes else o.lanes &&& m
    let q := q.deliver o m
    let rest := o.lanes &&& ~~~m
    { q with outstanding :=
        if rest = 0 then q.outstanding.eraseIdx n else q.outstanding.set n { o with lanes := rest } }

/-- RESULT_WRITEBACK. -/
def execResultWriteback (s : State) : Host.Outcome State Fault Refusal :=
  match s.input with
  | .resultWriteback t slot n m => .next (s.updSquad t slot fun q => q.arriveResult n m)
  | _ => .next s

/-! ### Asynchronous traps (R304, R317, R318) -/

/-- The group stands where an asynchronous trap may be taken: at an instruction boundary outside a hint run, or blocked
in a `WAITP`, `QPOP` or `SLEEP`. -/
def Group.atBoundary (g : Group) : Bool :=
  match g.blocked with
  | some (.waitp _ _) | some (.qpop _) | some (.sleep _ _) => true
  | none | some (.page _ _) | some .fence | some (.anchor _) | some (.home _) | some (.release _) | some .snoops | some .unbind
  | some (.answer _ _ _) => g.read.isNone && g.hints.isNone

/-- A group of the squad may issue. -/
def State.anyEligible (s : State) (t : Nat) (w : Workgroup) (q : Squad) : Bool :=
  q.groups.any fun g => s.eligible t (s.tile t) w q g

/-- The group that takes an asynchronous trap: the one that issues, or, where none can issue, the first of R133's order
among those at a boundary. -/
def State.taker (s : State) (t : Nat) (w : Workgroup) (q : Squad) : Option Group :=
  match s.cur with
  | some c => if c.tile = t && c.slot = q.slot then q.group? c.pc else none
  | none =>
    if s.anyEligible t w q || squadHeld (s.tile t) q then none
    else (best (fun a b => a.1 < b.1) ((q.groups.filter fun g => !g.parked && g.atBoundary).map fun g =>
      (pickKey s.coreCycles q g, g))).map (·.2)

/-- A 64-bit free value. -/
def State.freeDWord (s : State) : State × DWord :=
  ({ s with freeCtr := s.freeCtr + 2 }, freeWord s.freeCtr ++ freeWord (s.freeCtr + 1))

/-- The trap registers of an asynchronous trap taken by a group. -/
def Group.asyncRegs (g : Group) (num : Nat) (detail : Word) (addr : DWord) (seq : Word) (site : DWord) : TrapRegs :=
  { pc := g.site, num := BitVec.ofNat 8 num, async := true, past := false, part := false, det := detail, addr := addr
    seq := seq, arg := 0, site := site }

/-- A squad takes the WOUND it holds, or drops it when it holds and awaits no lock (R304). WOUND has no launch site: the
PC that `trsite` names is a free value (LOG 8). -/
def State.takeWound (s : State) (t : Nat) (w : Workgroup) (q : Squad) : State :=
  if !q.wound || q.intrap || q.ended then s
  else if !s.lockBusy (squadKey w q) then s.endWound (squadKey w q)
  else match s.taker t w q with
    | none => s
    | some g =>
      let s := s.updSquad t q.slot fun q => { q with wound := false }
      s.freeDWord.1.takeTrap t q.slot g.pc (g.asyncRegs Trap.wound 0 0 0 s.freeDWord.2)

/-- WOUND_TRAP. -/
def execWoundTrap (s : State) : Host.Outcome State Fault Refusal :=
  match s.input with
  | .woundTrap t slot =>
    match (s.tile t).wg with
    | none => .next s
    | some w => .next (match w.squad? slot with | none => s | some q => s.takeWound t w q)
  | _ => .next s

/-- A squad takes an engine trap or a late fault that it holds, when no WOUND comes before it. -/
def State.takeEngine (s : State) (t : Nat) (w : Workgroup) (q : Squad) : State :=
  if q.wound || q.intrap then s
  else match s.taker t w q, q.engine, q.late with
    | some g, some e, _ =>
      (s.updSquad t q.slot fun q => { q with engine := none }).takeTrap t q.slot g.pc
        (g.asyncRegs e.number e.detail e.address e.seq e.site)
    | some g, none, some e =>
      (s.updSquad t q.slot fun q => { q with late := none }).takeTrap t q.slot g.pc
        (g.asyncRegs e.number e.detail e.address e.seq e.site)
    | some _, none, none | none, _, _ => s

/-- ASYNC_TRAP_ENTRY. -/
def execAsyncTrapEntry (s : State) : Host.Outcome State Fault Refusal :=
  match s.input with
  | .asyncTrapEntry t slot =>
    match (s.tile t).wg with
    | none => .next s
    | some w => .next (match w.squad? slot with | none => s | some q => s.takeEngine t w q)
  | _ => .next s

/-- ENGINE_TRAP_ARRIVAL (R335); for a squad that is gone, its record is written (R98). -/
def execEngineTrapArrival (s : State) : Host.Outcome State Fault Refusal :=
  match s.input with
  | .engineTrapArrival k e =>
    match s.locate k with
    | none => .next (s.recordGone k e)
    | some (t, slot) => .next (match (s.tile t).wg with | none => s | some w => s.engineTrap t w slot e)
  | _ => .next s

/-! ### Timers, holds and entries (R131, R135, R330) -/

/-- A sleep's timer object advances once `devclk` has reached its target. -/
def Group.fire (now : Nat) (g : Group) : Group :=
  match g.blocked with
  | some (.sleep target false) => if target ≤ now then { g with blocked := some (.sleep target true) } else g
  | _ => g

/-- SLEEP_TIMER. -/
def execSleepTimer (s : State) : Host.Outcome State Fault Refusal :=
  match s.input with
  | .sleepTimer t slot => .next (s.updSquad t slot fun q => { q with groups := q.groups.map (Group.fire s.devclk.toNat) })
  | _ => .next s

/-- A group that holds a pool entry and has been blocked for 4,096 core cycles in a wait that yields it (R131). -/
def State.yields (s : State) (t : Nat) (w : Workgroup) (q : Squad) (g : Group) : Bool :=
  g.entry.pool?.isSome && g.since + 4096 ≤ s.coreCycles &&
    (match g.blocked with
      | some (.waitp a v) => !s.ready t w q (.waitp a v)
      | some (.qpop n) => !s.ready t w q (.qpop n)
      | some (.sleep a f) => !s.ready t w q (.sleep a f)
      | _ => false)

/-- The group blocked longest that yields its entry, while a group of the core is parked. -/
def State.yielder (s : State) (t : Nat) (w : Workgroup) : Option (Squad × Group) :=
  if (firstParked w).isNone then none
  else best (fun a b => a.2.since < b.2.since)
    (w.squads.flatMap fun q => (q.groups.filter fun g => s.yields t w q g).map fun g => (q, g))

/-- The group loses its entry and is parked at the first word of its hint run. -/
def Squad.park (q : Squad) (g : Group) (order : Nat) : Squad :=
  let rest := q.groups.filter fun h => h.pc ≠ g.pc
  { q with groups := addGroup { g with pc := g.site, entry := .parked order, hints := none, blocked := none, read := none } rest }

/-- POOL_ENTRY_RECLAIM. -/
def execPoolEntryReclaim (s : State) : Host.Outcome State Fault Refusal :=
  match s.input with
  | .poolEntryReclaim t =>
    match (s.tile t).wg with
    | none => .next s
    | some w =>
      match s.yielder t w with
      | none => .next s
      | some (q, g) => .next (s.putSquad t (q.park g (s.tile t).parkSeq) 1)
  | _ => .next s

/-- SKEW_HOLD_TIMEOUT: the hold ends, and no new one begins in the workgroup for 2,048 core cycles. -/
def execSkewHoldTimeout (s : State) : Host.Outcome State Fault Refusal :=
  match s.input with
  | .skewHoldTimeout t =>
    .next (s.updTile t fun tl =>
      match tl.skew with
      | some (_, t0) =>
        if t0 + 2048 ≤ s.coreCycles then
          ({ tl with skew := none } : Tile).updWg fun w => { w with skewQuiet := s.coreCycles + 2048 }
        else tl
      | none => tl)
  | _ => .next s

/-! ### Page walks (R161-R164) -/

/-- What a walk is for. -/
def Walk.mode (w : Walk) : AccessMode := if w.write then .write else if w.exec then .exec else .read

/-- A walk that a `TLBI` has asked for again completes: it fills the TLBs of the tile that raised it and ends, or it
faults at the same level and waits on, or at another level with a new record. A fault that is not replayable ends it,
and the accesses that wait for it meet that fault. -/
def State.walkAgain (s : State) (w : Walk) : State :=
  let rest := s.walks.erase w
  match s.walkFor w.record.tile w.tenant w.mode w.va with
  | (s, .ok p) => ({ s with walks := rest } : State).tlbFill w.record.tile w.tenant p
  | (s, .error f) =>
    match f.replay with
    | none => { s with walks := rest }
    | some level =>
      if level = w.level then { s with walks := rest ++ [{ w with retry := false }] }
      else
        let r := { w.record with detail := BitVec.ofNat 32 f.detail }
        { s.raise r with walks := rest ++ [{ w with retry := false, level := level, raised := s.devclk.toNat, record := r }] }

/-- PAGE_WALK_DONE. -/
def execPageWalkDone (s : State) : Host.Outcome State Fault Refusal :=
  match s.input with
  | .pageWalkDone n =>
    match s.walks[n]? with
    | some w => .next (if w.retry then s.walkAgain w else s)
    | none => .next s
  | _ => .next s

/-- The trap that a group which waits for a page takes if none comes in time. -/
def Group.pageTrap (g : Group) (page : Nat) : Option TrapRegs :=
  match g.blocked with
  | some (.page p r) => if p = page then some r else none
  | none | some (.waitp _ _) | some (.qpop _) | some (.sleep _ _) | some (.anchor _) | some (.home _) | some (.release _)
  | some .fence | some .snoops | some .unbind | some (.answer _ _ _) => none

/-- A squad that waits for a page of an abandoned walk takes PAGE at its faulting instruction: the first of its groups that waits so
and that no handler bars (R164, LOG 44). -/
def State.giveUp (s : State) (page t slot : Nat) : State :=
  match s.squad? t slot with
  | none => s
  | some q =>
    if q.stopped then s
    else match q.groups.findSome? fun g => if q.runs g then (g.pageTrap page).map fun r => (g.pc, r) else none with
      | some (pc, r) => s.takeTrap t slot pc r
      | none => s

/-- The squads of a tenant on the wafer: their tiles and slots. -/
def State.tenantSquads (s : State) (tenant : Nat) : List (Nat × Nat) :=
  s.tiles.flatMap fun e => e.2.wg.toList.flatMap fun w =>
    if ((s.launch? w.gang.launch).map (·.tenant)) = some tenant then w.squads.map fun q => (e.1, q.slot) else []

/-- A job that waits for a page of an abandoned walk stops with PAGE, DETAIL bit 1 clear. -/
def Job.giveUp (j : Job) (page detail va : Nat) : Job :=
  if j.stage = .paused page then { j with stage := .faulted Trap.page (detail - 2) va } else j

/-- A walk is abandoned (R164). -/
def State.abandonWalk (s : State) (k : Walk) : State :=
  let s : State := { s with
    walks := s.walks.erase k
    tiles := s.tiles.map fun e => (e.1, e.2.updWg fun w =>
      if ((s.launch? w.gang.launch).map (·.tenant)) = some k.tenant then
        { w with jobs := w.jobs.map fun j => j.giveUp (k.va / 4096) k.record.detail.toNat k.va }
      else w) }
  (s.tenantSquads k.tenant).foldl (fun s x => s.giveUp (k.va / 4096) x.1 x.2) s

/-- The `devclk` ticks after which an unresolved replayable fault becomes a trap (R164). -/
def pageTimeout : Nat := 1000000000

/-- REPLAYABLE_FAULT_TIMEOUT. -/
def execReplayableFaultTimeout (s : State) : Host.Outcome State Fault Refusal :=
  match s.input with
  | .replayableFaultTimeout n =>
    match s.walks[n]? with
    | some w => .next (if w.raised + pageTimeout ≤ s.devclk.toNat then s.abandonWalk w else s)
    | none => .next s
  | _ => .next s

/-! ### Peer probes (R166) -/

/-- PEER_PROBE, of a `kseg` load or a read-only-hinted load that missed: a hit in the peer's L1 fills the requester's and trains
its predictor; a miss, or a line of another tenant, sends the access on its ordinary path. -/
def execPeerProbe (s : State) : Host.Outcome State Fault Refusal :=
  match s.input with
  | .peerProbe t pa peer kseg =>
    match (s.tile t).wg with
    | none => .next s
    | some w =>
      let tenant := ((s.launch? w.gang.launch).map (·.tenant)).getD 0
      if (s.l1Copy t tenant pa kseg).isSome then .next s
      else match s.peerLine peer tenant (lineOf pa) with
      | some l =>
        .next ((s.l1Fill t tenant (lineOf pa) kseg l.bytes).updTile t fun tl =>
          { tl with predictor := ((lineOf pa, peer) :: tl.predictor.filter fun e => e.1 ≠ lineOf pa).take 64 })
      | none =>
        match s.verdict t pa false with
        | .ok => .next (s.bankLoad t tenant pa 1 ⟨false, false, true, kseg, true⟩).1
        | .wait _ | .fault _ _ => .next s
  | _ => .next s

/-! ### The ends of workgroups and gangs (R99, R314, R357) -/

/-- Every squad has ended, every engine command has completed, and every accepted message is written. -/
def Workgroup.finished (w : Workgroup) : Bool := w.squads.all (fun q => q.ended) && w.jobs = [] && w.q4.items = []

/-- The workgroup has ended: its accumulator tiles are unconfigured too. -/
def Workgroup.ended (w : Workgroup) : Bool := w.finished && w.latch.isNone && w.accs.all fun a => a = AccTile.empty

/-- WORKGROUP_END: its accumulator tiles return to UNCFG. -/
def execWorkgroupEnd (s : State) : Host.Outcome State Fault Refusal :=
  match s.input with
  | .workgroupEnd t =>
    match (s.tile t).wg with
    | some w => .next (if w.finished then s.updWg t fun w => { w with accs := w.accs.map fun _ => AccTile.empty, latch := none } else s)
    | none => .next s
  | _ => .next s

/-- The members of a gang on the wafer. -/
def State.membersOf (s : State) (g : GangKey) : List (Nat × Workgroup) :=
  s.tiles.filterMap fun e => e.2.wg.bind fun w => if w.gang = g then some (e.1, w) else none

/-- Every member of a running gang has ended. -/
def State.gangOver (s : State) (g : Gang) : Bool :=
  (g.stage = .running || g.stage = .requested) && s.goesOn g.key.launch && s.membersOf g.key ≠ [] && (s.membersOf g.key).all fun m => m.2.ended

/-- Starts the system-scope release of R76 for the stores of a gang. -/
def State.releaseGang (s : State) (g : GangKey) : State :=
  (s.membersOf g).foldl (fun s m => m.2.squads.foldl (fun s q => s.startRelease q 6) s) s

/-- Every store of a gang is performed and released. -/
def State.gangReleased (s : State) (g : GangKey) : Bool :=
  (s.membersOf g).all fun m => m.2.squads.all fun q => s.releaseState m.1 q 6 = .ready

/-- A gang retires: its scratchpad, save slot and tiles are freed, and with its last gang the launch ends DONE. -/
def State.retireGang (s : State) (g : GangKey) : State :=
  let s := (s.freeTiles fun k => k = g).forgetGangs fun k => k = g
  let s := s.updLaunch g.launch fun l => { l with retired := l.retired ++ [g.gang] }
  match s.launch? g.launch with
  | some l => if l.retired.length = l.gangs then s.finishLaunch g.launch 0 0 else s
  | none => s

/-- GANG_RETIRE. -/
def execGangRetire (s : State) : Host.Outcome State Fault Refusal :=
  match s.input with
  | .gangRetire k =>
    match s.gang? k with
    | none => .next s
    | some g =>
      if s.gangOver g then
        let s := s.releaseGang k
        .next (if s.gangReleased k then s.retireGang k else s)
      else .next s
  | _ => .next s

end Sys2Proof.Machine
end

