-- ==== Sys2Proof/Machine/JobEvents.lean ====
section
/-! DEFINITION. The events of copy jobs and matrix commands on a tile's engines: starting, landing, completing, stopping,
follow-ons and the array (R164, R205, R232, R347-R352, R361, R364). -/

namespace Sys2Proof.Machine

open Sys2Proof.Config

/-! ### Jobs of a tile -/

/-- A job waits for a page whose walk is outstanding. -/
def State.jobPaused (s : State) (w : Workgroup) (j : Job) : Bool :=
  match j.stage with
  | .paused page => s.walkPending (s.tenantOf w) (4096 * page)
  | .queued | .started | .faulted _ _ _ => false

/-- A fault of an access that a job makes (R352). -/
def State.jobFault (s : State) (t : Nat) (w : Workgroup) (j : Job) (f : MemFault) : State :=
  match f.replay with
  | some level => s.pauseJob t w j f level
  | none => s.failJob t j.id f.num (if f.detail = lostMark then 0 else f.detail) f.addr

/-! ### Reading the sources of a copy job (R347, R349) -/

/-- Goes on with what an access has read. -/
def andThen {α β : Type} (r : State × Served α) (k : State → α → State × Served β) : State × Served β :=
  match r with
  | (s, .ok a) => k s a
  | (s, .wait l) => (s, .wait l)
  | (s, .fault f p) => (s, .fault f p)

/-- What a job's accesses are made with: its tile, workgroup, the job and its tenant. -/
structure JobCtx where
  tile : Nat
  wg : Workgroup
  job : Job
  tenant : Nat
deriving DecidableEq, Repr

/-- A job of MCAST type. -/
def Job.isMcast (j : Job) : Bool :=
  match j.kind with
  | .copy c => copyType c = some .mcast
  | .collective _ | .matrix _ _ => false

/-- The line of memory that an offset of a space names for a job. -/
def JobCtx.line (k : JobCtx) (s : State) (sp : Nat) (e : Int) : Option Nat :=
  match (s.engineTarget k.tile k.wg k.job.segs k.tenant .read sp 0 none e).2 with
  | .ok (.phys pa) => some (lineOf pa)
  | .ok (.spad _ _) | .error _ => none

/-- What another job's fill has read of a line for this one (R348). -/
def JobCtx.filled (k : JobCtx) (s : State) (sp : Nat) (e : Int) : Option (List Byte) :=
  (k.line s sp e).bind fun l => (s.job? k.tile k.job.id).bind fun j => tabFind l j.2.fills

/-- A request of an MCAST job of a tenant that has reached the anchor of a line. -/
def State.mcastHeld (s : State) (tenant line : Nat) (h : Held) : Option (Nat × Nat) :=
  match h.request with
  | .job t id =>
    if h.line = line && (s.job? t id).any fun x => x.2.isMcast && s.tenantOf x.1 = tenant then some (t, id) else none
  | .group _ | .access _ | .hostRead _ _ _ | .hostWrite _ _ _ | .snoop _ _ _ _ => none

/-- The data of an MCAST job's line leaves its serving bank: every request of an MCAST job of the tenant for the line that has
reached the anchor joins the fill and is held no longer (R348). -/
def State.shareFill (s : State) (tenant line : Nat) (bs : List Byte) : State :=
  let others := s.held.filterMap (s.mcastHeld tenant line)
  others.foldl (fun s x => s.updJob x.1 x.2 fun j => { j with fills := j.fills ++ [(line, bs)] })
    { s with held := s.held.filter fun h => (s.mcastHeld tenant line h).isNone }

/-- A block that a job has read is kept; an MCAST job's is shared. -/
def JobCtx.keep (k : JobCtx) (s : State) (sp b : Nat) (e : Int) (bs : List Byte) : State :=
  let s := match k.line s sp e with
    | some l => if k.job.isMcast then s.shareFill k.tenant l bs else s
    | none => s
  s.updJob k.tile k.job.id fun j => { j with read := j.read ++ [(sp, b, bs)] }

/-- The block of an offset: read already, or read now and kept, so that a job reads each line once (R348) and one that was
paused goes on from where it stopped (R164); or what another MCAST job's fill has read for it. -/
def JobCtx.block (c : JobCtx) (s : State) (sp : Nat) (e : Int) : State × Served (List Byte) :=
  let b := engineStart c.job.segs sp e / (if spaceSeg sp = .sseg then 64 else 128)
  match ((s.job? c.tile c.job.id).map (·.2.read)).bind fun bs => bs.find? fun x => x.1 = sp && x.2.1 = b with
  | some x => (s, .ok x.2.2)
  | none =>
    match c.filled s sp e with
    | some bs => (s.updJob c.tile c.job.id fun j => { j with read := j.read ++ [(sp, b, bs)] }, .ok bs)
    | none => andThen (s.engineBlock c.tile c.wg c.job.segs c.tenant sp c.job.swz e) fun s bs => (c.keep s sp b e bs, .ok bs)

/-- Reads n bytes at an offset of a space; a row of no bytes makes no access. -/
def JobCtx.read (c : JobCtx) (s : State) (sp : Nat) (e : Int) (n : Nat) : State × Served (List Byte) :=
  let start := engineStart c.job.segs sp e
  if n = 0 then (s, .ok [])
  else if !engineInside c.wg c.job.segs sp none e n then (s, .fault ⟨Trap.segment, 0, start, none⟩ false)
  else (pieces start n 0 n).foldl (fun acc p => andThen acc fun s bs =>
    andThen (c.block s sp (e + p.1)) fun s b =>
      let at_ := (start + p.1) % b.length
      (s, .ok (bs ++ (b.drop at_).take p.2))) (s, .ok [])

/-- Reads n bytes at each of a list of offsets. -/
def JobCtx.readRows (c : JobCtx) (s : State) (sp n : Nat) (rows : List Int) : State × Served (List (List Byte)) :=
  rows.foldl (fun acc e => andThen acc fun s bs => andThen (c.read s sp e n) fun s b => (s, .ok (bs ++ [b]))) (s, .ok [])

/-- The 32-bit words of bytes. -/
def wordsOf (bs : List Byte) (n : Nat) : List Nat := (List.range n).map fun i => leValue ((bs.drop (4 * i)).take 4)

/-! ### The writes of a copy job -/

/-- The writes of rows at offsets, without those of no bytes. -/
def rowWrites (sp : Nat) (member : Option Nat) (offs : List Int) (rows : List (List Byte)) : List JobWrite :=
  ((offs.zip rows).map fun e => (⟨sp, e.1, member, e.2, e.2.length, [], none⟩ : JobWrite)).filter fun x => x.bytes ≠ []

/-- The bytes of a write that lie over bytes the job reads are free values (R347, LOG 17). -/
def JobWrite.overlapped (src : List (Int × Int)) (ctr : Nat) (x : JobWrite) : JobWrite :=
  { x with bytes := x.bytes.zipIdx.map fun b =>
      if src.any fun r => r.1 ≤ x.offset + b.2 && x.offset + b.2 < r.2 then freeByte (ctr + b.2) else b.1 }

/-- The writes of a job, with what overlaps its source left free. -/
def freeOverlaps (src : List (Int × Int)) : Nat → List JobWrite → List JobWrite
  | _, [] => []
  | ctr, x :: r => x.overlapped src ctr :: freeOverlaps src (ctr + x.bytes.length) r

/-- The writes of a job that may not overlap its source. -/
def State.plain (s : State) (c : BitVec 1024) (src : List Int) (n : Nat) (ws : List JobWrite) : State × Served (List JobWrite) :=
  let total := (ws.map fun x => x.bytes.length).foldl (· + ·) 0
  if cardSsp c = cardDsp c then
    ({ s with freeCtr := s.freeCtr + total }, .ok (freeOverlaps (src.map fun e => (e, e + n)) s.freeCtr ws))
  else (s, .ok ws)

/-- PLANE: bit j of output word k is bit k of input word j. -/
def planeBytes (bs : List Byte) : List Byte :=
  let ws := wordsOf bs 32
  (List.range 32).flatMap fun k => leBytes 4 ((ws.zipIdx.map fun w => bit (bitOf w.1 k) * 2 ^ w.2).foldl (· + ·) 0)

/-- The order of SELECT's keys (R349): signed, or F32 with −0 below +0 and every NaN lowest. -/
def selectKey (f32Keys : Bool) (x : Nat) : Int :=
  if !f32Keys then toSigned 32 x
  else if 0x7F800000 < x % 2 ^ 31 then -(2 ^ 40)
  else if bitOf x 31 then -((x % 2 ^ 31 : Nat) : Int) - 1
  else x

/-- The ranks of SELECT: the indices of the first K keys. -/
def selectRanks (aux : Nat) (keys : List Nat) : List Nat :=
  let ks := keys.zipIdx.map fun e => (selectKey (bitOf aux 13) e.1, e.2)
  let sorted := sortBy (fun a b => if bitOf aux 14 then a.1 < b.1 else b.1 < a.1) ks
  (sorted.take (aux % 2 ^ 13)).map (·.2)

/-- The writes of COMPACT: the kept records, and the index table with their number. -/
def compactWrites (c : BitVec 1024) (mask : List Byte) (rows : List (List Byte)) : List JobWrite :=
  let kept := (rows.zipIdx.filter fun e => bitOf (leValue ((mask.drop (e.2 / 8)).take 1)) (e.2 % 8))
  let base := (cardDest c).base
  let offs := (List.range kept.length).map fun (m : Nat) => base + m * (cardDest c).s1
  let word (i : Nat) : Nat := match kept.findIdx? fun e => e.2 = i with | some m => m | none => 0xFFFFFFFF
  let table := ((List.range rows.length).flatMap fun i => leBytes 4 (word i)) ++ leBytes 4 kept.length
  rowWrites (cardDsp c) none offs (kept.map (·.1)) ++ [⟨2, cardFollow c, none, table, table.length, [], none⟩]

/-- The indexed offsets of GATHER and SCATTER: a base and a stride. -/
def indexed (base : Nat) (stride : Int) (idx : List Nat) : List Int := idx.map fun (i : Nat) => (base : Int) + i * stride

/-- Where the bytes of a copy come from: the tile that sends them, what they were read from, and its address. -/
structure CopySource where
  tile : Nat
  about : Subject
  address : Nat
deriving DecidableEq, Repr

/-- The bytes of a source offset are sent by the bank that serves their line, or for bytes of scratchpad by the job's tile
(LOG 100). -/
def JobCtx.sender (k : JobCtx) (s : State) (sp : Nat) (e : Int) : CopySource :=
  let va := engineStart k.job.segs sp e
  match k.line s sp e with
  | some l => ⟨s.servingBank l, .line l, va⟩
  | none => ⟨k.tile, .scratch e.toNat, va⟩

/-- The parts of a row that come from one source line each, as (offset in the row, size). -/
def linePieces (start n : Nat) : List (Nat × Nat) :=
  (List.range (n / 128 + 2)).filterMap fun k =>
    let lo := if k = 0 then 0 else 128 * k - start % 128
    let hi := min n (128 * (k + 1) - start % 128)
    if lo < hi then some (lo, hi - lo) else none

/-- MCAST's writes at a member, with where each comes from: each line's bytes go from its serving bank (R49, R348, LOG 100). -/
def JobCtx.mcastWrites (k : JobCtx) (s : State) (c : BitVec 1024) (m : Nat) (src dst : List Int) (rows : List (List Byte)) :
    List (JobWrite × CopySource) :=
  (src.zip (dst.zip rows)).flatMap fun e =>
    (linePieces (engineStart k.job.segs (cardSsp c) e.1) e.2.2.length).map fun p =>
      (⟨cardDsp c, e.2.1 + p.1, some m, (e.2.2.drop p.1).take p.2, p.2, [], none⟩, k.sender s (cardSsp c) (e.1 + p.1))

/-- The packet of a copy of an MCAST job's line, on its way to a member's tile (R49). -/
def JobCtx.copyPacket (k : JobCtx) (n dest : Nat) (x : CopySource) (offset : Int) : Pending :=
  ⟨.packetInject, .packetInject ⟨x.tile, dest, some ⟨k.wg.gang, k.wg.member, k.job.slot⟩, k.job.site
    , BitVec.ofNat 64 x.address, k.job.seq, .copy k.tile k.job.id n offset.toNat x.about⟩⟩

/-- The copies of an MCAST job's writes are sent, in their order, each under a number of its own; a copy for the tile it is sent
from is there, and a member that is on no tile receives nothing (R348, LOG 112). -/
def JobCtx.sendCopies (k : JobCtx) : State → List (JobWrite × CopySource) → State × List JobWrite
  | s, [] => (s, [])
  | s, (x, b) :: r =>
    match x.member.bind (s.memberTile k.wg.gang) with
    | none => k.sendCopies s r
    | some u =>
      if u = b.tile then
        let y := k.sendCopies s r
        (y.1, x :: y.2)
      else
        let n := s.nextPacket
        let y := k.sendCopies { s with nextPacket := n + 1, agenda := s.agenda ++ [k.copyPacket n u b x.offset] } r
        (y.1, { x with copy := some n } :: y.2)

/-- Reads everything that a copy job reads, and answers what it writes. -/
def JobCtx.plan (k : JobCtx) (s : State) (c : BitVec 1024) : State × Served (List JobWrite) :=
  let g := cardSource c
  let d := cardDest c
  let src := g.rows
  let table (s : State) (next : State → List Nat → State × Served (List JobWrite)) : State × Served (List JobWrite) :=
    andThen (k.read s 2 (cardAux c : Int) (4 * g.n1)) fun s bs => next s (wordsOf bs g.n1)
  match copyType c with
  | none => (s, .ok [])
  | some .copy => andThen (k.readRows s (cardSsp c) g.n0 src) fun s rs => s.plain c src g.n0 (rowWrites (cardDsp c) none d.rows rs)
  | some .gather => table s fun s idx =>
    let src := indexed (cardField c 0x08 63 0) g.s1 idx
    andThen (k.readRows s (cardSsp c) g.n0 src) fun s rs => s.plain c src g.n0 (rowWrites (cardDsp c) none d.rows rs)
  | some .scatter => table s fun s idx =>
    andThen (k.readRows s (cardSsp c) g.n0 src) fun s rs =>
      s.plain c src g.n0 (rowWrites (cardDsp c) none (indexed (cardField c 0x10 63 0) d.s1 idx) rs)
  | some .mcast => andThen (k.readRows s (cardSsp c) g.n0 src) fun s rs =>
    let y := k.sendCopies s (((List.range 16).filter fun m => bitOf (cardAux c) m).flatMap fun m => k.mcastWrites s c m src d.rows rs)
    (y.1, .ok y.2)
  | some .plane => andThen (k.readRows s (cardSsp c) g.n0 src) fun s rs =>
    s.plain c src g.n0 (rowWrites (cardDsp c) none d.rows (rs.map planeBytes))
  | some .select => andThen (k.readRows s (cardSsp c) g.n0 src) fun s rs =>
    let bytes := (selectRanks (cardAux c) (rs.map leValue)).flatMap (leBytes 4)
    (s, .ok (rowWrites (cardDsp c) none [d.base] [bytes]))
  | some .compact => andThen (k.read s 2 (cardAux c : Int) ((g.n1 + 7) / 8)) fun s mask =>
    andThen (k.readRows s (cardSsp c) g.n0 src) fun s rs => (s, .ok (compactWrites c mask rs))

/-! ### Starting, landing and completing -/

/-- The job may start, or start again at its reads after a page has been resolved. -/
def State.mayStart (s : State) (w : Workgroup) (j : Job) : Bool :=
  match j.stage with
  | .queued => w.free j
  | .paused _ => j.writes = [] && !s.jobPaused w j
  | .started | .faulted _ _ _ => false

/-- A job is held at no anchor. -/
def State.unholdJob (s : State) (t id : Nat) : State := { s with held := s.held.filter fun h => h.request ≠ .job t id }

/-- A job waits at the anchor of one line. -/
def State.holdJob (s : State) (line t id : Nat) : State :=
  ({ s with held := s.held.filter fun h => h.request ≠ .job t id || h.line = line } : State).hold line (.job t id)

/-- A copy job starts. -/
def State.startCopy (s : State) (t : Nat) (w : Workgroup) (j : Job) (c : BitVec 1024) : State :=
  match (⟨t, w, j, s.tenantOf w⟩ : JobCtx).plan s c with
  | (s, .ok ws) => (s.unholdJob t j.id).updJob t j.id fun j => { j with stage := .started, writes := ws, read := [], fills := [] }
  | (s, .wait l) => s.holdJob l t j.id
  | (s, .fault f _) => (s.unholdJob t j.id).jobFault t w j f

/-- JOB_START. -/
def execJobStart (s : State) : Host.Outcome State Fault Refusal :=
  match s.input with
  | .jobStart t id =>
    match s.job? t id with
    | none => .next s
    | some (w, j) =>
      match j.kind with
      | .copy c => .next (if s.mayStart w j then s.startCopy t w j c else s)
      | .collective _ | .matrix _ _ => .next s
  | _ => .next s

/-- The first write of a job may land: its copy has come. -/
def Job.hasWrite (j : Job) : Bool := j.writes.head?.any fun x => x.copy.isNone

/-- The job has a write to land. -/
def State.mayLand (s : State) (w : Workgroup) (j : Job) : Bool :=
  match j.stage with
  | .started => j.hasWrite
  | .paused _ => j.hasWrite && !s.jobPaused w j
  | .queued | .faulted _ _ _ => false

/-- A write at a member that cannot be reached is dropped with the others of that member (R348). -/
def Job.withoutMember (j : Job) (m : Option Nat) : Job := { j with writes := j.writes.filter fun x => x.member ≠ m }

/-- A copy of an MCAST job's line has come: its write lands after those whose copies came before. -/
def Job.copyArrived (j : Job) (n : Nat) : Job :=
  let ws := mapIf (fun x => x.copy = some n) (fun x => { x with copy := none }) j.writes
  { j with writes := (ws.filter fun x => x.copy.isNone) ++ ws.filter fun x => x.copy.isSome }

/-- A copy that no route takes to its member's tile: the member receives nothing of it (R348). -/
def Job.withoutCopy (j : Job) (n : Nat) : Job := { j with writes := j.writes.filter fun x => x.copy ≠ some n }

/-- The job with a copy under way. -/
def State.copying (s : State) (t id n : Nat) : Option (Workgroup × Job) :=
  (s.job? t id).filter fun x => x.2.writes.any fun y => y.copy = some n

/-- The first write of a job lands, or meets a fault. -/
def State.landOne (s : State) (t : Nat) (w : Workgroup) (j : Job) : State :=
  match s.landFirst t w (s.tenantOf w) j with
  | (s, .ok j') => (s.unholdJob t j.id).updJob t j.id fun _ => { j' with stage := .started }
  | (s, .wait l) => s.holdJob l t j.id
  | (s, .fault f _) =>
    let s := s.unholdJob t j.id
    match (j.writes.head?).bind (·.member) with
    | some m => if f.num = Trap.fabricLoss then s.updJob t j.id fun j => j.withoutMember (some m) else s.jobFault t w j f
    | none => s.jobFault t w j f

/-- JOB_WRITE_LAND. -/
def execJobWriteLand (s : State) : Host.Outcome State Fault Refusal :=
  match s.input with
  | .jobWriteLand t id =>
    match s.job? t id with
    | none => .next s
    | some (w, j) =>
      match j.kind with
      | .copy _ => .next (if s.mayLand w j then s.landOne t w j else s)
      | .collective _ | .matrix _ _ => .next s
  | _ => .next s

/-- A completed job posts its event record, if its card asks for one, and leaves its place. -/
def State.completeJob (s : State) (t : Nat) (j : Job) (kind : Nat) : State :=
  let s := s.dropJob t j.id
  if cardEvt j.card then s.postEngine t (cardCode j.card) j.slot kind j.seq.toNat else s

/-- A group loses a member whose job has completed or stopped, and an entry without members is freed (R354). -/
def State.leaveGroup (s : State) (t id : Nat) : State :=
  let js := s.junctions.map fun e =>
    (e.1, { e.2 with members := e.2.members.filter fun m => !(m.tile = t && m.job = id) })
  { s with junctions := js.filter fun e => e.2.members ≠ [] }

/-- The result of the job's group has been formed. -/
def State.reducedJob (s : State) (t id : Nat) : Bool :=
  s.junctions.any fun e => e.2.reduced && e.2.members.any fun m => m.tile = t && m.job = id

/-- JOB_COMPLETE. -/
def execJobComplete (s : State) : Host.Outcome State Fault Refusal :=
  match s.input with
  | .jobComplete t id =>
    match s.job? t id with
    | none => .next s
    | some (_, j) =>
      if j.stage = .started && j.writes = [] then
        match j.kind with
        | .copy _ => .next (s.completeJob t j 1)
        | .collective _ => .next (if s.reducedJob t id then (s.completeJob t j 2).leaveGroup t id else s)
        | .matrix _ _ => .next s
      else .next s
  | _ => .next s

/-- The follow-on of a copy job is discarded with it. -/
def State.dropFollow (s : State) (t id : Nat) : State :=
  s.updWg t fun w => { w with jobs := w.jobs.filter fun j =>
    match j.kind with | .matrix _ (some n) => n ≠ id | .matrix _ none | .copy _ | .collective _ => true }

/-- The engine trap of a job on its way to its squad. -/
def State.sendTrap (s : State) (w : Workgroup) (j : Job) (num detail addr : Nat) : State :=
  { s with agenda := s.agenda ++ [⟨.engineTrapArrival, .engineTrapArrival ⟨w.gang, w.member, j.slot⟩
      ⟨num, BitVec.ofNat 32 detail, BitVec.ofNat 64 addr, j.site, j.seq⟩⟩] }

/-- JOB_STOP. -/
def execJobStop (s : State) : Host.Outcome State Fault Refusal :=
  match s.input with
  | .jobStop t id =>
    match s.job? t id with
    | none => .next s
    | some (w, j) =>
      match j.stage with
      | .faulted num detail addr =>
        .next ((((s.dropJob t id).dropFollow t id).leaveGroup t id).sendTrap w j num detail addr)
      | .queued | .started | .paused _ => .next s
  | _ => .next s

/-! ### The matrix array (R350, R351, R361, R364) -/

/-- The next command of `q1`. -/
def Workgroup.nextCommand (w : Workgroup) : Option (Job × MatrixCmd × Option Nat) :=
  w.jobs.findSome? fun j => match j.kind with | .matrix c n => some (j, c, n) | .copy _ | .collective _ => none

/-- A follow-on may be issued: its copy has completed, and every earlier command has executed. -/
def Workgroup.mayFollow (w : Workgroup) (id : Nat) : Bool :=
  match w.nextCommand with
  | some (j, _, some n) => j.id = id && !w.jobs.any fun k => k.id = n
  | some (_, _, none) | none => false

/-- FOLLOW_ON_ISSUE. -/
def execFollowOnIssue (s : State) : Host.Outcome State Fault Refusal :=
  match s.input with
  | .followOnIssue t id =>
    match (s.tile t).wg with
    | some w =>
      .next (if w.mayFollow id then s.updJob t id fun j =>
          { j with kind := match j.kind with | .matrix c _ => .matrix c none | .copy x => .copy x | .collective x => .collective x }
        else s)
    | none => .next s
  | _ => .next s

/-- The command waits for the sums of earlier streams (R364); CONFIG and RELEASE, which zero a tile, wait as well. -/
def Workgroup.awaitsSums (w : Workgroup) (c : MatrixCmd) : Bool :=
  match c.op with
  | .drain | .zero | .config | .release => (w.acc c.tile).sums ≠ []
  | .openChain | .loadWeights | .stream | .closeChain => false

/-- The array may act on its next command. -/
def Workgroup.mayAct (w : Workgroup) : Option (Job × MatrixCmd) :=
  match w.nextCommand with
  | some (j, c, none) => if w.free j && !w.awaitsSums c then some (j, c) else none
  | some (_, _, some _) | none => none

/-- MATRIX_COMMAND_ACT. -/
def execMatrixCommandAct (s : State) : Host.Outcome State Fault Refusal :=
  match s.input with
  | .matrixCommandAct t =>
    match (s.tile t).wg with
    | none => .next s
    | some w =>
      match w.mayAct with
      | none => .next s
      | some (j, c) =>
        match s.matrixAct t w c with
        | (s, none) => .next (s.dropJob t j.id)
        | (s, some f) => .next ((s.dropJob t j.id).sendTrap w j f.num f.detail f.addr)
  | _ => .next s

/-- MXST_SUMS_ARRIVE: the sums on their way to the first accumulator tile that has some. -/
def execMxstSumsArrive (s : State) : Host.Outcome State Fault Refusal :=
  match s.input with
  | .mxstSumsArrive t =>
    match (s.tile t).wg with
    | none => .next s
    | some w =>
      match (List.range 8).find? fun k => (w.acc k).sums ≠ [] with
      | some k => .next (s.setAcc t k (w.acc k).arrive)
      | none => .next s
  | _ => .next s

end Sys2Proof.Machine
end

