-- ==== Sys2Proof/Machine/Collectives.lean ====
section
/-! DEFINITION. The events of collective jobs: joining a group, its reduction, chunks that land, failures, and what comes
from peers (R85, R353-R356). -/

namespace Sys2Proof.Machine

open Sys2Proof.Config

/-! ### Fields of a group -/

/-- The junction-table entry of a card. -/
def collEntry (c : BitVec 1024) : Nat := cardField c 0 15 8

/-- The group that a card claims. -/
def claim (tenant : Nat) (c : BitVec 1024) : Junction :=
  { tenant := tenant, key := BitVec.ofNat 64 (cardField c 0x08 63 0), op := cardField c 0 3 0, len := collLen c
    chunk := collChunk c, nlocal := collLocal c, npeer := collPeers c, peers := BitVec.ofNat 64 (collPeerSet c)
    members := [], contributions := [], reduced := false, failed := false, rebuilds := 0 }

/-- The claimed fields of two groups are the same. -/
def Junction.sameGroup (a b : Junction) : Bool :=
  a.op = b.op && a.len = b.len && a.chunk = b.chunk && a.nlocal = b.nlocal && a.npeer = b.npeer && a.peers = b.peers

/-- COLLECTIVE codes (R354, R356). -/
abbrev CollectiveCode.busy : Nat := 1
abbrev CollectiveCode.mismatch : Nat := 2
abbrev CollectiveCode.lost : Nat := 3

/-! ### Contributions of peers -/

/-- Puts bytes over others from an offset. -/
def overlay (bs : List Byte) (off : Nat) (x : List Byte) : List Byte := bs.take off ++ x ++ bs.drop (off + x.length)

/-- What rank r of a peer has contributed. -/
def Junction.fromPeer (g : Junction) (p r : Nat) : List PeerChunk := g.contributions.filter fun x => x.peer = p && x.rank = r

/-- Rank r of a peer has contributed every byte. -/
def Junction.peerFull (g : Junction) (p r : Nat) : Bool :=
  (List.range g.len).all fun i => (g.fromPeer p r).any fun x => x.offset ≤ i && i < x.offset + x.bytes.length

/-- The ranks of a peer, as its traffic says. -/
def Junction.peerRanks (g : Junction) (p : Nat) : Nat := ((g.contributions.find? fun x => x.peer = p).map (·.ranks)).getD 0

/-- The peers of the group. -/
def Junction.peerList (g : Junction) : List Nat := (List.range 64).filter fun p => g.peers.getLsbD p

/-- Every peer has joined with every one of its ranks. -/
def Junction.peersIn (g : Junction) : Bool :=
  g.peerList.all fun p => g.peerRanks p ≠ 0 && (List.range (g.peerRanks p)).all fun r => g.peerFull p r

/-- The contributions of every member on every device. -/
def Junction.everyone (g : Junction) : List (List Byte) :=
  g.members.map (·.bytes) ++ g.peerList.flatMap fun p => (List.range (g.peerRanks p)).map fun r =>
    (g.fromPeer p r).foldl (fun bs x => overlay bs x.offset x.bytes) (List.replicate g.len 0)

/-! ### The reduction (R355) -/

/-- Bytes of an element of an operation. -/
def elementBytes (op : Nat) : Nat := if op = 1 || op = 4 then 2 else 4

/-- The FMAX rule over F32 words (R272). -/
def f32Max : List Nat → Nat
  | [] => 0
  | x :: r => r.foldl (fun acc y => (f32Extreme true acc y).1) (f32Extreme true x x).1

/-- One element of the result. -/
def reduceElement (op : Nat) (xs : List Nat) : Nat :=
  match op with
  | 0 => f32.sum (xs.map f32.decode)
  | 1 => bf16.sum (xs.map bf16.decode)
  | 2 => xs.foldl (· + ·) 0 % 2 ^ 32
  | 3 => f32Max xs
  | 4 => f32Max (xs.map (65536 * ·)) / 65536
  | _ => match xs with
    | [] => 0
    | x :: r => r.foldl (fun acc y => if toSigned 32 acc < toSigned 32 y then y else acc) x

/-- The whole result. -/
def Junction.result (g : Junction) : List Byte :=
  let n := elementBytes g.op
  (List.range (g.len / n)).flatMap fun i =>
    leBytes n (reduceElement g.op (g.everyone.map fun bs => leValue ((bs.drop (n * i)).take n)))

/-- The chunks of a result as writes at a member's DST. -/
def chunkWrites (c : BitVec 1024) (bytes : List Byte) : List JobWrite :=
  let n := 1024 * collChunk c
  (List.range ((bytes.length + n - 1) / n)).map fun (i : Nat) =>
    let bs := (bytes.drop (n * i)).take n
    ⟨collDsp c, (cardField c 0x28 63 0 : Int) + (n * i : Nat), none, bs, bs.length, [], none⟩

/-- A complete group is reduced: every member's job is given its chunks. -/
def State.reduceGroup (s : State) (n : Nat) : State :=
  match tabFind n s.junctions with
  | none => s
  | some g =>
    if g.reduced || g.failed || g.members.length ≠ g.nlocal || !g.peersIn then s
    else
      let r := g.result
      let s := { s with junctions := tabUpd n (fun g => { g with reduced := true }) s.junctions }
      g.members.foldl (fun s m => s.updJob m.tile m.job fun j => { j with writes := chunkWrites j.card r }) s

/-! ### Joining (R354) -/

/-- The group that is joined: the entry's, or a new one with what its peers have sent before. -/
def State.groupFor (s : State) (tenant : Nat) (c : BitVec 1024) : Junction :=
  match tabFind (collEntry c) s.junctions with
  | some g => g
  | none =>
    let g := claim tenant c
    { g with contributions := s.peerHeld.filter fun x => x.tenant = tenant && x.key = g.key && g.peers.getLsbD x.peer }

/-- A job reads its contribution and joins. -/
def State.joinGroup (s : State) (t : Nat) (w : Workgroup) (j : Job) (c : BitVec 1024) : State :=
  let tenant := s.tenantOf w
  match (⟨t, w, j, tenant⟩ : JobCtx).read s (collSsp c) (cardField c 0x20 63 0 : Int) (collLen c) with
  | (s, .wait l) => s.holdJob l t j.id
  | (s, .fault f _) => (s.unholdJob t j.id).jobFault t w j f
  | (s, .ok bs) =>
    let s := s.unholdJob t j.id
    let g := s.groupFor tenant c
    let g := { g with members := g.members ++ [⟨collRank c, t, j.id, bs⟩] }
    let s := { s with junctions := tabSet (collEntry c) g s.junctions
                      peerHeld := s.peerHeld.filter fun x => !(x.tenant = tenant && x.key = g.key && g.peers.getLsbD x.peer) }
    (s.updJob t j.id fun j => { j with stage := .started, waitSince := none, read := [] }).reduceGroup (collEntry c)

/-- A collective job claims, joins, fails or waits. -/
def State.collJoin (s : State) (t : Nat) (w : Workgroup) (j : Job) (c : BitVec 1024) : State :=
  let mine := claim (s.tenantOf w) c
  match tabFind (collEntry c) s.junctions with
  | none => s.joinGroup t w j c
  | some g =>
    if g.tenant ≠ mine.tenant || g.key ≠ mine.key then
      s.updJob t j.id fun j => { j with waitSince := some (j.waitSince.getD s.fabricCycles) }
    else if g.reduced || !g.sameGroup mine || g.members.any fun m => m.rank = collRank c then
      s.failJob t j.id Trap.collective CollectiveCode.mismatch 0
    else s.joinGroup t w j c

/-- COLLECTIVE_JOIN. -/
def execCollectiveJoin (s : State) : Host.Outcome State Fault Refusal :=
  match s.input with
  | .collectiveJoin t id =>
    match s.job? t id with
    | none => .next s
    | some (w, j) =>
      match j.kind with
      | .collective c => .next (if s.mayStart w j then s.collJoin t w j c else s)
      | .copy _ | .matrix _ _ => .next s
  | _ => .next s

/-- A collective job has waited 2^20 fabric cycles for a busy entry. -/
def State.joinLate (s : State) (j : Job) : Bool :=
  j.stage = .queued && j.waitSince.any fun t0 => t0 + 2 ^ 20 ≤ s.fabricCycles

/-- COLLECTIVE_JOIN_TIMEOUT. -/
def execCollectiveJoinTimeout (s : State) : Host.Outcome State Fault Refusal :=
  match s.input with
  | .collectiveJoinTimeout t id =>
    match s.job? t id with
    | some (_, j) => .next (if s.joinLate j then s.failJob t id Trap.collective CollectiveCode.busy 0 else s)
    | none => .next s
  | _ => .next s

/-- COLLECTIVE_CHUNK_LAND. -/
def execCollectiveChunkLand (s : State) : Host.Outcome State Fault Refusal :=
  match s.input with
  | .collectiveChunkLand t id =>
    match s.job? t id with
    | none => .next s
    | some (w, j) =>
      match j.kind with
      | .collective _ => .next (if s.mayLand w j then s.landOne t w j else s)
      | .copy _ | .matrix _ _ => .next s
  | _ => .next s

/-! ### Failures (R356) -/

/-- A member's job is gone without having completed or stopped. -/
def State.memberLost (s : State) (g : Junction) : Bool := g.members.any fun m => (s.job? m.tile m.job).isNone

/-- COLLECTIVE_GROUP_FAIL: every other member's job stops with LOST, and the entry is free. -/
def execCollectiveGroupFail (s : State) : Host.Outcome State Fault Refusal :=
  match s.input with
  | .collectiveGroupFail n =>
    match tabFind n s.junctions with
    | none => .next s
    | some g =>
      if g.failed || s.memberLost g then
        .next (g.members.foldl (fun s m => s.failJob m.tile m.job Trap.collective CollectiveCode.lost 0)
          { s with junctions := tabDel n s.junctions })
      else .next s
  | _ => .next s

/-- COLLECTIVE_TREE_REBUILD: the tree is built again, and chunks not counted everywhere are replayed with the same
values; no byte is counted twice. -/
def execCollectiveTreeRebuild (s : State) : Host.Outcome State Fault Refusal :=
  match s.input with
  | .collectiveTreeRebuild n => .next { s with junctions := tabUpd n (fun g => { g with rebuilds := g.rebuilds + 1 }) s.junctions }
  | _ => .next s

/-! ### Peers (R85) -/

/-- A port of the peer's mask that is a peer port and up. -/
def State.peerLink (s : State) (p : PeerEntry) : Bool :=
  (List.range 32).any fun n => p.ports.getLsbD n && (s.ports[n]?).any fun q => q.role = 2 && q.up

/-- The traffic of a peer reaches the device: a valid entry with a link that is up. -/
def State.peerUp (s : State) (p : Nat) : Bool := (tabFind p s.peers).any fun e => e.valid && s.peerLink e

/-- The group on this device of a peer's traffic. -/
def State.groupOf (s : State) (x : PeerChunk) : Option (Nat × Junction) :=
  s.junctions.find? fun e => e.2.tenant = x.tenant && e.2.key = x.key && e.2.peers.getLsbD x.peer

/-- PEER_CHUNK_ARRIVAL: the bytes are passed to their group, or kept until it is claimed; during a checkpoint they are
refused (R40). -/
def execPeerChunkArrival (s : State) : Host.Outcome State Fault Refusal :=
  match s.input with
  | .peerChunkArrival x =>
    if !s.peerUp x.peer then .next s
    else if s.checkpoint.isSome then .next { s with peerRefused := s.peerRefused ++ [x] }
    else match s.groupOf x with
      | none => .next { s with peerHeld := s.peerHeld ++ [x] }
      | some (n, _) =>
        .next ({ s with junctions := tabUpd n (fun g => { g with contributions := g.contributions ++ [x] }) s.junctions }.reduceGroup n)
  | _ => .next s

end Sys2Proof.Machine
end

