-- ==== Sys2Proof/Machine/LockEvents.lean ====
section
/-! DEFINITION. The events of the lock manager that no lock instruction performs in its own step: requests, releases and
grants that arrive, grants sent again, and revocation (R300, R301, R306). -/

namespace Sys2Proof.Machine

/-- LOCK_REQUEST_ARRIVAL: a request that passes the slice's checks is granted or queued. -/
def execLockRequestArrival (s : State) : Host.Outcome State Fault Refusal :=
  match s.input with
  | .lockRequestArrival r => .next (match s.requestCheck r with | none => s.acceptRequest r | some _ => s)
  | _ => .next s

/-- LOCK_RELEASE_ARRIVAL. -/
def execLockReleaseArrival (s : State) : Host.Outcome State Fault Refusal :=
  match s.input with
  | .lockReleaseArrival r => .next (match s.releaseCheck r with | none => s.acceptRelease r | some _ => s)
  | _ => .next s

/-- LOCK_GRANT: a grant that is not yet acknowledged is counted once. -/
def execLockGrant (s : State) : Host.Outcome State Fault Refusal :=
  match s.input with
  | .lockGrant g => .next (if s.sentGrants.any fun x => x.grant = g then s.countGrant g else s)
  | _ => .next s

/-- The record of a revocation: SRC 2, NUM 24. No rule names its PC, a free value (LOG 8). -/
def State.revokeRecord (s : State) (k : SquadKey) : State :=
  let l := s.launch? k.gang.launch
  let s' := s.freeDWord
  s'.1.raise { FaultRecord.blank with
    num := Trap.lockRevoked, src := 2, ward := (l.map (·.ward)).getD 0, qid := k.gang.launch.qid, lseq := k.gang.launch.seq
    gang := k.gang.gang, tile := ((s.locate k).map (·.1)).getD 0, squad := k.squad, pc := s'.2
    abort := !s.goesOn k.gang.launch || l.isNone }

/-- A squad is revoked: its entries and requests go without release, REVOKED is set, a record is written. -/
def State.revoke (s : State) (k : SquadKey) : State :=
  let s := s.dropLocks k
  let s := { s with sentGrants := s.sentGrants.filter fun g => g.grant.squad ≠ k }
  (s.setLockSquad { s.lockSquad k with revoked := true }).revokeRecord k

/-- REVOCATION: the wound has not ended after 2^16 core cycles of residence. -/
def execRevocation (s : State) : Host.Outcome State Fault Refusal :=
  match s.input with
  | .revocation k => .next (if (s.lockSquad k).woundLeft = some 0 then s.revoke k else s)
  | _ => .next s

/-- A grant has no acknowledgement for 2^16 fabric cycles. -/
def State.grantLate (s : State) (g : SentGrant) : Bool := g.sent + 2 ^ 16 ≤ s.fabricCycles

/-- GRANT_RESEND_TIMEOUT: the grant is sent again, up to three times; after that its squad is revoked. -/
def execGrantResendTimeout (s : State) : Host.Outcome State Fault Refusal :=
  match s.input with
  | .grantResendTimeout n =>
    match s.sentGrants[n]? with
    | none => .next s
    | some g =>
      if !s.grantLate g then .next s
      else if g.resends < 3 then
        .next { s with sentGrants := s.sentGrants.set n { g with sent := s.fabricCycles, resends := g.resends + 1 }
                       agenda := s.agenda ++ [⟨.lockGrant, .lockGrant g.grant⟩] }
      else .next (s.revoke g.grant.squad)
  | _ => .next s

end Sys2Proof.Machine
end

