-- ==== Sys2Proof/Machine/CacheEvents.lean ====
section
/-! DEFINITION. The events of the wafer cache and of memory behind it: accesses at an anchor, the placement engine, moves,
replicas, errors, the pool and the hosts' accesses to device memory (R79-R84, R171-R184, R383). -/

namespace Sys2Proof.Machine

open Sys2Proof.Config

/-- The tenant whose workgroup a tile holds. -/
def State.tileTenant (s : State) (t : Nat) : Nat := ((s.tile t).wg.map fun w => ((s.launch? w.gang.launch).map (·.tenant)).getD 0).getD 0

/-- ANCHOR_REQUEST: the access is counted and performed at its serving bank, or held at the anchor (R175). -/
def execAnchorRequest (s : State) : Host.Outcome State Fault Refusal :=
  match s.input with
  | .anchorRequest a =>
    match s.verdict a.tile a.address false, a.kind with
    | .ok, .load =>
      .next ((s.release (lineOf a.address) (.access a)).bankLoad a.tile (s.tileTenant a.tile) a.address a.size
        ⟨false, false, false, false, true⟩).1
    | .ok, .store bs =>
      .next ((((s.release (lineOf a.address) (.access a)).bankWrite a.tile (s.tileTenant a.tile) a.address bs)).noteAgent
        a.tile a.address)
    | .ok, .atomic op t n =>
      .next (((s.release (lineOf a.address) (.access a)).bankAtomic a.tile (s.tileTenant a.tile) a.address a.size false
        fun m => atomValue op a.size m t n).1.noteAgent a.tile a.address)
    | .wait l, _ => .next (s.hold l (.access a))
    | .fault _ _, _ => .next (s.release (lineOf a.address) (.access a))
  | _ => .next s

/-! ### The placement engine (R172-R174) -/

/-- The reticle one step from one towards another, along x first. -/
def stepReticle (a b : Nat) : Nat :=
  let toward (p q : Nat) : Nat := if p < q then p + 1 else if q < p then p - 1 else p
  if a % 7 ≠ b % 7 then a / 7 * 7 + toward (a % 7) (b % 7) else toward (a / 7) (b / 7) * 7 + a % 7

/-- The bank of a reticle at the local index of a bank, or the next good one that is not being emptied (R174, R179). -/
def State.targetBank (s : State) (q b : Nat) : Option Nat :=
  ((List.range 64).map fun k => reticleTile q ((localIndex b + k) % 64)).find? s.takesBank

/-- A reticle is covered by a replica. -/
def RegionEntry.covers (e : RegionEntry) (q : Nat) : Bool := e.rptr.contains q || e.coarse.getLsbD (clusterOf q)

/-- One reticle gets a replica: the first empty pointer, or else its cluster's bit. -/
def RegionEntry.addReplica (e : RegionEntry) (q : Nat) : RegionEntry :=
  match (List.range 4).find? fun i => e.rptr.getD i 63 = 63 with
  | some i => { e with rptr := e.rptr.set i q, state := .replicated }
  | none => { e with coarse := e.coarse ||| (1#14 <<< clusterOf q), state := .replicated }

/-- Replicate. -/
def State.replicate (s : State) (e : RegionEntry) (qs : List Nat) : RegionEntry × Bool :=
  qs.foldl (fun acc q =>
    if acc.1.covers q || (s.targetBank q e.loc).isNone then acc else (acc.1.addReplica q, true)) (e, false)

/-- The reader reticles of an evaluation. -/
def RegionEntry.readers (e : RegionEntry) : List Nat :=
  (List.range 4).filterMap fun i => if e.cret.getD i 63 ≠ 63 && 16 ≤ e.cnt.getD i 0 then some (e.cret.getD i 63) else none

/-- The index of the largest counter. -/
def RegionEntry.top (e : RegionEntry) : Nat := (best (fun i j => e.cnt.getD j 0 < e.cnt.getD i 0) (List.range 4)).getD 0

/-- Every access counted. -/
def RegionEntry.total (e : RegionEntry) : Nat := e.cnt.foldl (· + ·) 0 + e.other

/-- What every evaluation ends with. -/
def RegionEntry.endEval (e : RegionEntry) (changed : Bool) (now : Nat) : RegionEntry :=
  { e with quiet := if changed then 0 else min 15 (e.quiet + 1), cnt := e.cnt.map (· / 2), other := e.other / 2
           wlo := false, whi := false, evaluated := now }

/-- The bank that an evaluation moves an entry to. -/
def State.moveTarget (s : State) (e : RegionEntry) : Option Nat :=
  let c := e.cret.getD e.top 63
  if 64 ≤ e.total && 3 * e.total ≤ 4 * e.cnt.getD e.top 0 && c ≠ reticleOf e.loc && c < 42
      && (e.moved = 0 || e.moved + 16384 ≤ s.fabricCycles)
  then s.targetBank (stepReticle (reticleOf e.loc) c) e.loc else none

/-- The counters of two entries added reticle by reticle: the four largest keep counters, the others add to OTHER. -/
def mergeCounts (a b : RegionEntry) : List (Nat × Nat) :=
  let of (e : RegionEntry) (r : Nat) : Nat := match (List.range 4).find? fun i => e.cret.getD i 63 = r with
    | some i => e.cnt.getD i 0
    | none => 0
  let rs := dedup ((a.cret ++ b.cret).filter fun r => r ≠ 63)
  sortBy (fun x y => y.2 < x.2 || (x.2 = y.2 && x.1 < y.1)) (rs.map fun r => (r, min 4095 (of a r + of b r)))

/-- Two siblings as one entry (R172). -/
def mergeEntries (a b : RegionEntry) : RegionEntry :=
  let cs := mergeCounts a b
  let lost := ((cs.drop 4).map (·.2)).foldl (· + ·) 0
  let (low, high) := if a.key.base < b.key.base then (a, b) else (b, a)
  { a with wlo := low.wlo || low.whi, whi := high.wlo || high.whi, key := ⟨min a.key.base b.key.base, a.key.level - 1⟩
           cret := (List.range 4).map fun i => ((cs[i]?).map (·.1)).getD 63
           cnt := (List.range 4).map fun i => ((cs[i]?).map (·.2)).getD 0
           other := min 4095 (a.other + b.other + lost), moved := max a.moved b.moved }

/-- Two entries may merge. -/
def RegionEntry.twin (a b : RegionEntry) : Bool :=
  a.key.level = b.key.level && a.key.level ≠ 0 && a.key.base ≠ b.key.base
    && a.key.base / (2 * a.key.size) = b.key.base / (2 * a.key.size) && a.quiet = 15 && b.quiet = 15 && !a.hold && !b.hold
    && a.state = b.state && a.loc = b.loc && a.rptr = b.rptr && a.coarse = b.coarse && a.rhint = b.rhint && a.owner = b.owner

/-- An entry merges with its sibling where it can. -/
def State.mergeRegion (s : State) (k : RegionKey) : State :=
  match s.regionOf? k with
  | none => s
  | some e =>
    match s.regions.find? e.twin with
    | none => s
    | some t =>
      -- in the place of the one of the two that was accessed last
      let pair := s.regions.filter fun r => r.key = e.key || r.key = t.key
      { s with regions := s.regions.filterMap fun r =>
          if some r.key = (pair.head?.map (·.key)) then some (mergeEntries e t)
          else if r.key = e.key || r.key = t.key then none else some r }

/-- Evaluate (R174). The halves of a split have their counts halved once and their write marks cleared. -/
def State.evaluate (s : State) (e : RegionEntry) : State :=
  let now := s.fabricCycles
  let done (e : RegionEntry) (changed : Bool) : State := s.setRegion (e.endEval changed now)
  if e.state = .pinned || e.state = .streaming || e.hold then done e false
  else if !e.wlo && !e.whi && (2 ≤ e.readers.length || (e.rhint && e.readers ≠ [])) then
    let r := s.replicate e (e.readers.filter fun q => q ≠ reticleOf e.loc)
    done r.1 r.2
  else if e.wlo ≠ e.whi && 2 ≤ e.readers.length && e.key.level < 9 then
    (s.splitEntry e (e.split.map fun h => { h with quiet := 0, wlo := false, whi := false, evaluated := now })).prune
  else match s.moveTarget e with
    | some b => s.startMove (e.endEval true now) b
    | none => done e false

/-- An entry is evaluated once in 2^16 fabric cycles. -/
def State.evaluable (s : State) (e : RegionEntry) : Bool := e.evaluated + 2 ^ 16 ≤ s.fabricCycles

/-- REGION_EVALUATION. -/
def execRegionEvaluation (s : State) : Host.Outcome State Fault Refusal :=
  match s.input with
  | .regionEvaluation k =>
    match s.regionOf? k with
    | some e => .next (if s.evaluable e then (s.evaluate e).mergeRegion k else s)
    | none => .next s
  | _ => .next s

/-! ### Moves (R175) -/

/-- An entry of a region, or of the parts it has split into, is moving. -/
def State.moving (s : State) (k : RegionKey) : Bool := s.regions.any fun e => e.key.meets k && e.moveTo.isSome

/-- MOVE_ORDER: the LOC bank sends the region's lines to the new bank. -/
def execMoveOrder (s : State) : Host.Outcome State Fault Refusal :=
  match s.input with
  | .moveOrder k =>
    .next (if s.moving k then { s with agenda := s.agenda ++ [⟨.migrationTransfer, .migrationTransfer k⟩] } else s)
  | _ => .next s

/-- MIGRATION_TRANSFER: the new bank installs the lines and acknowledges. -/
def execMigrationTransfer (s : State) : Host.Outcome State Fault Refusal :=
  match s.input with
  | .migrationTransfer k =>
    .next (if s.moving k then { s with agenda := s.agenda ++ [⟨.moveAck, .moveAck k⟩] } else s)
  | _ => .next s

/-- An entry whose move is acknowledged. A hint given meanwhile stands. -/
def RegionEntry.arrived (e : RegionEntry) (anchor now : Nat) : RegionEntry :=
  match e.moveTo with
  | none => e
  | some b =>
    { e with loc := b, moveTo := none, moved := now, hold := e.acks ≠ []
             state := match e.state with
               | .pinned => .pinned
               | .streaming => .streaming
               | .resident | .migrated | .replicated => if b = anchor then .resident else .migrated }

/-- The lines that a bank has just received have their places in its sets. -/
def State.settleRegion (s : State) (k : RegionKey) : State :=
  (s.wc.filter fun l => k.has (128 * l.line)).foldl (fun s l => s.settleLine (128 * l.line) l.ward) s

/-- MOVE_ACK: the held requests go on to the new bank in their order. -/
def execMoveAck (s : State) : Host.Outcome State Fault Refusal :=
  match s.input with
  | .moveAck k =>
    .next (({ s with regions := s.regions.map fun e =>
              if e.key.meets k then e.arrived (s.anchor e.key.base) s.fabricCycles else e } : State).settleRegion k).prune
  | _ => .next s

/-! ### Replicas (R176, R177, R209) -/

/-- REPLICA_INVALIDATE: the reticle's replica bank drops its copies and acknowledges. -/
def execReplicaInvalidate (s : State) : Host.Outcome State Fault Refusal :=
  match s.input with
  | .replicaInvalidate k r =>
    .next { s with replicas := s.replicas.filter fun x => !(x.reticle = r && k.has (128 * x.line))
                   agenda := s.agenda ++ [⟨.invalidationAck, .invalidationAck k r⟩] }
  | _ => .next s

/-- INVALIDATION_ACK. -/
def execInvalidationAck (s : State) : Host.Outcome State Fault Refusal :=
  match s.input with
  | .invalidationAck k r =>
    .next ({ s with regions := s.regions.map fun e =>
               if e.key.meets k then e.ackFrom r (s.anchor e.key.base) else e } : State).settleInvals
  | _ => .next s

/-- The ward for which a line is cached. -/
def State.regionWard (s : State) (line : Nat) : Nat := ((s.wcLine? line).map (·.ward)).getD 0

/-- REPLICA_FILL_ARRIVAL: installed while the reticle's replica stands, or else discarded. No replica is made of a line in
error or of a host-bias page (R383). -/
def execReplicaFillArrival (s : State) : Host.Outcome State Fault Refusal :=
  match s.input with
  | .replicaFillArrival _ r line =>
    match s.region? (128 * line) with
    | none => .next s
    | some e =>
      if e.state = .replicated && !e.hold && e.covers r && !s.lineBad (128 * line) && !s.inHostBias (128 * line) then
        let s := { s with useCtr := s.useCtr + 1
                          replicas := ⟨e.key, r, line, s.lineBytes line, s.regionWard line, s.useCtr + 1⟩ ::
                            s.replicas.filter fun x => !(x.reticle = r && x.line = line) }
        .next (match s.replicaBank r e.loc with
          | some b => s.makeRoom b (s.regionWard line) line
          | none => s)
      else .next s
  | _ => .next s

/-! ### Errors, the pool (R82-R84, R182-R184) -/

/-- UNCORRECTABLE_ERROR: a modified line is lost, and so is a line whose home copy is uncorrectable too; any other is fetched
again from its home (R183, R184). -/
def execUncorrectableError (s : State) : Host.Outcome State Fault Refusal :=
  match s.input with
  | .uncorrectableError pa home => .next (if s.modified (lineOf pa) || home then s.loseLine (lineOf pa) else s)
  | _ => .next s

/-- MEMORY_DEVICE_COMPLETION: the write of a line has been completed by its memory device or host. -/
def execMemoryDeviceCompletion (s : State) : Host.Outcome State Fault Refusal :=
  match s.input with
  | .memoryDeviceCompletion n => .next { s with deviceWrites := s.deviceWrites.eraseIdx n }
  | _ => .next s

/-- A modified line is dropped: it takes its home's bytes again, and no copy or replica of it stays. -/
def State.dropModified (s : State) (line : Nat) : State :=
  match s.wcLine? line with
  | none => s
  | some l =>
    let s := if l.modified then s.pokeN (s.memKey (128 * line)) l.home else s
    { s with wc := s.wc.filter (fun x => x.line ≠ line), replicas := s.replicas.filter fun r => r.line ≠ line }

/-- A load in flight of a line that is lost raises POOL_LOST in its squad. -/
def Squad.losePool (q : Squad) (lost : Nat → Bool) : Squad :=
  q.outstanding.foldl (fun q o =>
    match o.pool.find? fun x => lost x.1 with
    | some x => q.loseResults (fun p => p = o) ⟨Trap.poolLost, 0, BitVec.ofNat 64 x.2, o.site, 0⟩
    | none => q) q

/-- Every squad's loads in flight meet the loss. -/
def State.losePools (s : State) (lost : Nat → Bool) : State :=
  { s with tiles := s.tiles.map fun e => (e.1, e.2.updWg fun w => { w with squads := w.squads.map fun q => q.losePool lost }) }

/-- A link group is lost (R182): its granules are lost, their modified lines dropped, and loads in flight raise POOL_LOST. -/
def State.loseGroup (s : State) (group : Nat) : State :=
  let s : State := { s with granules := s.granules.map fun e => if e.2.group = group then (e.1, { e.2 with lost := true }) else e }
  let gone := (s.wc.map (·.line)).filter fun l => isPool (128 * l) &&
    (tabFind (granuleOf (128 * l)) s.granules).any fun g => g.group = group
  ((gone.foldl State.dropModified s).losePools fun l => s.poolLost (128 * l)).prune

/-- POOL_GROUP_LOST. -/
def execPoolGroupLost (s : State) : Host.Outcome State Fault Refusal :=
  match s.input with
  | .poolGroupLost g => .next (s.loseGroup g)
  | _ => .next s

/-! ### Snoops of memory devices (R83) -/

/-- A snoop is answered. -/
def State.answerSnoop (s : State) (line : Nat) (host inv : Bool) (data : Option (List Byte)) : State :=
  { s with snoopAnswers := s.snoopAnswers ++ [⟨line, host, inv, data⟩] }

/-- The anchor of a line and the bank that serves it are reached. -/
def State.banksReached (s : State) (pa : Nat) : Bool :=
  s.routes s.plaza (s.anchor pa) && s.routes s.plaza (s.servingBank (lineOf pa))

/-- A back-invalidate snoop reaches the anchor of its line: held there in order of arrival, or answered with BIRspI or
BIRspS; a line of a bank that cannot be reached is lost (R61). After BIRspI the line is the other host's: what it writes is
what the pool then holds (LOG 35). -/
def State.backSnoop (s : State) (pa : Nat) (inv : Bool) (written : Option (List Byte)) : State :=
  let line := lineOf pa
  if s.mustWait pa then s.hold line (.snoop pa false inv written)
  else
    let s := s.release line (.snoop pa false inv written)
    let s := if s.banksReached pa then s.flushLine line else if s.modified line then s.loseLine line else s
    let s := (if inv then (s.dropLine line).prune else s).answerSnoop line false inv none
    match written with
    | some bs => if inv && isPool (128 * line) then s.pokeN (128 * line) (bs.take 128) else s
    | none => s

/-- BISNP_INV. -/
def execBisnpInv (s : State) : Host.Outcome State Fault Refusal :=
  match s.input with
  | .bisnpInv pa written => .next (s.backSnoop pa true written)
  | _ => .next s

/-- BISNP_DATA. -/
def execBisnpData (s : State) : Host.Outcome State Fault Refusal :=
  match s.input with
  | .bisnpData pa => .next (s.backSnoop pa false none)
  | _ => .next s

/-! ### Hosts (R78-R81, R383) -/

/-- An answer to a host. -/
def State.answerHost (s : State) (port a : Nat) (bs : Option (List Byte)) : State :=
  { s with hostAnswers := s.hostAnswers ++ [⟨port, a, bs⟩] }

/-- The bytes of HBM at a line: what the device holds modified is not yet there. -/
def State.homeBytes (s : State) (pa n : Nat) : List Byte :=
  match s.wcLine? (lineOf pa) with
  | some l => if l.modified then (l.home.drop (pa % 128)).take n else s.peekN pa n
  | none => s.peekN pa n

/-- CXL.mem is offered: in reduced service and in full service (R29). -/
def State.offersMem (s : State) : Bool := s.bringUp.rsvc || s.bringUp.phase = 6

/-- An access of a host at an anchor counts for the reticle of its port, where the line's region has an entry (R171). -/
def State.countHost (s : State) (p a : Nat) : State :=
  match s.region? a with
  | some e => s.setRegion (e.count (portReticle p))
  | none => s

/-- A host's read of a line of a device-bias page is held at the anchor with the requests before it. It is not held for a page
that flips: it then takes the value of device bias (R81). -/
def State.readWaits (s : State) (a : Nat) : Bool :=
  !s.inHostBias a && !s.flipping.contains (a / 4096) && (s.movingAt a || s.notFirst a)

/-- The good routers of a port's reticle. -/
def State.portRouters (s : State) (p : Nat) : List Nat := ((List.range 64).map (reticleTile (portReticle p))).filter s.ogood

/-- The fabric carries a host's access (R19, R47, R79): under host bias from its port's reticle to the stack's; or else to the
line's anchor, on to its serving bank, and for a line that the bank does not hold to its home. -/
def State.hostCarries (s : State) (p a : Nat) : Bool :=
  if s.inHostBias a then (s.portRouters p).any fun r => s.reaches r (stackReticle (a / 2 ^ 36))
  else
    let loc := s.servingBank (lineOf a)
    ((s.portRouters p).any fun r => s.routes r (s.anchor a)) && s.routes (s.anchor a) loc
      && ((s.wcLine? (lineOf a)).isSome || s.homeReached loc a)

/-- HOST_MEM_READ: the current value in device bias, that of HBM in host bias; poison for a line in error; an abort
outside the exposed range, and where the fabric does not carry the access (LOG 111). -/
def execHostMemRead (s : State) : Host.Outcome State Fault Refusal :=
  match s.input with
  | .hostMemRead p a n =>
    if !s.hostPort p || !s.offersMem then .next s
    else if s.hbmLimit < a + n || s.lineBad a then .next ((s.release (lineOf a) (.hostRead p a n)).answerHost p a none)
    else if s.readWaits a then .next (s.hold (lineOf a) (.hostRead p a n))
    else if !s.hostCarries p a then .next ((s.release (lineOf a) (.hostRead p a n)).answerHost p a none)
    else if s.inHostBias a then .next (s.answerHost p a (some (s.homeBytes a n)))
    else .next (((s.release (lineOf a) (.hostRead p a n)).countHost p a).answerHost p a (some (s.peekN a n)))
  | _ => .next s

/-- The bytes of a line with some of them replaced. -/
def patchLine (home : List Byte) (off : Nat) (bs : List Byte) : List Byte := home.take off ++ bs ++ home.drop (off + bs.length)

/-- A host write performed in HBM: what the device holds modified keeps its own value. What the host's caches held of the line
is written with it. -/
def State.writeHbm (s : State) (a : Nat) (bs : List Byte) : State :=
  let s := s.hostGives (lineOf a)
  if s.modified (lineOf a) then
    { s with wc := mapIf (fun l => l.line = lineOf a) (fun l => { l with home := patchLine l.home (a % 128) bs }) s.wc }
  else s.pokeN a bs

/-- A host write at the anchor: held while the page flips, the region moves, or an earlier request or the invalidation of
replicas is awaited; then the line is modified. -/
def State.hostAnchorWrite (s : State) (p a : Nat) (bs : List Byte) : State :=
  let e := (s.regionFor a).count (portReticle p)
  if s.mustWait a || e.acks ≠ [] then s.hold (lineOf a) (.hostWrite p a bs)
  else if e.covered ≠ [] then ((s.putRegion e).collapse e 63).hold (lineOf a) (.hostWrite p a bs)
  else
    let s := (s.release (lineOf a) (.hostWrite p a bs)).putRegion (e.wrote a bs.length)
    ((s.readyWrite a 0 0).pokeN a bs).settleLine a 0

/-- A host write under the bias of its page. -/
def State.biasWrite (s : State) (p a : Nat) (bs : List Byte) : State :=
  if s.inHostBias a && !s.flipping.contains (a / 4096) then (s.release (lineOf a) (.hostWrite p a bs)).writeHbm a bs
  else s.hostAnchorWrite p a bs

/-- HOST_MEM_WRITE: a write arrives, or one that was held is tried again. -/
def execHostMemWrite (s : State) : Host.Outcome State Fault Refusal :=
  match s.input with
  | .hostMemWrite p a bs =>
    if !s.hostPort p || !s.offersMem then .next s
    else if s.hbmLimit < a + bs.length then .next (s.answerHost p a none)
    else if !s.hostCarries p a then .next ((s.release (lineOf a) (.hostWrite p a bs)).answerHost p a none)
    else .next (s.biasWrite p a bs)
  | _ => .next s

/-- The host's caches hold a 64-byte line modified, with these bytes. -/
def State.hostTakes (s : State) (a : Nat) (bs : List Byte) : State :=
  { s with hostLines := tabSet (a / 64) (bs.take 64) s.hostLines }

/-- The host's snoop of a line that the device holds for a host-bias page: answered, with data if it is modified. What the host
then holds modified of the line, the event brings. -/
def State.snoopLine (s : State) (a : Nat) (inv : Bool) (written : Option (List Byte)) : State :=
  let line := lineOf a
  let s := match s.wcLine? line with
    | none => s.answerSnoop line true inv none
    | some l =>
      let s := s.answerSnoop line true inv (if l.modified then some (s.lineBytes line) else none)
      if inv then ({ s with wc := s.wc.filter fun x => x.line ≠ line } : State).prune
      else
        let clean (x : WcLine) : WcLine := { x with modified := false, owned := false, home := [], writers := [] }
        { s with wc := mapIf (fun x => x.line = line) clean s.wc }
  match written with
  | some bs => if inv then s.hostTakes a bs else s
  | none => s

/-- HOST_SNOOP: ordered at the anchor with the device's requests (R383). One that a flip to device bias has overtaken is answered
too, and changes nothing: the line is then an ordinary one of the wafer cache (LOG 18). -/
def execHostSnoop (s : State) : Host.Outcome State Fault Refusal :=
  match s.input with
  | .hostSnoop a inv written =>
    if s.mustWait a then .next (s.hold (lineOf a) (.snoop a true inv written))
    else
      let s := s.release (lineOf a) (.snoop a true inv written)
      .next (if s.inHostBias a then s.snoopLine a inv written
        else s.answerSnoop (lineOf a) true inv (if s.modified (lineOf a) then some (s.lineBytes (lineOf a)) else none))
  | _ => .next s

/-! ### Emptying a bank (R179) -/

/-- The banks that take slots. -/
def State.liveBanks (s : State) : List Nat := (s.street.map (·.1)).filter s.takesBank

/-- The slots that a bank holds: those of its turns in the last full deal that have not been dealt again, and those dealt
to it since. -/
def State.slotsOf (s : State) (b : Nat) : List Nat :=
  let n := s.placement.length
  let turns := (s.placement.zipIdx.filter fun e => e.1 = b).flatMap fun e =>
    (List.range ((65536 + n - 1 - e.2) / n)).map fun j => e.2 + j * n
  (turns.filter fun k => (tabFind k s.redealt).isNone) ++ (s.redealt.filter fun e => e.2 = b).map (·.1)

/-- Slots are dealt again, one at a time, each to the bank that holds the fewest. -/
def dealSlots : List Nat → List (Nat × Nat) → List (Nat × Nat) → List (Nat × Nat)
  | [], _, dealt => dealt
  | k :: r, counts, dealt =>
    match best (fun a b => a.2 < b.2) counts with
    | none => dealt
    | some c => dealSlots r (tabSet c.1 (c.2 + 1) counts) (tabSet k c.1 dealt)

/-- The slots of a bank go to the others. -/
def State.redeal (s : State) (b : Nat) : State :=
  { s with redealt := dealSlots (s.slotsOf b) (s.liveBanks.map fun x => (x, (s.slotsOf x).length)) s.redealt }

/-- The replica that an entry has in the reticle of a bank that goes lies in that bank. -/
def State.replicaIn (s : State) (b : Nat) (e : RegionEntry) : Bool :=
  e.covers (reticleOf b) && s.replicaBank (reticleOf b) e.loc = some b

/-- An entry that a bank leaves: LOC becomes its anchor where the bank serves it or is about to, and a replica in the bank
goes. -/
def RegionEntry.leave (e : RegionEntry) (bank anchor : Nat) (replica : Bool) : RegionEntry :=
  let e := { e with loc := if e.loc = bank then anchor else e.loc
                    moveTo := if e.moveTo = some bank then some anchor else e.moveTo
                    rptr := if replica then e.rptr.map fun r => if r = reticleOf bank then 63 else r else e.rptr }
  { e with state := match e.state with
             | .pinned => .pinned
             | .streaming => .streaming
             | .resident | .migrated | .replicated =>
               if e.covered ≠ [] then .replicated else if e.loc = anchor then .resident else .migrated }

/-- A bank that cannot be read (R179): the lines whose only copy it held are lost, and the squads that its slice knew are
revoked. -/
def State.loseBank (s : State) (b : Nat) : State :=
  let mine := (s.wc.filter fun l => l.modified && (s.regionFor (128 * l.line)).loc = b).map (·.line)
  let ls := s.locks.filter fun l => s.anchor l.id.descriptor = b
  let ks := dedup (ls.flatMap fun l => l.holders.map (·.1) ++ l.waiting.map (·.squad))
  ks.foldl State.revoke (mine.foldl State.loseLine s)

/-- The lines that a bank serves, or those of the regions anchored at it, go home and are dropped. -/
def State.sendHome (s : State) (mine : Nat → Bool) : State := s.evict fun l => mine (128 * l)

/-- The copies that a bank holds as replicas are dropped. -/
def State.dropReplicasIn (s : State) (b : Nat) : State :=
  { s with replicas := s.replicas.filter fun r =>
      !(r.reticle = reticleOf b && (s.region? (128 * r.line)).any fun e => s.replicaIn b e) }

/-- A bank that can be read is emptied: its modified lines go home, the replicas in it go, its slots are dealt again, and
what it serves goes to the anchors. -/
def State.emptyBank (s : State) (b : Nat) : State :=
  let dealt := ((s.sendHome fun pa => (s.regionFor pa).loc = b).dropReplicasIn b).redeal b
  { dealt with regions := dealt.regions.map fun e => e.leave b (dealt.anchor e.key.base) (s.replicaIn b e) }

/-- A bank that cannot be read is given up: its lines are lost, and the regions that were anchored at it are rebuilt at their
new anchors, with every line of them home. -/
def State.giveUpBank (s : State) (b : Nat) : State :=
  let kept := ((s.loseBank b).sendHome fun pa => s.anchor pa = b || (s.regionFor pa).loc = b).dropReplicasIn b
  let dealt := ({ kept with replicas := kept.replicas.filter fun r => s.anchor (128 * r.line) ≠ b } : State).redeal b
  ({ dealt with regions := dealt.regions.map fun e =>
       if s.anchor e.key.base = b then .fresh e.key (dealt.anchor e.key.base) s.fabricCycles
       else e.leave b (dealt.anchor e.key.base) (s.replicaIn b e) } : State).settleInvals

/-- BANK_EMPTY_DONE: the bank is emptied, or given up; it leaves the map at the next commit. -/
def execBankEmptyDone (s : State) : Host.Outcome State Fault Refusal :=
  match s.input with
  | .bankEmptyDone b =>
    if !s.emptying.contains b then .next s
    else
      let s := if s.routes s.plaza b then s.emptyBank b else s.giveUpBank b
      let part : Part := if s.background.any (fun e => e.2 = .mark (.router b)) then .router b else .bank b
      .next ((({ s with emptying := s.emptying.filter fun t => t ≠ b } : State).prune).loseParts [part])
  | _ => .next s

end Sys2Proof.Machine
end

