-- ==== Sys2Proof/Machine/Placement.lean ====
section
/-! DEFINITION. The rectangles on which a gang may be placed (R91, R101, R103), and what a link loss that a commit has made
final does to the launches it strikes (R99, R100). -/

namespace Sys2Proof.Machine

/-! ### Rectangles -/

/-- The tiles of the rectangle of a shape whose north-west tile is given, by member index (R101). -/
def rectangle (shape origin : Nat) : List Nat :=
  (List.range (shapeTiles shape)).map fun m => origin + m % shapeW shape + 56 * (m / shapeW shape)

/-- The north-west tiles of the rectangles of a shape that lie within one reticle. -/
def origins (shape : Nat) : List Nat :=
  (List.range 42).flatMap fun r =>
    (List.range (9 - shapeH shape)).flatMap fun y => (List.range (9 - shapeW shape)).map fun x => reticleTile r (8 * y + x)

/-- The tiles that may hold a member: good, and reachable from the plaza router (R103). -/
def State.usable (s : State) : List Nat :=
  ((s.street.filter fun e => e.2.getLsbD 0).map (·.1)).filter fun t => s.routes s.plaza t

/-- A tile that holds no workgroup. -/
def State.vacant (s : State) (t : Nat) : Bool := (s.tile t).wg.isNone

/-- The rectangles of a shape that can ever hold a gang. -/
def State.grounds (s : State) (shape : Nat) : List Nat :=
  let good := s.usable
  (origins shape).filter fun o => (rectangle shape o).all good.contains

/-- The rectangles of a shape on which a gang can be placed now. -/
def State.openings (s : State) (shape : Nat) : List Nat := (s.grounds shape).filter fun o => (rectangle shape o).all s.vacant

/-! ### Link loss (R99, R100) -/

/-- Ascending ids as ranges: the first id and the count. -/
def idRanges : List Nat → List (Nat × Nat)
  | [] => []
  | n :: r =>
    match idRanges r with
    | (m, k) :: t => if m = n + 1 then (n, k + 1) :: t else (n, 1) :: (m, k) :: t
    | [] => [(n, 1)]

/-- Ranges in groups of four, at least one. -/
def fourRanges : Nat → List (Nat × Nat) → List (List (Nat × Nat))
  | 0, rs => [rs.take 4]
  | n + 1, rs => if rs.length ≤ 4 then [rs] else rs.take 4 :: fourRanges n (rs.drop 4)

/-- The LINK_LOSS records of a launch: its retired gangs, with MORE on all but the last (R95, R100). -/
def State.raiseLinkLoss (s : State) (l : Launch) : State :=
  let sets := fourRanges l.retired.length (idRanges (sortBy (fun a b => a < b) l.retired))
  (List.range sets.length).foldl (fun s i =>
    s.raise { FaultRecord.blank with num := Trap.linkLoss, src := 4, more := i + 1 < sets.length, ward := l.ward
                                     qid := l.key.qid, lseq := l.key.seq, ranges := sets.getD i [] }) s

/-- The placed gangs of a launch that have a member on a tile that cannot be reached. -/
def State.struckGangs (s : State) (k : LaunchKey) : List Gang :=
  s.gangs.filter fun g => g.key.launch = k && s.tiles.any fun e =>
    (e.2.wg.any fun w => w.gang = g.key) && !s.routes s.plaza e.1

/-- A gang is abandoned: its squads, its scratchpad and its commands go, and its locks are freed without release effect. -/
def State.abandonGang (s : State) (g : GangKey) : State :=
  let ks := (s.lockKeys g.launch).filter fun q => q.gang = g
  ((ks.foldl State.dropLocks s).freeTiles fun k => k = g).forgetGangs fun k => k = g

/-- What a committed link loss does to one launch: its records, if gangs of it are struck; these are abandoned, and placed
again from their start if it is REPLAY and its shape fits some ground. A launch that cannot place its abandoned gangs, of this
commit or an earlier one, ends PARTIAL, with what its struck gangs have stored released too (R76). -/
def State.linkLoss (s : State) (l : Launch) : State :=
  let hurt := (s.struckGangs l.key).map (·.key)
  if !s.goesOn l.key || (hurt = [] && l.again = []) then s
  else
    let s := if hurt = [] then s else s.raiseLinkLoss l
    if l.replay && s.grounds l.shape ≠ [] then
      (hurt.foldl State.abandonGang s).updLaunch l.key fun l =>
        { l with again := sortBy (fun a b => a < b) (l.again ++ hurt.map (·.gang)) }
    else (hurt.foldl State.abandonGang (s.releaseLaunch l.key)).stopLaunch l.key 3 Trap.linkLoss

end Sys2Proof.Machine
end

