-- ==== Sys2Proof/Machine/Fabric.lean ====
section
/-! DEFINITION. The events of the wafer fabric (02_wafer_fabric.md): links and their replay, packets, losses, and the commit
of a table generation. -/

namespace Sys2Proof.Machine

open Sys2Proof.Config

/-! ### Links (R41-R43) -/

/-- The number of a link direction. -/
def linkKey (d : LinkDir) : Nat := 4 * d.tile + d.port

/-- A link direction with nothing sent. -/
def Link.fresh : Link :=
  { st := .full, replays := 0, nextSeq := 0, buffer := [], retraining := false, expect := 0, resend := [], window := 0 }

/-- A link direction; an unlisted one is fresh. -/
def State.link (s : State) (d : LinkDir) : Link := (tabFind (linkKey d) s.links).getD Link.fresh
/-- Updates a link direction. -/
def State.updLink (s : State) (d : LinkDir) (f : Link → Link) : State :=
  { s with links := tabSet (linkKey d) (f (s.link d)) s.links }

/-- The other direction of a link. -/
def reverse (d : LinkDir) : LinkDir := ⟨(neighbour d.tile d.port).getD d.tile, farPort d.port⟩

/-- The flits from a sequence number on. -/
def Link.fromSeq (l : Link) (q : BitVec 8) : List (BitVec 8 × Nat) := l.buffer.dropWhile fun e => e.1 ≠ q

/-- FLIT_CRC_FAIL: the receiver discards the flit and every later one, and asks for it again. -/
def execFlitCrcFail (s : State) : Host.Outcome State Fault Refusal :=
  match s.input with
  | .flitCrcFail d q =>
    .next (if (s.link d).fromSeq q = [] then s
      else { s.updLink d fun l => { l with expect := q } with agenda := s.agenda ++ [⟨.replayRequest, .replayRequest d q⟩] })
  | _ => .next s

/-- REPLAY_REQUEST: the sender resends from the named flit, in the original order. -/
def execReplayRequest (s : State) : Host.Outcome State Fault Refusal :=
  match s.input with
  | .replayRequest d q =>
    .next (if (s.link d).fromSeq q = [] then s
      else s.updLink d fun l => { l with replays := l.replays + 1, resend := (l.fromSeq q).map (·.1) })
  | _ => .next s

/-- The port by which a packet leaves a router (R47): along its dimensions, or by `UDPORT`. -/
def State.nextPort (s : State) (f : Flight) : Option Nat :=
  if f.router = f.packet.dest then none
  else match f.route with
    | .xFirst => dimStep true f.router f.packet.dest
    | .yFirst => dimStep false f.router f.packet.dest
    | .upDown => some ((s.active.entry f.router f.packet.dest).toNat % 8)

/-- The link that a packet takes next. -/
def State.nextLink (s : State) (f : Flight) : Option LinkDir := (s.nextPort f).map fun p => ⟨f.router, p⟩

/-- A packet's flit takes a place in the replay buffer of its next link, where there is room and the link is up; that a packet
is one flit is the model's choice (R41, LOG 92). -/
def State.enterLink (s : State) (f : Flight) : State :=
  match s.nextLink f with
  | none => s
  | some d =>
    if (s.link d).st = .down || 64 ≤ (s.link d).buffer.length then s
    else s.updLink d fun l => { l with nextSeq := l.nextSeq + 1, buffer := l.buffer ++ [(l.nextSeq, f.id)] }

/-- A packet stands at a router, behind those that came there before. -/
def State.standAt (s : State) (f : Flight) (r : Nat) : State :=
  { s with flights := (s.flights.filter fun g => g.id ≠ f.id) ++ [{ f with router := r }] }

/-- A packet has crossed a link. -/
def State.cross (s : State) (d : LinkDir) (id : Nat) : State :=
  match s.flights.find? fun f => f.id = id && f.router = d.tile with
  | none => s
  | some f => (s.standAt f (reverse d).tile).enterLink { f with router := (reverse d).tile }

/-- Packets that waited at a router for room in the replay buffer of a link take their places, oldest first. -/
def State.refill (s : State) (d : LinkDir) : State :=
  (s.flights.filter fun f => s.nextLink f = some d && !(s.link d).buffer.any fun e => e.2 = f.id).foldl State.enterLink s

/-- FLIT_ACKNOWLEDGE: the entries up to the named flit are freed; their packets stand at the next router. -/
def execFlitAcknowledge (s : State) : Host.Outcome State Fault Refusal :=
  match s.input with
  | .flitAcknowledge d q =>
    let l := s.link d
    match l.fromSeq q with
    | [] => .next s
    | _ :: rest =>
      let freed := l.buffer.take (l.buffer.length - rest.length)
      let s := s.updLink d fun l =>
        { l with buffer := rest, expect := q + 1, resend := l.resend.filter fun x => rest.any fun e => e.1 = x }
      .next ((freed.foldl (fun s e => s.cross d e.2) s).refill d)
  | _ => .next s

/-! ### Lost packets (R60, R61) -/

/-- The class of R61 whose sender resends: an invalidation, a probe, or an acknowledgement. -/
def payloadResent : Payload → Bool
  | .invalidate _ _ | .invalidateAck _ _ | .probe _ _ _ _ => true
  | .access _ | .forward _ | .scratch _ | .arrival _ | .contribution _ | .copy _ _ _ _ _ | .lockRequest _ | .lockRelease _
  | .grant _ | .migration _ | .moveAck _ | .replicaFill _ _ _ | .reply _ _ => false

/-- The lines of a region of which the wafer held the only copy are lost (R61), and its move ends. -/
def State.loseRegion (s : State) (k : RegionKey) : State :=
  ((s.wc.filter fun l => l.modified && k.has (128 * l.line)).map (·.line)).foldl State.loseLine s

/-- Every line that an invalidation names is lost (R61, LOG 90). -/
def State.loseNamed (s : State) (k : RegionKey) : State :=
  ((List.range (k.size / 128)).map fun i => k.base / 128 + i).foldl State.loseLine s

/-- A packet is lost. What its sender awaits times out; a migration transfer loses its region's only copies. -/
def State.losePacket (s : State) (f : Flight) : State :=
  let s := { s with flights := s.flights.filter fun g => g.id ≠ f.id }
  match f.packet.payload with
  | .migration k => { s.loseRegion k with agenda := s.agenda ++ [⟨.moveAck, .moveAck k⟩] }
  | _ => s

/-- A fault reaches a squad (R61): the squad that submitted the job, or the squad itself after its instruction was passed. That
of a squad that is gone, or whose launch is being stopped, is recorded (R98). -/
def State.tellSquad (s : State) (k : SquadKey) (e : EngineTrap) : State :=
  match s.locate k with
  | none => s.recordGone k e
  | some (t, slot) =>
    match (s.tile t).wg with
    | none => s
    | some w =>
      if e.seq ≠ 0 then s.engineTrap t w slot e
      else if s.goesOn k.gang.launch then s.updSquad t slot fun q => q.loseResults (fun o => o.site = e.site) e
      else s.raise (s.squadRecord t w slot (engineRegs e) 0)

/-- A fault of a request reaches the context that owns it. -/
def State.tellOwner (s : State) (p : Packet) (number : Nat) (detail : Word) : State :=
  match p.owner with
  | none => s
  | some k => s.tellSquad k ⟨number, detail, p.address, p.site, p.seq⟩

/-- A copy of an MCAST job's line that is lost, or comes with an error in its data, stops its job (R60, R61, R352, LOG 112). -/
def State.failCopy (s : State) (p : Packet) (t id n num detail : Nat) : State :=
  if (s.copying t id n).isSome then s.failJob t id num detail p.address.toNat else s

/-- FABRIC_LOSS reaches the context that owns a request. -/
def State.fabricLoss (s : State) (p : Packet) : State :=
  match p.payload with
  | .copy t id n _ _ => s.failCopy p t id n Trap.fabricLoss 0
  | _ => s.tellOwner p Trap.fabricLoss 0

/-- The packets whose unacknowledged flits a link held. -/
def State.inBuffers (s : State) (d : LinkDir) : List Flight :=
  s.flights.filter fun f => f.router = d.tile && ((s.link d).buffer.any fun e => e.2 = f.id)

/-- A link goes down (R43, R52): what its replay buffers hold is lost, the map loses it, firmware commits, and the trees of
collective groups are built again (R356). -/
def State.linkDown (s : State) (d : LinkDir) : State :=
  let lost := s.inBuffers d ++ s.inBuffers (reverse d)
  let s := lost.foldl State.losePacket s
  let down (l : Link) : Link := { l with st := .down, buffer := [], resend := [] }
  let s := (s.updLink d down).updLink (reverse d) down
  { s.loseParts [.link d.tile d.port] with
           agenda := s.agenda ++ s.junctions.map fun g => ⟨.collectiveTreeRebuild, .collectiveTreeRebuild g.1⟩ }

/-- A link goes to half width: the map records it at both ends (R42). -/
def State.linkHalf (s : State) (d : LinkDir) : State :=
  let half (l : Link) : Link := { l with st := .half }
  let s := (s.updLink d half).updLink (reverse d) half
  s.updMaps fun m => halveLink m d.tile d.port

/-- The window of 2^20 fabric cycles. -/
def replayWindow : Nat := 2 ^ 20

/-- REPLAY_WINDOW_END: more than 16 replays step the link down, and retrain both of its directions. -/
def execReplayWindowEnd (s : State) : Host.Outcome State Fault Refusal :=
  match s.input with
  | .replayWindowEnd d =>
    let l := s.link d
    let now := s.fabricCycles / replayWindow
    if now ≤ l.window || (neighbour d.tile d.port).isNone then .next s
    else
      let s := s.updLink d fun l => { l with window := now, replays := 0 }
      let train (l : Link) : Link := { l with retraining := true }
      .next (if l.replays ≤ 16 then s
        else match l.st with
          | .full => ((s.linkHalf d).updLink d train).updLink (reverse d) train
          | .half => ((s.linkDown d).updLink d train).updLink (reverse d) train
          | .down => s)
  | _ => .next s

/-- LINK_RETRAIN_DONE: the waiting flits proceed. -/
def execLinkRetrainDone (s : State) : Host.Outcome State Fault Refusal :=
  match s.input with
  | .linkRetrainDone d =>
    let done (l : Link) : Link := { l with retraining := false }
    .next ((s.updLink d done).updLink (reverse d) done)
  | _ => .next s

/-! ### Packets (R44-R49) -/

/-- The line of a packet's key (R46). -/
def packetLine (p : Packet) : Nat := p.payload.subject.key p.dest
/-- The message class of a packet (R44). -/
def packetClass (p : Packet) : MsgClass := p.payload.cls

/-- Sends a packet of a route class. -/
def State.sendPacket (s : State) (p : Packet) (rc : RouteClass) : State :=
  let f : Flight := { id := s.nextPacket, packet := p, route := rc, gen := s.rt.gen.toNat, router := p.source
                      injected := s.fabricCycles }
  let s := { s with nextPacket := s.nextPacket + 1, flights := s.flights ++ [f] }
  s.enterLink f

/-- The sender awaits an answer to a packet it resends, or to a request of a context. -/
def packetAwaited (p : Packet) : Bool := payloadResent p.payload || p.owner.isSome

/-- A copy of an MCAST job's line goes along the X-first tree (R49): the tree may be used, and its path to the member is good
throughout (LOG 112). -/
def State.onTree (s : State) (p : Packet) : Bool :=
  match p.payload with
  | .copy t id _ _ _ =>
    (s.job? t id).any (fun x => s.treeGood x.1 x.2 p.source) && pathClean s.street true p.dest 110 p.source
  | _ => false

/-- The route class of a new packet (R47, R49). -/
def State.routeClass (s : State) (p : Packet) : Option RouteClass :=
  if s.onTree p then some .xFirst
  else chooseClass (s.active.entry p.source p.dest) (keyedHash s.fkey p.source (packetLine p) % 2 = 1)

/-- No packet is injected: the requester receives FABRIC_LOSS at once (R47); the member of a copy receives nothing (R348). -/
def State.refusePacket (s : State) (p : Packet) : State :=
  match p.payload with
  | .copy t id n _ _ => if (s.copying t id n).isSome then s.updJob t id fun j => j.withoutCopy n else s
  | _ => s.fabricLoss p

/-- PACKET_INJECT. While a commit drains the fabric, packets wait at their network interfaces (R59). -/
def execPacketInject (s : State) : Host.Outcome State Fault Refusal :=
  match s.input with
  | .packetInject p =>
    if s.rt.state = 2 then .next { s with waiting := s.waiting ++ [p] }
    else
      match s.routeClass p with
      | none => .next (s.refusePacket p)
      | some rc =>
        let s := if packetAwaited p then { s with awaited := s.awaited ++ [⟨s.nextPacket, p, s.fabricCycles, 0⟩] } else s
        .next (s.sendPacket p rc)
  | _ => .next s

/-- Follows a packet's route over links that are up; answers the router at which it arrives or is held. -/
def State.reach (s : State) : Nat → Flight → Nat
  | 0, f => f.router
  | n + 1, f =>
    match s.nextLink f with
    | none => f.router
    | some d =>
      if (s.link d).st = .down || (neighbour d.tile d.port).isNone then f.router
      else State.reach s n { f with router := (reverse d).tile }

/-- The most hops of a route. -/
def hopLimit : Nat := tileCount

/-- Two packets travel in one virtual channel (R45). -/
def sameChannel (f g : Flight) : Bool := packetClass f.packet = packetClass g.packet && f.route = g.route

/-- A packet of the same virtual channel stands before f on its way: at a router that f has still to reach, or before f at
its own (R45). -/
def State.behind (s : State) (f : Flight) : Nat → Nat → Bool
  | 0, _ => false
  | n + 1, r =>
    match s.nextLink { f with router := r } with
    | none => false
    | some d =>
      let there := if r = f.router then s.flights.takeWhile fun g => g.id ≠ f.id else s.flights
      there.any (fun g => g.id ≠ f.id && g.router = r && sameChannel f g && s.nextLink g = some d)
        || ((s.link d).st ≠ .down && (neighbour d.tile d.port).isSome && State.behind s f n (reverse d).tile)

/-- A packet is held: its next link, or one after it, is down. -/
def State.heldFlight (s : State) (f : Flight) : Bool := s.reach hopLimit f ≠ f.packet.dest

/-- No packet of the same source, class, key and destination was injected before it and is not delivered (R48). -/
def State.firstOfKind (s : State) (f : Flight) : Bool :=
  !s.flights.any fun g => g.id < f.id && g.packet.source = f.packet.source && packetClass g.packet = packetClass f.packet
    && packetLine g.packet = packetLine f.packet && g.packet.dest = f.packet.dest

/-- A packet is the next of its virtual channel on its way (R45, R48). -/
def State.isNext (s : State) (f : Flight) : Bool := s.firstOfKind f && !s.behind f hopLimit f.router
/-- A packet can reach its endpoint now. -/
def State.canArrive (s : State) (f : Flight) : Bool := s.isNext f && !s.heldFlight f
/-- The fabric has drained (R59 step 2): what is left is held in a dimension-order class, or stands behind such a packet. -/
def State.fabricDrained (s : State) : Bool := s.flights.all fun f => f.route ≠ .upDown && !s.canArrive f

/-- What a packet does at its endpoint. -/
def payloadEvent : Payload → Option Pending
  | .access a | .forward a => some ⟨.anchorRequest, .anchorRequest a⟩
  | .lockRequest r => some ⟨.lockRequestArrival, .lockRequestArrival r⟩
  | .lockRelease r => some ⟨.lockReleaseArrival, .lockReleaseArrival r⟩
  | .grant g => some ⟨.lockGrant, .lockGrant g⟩
  | .invalidate k r => some ⟨.replicaInvalidate, .replicaInvalidate k r⟩
  | .invalidateAck k r => some ⟨.invalidationAck, .invalidationAck k r⟩
  | .migration k => some ⟨.migrationTransfer, .migrationTransfer k⟩
  | .moveAck k => some ⟨.moveAck, .moveAck k⟩
  | .replicaFill k r l => some ⟨.replicaFillArrival, .replicaFillArrival k r l⟩
  | .probe t a p k => some ⟨.peerProbe, .peerProbe t a p k⟩
  | .scratch _ | .arrival _ | .contribution _ | .copy _ _ _ _ _ | .reply _ _ => none

/-- The number of the packet whose wait ends when a packet arrives (R61): a reply's request; an acknowledgement's or a copy's
own. -/
def Flight.settles (f : Flight) : Option Nat :=
  match f.packet.payload with
  | .reply n _ => some n
  | .invalidateAck _ _ | .copy _ _ _ _ _ => some f.id
  | _ => none

/-- The reply that an endpoint sends to a packet whose sender awaits one. -/
def State.replyTo (s : State) (f : Flight) : List Pending :=
  if f.settles = none && s.awaited.any fun a => a.id = f.id then
    [⟨.packetInject, .packetInject ⟨f.packet.dest, f.packet.source, none, 0, 0, 0, .reply f.id f.packet.payload.subject⟩⟩]
  else []

/-- The write of a copy that has come may land. -/
def State.takeCopy (s : State) (p : Payload) : State :=
  match p with
  | .copy t id n _ _ => if (s.copying t id n).isSome then s.updJob t id fun j => j.copyArrived n else s
  | _ => s

/-- A packet reaches its endpoint, which consumes it. -/
def State.deliver (s : State) (f : Flight) : State :=
  let s := s.takeCopy f.packet.payload
  { s with flights := s.flights.filter fun g => g.id ≠ f.id
           awaited := s.awaited.filter fun a => some a.id ≠ f.settles
           agenda := s.agenda ++ (payloadEvent f.packet.payload).toList ++ s.replyTo f }

/-- DETAIL of a DATA_UE about a subject (R184): what has no physical address leaves it a free value (LOG 8). -/
def State.ueDetail (s : State) (x : Subject) : State × Word :=
  match x with
  | .line l => (s, BitVec.ofNat 32 (128 * l / 2 ^ 20))
  | .scratch _ | .none => ({ s with freeCtr := s.freeCtr + 1 }, freeWord s.freeCtr)

/-- A packet reaches its endpoint with an uncorrectable error in a data flit (R60): a store or an atomic, and a migration
transfer, leave their lines in error (R184); a replica is not filled; a reply, and a copy for a member, bring DATA_UE; what
carries no data is as it is. -/
def State.deliverBad (s : State) (f : Flight) : State :=
  let gone : State := { s with flights := s.flights.filter fun g => g.id ≠ f.id
                               awaited := s.awaited.filter fun a => some a.id ≠ f.settles
                               agenda := s.agenda ++ s.replyTo f }
  match f.packet.payload with
  | .access a | .forward a =>
    (match a.kind with
      | .store _ | .atomic _ _ _ => gone.loseLine (lineOf a.address)
      | .load => s.deliver f)
  | .migration k => { gone.loseRegion k with agenda := gone.agenda ++ [⟨.moveAck, .moveAck k⟩] }
  | .replicaFill _ _ _ => gone
  | .reply n x =>
    (match s.awaited.find? fun a => a.id = n with
      | some a => (gone.ueDetail x).1.tellOwner a.packet Trap.dataUe (gone.ueDetail x).2
      | none => gone)
  | .copy t id n _ x => (gone.ueDetail x).1.failCopy f.packet t id n Trap.dataUe (gone.ueDetail x).2.toNat
  | .scratch _ | .arrival _ | .contribution _ | .lockRequest _ | .lockRelease _ | .grant _ | .invalidate _ _ | .invalidateAck _ _ | .moveAck _ | .probe _ _ _ _ => s.deliver f

/-- PACKET_DELIVER: in the order of its virtual channel. A packet whose way is blocked stands at the router before the link
that is down; an up-down packet that stands so while a commit runs is lost (R59). -/
def execPacketDeliver (s : State) : Host.Outcome State Fault Refusal :=
  match s.input with
  | .packetDeliver n bad =>
    match s.flights[n]? with
    | none => .next s
    | some f =>
      if !s.isNext f then .next s
      else if !s.heldFlight f then .next (if bad then s.deliverBad f else s.deliver f)
      else if f.route = .upDown && s.rt.state = 2 then .next (s.losePacket f)
      else if s.reach hopLimit f = f.router then .next s
      else .next (s.standAt f (s.reach hopLimit f))
  | _ => .next s

/-- HEADER_UE_DISCARD: the packet is lost, and the router writes a record to the management ward's queue. -/
def execHeaderUeDiscard (s : State) : Host.Outcome State Fault Refusal :=
  match s.input with
  | .headerUeDiscard n =>
    match s.flights[n]? with
    | none => .next s
    | some f => .next (((s.losePacket f).raise { FaultRecord.blank with src := 5, tile := f.router }).flush)
  | _ => .next s

/-- What an invalidation or a probe that is never answered comes to (R61): its lines are lost, and the anchor waits for it
no longer. -/
def State.unanswered (s : State) (p : Packet) : State :=
  match p.payload with
  | .invalidate k r | .invalidateAck k r =>
    { s.loseNamed k with agenda := s.agenda ++ [⟨.invalidationAck, .invalidationAck k r⟩] }
  | .probe _ a _ _ => if s.modified (lineOf a) then s.loseLine (lineOf a) else s
  | _ => s

/-- RESEND_TIMEOUT. -/
def execResendTimeout (s : State) : Host.Outcome State Fault Refusal :=
  match s.input with
  | .resendTimeout n =>
    match s.awaited[n]? with
    | none => .next s
    | some a =>
      if !payloadResent a.packet.payload || s.fabricCycles < a.sent + 2 ^ 16 || s.rt.state = 2 then .next s
      else if a.resends < 3 then
        match s.routeClass a.packet with
        | none => .next { s with awaited := s.awaited.set n { a with sent := s.fabricCycles, resends := a.resends + 1 } }
        | some rc =>
          let b : Awaited := { id := s.nextPacket, packet := a.packet, sent := s.fabricCycles, resends := a.resends + 1 }
          .next (({ s with awaited := s.awaited.set n b } : State).sendPacket a.packet rc)
      else .next (({ s with awaited := s.awaited.eraseIdx n } : State).unanswered a.packet)
  | _ => .next s

/-- A group whose request or answer is lost: where it stands, when it sent the request, and the address of its trap, with PART. -/
structure Unheard where
  group : Cursor
  sent : Nat
  addr : Nat
  part : Bool
deriving DecidableEq, Repr

/-- The groups whose requests or answers are lost, but for those that cannot issue. -/
def State.unheard (s : State) : List Unheard :=
  s.tiles.flatMap fun e => e.2.wg.toList.flatMap fun w => w.squads.flatMap fun q =>
    if q.stopped || q.halted then []
    else q.groups.filterMap fun g =>
      match g.blocked with
      | some (.answer n a p) => if q.runs g then some ⟨⟨e.1, q.slot, g.pc⟩, n, a, p⟩ else none
      | _ => none

/-- Its time has come. -/
def State.unheardLate (s : State) (x : Unheard) : Bool := x.sent + 2 ^ 20 ≤ s.fabricCycles

/-- The group takes FABRIC_LOSS at its instruction (R61, R284, LOG 110). -/
def State.endUnheard (s : State) (x : Unheard) : State :=
  match s.at? x.group with
  | some c => if s.unheardLate x then s.takeTrap c.tile c.sq.slot c.g.pc (c.regs Trap.fabricLoss 0 x.addr x.part) else s
  | none => s

/-- REQUEST_TIMEOUT: of a packet that is awaited; the numbers after theirs are those of the groups whose requests are lost. -/
def execRequestTimeout (s : State) : Host.Outcome State Fault Refusal :=
  match s.input with
  | .requestTimeout n =>
    match s.awaited[n]? with
    | none => .next (((s.unheard[n - s.awaited.length]?).map s.endUnheard).getD s)
    | some a =>
      if payloadResent a.packet.payload || s.fabricCycles < a.sent + 2 ^ 20 then .next s
      else .next (({ s with awaited := s.awaited.eraseIdx n } : State).fabricLoss a.packet)
  | _ => .next s

/-! ### Commits (R56-R59) -/

/-- COMMIT_REQUEST. -/
def execCommitRequest (s : State) : Host.Outcome State Fault Refusal := .next s.requestCommit

/-- FIRMWARE_COMMIT: firmware builds its default tables against the street map as it stands, and commits them. -/
def execFirmwareCommit (s : State) : Host.Outcome State Fault Refusal :=
  .next (if !s.rt.want || s.rt.state ≠ 0 then s
    else { s with rt := { s.rt with state := 2, fwc := true, swapped := false, want := false }, streetCommit := s.streetNext })

/-- The tables that the running commit makes active: firmware's own, or the staging tables. -/
def State.committing (s : State) : Tables := if s.rt.fwc then ⟨.of s.streetCommit, []⟩ else s.staging

/-- The root of some tables over a street map. -/
def tableRoot (m : List (Nat × BitVec 32)) (tb : Tables) : Option Nat :=
  match tb.base, tb.written with
  | .default n _, [] => rootOf n
  | _, _ => (goodRouters m).find? fun t => bitOf (tb.entry t tileCount).toNat 3

/-- COMMIT_DRAIN_DONE: every packet that can arrive has, and the up-down ones that were held are lost; the tables, the key and
the street map change at once, and the packets that are held move to up-down. -/
def execCommitDrainDone (s : State) : Host.Outcome State Fault Refusal :=
  if s.rt.state ≠ 2 || s.rt.swapped || !s.fabricDrained then .next s
  else
    let root := tableRoot s.streetCommit s.committing
    let held := s.flights.map fun f => { f with route := .upDown, router := s.reach hopLimit f }
    let t := { s with active := s.committing, fkey := drawKey s.freeCtr, freeCtr := s.freeCtr + 1
                      rt := { s.rt with gen := s.rt.gen + 1, swapped := true }
                      street := markPlaza s.streetCommit root, streetNext := markPlaza s.streetNext root, flights := held }
    .next (if s.bringUp.worked = 6 then t.dealBanks else t)

/-- A bank that the new tables leave unreachable is marked by firmware (R59, R179). -/
def State.markLost (s : State) : State :=
  let lost := (s.street.map (·.1)).filter fun t => s.bgood t && !s.routes s.plaza t && !s.emptying.contains t
  { s with emptying := s.emptying ++ lost, marks := s.marks ++ lost.map .bank }

/-- The part that a mark request names is usable in a map. -/
def partGood (m : List (Nat × BitVec 32)) : Part → Bool
  | .tile t => streetBit m t 0
  | .bank t => streetBit m t 1
  | .router t => streetBit m t 2
  | .link t p => streetBit m t (3 + p)

/-- An answer of a mailbox (R65). -/
def State.mbAnswer (s : State) (port opcode : Nat) (code : MbCode) (out : List Byte) : State :=
  { s with answers := s.answers ++ [⟨port, opcode, code, out⟩] }

/-- A mark request completes once its part has left the committed map. -/
def State.finishMarks (s : State) : State :=
  let done := s.background.filter fun e => match e.2 with | .mark p => !partGood s.street p | _ => false
  done.foldl (fun s e => ({ s with background := s.background.erase e } : State).mbAnswer e.1 0xC005 .success []) s

/-- COMMIT_COMPLETE: the held packets are delivered and injection resumes, with the packets that have waited; launches struck by a link loss are dealt with
(R99, R100). -/
def execCommitComplete (s : State) : Host.Outcome State Fault Refusal :=
  if s.rt.state ≠ 2 || !s.rt.swapped || s.flights ≠ [] then .next s
  else
    let s := { s with rt := { s.rt with state := 0, err := 0, swapped := false }, waiting := []
                      agenda := s.waiting.map (fun p => (⟨.packetInject, .packetInject p⟩ : Pending)) ++ s.agenda }
    .next ((s.launches.foldl State.linkLoss s.markLost.finishMarks).flush)

end Sys2Proof.Machine
end

