-- ==== Sys2Proof/Machine/HostLinks.lean ====
section
/-! DEFINITION. The CXL ports (R27, R63, R72, R82, R85, R182): training, loss of a link, and a reset of a host port. -/

namespace Sys2Proof.Machine

/-- Updates a port. -/
def State.updPort (s : State) (p : Nat) (f : Port → Port) : State :=
  { s with ports := (List.range s.ports.length).map fun i =>
      let x := s.ports.getD i ⟨defaultRole i, false⟩
      if i = p then f x else x }

/-- The role of a port: 0 host, 1 pool, 2 peer. -/
def State.role (s : State) (p : Nat) : Nat := ((s.ports[p]?).map (·.role)).getD 3

/-- Updates every queue that is watched through a port. -/
def State.updQueuesAt (s : State) (p : Nat) (f : LaunchQueue → LaunchQueue) : State :=
  { s with queues := s.queues.map fun e => if e.2.enabled && e.2.port = p then (e.1, f e.2) else e }

/-- A link group has no port left (R182). -/
def State.groupDown (s : State) (ports : List Nat) : Bool := !ports.any fun p => (s.ports[p]?).any fun x => x.up

/-- The granules that the whole of HBM takes in the pool: 1,536 GiB (R39). -/
def checkpointGranules : Nat := 1536

/-- The link group that a lost granule of a region was bound to. -/
def State.regionFault (s : State) (region : Nat) : Option (Nat × Nat) :=
  ((List.range checkpointGranules).find? fun i => s.poolLost (Config.poolBase + (region + i) * 2 ^ 30)).map fun i =>
    (region, ((tabFind (region + i) s.granules).map (·.group)).getD 0xFFFF)

/-- Link groups that have lost their last port through p are lost. -/
def State.poolPortDown (s : State) (p : Nat) : State :=
  ((s.linkGroups.filter fun g => g.2.contains p && s.groupDown g.2).map (·.1)).foldl State.loseGroup s

/-- A group has a peer that is reached through a port. -/
def State.usesPort (s : State) (g : Junction) (p : Nat) : Bool :=
  (List.range 64).any fun i => g.peers.getLsbD i && (tabFind i s.peers).any fun e => e.valid && e.ports.getLsbD p

/-- The trees of the groups that reach a peer through a port are built again (R85, R356), and those of a peer whose every
link is lost have lost the peer. -/
def State.peerPortDown (s : State) (p : Nat) : State :=
  let hit := s.junctions.filter fun e => s.usesPort e.2 p
  { s with
    agenda := s.agenda ++ hit.map fun e => ⟨.collectiveTreeRebuild, .collectiveTreeRebuild e.1⟩
    junctions := s.junctions.map fun e =>
      if (List.range 64).any fun i => e.2.peers.getLsbD i && !s.peerUp i then (e.1, { e.2 with failed := true }) else e }

/-- A port's link goes down: queues watched through it stop with PORTDOWN, and a pool or peer port may be the last of its
group or peer. -/
def State.portDown (s : State) (p : Nat) : State :=
  let s := s.updPort p fun x => { x with up := false }
  match s.role p with
  | 0 => s.updQueuesAt p fun q => { q with qerr := 3, watching := false }
  | 1 => s.poolPortDown p
  | 2 => s.peerPortDown p
  | _ => s

/-- PORT_LINK_DOWN. -/
def execPortLinkDown (s : State) : Host.Outcome State Fault Refusal :=
  match s.input with
  | .portLinkDown p => .next (s.portDown p)
  | _ => .next s

/-- HOST_PORT_RESET: on a host port other than port 0, its link only (R27). -/
def execHostPortReset (s : State) : Host.Outcome State Fault Refusal :=
  match s.input with
  | .hostPortReset p => .next (if p ≠ 0 && s.role p = 0 then s.portDown p else s)
  | _ => .next s

/-- The pool port joins the link group of the memory device that it reaches. -/
def State.joinLinkGroup (s : State) (g p : Nat) : State :=
  let ports := (tabFind g s.linkGroups).getD []
  { s with linkGroups := tabSet g (if ports.contains p then ports else ports ++ [p]) s.linkGroups }

/-- The peer-table entries that name a port are left invalid where the serial number does not match. -/
def State.checkPeer (s : State) (p : Nat) (serial : BitVec 128) : State :=
  { s with peers := s.peers.map fun e =>
      if e.2.ports.getLsbD p && e.2.serial ≠ serial then (e.1, { e.2 with valid := false }) else e }

/-- A port's link comes up: a host port's queues start their cycle again, and what they hold is written. -/
def State.portUp (s : State) (p : Nat) (x : Partner) : State :=
  let s := s.updPort p fun y => { y with up := true }
  match s.role p with
  | 0 => (s.updQueuesAt p fun q => if q.qerr = 3 then { q with qerr := 0, watching := false, tail := q.head } else q).flush
  | 1 => s.joinLinkGroup x.device p
  | 2 => s.checkPeer p x.serial
  | _ => s

/-- CXL_LINK_TRAINING: a partner that lacks a mandatory feature leaves the link down and sets the port's bit of LINKFAIL. -/
def execCxlLinkTraining (s : State) : Host.Outcome State Fault Refusal :=
  match s.input with
  | .cxlLinkTraining p x =>
    .next (if 32 ≤ p then s
      else if x.mandatory then s.portUp p x
      else { s.portDown p with linkFail := s.linkFail ||| (1#32 <<< p) })
  | _ => .next s

end Sys2Proof.Machine
end

