-- ==== Sys2Proof/Machine/BringUp.lean ====
section
/-! DEFINITION. Power, resets and bring-up (01_package_power_bringup.md): the power alarm, the three kinds of loss of state,
the ROM check, harvest, tree build, training, clearing and the start of full service. -/

namespace Sys2Proof.Machine

open Sys2Proof.Config

/-! ### The firmware image (R35, R36) -/

/-- A little-endian field of the image. -/
def imageField (b : List Byte) (o n : Nat) : Nat := leValue ((b.drop o).take n)

/-- Bytes of an image with its signature. -/
def imageSize (b : List Byte) : Nat := 0x40 + imageField b 0x0C 4 + 64

/-- The boot ROM accepts an image. -/
def imageAccepted (b : List Byte) (minSvn : Nat) (digest : BitVec 256) : Bool :=
  let n := imageField b 0x0C 4
  imageField b 0 4 = 0x31464E4B && ((b.drop 0x10).take 0x30).all (fun x => x = 0) && n % 64 = 0 && n ≤ 2 ^ 24
    && 0x40 + n + 64 ≤ b.length && imageField b 8 4 ≤ 255 && minSvn ≤ imageField b 8 4
    && signatureValid digest (sha256 (b.take (0x40 + n))) ((b.drop (0x40 + n)).take 64)

/-! ### Port roles (R20, R21) -/

/-- The role that a record gives a port. -/
def recordRole (r : DWord) (p : Nat) : Nat := r.toNat / 4 ^ p % 4

/-- The record holds a reserved value, or does not make port 0 a host port. -/
def recordWrong (r : DWord) : Bool := (List.range 32).any (fun p => recordRole r p = 3) || recordRole r 0 ≠ 0

/-- The ports after a reset. -/
def portsFrom (r : DWord) : List Port :=
  (List.range 32).map fun p => ⟨if r = 0 || recordWrong r then defaultRole p else recordRole r p, false⟩

/-! ### Loss of state (R24, R27, R28) -/

/-- An event that comes from outside the device, so that a reset does not undo it. -/
def Pending.outside (p : Pending) : Bool :=
  match p.row with
  | .powerOnReset | .deviceReset | .hostPortReset | .powerSample | .standardCommand | .setroles | .imgchunk | .imgcommit
  | .idreport | .certread | .mark | .chkpt | .biasflip | .biasread | .qctlEnable | .qctlDisable | .qctlRead | .poolbind
  | .peerset | .sampctl | .snapctl | .cxlLinkTraining | .portLinkDown | .tailSnoop | .hostMemRead | .hostMemWrite
  | .hostSnoop | .modulePowerLoss | .romCheck | .harvest | .treeBuild | .hbmTraining | .memoryClear
  | .fullServiceBegin => true
  | _ => false

/-- All volatile state is lost: what stays is flash and fuses, memory outside the module, and what hosts have received.
Modified lines are lost, so the pool holds what was last written back; the port-role record is read (R20, R28). -/
def State.loseAll (s : State) : State :=
  let s := (s.wc.map (·.line)).foldl State.dropModified s
  { State.reset with
      flash := if s.flashWrite.isSome then { s.flash with torn := true } else s.flash
      ports := portsFrom s.flash.roles
      bringUp := { State.reset.bringUp with roledef := recordWrong s.flash.roles }
      mem := Memory.clear s.mem (2 ^ 70) (2 ^ 71), inError := s.inError.filter fun l => isPool (128 * l)
      devclk := s.devclk, pace := s.pace, power := s.power
      answers := s.answers, hostAnswers := s.hostAnswers, msix := s.msix
      agenda := s.agenda.filter Pending.outside, sched := s.sched, rr := s.rr, freeCtr := s.freeCtr }

/-- POWER_ON_RESET: `devclk` is 0, HBM has lost its contents, and bring-up starts at phase 0. -/
def execPowerOnReset (s : State) : Host.Outcome State Fault Refusal :=
  let s := s.loseAll
  .next { s with devclk := 0, power := State.reset.power, mem := Memory.clear s.mem 0 hbmEnd }

/-- DEVICE_RESET: `devclk` keeps running, the counts of cycles start again (R324 CYCR), and so does ALCNT; the alarm, the
average and the controller's samples stand, which is the model's choice (LOG 89). -/
def execDeviceReset (s : State) : Host.Outcome State Fault Refusal :=
  if s.power.removed then .next s
  else
    let s := s.loseAll
    .next { s with power := { s.power with count := 0 } }

/-- Power leaves the wafer: all device state is lost, and the next start is a power-on reset. -/
def State.powerOff (s : State) : State :=
  let s := s.loseAll
  { s with power := { State.reset.power with removed := true }, mem := Memory.clear s.mem 0 hbmEnd }

/-- MODULE_POWER_LOSS (R27, R37). -/
def execModulePowerLoss (s : State) : Host.Outcome State Fault Refusal := .next s.powerOff

/-! ### The power alarm (R24-R26) -/

/-- The average of the samples of the last 1 ms, rounded down: ten of them, or as many as there are. -/
def powerAverage (h : List Nat) : Nat := if h = [] then 0 else h.foldl (· + ·) 0 / h.length

/-- The exact average exceeds a number of watts. -/
def powerOver (h : List Nat) (watts : Nat) : Bool := watts * h.length < h.foldl (· + ·) 0

/-- One measurement: the average in watts, the inlet in tenths of a degree. -/
def Power.measure (p : Power) (watts inlet : Nat) : Power :=
  let h := (watts :: p.history).take 10
  let avg := powerAverage h
  let hot := decide (450 < inlet)
  let trip := powerOver h 27000 || hot
  { p with history := h, average := avg, inlet := inlet, hot := hot
           calm := if avg < 24000 ∧ inlet < 420 then p.calm + 100 else 0
           overUs := if powerOver h 30000 then p.overUs + 100 else 0
           alarm := p.alarm || trip, narrow := p.narrow || trip
           count := if trip && !p.alarm && p.count ≠ 255 then p.count + 1 else p.count }

/-- POWER_SAMPLE. -/
def execPowerSample (s : State) : Host.Outcome State Fault Refusal :=
  match s.input with
  | .powerSample w t => .next (if s.power.removed then s else { s with power := s.power.measure w t })
  | _ => .next s

/-- The alarm may clear: both conditions have held for 10 ms. -/
def Power.mayClear (p : Power) : Bool := p.alarm && 10000 ≤ p.calm
/-- The average has exceeded 30.0 kW for 10 ms. -/
def Power.mustCut (p : Power) : Bool := 10000 ≤ p.overUs

/-- POWER_ALARM_CLEAR. -/
def execPowerAlarmClear (s : State) : Host.Outcome State Fault Refusal :=
  .next (if s.power.mayClear then { s with power := { s.power with alarm := false, narrow := false } } else s)

/-- WAFER_POWER_REMOVAL. -/
def execWaferPowerRemoval (s : State) : Host.Outcome State Fault Refusal :=
  .next (if s.power.mustCut then s.powerOff else s)

/-! ### The street map of the fused list (R30, R31, R50, R51) -/

/-- A tile's word with nothing defective. -/
def wholeWord (t : Nat) : BitVec 32 :=
  BitVec.ofNat 32 (7 + ((List.range 4).map fun p => if (neighbour t p).isSome then 2 ^ (3 + p) else 0).foldl (· + ·) 0)

/-- One defective part of the fused list. -/
def fuseDefect (m : List (Nat × BitVec 32)) (d : Part) : List (Nat × BitVec 32) :=
  match d with
  | .tile t => streetSet (streetSet m t 0 false) t 11 true
  | .bank t => streetSet (streetSet m t 1 false) t 11 true
  | .router t => streetSet (cutRouter m t) t 11 true
  | .link t p =>
    let m := streetSet (cutLink m t p) t 11 true
    match neighbour t p with
    | some n => streetSet m n 11 true
    | none => m

/-- The map of the fused list. -/
def fusedMap (ds : List Part) : List (Nat × BitVec 32) :=
  ds.foldl fuseDefect ((List.range tileCount).map fun t => (t, wholeWord t))

/-- The part of a map that reduced service uses: the tiles of reticle 0, and the links between them (R31). -/
def reducedMap (m : List (Nat × BitVec 32)) : List (Nat × BitVec 32) :=
  let r := m.filter fun e => reticleOf e.1 = 0
  r.map fun e => (e.1, (List.range 4).foldl (fun w p =>
    match neighbour e.1 p with
    | some n => if reticleOf n = 0 then w else w &&& ~~~(1#32 <<< (3 + p)) &&& ~~~(1#32 <<< (7 + p))
    | none => w) e.2)

/-- The map of reduced service becomes the committed one, with firmware's default tables in both sets; no generation is
counted, and what stands in the staging tables then is the model's choice (LOG 93). -/
def State.install (s : State) (m : List (Nat × BitVec 32)) : State :=
  let m := markPlaza m (rootOf m)
  ({ s with street := m, streetNext := m, active := ⟨.of m, []⟩, staging := ⟨.of m, []⟩, fkey := drawKey s.freeCtr
            freeCtr := s.freeCtr + 1 } : State).dealBanks

/-! ### Bring-up (R29-R33) -/

/-- What has befallen the wafer since the reset: parts that were marked, links that are down, and links at half width (R42,
R52). -/
def State.worn (s : State) (m : List (Nat × BitVec 32)) : List (Nat × BitVec 32) :=
  let down := (s.links.filter fun e => e.2.st = .down).map fun e => Part.link (e.1 / 4) (e.1 % 4)
  let m := (s.marks ++ down).foldl (defect s.flash.defects) m
  (s.links.filter fun e => e.2.st = .half).foldl (fun m e => halveLink m (e.1 / 4) (e.1 % 4)) m

/-- ROM_CHECK: the image is accepted, and reduced service starts with stacks 0 and 1 zero; or recovery is entered. -/
def execRomCheck (s : State) : Host.Outcome State Fault Refusal :=
  if s.bringUp.phase ≠ 0 || s.power.removed then .next s
  else if s.flash.torn || !imageAccepted s.flash.image s.flash.minSvn s.flash.keyDigest then
    .next { s with bringUp := { s.bringUp with phase := 1, fwfail := true } }
  else
    let svn := imageField s.flash.image 8 4
    let s := s.install (reducedMap (fusedMap s.flash.defects))
    .next { s with flash := { s.flash with minSvn := max s.flash.minSvn svn }, mem := Memory.clear s.mem 0 stack2
                   bringUp := { s.bringUp with
                     phase := 2, rsvc := true, fwfail := false, svn := BitVec.ofNat 8 svn
                     digest := sha256 (s.flash.image.take (imageSize s.flash.image)) } }

/-- A part that the fused list marks good fails harvest's tests. -/
def failPart (m : List (Nat × BitVec 32)) (k t : Nat) : List (Nat × BitVec 32) :=
  if streetBit m t k then harvested m (streetSet m t k false) t else m

/-- The tiles that pass. -/
def goodTiles (m : List (Nat × BitVec 32)) : Nat := (m.filter fun e => e.2.getLsbD 0).length

/-- HARVEST. -/
def execHarvest (s : State) : Host.Outcome State Fault Refusal :=
  match s.input with
  | .harvest ts bs =>
    if s.bringUp.phase ≠ 2 then .next s
    else
      let m := bs.foldl (fun m t => failPart m 1 t) (ts.foldl (fun m t => failPart m 0 t) (fusedMap s.flash.defects))
      let m := s.worn m
      .next { s with harvestMap := m
                     bringUp := { s.bringUp with phase := 3, good := goodTiles m, short := decide (goodTiles m < 2560) } }
  | _ => .next s

/-- TREE_BUILD: banks whose router the plaza router cannot reach over good links leave the map. -/
def execTreeBuild (s : State) : Host.Outcome State Fault Refusal :=
  if s.bringUp.phase ≠ 3 then .next s
  else
    let hops := hopMap s.harvestMap
    let m := (s.harvestMap.map (·.1)).foldl (fun m t => if (tabFind t hops).isSome then m else failPart m 1 t) s.harvestMap
    .next { s with harvestMap := m, bringUp := { s.bringUp with phase := 4 } }

/-- HBM_TRAINING. -/
def execHbmTraining (s : State) : Host.Outcome State Fault Refusal :=
  .next (if s.bringUp.phase ≠ 4 then s else { s with bringUp := { s.bringUp with phase := 5, worked := 4 } })

/-- MEMORY_CLEAR: zero to all HBM outside the stacks of reticle 0. -/
def execMemoryClear (s : State) : Host.Outcome State Fault Refusal :=
  .next (if s.bringUp.phase ≠ 5 || s.bringUp.worked ≠ 4 then s
    else { s with mem := Memory.clear s.mem stack2 hbmEnd, bringUp := { s.bringUp with worked := 5 } })

/-- Full service is about to begin: no gang is placed (R33 step 1). -/
def State.servicing (s : State) : Bool := s.bringUp.phase = 5 && 5 ≤ s.bringUp.worked

/-- Every running gang is asked to stop. -/
def State.requestAll (s : State) : State :=
  { s with gangs := s.gangs.map fun g => if g.stage = .running then { g with stage := .requested } else g }

/-- No gang is on the wafer. -/
def State.allSaved (s : State) : Bool := s.gangs.all fun g => g.stage = .saved

/-- FULL_SERVICE_BEGIN: the bring-up ward's gangs are pre-empted first; then modified lines go home, the device tables
move and leave zero behind, and the commit of the full map begins (R59); once it is in force, full service is offered. -/
def execFullServiceBegin (s : State) : Host.Outcome State Fault Refusal :=
  if !s.servicing then .next s
  else if !s.allSaved then .next s.requestAll
  else if s.rt.state ≠ 0 || s.bringUp.worked = 6 then .next s
  else if s.bringUp.worked = 7 then
    .next { s with harvestMap := [], bringUp := { s.bringUp with phase := 6, rsvc := false } }
  else
    let s := s.clearCache
    .next { s with mem := Memory.clear s.mem stack1Top stack2
                   rt := { s.rt with state := 2, fwc := true, swapped := false, want := false }
                   streetCommit := s.harvestMap, streetNext := s.harvestMap, bringUp := { s.bringUp with worked := 6 } }

end Sys2Proof.Machine
end

