-- ==== Sys2Proof/Machine/Control.lean ====
section
/-! DEFINITION. Branches, calls, `EXIT`, `SPAN`, `TRAP`, `TRAPC` and `BRK` (R311-R315, R321): opcodes 0x74-0x7B, 0x7D,
0x7E; and the hints (R244, R331): opcode 0x7F. -/

namespace Sys2Proof.Machine

/-! ### Transfers (R311-R313) -/

/-- The PC p + 4·offset, in unbounded integers. -/
def Ctx.branch (c : Ctx) (offset : Int) : Int := c.g.pc.toNat + 4 * offset

/-- The fault of the transferring lanes' targets (R312): MISALIGN, then SEGMENT, at the lowest lane that offends. -/
def Ctx.targetFault (c : Ctx) (target : Nat → Option Int) : Option (Nat × Int) :=
  let ts := (lanesOf c.g.threads).filterMap target
  match ts.find? fun t => t % 4 ≠ 0 with
  | some t => some (Trap.misalign, t)
  | none => (ts.find? fun t => !segCheck c.sq .iseg t 4).map fun t => (Trap.segment, t)

/-- The lanes of `target` go to their targets, the others to p + 4, unless a target is at fault. The parts that leave a
transfer wait for a cycle (R313). -/
def State.transfer (s : State) (i : Instr) (c : Ctx) (target : Nat → Option Int) (link : Squad → Squad) : State :=
  match c.targetFault target with
  | some (n, t) => s.trapAt c n 0 (t % (2 ^ 64 : Nat)).toNat
  | none =>
    let next (j : Nat) : Option DWord :=
      match target j with | some t => some (BitVec.ofInt 64 t) | none => some (c.g.pc + 4)
    let moves := (lanesOf c.g.threads).any fun j => (target j).isSome
    s.retireTo i c link next (if moves then s.coreCycles + 2 else 0)

/-- BRA. -/
def execBra (payload : BitVec 25) (s : State) : Host.Outcome State Fault Refusal :=
  issue (.bra payload) s fun s c => s.transfer (.bra payload) c (fun _ => some (c.branch payload.toInt)) id

/-- The test of `BZ` or `BNZ`: once for the group when U = 1. -/
def State.branchIf (i : Instr) (f : BForm) (p : Word → Bool) (s : State) : Host.Outcome State Fault Refusal :=
  issue i s fun s c =>
    s.transfer i c (fun j => if p (c.val f.a (if f.u then 0 else j)) then some (c.branch f.offset.toInt) else none) id

/-- BZ. -/
def execBz (f : BForm) (s : State) : Host.Outcome State Fault Refusal := s.branchIf (.bz f) f fun a => a = 0
/-- BNZ. -/
def execBnz (f : BForm) (s : State) : Host.Outcome State Fault Refusal := s.branchIf (.bnz f) f fun a => a ≠ 0

/-- The link value p + 4. -/
def Ctx.link (c : Ctx) (d : Operand) (q : Squad) : Squad := c.write q d (.uniform ((c.g.pc + 4).setWidth 32))

/-- CALL: the link goes to `v111`. -/
def execCall (payload : BitVec 25) (s : State) : Host.Outcome State Fault Refusal :=
  issue (.call payload) s fun s c =>
    s.transfer (.call payload) c (fun _ => some (c.branch payload.toInt)) (c.link (.v 111))
/-- JMPR: each lane goes to its own target. -/
def execJmpr (f : RForm) (s : State) : Host.Outcome State Fault Refusal :=
  issue (.jmpr f) s fun s c => s.transfer (.jmpr f) c (fun j => some ((c.val f.a j).toNat : Int)) id
/-- CALLR. -/
def execCallr (f : RForm) (s : State) : Host.Outcome State Fault Refusal :=
  issue (.callr f) s fun s c => s.transfer (.callr f) c (fun j => some ((c.val f.a j).toNat : Int)) (c.link f.d)

/-! ### EXIT (R314) -/

/-- Results on their way are discarded in the lanes of exited threads. -/
def Outstanding.without (o : Outstanding) (m : Mask) : Outstanding := { o with lanes := o.lanes &&& ~~~m }

/-- Lanes that keep no value: a general register holds free values there (LOG 8); what a uniform or affine one holds in a lane,
its shape says (R143, LOG 98). -/
def RegVal.forget (m : Mask) (free : Nat → Word) : RegVal → RegVal
  | .general v => .general (Vector.ofFn fun j => if m.getLsbD j then free j else v[j])
  | .uniform u => .uniform u
  | .affine b d => .affine b d
  | .dead => .dead

/-- The free value of lane j of the k-th place that a squad forgets. -/
def forgotten (ctr k j : Nat) : Word := Config.freeWord (ctr + 32 * k + j)

/-- The free values that an `EXIT` may use: those of the file registers, the `oc` slots and the `lt` latches. -/
def exitFree : Nat := 32 * 128

/-- A live-in of the span that the squad is in, whose lanes keep their values (R314). -/
def Squad.keeps (q : Squad) (n : Nat) : Bool := q.inSpan && q.span.any fun p => p.liveIn.getLsbD n

/-- An entry or latch without the lanes of a mask. -/
def LaneEntry.without (e : LaneEntry) (m : Mask) (free : Nat → Word) : LaneEntry := ⟨e.val.forget m free, e.valid &&& ~~~m⟩

/-- The threads of a group leave the live set; their lanes of file registers but live-ins, of entries and of latches keep no
value. -/
def Squad.exitGroup (q : Squad) (g : Group) (ctr : Nat) : Squad :=
  { q with
    live := q.live &&& ~~~g.threads
    regs := q.regs.mapIdx fun n r => if q.keeps n then r else r.forget g.threads (forgotten ctr n)
    groups := q.groups.filter fun h => h.pc ≠ g.pc
    outstanding := (q.outstanding.map fun o => o.without g.threads).filter fun o => o.lanes ≠ 0
    oc := q.oc.mapIdx fun n e => e.without g.threads (forgotten ctr (112 + n))
    lt := q.lt.mapIdx fun n e => e.without g.threads (forgotten ctr (120 + n)) }

/-- The issuing group's threads exit. -/
def State.exitThreads (s : State) (c : Ctx) : State :=
  ({ s with freeCtr := s.freeCtr + exitFree } : State).putSquad c.tile
    (((s.squad? c.tile c.sq.slot).getD c.sq).exitGroup c.g s.freeCtr) 0

/-- The end of a squad, after the effect of `LKRA`: it gives its storage back, drops a WOUND, and leaves an engine trap
that it holds unhandled. -/
def State.endSquad (s : State) (c : Ctx) : State :=
  let s := s.releaseAll c.key false
  let s := s.updSquad c.tile c.sq.slot fun q =>
    { q.deschedule with ended := true, wound := false, inSpan := false, groups := [], outstanding := []
                        regs := Vector.replicate 112 .dead }
  match (s.squad? c.tile c.sq.slot).bind (·.engine) with
  | none => s
  | some e =>
    (s.raise (s.squadRecord c.tile c.wg c.sq.slot (engineRegs e) 0)).abortLaunch c.wg.gang.launch e.number

/-- EXIT. -/
def execExit (payload : BitVec 25) (s : State) : Host.Outcome State Fault Refusal :=
  issue (.exit payload) s fun s c =>
    if c.whole then
      s.afterRelease c (s.heldScope c.key) fun s =>
        (s.exitThreads c).endSquad c
    else s.exitThreads c

/-! ### SPAN (R315, R111) -/

/-- The number of span-table entries of the issuing launch, and where entry n lies (R258). -/
def Ctx.spanCount (c : Ctx) (s : State) : Nat := ((c.launch s).map (·.header.nspan)).getD 0
def Ctx.spanEntry (c : Ctx) (s : State) (n : Nat) : Nat :=
  ((c.launch s).map fun l => l.header.codeVa + l.header.spanOff + 16 * n).getD 0

/-- The 16 bytes of a span-table entry. -/
def State.readSpan (s : State) (c : Ctx) (va : Nat) : State × Served Nat :=
  match s.translate c.tile (c.tenant s) .read false va with
  | (s, .error e) => (s, .fault e false)
  | (s, .ok pa) =>
    match s.verdict c.tile pa false with
    | .wait l => (s, .wait l)
    | .fault k d => (s, .fault ⟨k, d, va, none⟩ false)
    | .ok =>
      let r := s.bankLoad c.tile (c.tenant s) pa 16 ⟨false, false, false, false, true⟩
      if s.answerLost c.tile [.phys pa] then (r.1, .fault ⟨Trap.fabricLoss, lostMark, va, none⟩ false) else (r.1, .ok (leValue r.2))

/-- The entry that SPAN names does not exist, or has a reserved bit set (R252). -/
def State.spanWrong (s : State) (c : Ctx) (n : Nat) : Bool :=
  c.spanCount s ≤ n || (match (s.readSpan c (c.spanEntry s n)).2 with
    | .ok v => v / 2 ^ 112 ≠ 0
    | .wait _ | .fault _ _ => false)

/-- SPAN. ILLEGAL comes before the other traps at issue (R148). -/
def execSpan (payload : BitVec 25) (s : State) : Host.Outcome State Fault Refusal :=
  let n := payload.toNat % 2 ^ 16
  issueIf (.span payload) (fun c => s.spanWrong c n) (fun _ => false) s fun s c =>
    match s.readSpan c (c.spanEntry s n) with
    | (s, .wait l) => s.block c (.anchor l)
    | (s, .fault e p) => s.memFault c e p
    | (s, .ok v) =>
      s.retire (.span payload) c fun q =>
        { q with span := some ⟨n, c.g.pc, BitVec.ofNat 112 v, q.live⟩, inSpan := true, spanned := true }

/-! ### TRAP, TRAPC and BRK (R321) -/

/-- The trap registers of a trap whose return PC follows the instruction. -/
def Ctx.pastRegs (c : Ctx) (num detail : Nat) (arg : Word) : TrapRegs :=
  { c.regs num detail 0 false with pc := c.g.pc + 4, past := true, arg := arg }

/-- TRAP: a span terminator, which takes effect at trap entry. -/
def execTrap (f : SForm) (s : State) : Host.Outcome State Fault Refusal :=
  issue (.trap f) s fun s c =>
    let r := c.pastRegs Trap.trapi f.imm.toNat (c.uni f.a)
    let s := s.updSquad c.tile c.sq.slot fun q => { c.mark (.trap f) q with inSpan := false }
    s.takeTrap c.tile c.sq.slot c.g.pc r

/-- The active lanes in which an operand is not 0. -/
def Ctx.nonZero (c : Ctx) (o : Operand) : Mask :=
  (lanesOf c.g.threads).foldl (fun (m : Mask) j => if c.val o j ≠ 0 then m ||| (1#32 <<< j) else m) 0

/-- TRAPC. -/
def execTrapc (f : SForm) (s : State) : Host.Outcome State Fault Refusal :=
  issue (.trapc f) s fun s c =>
    let m := c.nonZero f.a
    if m = 0 then s.retire (.trapc f) c id
    else
      let s := s.updSquad c.tile c.sq.slot fun q => c.mark (.trapc f) q
      s.takeTrap c.tile c.sq.slot c.g.pc (c.pastRegs Trap.trapi (f.imm.toNat + 2 ^ 10) m)

/-- BRK. -/
def execBrk (f : SForm) (s : State) : Host.Outcome State Fault Refusal :=
  issue (.brk f) s fun s c => s.takeTrap c.tile c.sq.slot c.g.pc (c.pastRegs Trap.brk f.imm.toNat 0)

/-! ### Hints (R244, R245, R331) -/

/-- The hint state of a group that begins a run at a PC. -/
def freshRun (pc : DWord) : HintRun := ⟨pc, none, none, none, none, none, none, none, none, false⟩

/-- A hint word: the group passes to p + 4 with its run changed; a word that is not the HINT.IMM of MODE 0 which a MODE 1
word asks for raises ILLEGAL (R252). `low` says that the word is one. -/
def State.hint (i : Instr) (low : Bool) (change : HintRun → HintRun) (s : State) : Host.Outcome State Fault Refusal :=
  match s.ctx with
  | none => .fault .noIssuingGroup
  | some c =>
    let run := c.g.hints.getD (freshRun c.g.pc)
    if run.upper.isSome && !low then .next (s.trapAt c Trap.illegal 0 0)
    else
      let q := c.sq.settle i c.g
      let g := { c.g with pc := c.g.pc + 4, hints := some (change run), blocked := none, issued := s.coreCycles, notBefore := 0, read := none }
      .next (s.putSquad c.tile { q with groups := addGroup g (q.groups.filter fun h => h.pc ≠ c.g.pc) } 0)

/-- A field that must be 0 makes the governed instruction ILLEGAL. -/
def HintRun.check (h : HintRun) (wrong : Bool) : HintRun := { h with bad := h.bad || wrong }

/-- HINT.NOP. -/
def execHintNop (payload : BitVec 22) (s : State) : Host.Outcome State Fault Refusal :=
  s.hint (.hintNop payload) false fun h => h.check (payload ≠ 0)

/-- The four modes of HINT.IMM. -/
def HintRun.immediate (h : HintRun) (payload : BitVec 22) : HintRun :=
  let v := payload.extractLsb' 0 20
  match payload.toNat / 2 ^ 20 with
  | 0 =>
    match h.upper with
    | none => { h with imm := some (v.signExtend 32) }
    | some u => { h.check (v.toNat / 2 ^ 16 ≠ 0) with imm := some (u ++ v.extractLsb' 0 16), upper := none }
  | 1 => { h.check (v.toNat / 2 ^ 16 ≠ 0) with upper := some (v.extractLsb' 0 16) }
  | 2 => { h.check (v.toNat / 2 ^ 3 ≠ 0) with base := some (v.extractLsb' 0 3) }
  | _ => h.check true

/-- HINT.IMM. -/
def execHintImm (payload : BitVec 22) (s : State) : Host.Outcome State Fault Refusal :=
  s.hint (.hintImm payload) (payload.toNat / 2 ^ 20 = 0) fun h => h.immediate payload
/-- HINT.MEM. -/
def execHintMem (payload : BitVec 22) (s : State) : Host.Outcome State Fault Refusal :=
  s.hint (.hintMem payload) false fun h => { h.check (payload.toNat / 2 ^ 8 ≠ 0) with mem := some (payload.setWidth 8) }
/-- HINT.ARITH. -/
def execHintArith (payload : BitVec 22) (s : State) : Host.Outcome State Fault Refusal :=
  s.hint (.hintArith payload) false fun h => { h.check (payload.toNat / 2 ^ 8 ≠ 0) with arith := some (payload.setWidth 8) }
/-- HINT.SCHED: OUTN 9-14 is reserved. -/
def execHintSched (payload : BitVec 22) (s : State) : Host.Outcome State Fault Refusal :=
  s.hint (.hintSched payload) false fun h =>
    let outn := payload.toNat % 16
    { h.check (payload.toNat / 2 ^ 5 ≠ 0 || (9 ≤ outn && outn ≤ 14)) with sched := some (payload.setWidth 5) }
/-- HINT.KILL. -/
def execHintKill (payload : BitVec 22) (s : State) : Host.Outcome State Fault Refusal :=
  s.hint (.hintKill payload) false fun h => { h.check (payload.toNat / 2 ^ 2 ≠ 0) with kill := some (payload.setWidth 2) }
/-- HINT.PROF. -/
def execHintProf (payload : BitVec 22) (s : State) : Host.Outcome State Fault Refusal :=
  s.hint (.hintProf payload) false fun h => { h.check (payload.toNat / 2 ^ 16 ≠ 0) with prof := some (payload.setWidth 16) }

/-! ### Words that are not instructions (R252), and fetches that fail (R238) -/

/-- A word that no row of the table encodes: ILLEGAL, at the governed instruction for HINT kind 7. -/
def execReservedEncoding (word : Word) (s : State) : Host.Outcome State Fault Refusal :=
  if word.extractLsb' 22 10 = 0x3FF#10 then s.hint (.reservedEncoding word) false fun h => h.check true
  else match s.ctx with
    | none => .fault .noIssuingGroup
    | some c => .next (s.trapAt c Trap.illegal 0 0)

/-- INSTRUCTION_FETCH_FAULT: the fetch of the group of `cur` raises its fault, or waits. -/
def execInstructionFetchFault (s : State) : Host.Outcome State Fault Refusal :=
  match s.ctx with
  | none => .next s
  | some c =>
    match s.fetch c with
    | (t, .fault e p) => .next (t.memFault c e p)
    | (t, .wait l) => .next (t.stall c (.anchor l))
    | (_, .ok _) => .next s

end Sys2Proof.Machine
end

