-- ==== Sys2Proof/Machine/Lanes.lean ====
section
/-! DEFINITION. Instructions that compute in registers only: a result in each active lane, with the shape of R143
(R260), and the arithmetic control and its traps (R222, R224). -/

namespace Sys2Proof.Machine

/-- A 32-bit result in each lane, written with the instruction's shape. -/
def State.lanewise (s : State) (i : Instr) (c : Ctx) (d : Operand) (f : Nat → Word) : State :=
  s.retire i c fun q => c.write q d ((resultShape i c).value f)

/-- `D := op(A, B)` in each lane. -/
def State.lane2 (i : Instr) (f : RForm) (op : Word → Word → Word) (s : State) : Host.Outcome State Fault Refusal :=
  issue i s fun s c => s.lanewise i c f.d fun j => op (c.val f.a j) (c.val f.b j)

/-- `D := op(A)` in each lane. -/
def State.lane1 (i : Instr) (f : RForm) (op : Word → Word) (s : State) : Host.Outcome State Fault Refusal :=
  issue i s fun s c => s.lanewise i c f.d fun j => op (c.val f.a j)

/-- `D := op(A, B, D)` in each lane (R264). -/
def State.lane3 (i : Instr) (f : RForm) (op : Word → Word → Word → Word) (s : State) :
    Host.Outcome State Fault Refusal :=
  issue i s fun s c => s.lanewise i c f.d fun j => op (c.val f.a j) (c.val f.b j) (c.val f.d j)

/-- `D := op(A, imm)` in each lane, with the immediate sign-extended (R269). -/
def State.laneImm (i : Instr) (f : IForm) (op : Word → Word → Word) (s : State) : Host.Outcome State Fault Refusal :=
  issue i s fun s c => s.lanewise i c f.d fun j => op (c.val f.a j) (f.imm.signExtend 32)

/-- A 64-bit result in each lane, to a pair (R268). -/
def State.wide (i : Instr) (f : RForm) (op : Ctx → Nat → DWord) (s : State) : Host.Outcome State Fault Refusal :=
  issue i s fun s c => s.retire i c fun q => c.writePair q f.d (resultShape i c) (op c)

/-! ### Float results and exceptions -/

/-- The arithmetic control of the instruction (R222). -/
def Ctx.control (c : Ctx) : Nat := ((c.g.hints.bind (·.arith)).map (·.toNat)).getD 0

/-- The exceptions of the active lanes together (R224). -/
def Ctx.exceptions (c : Ctx) (i : Instr) (f : Nat → Nat × Nat) : Nat :=
  (((resultShape i c).lanes c.g.threads).map fun j => (f j).2).foldl excOr 0

/-- Results with exceptions: an enabled one raises FPEXC in place of the instruction (R224). -/
def State.floatLanes (s : State) (i : Instr) (c : Ctx) (d : Operand) (f : Nat → Nat × Nat) : State :=
  let e := c.exceptions i f
  if e &&& ctlTraps c.control ≠ 0 then s.trapAt c Trap.fpexc e 0
  else s.lanewise i c d fun j => BitVec.ofNat 32 (f j).1

/-- `D := op(control, A)`. -/
def State.float1 (i : Instr) (f : RForm) (op : Nat → Nat → Nat × Nat) (s : State) : Host.Outcome State Fault Refusal :=
  issue i s fun s c => s.floatLanes i c f.d fun j => op c.control (c.val f.a j).toNat

/-- `D := op(control, A, B)`. -/
def State.float2 (i : Instr) (f : RForm) (op : Nat → Nat → Nat → Nat × Nat) (s : State) :
    Host.Outcome State Fault Refusal :=
  issue i s fun s c => s.floatLanes i c f.d fun j => op c.control (c.val f.a j).toNat (c.val f.b j).toNat

/-- `D := op(control, A, B, D)`. -/
def State.float3 (i : Instr) (f : RForm) (op : Nat → Nat → Nat → Nat → Nat × Nat) (s : State) :
    Host.Outcome State Fault Refusal :=
  issue i s fun s c => s.floatLanes i c f.d fun j =>
    op c.control (c.val f.a j).toNat (c.val f.b j).toNat (c.val f.d j).toNat

/-- 64-bit results with exceptions, to a pair. -/
def State.float64 (i : Instr) (f : RForm) (op : Ctx → Nat → Nat × Nat) (s : State) :
    Host.Outcome State Fault Refusal :=
  issue i s fun s c =>
    let e := c.exceptions i (op c)
    if e &&& ctlTraps c.control ≠ 0 then s.trapAt c Trap.fpexc e 0
    else s.retire i c fun q => c.writePair q f.d (resultShape i c) fun j => BitVec.ofNat 64 (op c j).1

/-- Two packed half-width elements: the results side by side, the exceptions merged (R274). -/
def packed2 (lo hi : Nat × Nat) : Nat × Nat := (lo.1 + 2 ^ 16 * hi.1, excOr lo.2 hi.2)

/-- An operation on F32 words. -/
def onF32 (op : FVal → FVal → Nat × Nat) (x y : Nat) : Nat × Nat := op (f32.decode x) (f32.decode y)

/-- An operation on the packed elements of two words (R274). -/
def onPacked (f : Fmt) (op : FVal → FVal → Nat × Nat) (x y : Nat) : Nat × Nat :=
  packed2 (op (f.decode (x % 2 ^ 16)) (f.decode (y % 2 ^ 16))) (op (f.decode (x / 2 ^ 16)) (f.decode (y / 2 ^ 16)))

end Sys2Proof.Machine
end

