-- ==== Sys2Proof/Machine/CrossLane.lean ====
section
/-! DEFINITION. The cross-lane instructions (R278-R280): opcodes 0x38-0x3F. -/

namespace Sys2Proof.Machine

open Sys2Proof.Config

/-- The active lanes (R278). -/
def Ctx.lanes (c : Ctx) : List Nat := lanesOf c.g.threads

/-- An instruction whose result is made from A in the active lanes. -/
def State.reduce (i : Instr) (f : RForm) (op : List (Nat × Word) → Nat → Word) (s : State) :
    Host.Outcome State Fault Refusal :=
  issue i s fun s c => s.lanewise i c f.d (op (c.lanes.map fun k => (k, c.val f.a k)))

/-- The mask of a list of lanes. -/
def maskOf (l : List Nat) : Mask := l.foldl (fun m j => m ||| (1#32 <<< j)) 0

/-- The sum of words. -/
def sumWords (l : List (Nat × Word)) : Word := (l.map (·.2)).foldl (· + ·) 0
/-- The greatest element under an order; the list of active lanes is not empty. -/
def greatest (less : Word → Word → Bool) (l : List (Nat × Word)) : Word :=
  ((best (fun a b => less b.2 a.2) l).map (·.2)).getD 0

/-- SHFL (R279). A lane outside the group gives what it holds under R143 (R278). -/
def execShfl (f : RForm) (s : State) : Host.Outcome State Fault Refusal :=
  issue (.shfl f) s fun s c => s.lanewise (.shfl f) c f.d fun j => c.val f.a ((c.val f.b j).toNat % 32)

/-- SHFX (R279). -/
def execShfx (f : RForm) (s : State) : Host.Outcome State Fault Refusal :=
  issue (.shfx f) s fun s c => s.lanewise (.shfx f) c f.d fun j => c.val f.a (j ^^^ ((c.val f.b j).toNat % 32))

/-- BCST: B is uniform-tagged (R279). -/
def execBcst (f : RForm) (s : State) : Host.Outcome State Fault Refusal :=
  issue (.bcst f) s fun s c => s.lanewise (.bcst f) c f.d fun _ => c.val f.a ((c.uni f.b).toNat % 32)

/-- SQRD (R279). -/
def execSqrd (f : RForm) (s : State) : Host.Outcome State Fault Refusal :=
  s.reduce (.sqrd f) f fun l _ => sumWords l

/-- SQRF (R280). -/
def execSqrf (f : RForm) (s : State) : Host.Outcome State Fault Refusal :=
  s.reduce (.sqrf f) f fun l _ => BitVec.ofNat 32 (f32.sum (l.map fun x => f32.decode x.2.toNat))

/-- SQMX (R279). -/
def execSqmx (f : RForm) (s : State) : Host.Outcome State Fault Refusal :=
  s.reduce (.sqmx f) f fun l _ => greatest (fun a b => a.slt b) l

/-- SQMF: the FMAX rule over the group (R279, R280). -/
def execSqmf (f : RForm) (s : State) : Host.Outcome State Fault Refusal :=
  s.reduce (.sqmf f) f fun l _ =>
    match l with
    | [] => 0
    | x :: r => BitVec.ofNat 32 (r.foldl (fun acc y => (f32Extreme true acc y.2.toNat).1)
        (f32Extreme true x.2.toNat x.2.toNat).1)

/-- SCAN: the sum over the active lanes up to this one (R279). -/
def execScan (f : RForm) (s : State) : Host.Outcome State Fault Refusal :=
  s.reduce (.scan f) f fun l j => sumWords (l.filter fun x => x.1 ≤ j)

/-- SCNX: the sum over the active lanes before this one (R279). -/
def execScnx (f : RForm) (s : State) : Host.Outcome State Fault Refusal :=
  s.reduce (.scnx f) f fun l j => sumWords (l.filter fun x => x.1 < j)

/-- BALT (R279). -/
def execBalt (f : RForm) (s : State) : Host.Outcome State Fault Refusal :=
  s.reduce (.balt f) f fun l _ => maskOf ((l.filter fun x => x.2 ≠ 0).map (·.1))

/-- BCNT (R279). -/
def execBcnt (f : RForm) (s : State) : Host.Outcome State Fault Refusal :=
  s.reduce (.bcnt f) f fun l _ => BitVec.ofNat 32 (l.filter fun x => x.2 ≠ 0).length

/-- The value of a lane of the group. -/
def laneOf (l : List (Nat × Word)) (j : Nat) : Word := (tabFind j l).getD 0

/-- RANK (R279). -/
def execRank (f : RForm) (s : State) : Host.Outcome State Fault Refusal :=
  s.reduce (.rank f) f fun l j => BitVec.ofNat 32 (l.filter fun x => x.2.slt (laneOf l j)).length

/-- RANKA (R279). -/
def execRanka (f : RForm) (s : State) : Host.Outcome State Fault Refusal :=
  s.reduce (.ranka f) f fun l j =>
    BitVec.ofNat 32 (l.filter fun x => x.2.slt (laneOf l j) || (x.2 = laneOf l j && x.1 < j)).length

/-- IOTA: base A, stride B (R279). -/
def execIota (f : RForm) (s : State) : Host.Outcome State Fault Refusal :=
  issue (.iota f) s fun s c => s.lanewise (.iota f) c f.d fun j => c.uni f.a + c.uni f.b * BitVec.ofNat 32 j

end Sys2Proof.Machine
end

