-- ==== Sys2Proof/Machine/Gangs.lean ====
section
/-! DEFINITION. Gangs on and off the wafer: the state at first placement (R102, R104, R127), the save slot byte by byte
(R119-R121, R342, R365) and restoring from it (R122). -/

namespace Sys2Proof.Machine

open Sys2Proof.Config

/-! ### Accesses by the device in a ward's virtual space -/

/-- Writes bytes at a virtual address of a tenant, as plain stores from a tile marked with the stream hint (R116). -/
def State.vaWrite (s : State) (t tenant va : Nat) (bs : List Byte) : State × Served Unit :=
  (pieces va bs.length 0 bs.length).foldl (fun acc p =>
    match acc.2 with
    | .ok () =>
      match acc.1.translate t tenant .write false (va + p.1) with
      | (s, .error f) => (s, .fault f false)
      | (s, .ok pa) =>
        match s.verdict t pa false with
        | .wait l => (s, .wait l)
        | .fault k d => (s, .fault ⟨k, d, va + p.1, none⟩ false)
        | .ok => ((s.bankWrite t tenant pa ((bs.drop p.1).take p.2)).hintEntry pa 2 tenant, .ok ())
    | r => (acc.1, r)) (s, .ok ())

/-- Reads bytes at a virtual address of a tenant; none where an access faults or lies past 2^48 (R157). -/
def State.vaRead (s : State) (tenant va n : Nat) : Option (List Byte) :=
  if 2 ^ 48 < va + n then none
  else (pieces va n 0 n).foldl (fun acc p =>
    match acc, s.walk tenant .read (va + p.1) with
    | some bs, .ok pg =>
      match s.pageCheck .read false (va + p.1) pg with
      | .ok pa => if s.poolLost pa || s.lineBad pa then none else some (bs ++ s.peekN (s.memKey pa) p.2)
      | .error _ => none
    | _, _ => none) (some [])

/-- Before the device reads bytes at a virtual address of a tenant, it obtains those of host-bias pages, with the entries of their
walks (R79, R383). -/
def State.vaObtain (s : State) (tenant va n : Nat) : State :=
  if 2 ^ 48 < va + n then s
  else (pieces va n 0 n).foldl (fun s p =>
    let s := s.obtainEntries tenant (va + p.1)
    match s.walk tenant .read (va + p.1) with
    | .ok pg => (match s.pageCheck .read false (va + p.1) pg with
      | .ok pa => s.obtainRead pa
      | .error _ => s)
    | .error _ => s) s

/-- No line of a range of virtual addresses has replicas that are still being invalidated (R177). -/
def State.vaQuiet (s : State) (tenant va n : Nat) : Bool :=
  (pieces va n 0 n).all fun p =>
    match s.walk tenant .write (va + p.1) with
    | .ok pg => (match s.pageCheck .write false (va + p.1) pg with
      | .ok pa => (s.pendingAcks pa).isNone
      | .error _ => true)
    | .error _ => true

/-! ### Sizes (R119) -/

/-- Bytes of an accumulator tile image. -/
def accBytes : Nat := 144384
/-- MR: bytes of a member record. -/
def Launch.memberBytes (l : Launch) : Nat := 4096 + l.squads * 16384 + l.spad + 8 * accBytes
/-- G: bytes of a save slot. -/
def Launch.slotBytes (l : Launch) : Nat := (4096 + shapeTiles l.shape * l.memberBytes + 65535) / 65536 * 65536
/-- The virtual address of a save slot. -/
def Launch.slotVa (l : Launch) (k : Nat) : Nat := l.header.saveVa + k * l.slotBytes

/-! ### First placement (R104, R127) -/

/-- The segment registers of a squad: the object's table, with `sseg` and `vseg` set by the device (R102, R119, R155). -/
def Launch.segs (l : Launch) (k : Nat) : Vector Seg 8 :=
  let seg (i : Nat) : Seg := l.header.segtab.getD i ⟨0, 0⟩
  #v[seg 0, ⟨0, BitVec.ofNat 64 (shapeTiles l.shape * l.spad)⟩, seg 2, seg 3, seg 4
    , ⟨BitVec.ofNat 64 (l.slotVa k), BitVec.ofNat 64 l.slotBytes⟩, seg 6, seg 7]

/-- The file registers at the start. -/
def Launch.startRegs (l : Launch) (segs : Vector Seg 8) : Vector RegVal 112 :=
  let p := BitVec.ofNat 32 (privateBytes (segs.toList.getD 4 ⟨0, 0⟩).limit.toNat)
  ((((Vector.replicate 112 RegVal.dead).setIfInBounds 0 (.uniform (l.param.setWidth 32))).setIfInBounds 1
    (.uniform (l.param.extractLsb' 32 32))).setIfInBounds 2 (.uniform l.plen)).setIfInBounds 110 (.uniform p)

/-- A squad at its start. -/
def Launch.startSquad (l : Launch) (k i now : Nat) : Squad :=
  let pc := BitVec.ofNat 64 l.header.entryPc
  { slot := i, live := fullMask, groups := [Group.fresh fullMask pc now]
    regs := l.startRegs (l.segs k), oc := Vector.replicate 8 ⟨.uniform 0, 0⟩, lt := Vector.replicate 4 ⟨.uniform 0, 0⟩
    genregs := l.header.genregs, outstanding := [], deadrd := false, drtrap := false, intrap := false, handler := 0
    hmsk := 0x7FFFFE, trap := ⟨0, 0, false, false, false, 0, 0, 0, 0, 0⟩, span := none, inSpan := false, spanned := false, entryPc := pc
    cmdSeq := 1, segs := l.segs k, wound := false, engine := none, late := none, halted := false
    stopped := false, ended := false, invals := [], poolWrites := [] }

/-- An empty queue. -/
def QueueState.empty : QueueState := { items := [], phase := 0, bind := none }

/-- A workgroup at its start: every queue empty with PHASE 0, no binding, every accumulator tile UNCFG (R342, R357). -/
def Launch.startWorkgroup (l : Launch) (g : GangKey) (m k now : Nat) : Workgroup :=
  { gang := g, member := m, spad := l.spad, squads := (List.range l.squads).map fun i => l.startSquad k i now
    q3 := ⟨0, 0, 0, 0, none⟩, q4 := .empty, boxes := List.replicate 9 .empty, area := ⟨false, 0, 0, 0, 0, 0⟩, jobs := []
    nextJob := 0, jobPhases := [0, 0, 0], accs := List.replicate 8 .empty, latch := none, skewQuiet := 0 }

/-- The scratchpad at a first placement: zero, but for what marks the lock-grant objects (R102, R152). -/
def State.startSpad (s : State) (t : Nat) : State :=
  let s : State := { s with mem := Memory.clear s.mem (spadKey t 0) (spadKey t (2 ^ 22)) }
  (List.range 16).foldl (fun s i => s.pokeNum (spadKey t (32 * i + 0x18)) 1 0x0A) s

/-- One member takes its tile. -/
def State.seat (s : State) (t : Nat) (w : Workgroup) : State := s.updTile t fun tl => { tl with wg := some w, skew := none }

/-- A tile's copies of lines are dropped as a workgroup takes it, so that its loads return what comes before its placement or
later; what `kseg` loads of another workgroup filled, which acquires keep (R165), with them (R104, R122, R199, LOG 115). -/
def State.dropCopies (s : State) (t : Nat) : State := s.updTile t fun tl => { tl with l1 := [], replicaTable := [] }

/-- The lowest save slot that no gang of the launch holds (R119). -/
def State.freeSlot (s : State) (l : Launch) : Option Nat :=
  (List.range (min l.header.saveSlots (s.gangs.length + 1))).find? fun k =>
    !s.gangs.any fun g => g.key.launch = l.key && g.slot = k

/-- A gang is placed for the first time: each member's state is written, after a system-scope acquire (R104). -/
def State.placeFirst (s : State) (l : Launch) (g k origin : Nat) : State :=
  let key : GangKey := ⟨l.key, g⟩
  let tiles := rectangle l.shape origin
  let s := (List.range tiles.length).foldl (fun s m =>
    let t := tiles.getD m 0
    ((s.startSpad t).seat t (l.startWorkgroup key m k s.coreCycles)).dropCopies t) s
  { s with gangs := s.gangs ++ [⟨key, origin, k, s.devclk.toNat, .running, [], [], []⟩] }

/-! ### The save slot (R119-R121, R342) -/

/-- Bytes padded with 0 to a size. -/
def padTo (n : Nat) (bs : List Byte) : List Byte := bs ++ List.replicate (n - bs.length) 0

/-- A value as saved: uniform 4 bytes, affine 8, general 128, dead none. -/
def savedValue (r : RegVal) : List Byte :=
  match r with
  | .uniform u => leBytes 4 u.toNat
  | .affine b d => leBytes 4 b.toNat ++ leBytes 4 d.toNat
  | .general v => (List.range 32).flatMap fun j => leBytes 4 (v.toList.getD j 0).toNat
  | .dead => []

/-- The live-in registers of a set, ascending. -/
def liveRegs (m : BitVec 112) : List Nat := (List.range 112).filter fun i => m.getLsbD i

/-- A squad record. -/
def Squad.saved (q : Squad) : List Byte :=
  if q.ended then padTo 16384 (leBytes 4 (2 ^ 24))
  else match q.span with
    | none => padTo 16384 []
    | some p =>
      let rs := (liveRegs p.liveIn).map fun i => q.regs.toList.getD i .dead
      let flags := p.number % 2 ^ 16 + 2 ^ 16 * rs.length + 2 ^ 25 * bit q.wound + 2 ^ 26 * bit q.engine.isSome
        + 2 ^ 27 * bit q.deadrd
      let trapn := match q.engine with | some e => e.number | none => 0
      let trapq := match q.engine with | some e => e.seq.toNat | none => 0
      let head := leBytes 4 flags ++ leBytes 4 p.entryMask.toNat ++ leBytes 8 p.pc.toNat
        ++ leBytes 8 (q.cmdSeq.toNat + 2 ^ 32 * trapn) ++ leBytes 8 trapq
      let segs := q.segs.toList.flatMap fun g => leBytes 8 g.base.toNat ++ leBytes 8 g.limit.toNat
      let shapes := rs.map fun r => BitVec.ofNat 8 r.tag
      padTo 16384 (padTo 0x140 (padTo 0x40 head ++ segs ++ shapes) ++ rs.flatMap savedValue)

/-- A notification binding: object offset and valid. -/
def savedBind (b : Option Nat) : List Byte := match b with | some o => leBytes 4 o ++ leBytes 4 1 | none => leBytes 8 0

/-- A queue record. -/
def QueueState.saved (q : QueueState) : List Byte :=
  padTo 144 (leBytes 4 q.items.length ++ leBytes 4 q.phase.toNat ++ savedBind q.bind
    ++ q.items.flatMap fun x => leBytes 8 x.toNat)

/-- The queue area. -/
def Workgroup.savedQueues (w : Workgroup) : List Byte :=
  padTo 2048 ((w.boxes.flatMap QueueState.saved) ++ leBytes 4 (w.q3.count + 2 ^ 7 * w.q3.head) ++ leBytes 4 w.q3.phase.toNat
    ++ savedBind w.q3.bind ++ leBytes 8 w.area.offset.toNat ++ leBytes 4 (bit w.area.bound) ++ leBytes 4 w.area.outTail.toNat
    ++ leBytes 4 w.area.outHead.toNat ++ leBytes 4 w.area.inHead.toNat)

/-- An entry of an accumulator. -/
def sumAt (a : List (Nat × BitVec 136)) (k : Nat) : Nat := ((tabFind k a).getD 0).toNat

/-- n entries as their low 16 bytes, and as their top bytes. -/
def savedSums (a : List (Nat × BitVec 136)) (n : Nat) : List Byte × List Byte :=
  ((List.range n).flatMap fun k => leBytes 16 (sumAt a k % 2 ^ 128), (List.range n).map fun k => BitVec.ofNat 8 (sumAt a k / 2 ^ 128))

/-- An accumulator tile image (R120). -/
def AccTile.saved (a : AccTile) : List Byte :=
  if a.st = .uncfg then List.replicate accBytes 0
  else
    let x := savedSums a.a 8192
    let r := savedSums a.cr 256
    let c := savedSums a.cc 32
    padTo accBytes (x.1 ++ x.2 ++ r.1 ++ r.2 ++ c.1 ++ c.2)

/-- A chain record (R365). A chain without weights has had no `MXLW`: its WADDR is a free value (LOG 8). -/
def AccTile.chain (free : Nat) (a : AccTile) : List Byte :=
  let w := if a.st = .openChain then (freeWord free).toNat else a.waddr
  if a.st = .uncfg then List.replicate 32 0
  else padTo 32 (leBytes 2 (a.anchor % (2 ^ 16 : Nat)).toNat ++ leBytes 2 a.format.toNat ++ leBytes 4 w)

/-- A mask of the accumulator tiles that satisfy a test. -/
def accMask (as : List AccTile) (p : AccTile → Bool) : Nat :=
  ((List.range as.length).map fun j => if as[j]?.any p then 2 ^ j else 0).foldl (· + ·) 0

/-- A chain is open. -/
def AccTile.chained (a : AccTile) : Bool := a.st = .openChain || a.st = .loaded

/-- A member record. -/
def State.savedMember (s : State) (t : Nat) (w : Workgroup) : List Byte :=
  let head := leBytes 4 (w.member + 2 ^ 4 * t + 2 ^ 16 * accMask w.accs (fun a => a.st ≠ .uncfg)
    + 2 ^ 24 * accMask w.accs AccTile.chained)
  padTo 64 head ++ padTo 0x3C0 (w.accs.flatMap (AccTile.chain (s.freeCtr + w.member))) ++ s.peekN (spadKey t 0) 1024 ++ w.savedQueues
    ++ w.squads.flatMap Squad.saved ++ s.peekN (spadKey t 1024) w.spad ++ w.accs.flatMap AccTile.saved

/-- The gang header; SAVED is the time when the slot is written. -/
def State.savedHeader (s : State) (l : Launch) (g : Gang) : List Byte :=
  padTo 4096 (leBytes 4 l.key.seq ++ leBytes 4 (l.key.qid + 2 ^ 12 * l.shape + 2 ^ 16 * l.squads) ++ leBytes 4 g.key.gang
    ++ leBytes 4 l.spad ++ leBytes 8 s.devclk.toNat ++ leBytes 8 (reticleOf g.origin))

/-- The members of a placed gang in member order. -/
def State.seats (s : State) (g : GangKey) : List (Nat × Workgroup) :=
  sortBy (fun a b => a.2.member < b.2.member) (s.membersOf g)

/-- The whole save slot. -/
def State.savedGang (s : State) (l : Launch) (g : Gang) : List Byte :=
  padTo l.slotBytes (s.savedHeader l g ++ (s.seats g.key).flatMap fun e => s.savedMember e.1 e.2)

/-! ### Restoring (R122) -/

/-- A field of saved bytes. -/
def savedNum (b : List Byte) (o n : Nat) : Nat := leValue ((b.drop o).take n)

/-- Reads the values of the live-ins from saved bytes, by shape. -/
def readLive (shapes vals : List Byte) : List Nat → List (Nat × RegVal)
  | [] => []
  | i :: r =>
    match shapes with
    | [] => []
    | h :: t =>
      match h.toNat with
      | 0 => (i, .uniform (BitVec.ofNat 32 (savedNum vals 0 4))) :: readLive t (vals.drop 4) r
      | 1 => (i, .affine (BitVec.ofNat 32 (savedNum vals 0 4)) (BitVec.ofNat 32 (savedNum vals 4 4)))
          :: readLive t (vals.drop 8) r
      | 2 => (i, .general (Vector.ofFn fun j => BitVec.ofNat 32 (savedNum vals (4 * j.val) 4))) :: readLive t (vals.drop 128) r
      | _ => (i, .dead) :: readLive t vals r

/-- A squad as its record restores it; `sseg` and `vseg` are the device's own (R11, R119). DETAIL, ADDR and launch site of a
pending engine trap are not in the record: they are free values (LOG 8). -/
def Launch.restoreSquad (l : Launch) (k i now free : Nat) (b : List Byte) (live : BitVec 112) : Squad :=
  let q := l.startSquad k i now
  let f := savedNum b 0 4
  if bitOf f 24 then { q with live := 0, groups := [], ended := true, regs := Vector.replicate 112 .dead }
  else
    let em := BitVec.ofNat 32 (savedNum b 4 4)
    let pc := BitVec.ofNat 64 (savedNum b 8 8)
    let vals := readLive ((b.drop 0xC0).take (f / 2 ^ 16 % 2 ^ 8)) (b.drop 0x140) (liveRegs live)
    let regs := vals.foldl (fun (rs : Vector RegVal 112) e => rs.setIfInBounds e.1 e.2) (Vector.replicate 112 .dead)
    let eng : EngineTrap := ⟨savedNum b 0x14 1, freeWord free, freeWord (free + 1) ++ freeWord (free + 2)
      , freeWord (free + 3) ++ freeWord (free + 4), BitVec.ofNat 32 (savedNum b 0x18 4)⟩
    { q with
        live := em, groups := if em = 0 then [] else [Group.fresh em pc now], regs := regs
        deadrd := bitOf f 27, wound := bitOf f 25, engine := if bitOf f 26 then some eng else none
        span := some ⟨f % 2 ^ 16, pc, live, em⟩, inSpan := true, spanned := false, cmdSeq := BitVec.ofNat 32 (savedNum b 0x10 4)
        segs := Vector.ofFn fun j =>
          if j.val = SegName.sseg.num || j.val = SegName.vseg.num then (l.segs k)[j]
          else ⟨BitVec.ofNat 64 (savedNum b (0x40 + 16 * j.val) 8), BitVec.ofNat 64 (savedNum b (0x48 + 16 * j.val) 8)⟩ }

/-- The live-in set of a span-table entry (R258); `SPAN` reads it in the same way. -/
def State.liveInOf (s : State) (l : Launch) (n : Nat) : BitVec 112 :=
  match s.vaRead l.tenant (l.header.codeVa + l.header.spanOff + 16 * n) 16 with
  | some bs => BitVec.ofNat 112 (leValue bs)
  | none => 0

/-- A binding from its record: of an object in the member's own allocation, which only a host that has written the slot can
have changed (R11, R118). -/
def Workgroup.readBind (w : Workgroup) (b : List Byte) : Option Nat :=
  let o := savedNum b 0 4
  if savedNum b 4 4 % 2 = 1 && o % 32 = 0 && w.member * w.spad ≤ o && o + 32 ≤ (w.member + 1) * w.spad then some o else none

/-- A queue of a workgroup from its record. -/
def Workgroup.readQueue (w : Workgroup) (b : List Byte) : QueueState :=
  { items := (List.range (min 16 (savedNum b 0 1 % 32))).map fun k => BitVec.ofNat 64 (savedNum b (16 + 8 * k) 8)
    phase := BitVec.ofNat 32 (savedNum b 4 4), bind := w.readBind (b.drop 8) }

/-- n entries from their low and top bytes; entries that are 0 are not listed. -/
def readSums (lo hi : List Byte) (n : Nat) : List (Nat × BitVec 136) :=
  (List.range n).filterMap fun k =>
    let v := savedNum lo (16 * k) 16 + 2 ^ 128 * savedNum hi k 1
    if v = 0 then none else some (k, BitVec.ofNat 136 v)

/-- An accumulator tile from its chain record and image. -/
def readAcc (acc chain opened : Bool) (c b : List Byte) : AccTile :=
  if !acc then .empty
  else
    let anchor := savedNum c 0 2
    let w := savedNum c 4 4
    { st := if !chain then .idle else if opened then .openChain else .loaded
      a := readSums b (b.drop 131072) 8192, cr := readSums (b.drop 139264) (b.drop 143360) 256
      cc := readSums (b.drop 143616) (b.drop 144128) 32
      anchor := if anchor < 2 ^ 15 then (anchor : Int) else (anchor : Int) - 65536, format := BitVec.ofNat 8 (savedNum c 2 1)
      waddr := w, sums := [] }

/-- A chain that has weights latches them again, if its block still latches (R122, R365). -/
def State.relatch (s : State) (t : Nat) : State :=
  match (s.tile t).wg with
  | none => s
  | some w =>
    (List.range w.accs.length).foldl (fun s j =>
      let a := w.accs.getD j .empty
      if a.st ≠ .loaded then s
      else match s.readBlock w a.waddr a.format with
        | .ok bs => s.updWg t fun w => { w with latch := some ⟨a.waddr, bs, a.format⟩ }
        | .error _ => s) s

/-- What the device keeps of a member. -/
def Workgroup.kept (w : Workgroup) : KeptMember :=
  { member := w.member, opened := (List.range w.accs.length).filter fun j => w.accs[j]?.any fun a => a.st = .openChain
    jobPhases := w.jobPhases, q4Phase := w.q4.phase, lost := w.q3.lost, areaSlot := w.area.slot, skewQuiet := w.skewQuiet
    squads := w.squads.map fun q =>
      ⟨q.slot, q.poolWrites, q.late, q.trap, ((q.span.map (·.liveIn)).getD 0), q.fences⟩ }

/-- What the device has kept of a squad is its own again: with the fences that were not complete (R292). -/
def Squad.regain (q : Squad) (p : KeptSquad) : Squad :=
  { q with poolWrites := p.poolWrites, late := p.late, trap := p.trap, groups := q.groups.map fun g => { g with fences := p.fences } }

/-- A member's workgroup as its record restores it. The live-ins of a squad are those of the span that was saved; the span table
names them where the device has kept nothing of the squad (R122, LOG 37). -/
def State.restoredMember (s : State) (l : Launch) (g : Gang) (m : Nat) (b : List Byte) : Workgroup :=
  let w := l.startWorkgroup g.key m g.slot s.coreCycles
  let kept := (g.kept.find? fun k => k.member = m).getD { w.kept with squads := [] }
  let x := savedNum b 0 4
  let qa := b.drop 0x800
  let accs := b.drop (4096 + l.squads * 16384 + l.spad)
  let squad (i : Nat) : Squad :=
    let r := (b.drop (0x1000 + 16384 * i)).take 16384
    let q := l.restoreSquad g.slot i s.coreCycles (s.freeCtr + 8 * i) r
    match kept.squads.find? fun e => e.slot = i with
    | some p => (q p.liveIn).regain p
    | none => q (s.liveInOf l (savedNum r 0 2))
  { w with
      squads := (List.range l.squads).map squad
      boxes := (List.range 9).map fun i => w.readQueue (qa.drop (144 * i))
      q3 := ⟨savedNum qa 0x510 4 % 128, savedNum qa 0x510 4 / 128 % 64, BitVec.ofNat 32 (savedNum qa 0x514 4), kept.lost
            , w.readBind (qa.drop 0x518)⟩
      q4 := { QueueState.empty with phase := kept.q4Phase }
      area := ⟨savedNum qa 0x528 4 % 2 = 1, BitVec.ofNat 64 (savedNum qa 0x520 8), kept.areaSlot
              , BitVec.ofNat 32 (savedNum qa 0x52C 4), BitVec.ofNat 32 (savedNum qa 0x530 4)
              , BitVec.ofNat 32 (savedNum qa 0x534 4)⟩
      jobPhases := kept.jobPhases, skewQuiet := kept.skewQuiet
      accs := (List.range 8).map fun j =>
        readAcc (bitOf x (16 + j)) (bitOf x (24 + j)) (kept.opened.contains j) (b.drop (0x40 + 32 * j)) (accs.drop (accBytes * j)) }

/-- One member returns to a tile: its scratchpad, its registers, its queues and its accumulators. -/
def State.restoreMember (s : State) (l : Launch) (g : Gang) (m t : Nat) (b : List Byte) : State :=
  let w := s.restoredMember l g m b
  let s : State := { s with mem := Memory.clear s.mem (spadKey t 0) (spadKey t (2 ^ 22)), freeCtr := s.freeCtr + 8 * l.squads }
  let s := (s.pokeN (spadKey t 0) ((b.drop 0x400).take 1024)).pokeN (spadKey t 1024)
    ((b.drop (0x1000 + l.squads * 16384)).take l.spad)
  ((s.seat t w).relatch t).dropCopies t

/-- What waited for a gang reaches its squads: recorded grants, and wounds. -/
def State.deliverKept (s : State) (g : Gang) : State :=
  let s := g.grants.foldl State.countGrant s
  g.wounds.foldl (fun s k =>
    match s.locate k with
    | some (t, slot) => s.updSquad t slot fun q => { q with wound := true }
    | none => s) s

/-- A pre-empted gang is placed again; none where a byte of its save slot cannot be read. -/
def State.placeAgain (s : State) (l : Launch) (g : Gang) (origin : Nat) : Option State :=
  let tiles := rectangle l.shape origin
  let slot (m : Nat) : Nat := l.slotVa g.slot + 4096 + m * l.memberBytes
  let s := (List.range tiles.length).foldl (fun s m => s.vaObtain l.tenant (slot m) l.memberBytes) s
  let recs := (List.range tiles.length).map fun m => s.vaRead l.tenant (slot m) l.memberBytes
  if recs.any Option.isNone then none
  else
    let s := (List.range tiles.length).foldl (fun s m =>
      s.restoreMember l g m (tiles.getD m 0) (((recs[m]?).bind id).getD [])) s
    some ((s.deliverKept g).updGang g.key fun x =>
      { x with origin := origin, stage := .running, placedAt := s.devclk.toNat, grants := [], wounds := [], kept := [] })

end Sys2Proof.Machine
end

