-- ==== Sys2Proof/Machine/Scheduler.lean ====
section
/-! DEFINITION. The scheduler's decisions (R105-R109) and the pre-emption procedure (R116, R118). -/

namespace Sys2Proof.Machine

/-! ### Dependences (R106) -/

/-- What a dependence says of a launch. -/
inductive DepState where
  | ready | wait | cancel
deriving DecidableEq, Repr

/-- The packet of a sequence number has not been read from its queue. -/
def LaunchQueue.unread (q : LaunchQueue) (seq : Nat) : Bool := (seq + 2 ^ 32 - q.head) % 2 ^ 32 < 2 ^ 31

/-- A launch goes on: it has not ended, and nothing is stopping it. -/
def Launch.goes (l : Launch) : Bool := l.status.isNone && l.ending.isNone

/-- The state of an awaited launch, for one that has placed no gang. A packet behind the head of which no status is kept counts as
ended DONE, which R106 does not say of one within N of the head (LOG 107). -/
def State.depState (s : State) (l : Launch) : DepState :=
  match l.dep with
  | none => .ready
  | some d =>
    if l.nextGang ≠ 0 then .ready
    else match (s.launch? d).map (·.status), tabFind d.qid s.queues with
    | some none, none => .wait
    | _, none => .cancel
    | running, some q =>
      if q.unread d.seq then (if q.enabled then .wait else .cancel)
      else if !q.recent d.seq then .ready
      else if running = some none then .wait
      else match q.ended.find? fun e => e.1 = d.seq with
        | some e => if e.2 = 0 then .ready else .cancel
        | none => .ready

/-! ### What to place (R105, R108) -/

/-- What a launch places next: a pre-empted gang, or a gang from its start. -/
inductive NextGang where
  | again (g : Gang)
  | first (id : Nat)
deriving DecidableEq, Repr

/-- The next gang of a launch: pre-empted ones before those not yet placed, and ids in ascending order. -/
def State.nextGang (s : State) (l : Launch) : Option NextGang :=
  let saved := s.gangs.filter fun g => g.key.launch = l.key && g.stage = .saved
  match best (fun a b => a.key.gang < b.key.gang) saved with
  | some g => some (.again g)
  | none =>
    match l.again with
    | g :: _ => some (.first g)
    | [] => if l.nextGang < l.gangs then some (.first l.nextGang) else none

/-- A launch waits for a place (R105). -/
def State.waits (s : State) (l : Launch) : Bool := l.goes && (s.nextGang l).isSome && s.depState l = .ready

/-- Rank. -/
def State.rank (s : State) (l : Launch) : Nat := min 7 (s.effPrio l.ward + (s.devclk.toNat - l.waitSince) / 10000000)

/-- The waiting launches in the order in which they are served. -/
def State.served (s : State) : List Launch :=
  sortBy (fun a b => s.rank b < s.rank a || (s.rank a = s.rank b && a.order < b.order)) (s.launches.filter s.waits)

/-- There is a save slot for the next gang of a launch (R119). -/
def State.hasRoom (s : State) (l : Launch) : Bool :=
  match s.nextGang l with
  | some (.first _) => (s.freeSlot l).isSome
  | some (.again _) => true
  | none => false

/-- A gang of a launch fits the budgets of its ward. -/
def State.fitsWard (s : State) (l : Launch) : Bool :=
  s.fitsBudget l.ward (shapeTiles l.shape) (shapeTiles l.shape * l.spad / 1024)

/-- The state without some gangs' workgroups, to see what would be free. -/
def State.without (s : State) (gs : List GangKey) : State :=
  { s with tiles := s.tiles.map fun e =>
      if e.2.wg.any fun w => gs.contains w.gang then (e.1, e.2.vacate) else e }

/-- The gangs that are leaving their tiles. -/
def State.leaving (s : State) : List GangKey :=
  (s.gangs.filter fun g => g.stage = .requested || g.stage = .stopped).map (·.key)

/-- A launch for which a rectangle is freed may still be placed there. -/
def State.claimStands (s : State) (c : LaunchKey × Nat) : Bool :=
  (s.launch? c.1).any fun m =>
    s.waits m && s.hasRoom m && (s.grounds m.shape).contains c.2 && (s.without s.leaving).fitsWard m

/-- A rectangle shares tiles with one that is freed for another launch. -/
def State.claimed (s : State) (l : Launch) (origin : Nat) : Bool :=
  s.claims.any fun c => c.1 ≠ l.key && s.claimStands c && ((s.launch? c.1).any fun m =>
    (rectangle l.shape origin).any fun t => (rectangle m.shape c.2).contains t)

/-- The free rectangles of a launch's shape, but for those that were freed for another launch. -/
def State.freeRects (s : State) (l : Launch) : List Nat := (s.openings l.shape).filter fun o => !s.claimed l o

/-- The rectangles on which the next gang of a launch may be placed now; first the one that was freed for it. -/
def State.places (s : State) (l : Launch) : List Nat :=
  if !s.hasRoom l || !s.fitsWard l then []
  else
    let os := s.freeRects l
    let mine := os.filter fun o => s.claims.contains (l.key, o)
    if mine = [] then os else mine

/-- Placement goes on: reduced or full service is offered, full service is not about to begin, no checkpoint runs. -/
def State.placing (s : State) : Bool :=
  (s.bringUp.rsvc || s.bringUp.phase = 6) && !(s.bringUp.phase = 5 && 5 ≤ s.bringUp.worked) && s.checkpoint.isNone

/-- The first launch served whose next gang fits. -/
def State.toPlace (s : State) : Option (Launch × List Nat) :=
  if !s.placing then none
  else s.served.findSome? fun l => if s.places l = [] then none else some (l, s.places l)

/-- A save-area fault (R118): a record with DETAIL bit 0, and the abort of the launch. -/
def State.saveFault (s : State) (l : Launch) (g : Gang) (num detail addr : Nat) : State :=
  let r := { FaultRecord.blank with num := num, ward := l.ward, qid := l.key.qid, lseq := l.key.seq, gang := g.key.gang
                                    tile := g.origin, detail := BitVec.ofNat 32 (detail ||| 1), addr := BitVec.ofNat 64 addr }
  (s.raise r).abortLaunch l.key num

/-- Places the next gang of a launch. -/
def State.placeGang (s : State) (l : Launch) (origin : Nat) : State :=
  let placed (s : State) (f : Launch → Launch) : State :=
    { s.updLaunch l.key fun l => { f l with waitSince := s.devclk.toNat } with claims := s.claims.filter fun c => c.1 ≠ l.key }
  match s.nextGang l with
  | none => s
  | some (.again g) =>
    match s.placeAgain l g origin with
    | some s => placed s id
    | none => s.saveFault l g Trap.page 0 (l.slotVa g.slot)
  | some (.first id) =>
    match s.freeSlot l with
    | none => s
    | some k =>
      placed (s.placeFirst l id k origin) fun l =>
        if l.again.contains id then { l with again := l.again.filter fun x => x ≠ id } else { l with nextGang := id + 1 }

/-- Launches whose dependence has failed end as CANCEL (R106). -/
def State.cancelDependents (s : State) : State :=
  (s.launches.filter fun l => l.goes && l.nextGang = 0 && s.depState l = .cancel).foldl
    (fun s l => s.finishLaunch l.key 4 0) s

/-- PLACEMENT_DECISION: the scheduler may choose any rectangle that qualifies. -/
def execPlacementDecision (s : State) : Host.Outcome State Fault Refusal :=
  match s.input with
  | .placementDecision n =>
    let s := s.cancelDependents
    match s.toPlace with
    | none => .next s
    | some (l, os) => .next (s.placeGang l (os.getD (n % os.length) 0))
  | _ => .next s

/-! ### Pre-emption requests (R109) -/

/-- The effective priority of a gang's ward. -/
def State.gangPrio (s : State) (g : GangKey) : Nat := ((s.launch? g.launch).map fun l => s.effPrio l.ward).getD 0

/-- A launch for whose next gang others may be pre-empted: it cannot be placed, and pre-emption could make a place. -/
def State.starved (s : State) (l : Launch) : Bool :=
  s.hasRoom l && s.places l = [] && !s.claims.any fun c => c.1 = l.key && s.claimStands c

/-- A gang may be a victim for a waiting launch: of lower priority once the launch has waited 100 µs and fits no free
rectangle, or of no higher priority and 10 ms old once it has waited 10 ms. It has waited since its packet was accepted or its
last gang placed, whatever held it (LOG 42). A gang of a launch that is being stopped is none. -/
def State.mayVictim (s : State) (l : Launch) (g : Gang) : Bool :=
  let now := s.devclk.toNat
  let waited := now - l.waitSince
  g.stage = .running && s.goesOn g.key.launch && ((100000 ≤ waited && s.freeRects l = [] && s.gangPrio g.key < s.effPrio l.ward)
    || (10000000 ≤ waited && s.gangPrio g.key ≤ s.effPrio l.ward && 10000000 ≤ now - g.placedAt))

/-- The gangs that hold tiles of a rectangle. -/
def State.holders (s : State) (shape origin : Nat) : List GangKey :=
  dedup ((rectangle shape origin).filterMap fun t => (s.tile t).wg.map (·.gang))

/-- Pre-empting these gangs frees a rectangle for the launch within its budgets, and none that is being freed for another;
answers the rectangle. -/
def State.wouldFree (s : State) (l : Launch) (gs : List GangKey) : Option Nat :=
  if (s.without gs).fitsWard l then
    (s.grounds l.shape).find? fun o => !s.claimed l o && gs.all (fun g => (s.holders l.shape o).contains g)
      && (s.holders l.shape o).all fun g => gs.contains g
  else none

/-- A waiting launch that cannot be placed and may pre-empt some gangs. -/
def State.claimant (s : State) (gs : List GangKey) : Option (Launch × Nat) :=
  s.served.findSome? fun l =>
    if !s.starved l then none
    else if gs.all fun k => (s.gang? k).any (s.mayVictim l) then (s.wouldFree l gs).map fun o => (l, o) else none

/-- PREEMPT_REQUEST (R109, R116 step 1). A request for a gang that is already asked is merged with the first (R124). -/
def execPreemptRequest (s : State) : Host.Outcome State Fault Refusal :=
  match s.input with
  | .preemptRequest gs =>
    if gs = [] || !s.placing then .next s
    else match s.claimant gs with
      | none => .next s
      | some (l, o) =>
        .next { s with claims := s.claims.filter s.claimStands ++ [(l.key, o)]
                       gangs := s.gangs.map fun g => if gs.contains g.key then { g with stage := .requested } else g }
  | _ => .next s

/-- The victims that a waiting launch would choose: the holders of the first rectangle that they complete. -/
def State.victims (s : State) : Option (List GangKey) :=
  if !s.placing then none
  else s.served.findSome? fun l =>
    if !s.starved l then none
    else (s.grounds l.shape).findSome? fun o =>
      let hs := s.holders l.shape o
      if hs ≠ [] && !s.claimed l o && hs.all (fun k => (s.gang? k).any (s.mayVictim l)) && (s.wouldFree l hs).isSome then some hs else none

/-! ### The procedure (R116) -/

/-- Every squad of every member of a gang is at a restart point. -/
def State.atRestart (s : State) (g : GangKey) : Bool :=
  (s.membersOf g).all fun m => m.2.squads.all Squad.atRestart

/-- A squad stops; its span is discarded. -/
def Squad.stop (q : Squad) (now : Nat) : Squad :=
  if q.ended then { q with stopped := true } else { q.discard now with stopped := true }

/-- Updates every member of a gang. -/
def State.updMembers (s : State) (g : GangKey) (f : Workgroup → Workgroup) : State :=
  (s.membersOf g).foldl (fun s m => s.updWg m.1 f) s

/-- PREEMPT_STOP. -/
def execPreemptStop (s : State) : Host.Outcome State Fault Refusal :=
  match s.input with
  | .preemptStop k =>
    match s.gang? k with
    | none => .next s
    | some g =>
      .next (if g.stage = .requested && s.goesOn k.launch && s.atRestart k && !s.gangOver g then
          (s.updMembers k fun w => { w with squads := w.squads.map fun q => q.stop s.coreCycles }).updGang k fun g =>
            { g with stage := .stopped }
        else s)
  | _ => .next s

/-- The engines of a workgroup have drained: no job, no accepted message, no sums on their way. -/
def Workgroup.drained (w : Workgroup) : Bool :=
  w.jobs = [] && (w.q4.items = [] || !w.area.bound) && w.accs.all fun a => a.sums = []

/-- A stopped gang may be saved (R116 steps 3 to 6): its engines have drained and their traps have arrived, none of its accesses
is under way, and nothing that a release of device scope by its squads covers is outstanding. -/
def State.mayLeave (s : State) (k : GangKey) : Bool :=
  (s.membersOf k).all (fun m => m.2.drained && s.trapsUnderWay m.2 = [] && s.releaseInvals m.1 = [])
    && !s.awaited.any fun a => a.packet.owner.any fun o => o.gang = k

/-- A squad that holds and waits on nothing loses its AGE when it is pre-empted (R299). -/
def State.dropAge (s : State) (k : SquadKey) : State :=
  if s.lockBusy k then s else s.setLockSquad { s.lockSquad k with age := none, fixed := false }

/-- A gang leaves its tiles; its locks and requests stay (R116). -/
def State.leaveTiles (s : State) (g : Gang) : State :=
  let s := ((s.seats g.key).flatMap fun e => e.2.squads.map fun q => squadKey e.2 q).foldl State.dropAge s
  let kept := (s.seats g.key).map fun e => e.2.kept
  let ks := (s.seats g.key).flatMap fun e => (e.2.squads.filter fun q => q.wound).map fun q => squadKey e.2 q
  let s := (s.membersOf g.key).foldl (fun s m => s.updTile m.1 Tile.vacate) s
  s.updGang g.key fun x => { x with stage := .saved, kept := kept, wounds := x.wounds ++ ks.filter fun k => !x.wounds.contains k }

/-- PREEMPT_SAVE: the save slot is written, and once the release covers these writes the tiles are freed; a fault of a
write aborts the launch (R118). -/
def execPreemptSave (s : State) : Host.Outcome State Fault Refusal :=
  match s.input with
  | .preemptSave k =>
    match s.gang? k, s.launch? k.launch with
    | some g, some l =>
      if g.stage ≠ .stopped || !s.goesOn k.launch || !s.mayLeave k then .next s
      else match s.vaWrite g.origin l.tenant (l.slotVa g.slot) (s.savedGang l g) with
        | (s, .wait _) => .next s
        | (s, .fault f _) => .next (s.saveFault l g f.num f.detail f.addr)
        | (s, .ok ()) =>
          if s.vaQuiet l.tenant (l.slotVa g.slot) l.slotBytes then
            .next (({ s with freeCtr := s.freeCtr + 16 } : State).leaveTiles g)
          else .next s
    | _, _ => .next s
  | _ => .next s

end Sys2Proof.Machine
end

