-- ==== Sys2Proof/Machine/Endings.lean ====
section
/-! DEFINITION. The events that end launches from outside, and fault records (R68, R93, R96, R97). -/

namespace Sys2Proof.Machine

/-- A launch that is being stopped may end: no engine command of it is left, and no reset of its tenant ends it (R93, LOG 113). -/
def State.mayClose (s : State) (l : Launch) : Bool :=
  l.status.isNone && l.ending.isSome && !s.jobsLeft l.key && !s.resets.contains l.tenant

/-- LAUNCH_ABORT: an unhandled fault aborts a launch, and the fault domain with it (R93, R94); a stop that has waited for engine
commands ends its launch. -/
def execLaunchAbort (s : State) : Host.Outcome State Fault Refusal :=
  match s.input with
  | .launchAbort k n => .next (if (s.launch? k).any s.mayClose then s.closeLaunch k else s.abortLaunch k n)
  | _ => .next s

/-- The first raised record that can be written or must be dropped is dealt with (R96). -/
def State.writeOneFault (s : State) : State :=
  match s.faults.find? fun r => (s.writeFault r).2 with
  | some r =>
    let t := (s.writeFault r).1
    { t with faults := t.faults.erase r }
  | none => s

/-- FAULT_RECORD_WRITE; the completion records that waited behind it follow. -/
def execFaultRecordWrite (s : State) : Host.Outcome State Fault Refusal :=
  .next (s.queues.foldl (fun s e => s.flushQueue e.1) s.writeOneFault)

/-- DISABLE of a queue: reading stops at once, and launches that wait for a packet it has not read end as CANCEL (R68, R106). -/
def State.disableQueue (s : State) (qid : Nat) : State :=
  ({ s with queues := tabUpd qid (fun q => { q with enabled := false, watching := false, tail := q.head }) s.queues } : State).cancelDependents

/-- The launch queues of a tenant. -/
def State.tenantQueues (s : State) (tenant : Nat) : List Nat :=
  (s.queues.filter fun e => e.2.enabled && ((s.ward? e.2.ward).any fun w => w.tenant = tenant)).map (·.1)

/-- The launches of a tenant that have not ended. -/
def State.tenantLaunches (s : State) (tenant : Nat) : List LaunchKey :=
  (s.launches.filter fun l => l.tenant = tenant && l.status.isNone).map (·.key)

/-- Its launches are stopped and its started transfers are over: what they have stored is released before their records (R76), its
scratchpad is freed, and its locks go without release (R97). -/
def State.stopTenant (s : State) (tenant : Nat) (ks : List LaunchKey) : State :=
  let mine (g : GangKey) : Bool := ks.contains g.launch
  let s := ks.foldl State.releaseLaunch s
  let s := (s.freeTiles mine).forgetGangs mine
  { s with locks := s.locks.filter fun l => l.id.tenant ≠ tenant }

/-- Its modified lines go home; its hints are dropped; its translations are forgotten (R97 step 5). -/
def State.cleanTenant (s : State) (tenant : Nat) : State :=
  let s := ((s.wc.filter fun l => l.modified && l.writers.contains tenant).map (·.line)).foldl State.flushLine s
  { s with
    regions := s.regions.map fun e => if e.owner = tenant then e.unhinted (s.anchor e.key.base) else e
    tiles := s.tiles.map fun e => (e.1, { e.2 with tlb := e.2.tlb.filter fun x => x.tenant ≠ tenant })
    reticleTlb := s.reticleTlb.filter fun x => x.2.tenant ≠ tenant
    walks := s.walks.filter fun w => w.tenant ≠ tenant }

/-- The root ward of a tenant. -/
def State.tenantRoot (s : State) (tenant : Nat) : Nat :=
  ((s.wards.find? fun e => e.2.parent = 0xFFF && e.2.tenant = tenant).map (·.1)).getD 0

/-- Every launch of a tenant is being stopped, as CANCEL unless something has stopped it before (R97 step 2, R98). -/
def State.haltTenant (s : State) (tenant : Nat) : State :=
  let s := (s.tenantQueues tenant).foldl State.disableQueue s
  (s.tenantLaunches tenant).foldl (fun s k => s.haltLaunch k 4 0) s

/-- A stopped launch gets its completion record, with the status that stopped it. -/
def State.finishHalted (s : State) (k : LaunchKey) : State :=
  match (s.launch? k).bind (·.ending) with
  | some (status, code) => s.finishLaunch k status code
  | none => s

/-- The rest of a tenant reset, once its transfers are over. -/
def State.finishReset (s : State) (tenant : Nat) : State :=
  let ks := s.tenantLaunches tenant
  let s := ks.foldl State.finishHalted ((s.stopTenant tenant ks).cleanTenant tenant)
  ({ s.raise { FaultRecord.blank with src := 6, ward := s.tenantRoot tenant } with
      resets := s.resets.filter fun t => t ≠ tenant } : State).flush

/-- A tenant reset (R97). It waits for started engine commands that wait for a page (R164, LOG 113). -/
def State.resetTenant (s : State) (tenant : Nat) : State :=
  let s := s.haltTenant tenant
  if (s.tenantLaunches tenant).any s.jobsLeft then s else s.finishReset tenant

/-- A reset begins, or ends: no command of a launch that it has stopped is left. -/
def State.mayReset (s : State) (tenant : Nat) : Bool := (s.tenantLaunches tenant).all fun k => s.goesOn k || !s.jobsLeft k

/-- TENANT_RESET: one that is asked for, once no checkpoint runs (R98). -/
def execTenantReset (s : State) : Host.Outcome State Fault Refusal :=
  match s.input with
  | .tenantReset t => .next (if s.resets.contains t && s.checkpoint.isNone then s.resetTenant t else s)
  | _ => .next s

end Sys2Proof.Machine
end

