-- ==== Sys2Proof/Machine/Float.lean ====
section
/-! DEFINITION. Float, conversion and packing instructions (R270-R277): opcodes 0x20-0x37. -/

namespace Sys2Proof.Machine

/-! ### Shared pieces -/

/-- FABS and FNEG on an F32 word: a NaN gives the canonical NaN (R271). -/
def f32Sign (flip : Nat → Nat) (x : Nat) : Nat :=
  match f32.decode x with
  | .nan _ => f32.nan
  | .inf _ | .fin _ _ _ => flip x

/-- Two conversions side by side (R275, R276). -/
def convertPair (f : Fmt) (c x y : Nat) : (Nat × Nat) × (Nat × Nat) := (f.convert c (f32.decode x), f.convert c (f32.decode y))

/-- NARH and NARB (R275). -/
def narrow2 (f : Fmt) (c x y : Nat) : Nat × Nat := packed2 (convertPair f c x y).1 (convertPair f c x y).2

/-- E4PK and E5PK: shifted in from the top (R276). -/
def pack8 (f : Fmt) (c x y d : Nat) : Nat × Nat :=
  let p := convertPair f c x y
  (p.2.1 * 2 ^ 24 + p.1.1 * 2 ^ 16 + d / 2 ^ 16, excOr p.1.2 p.2.2)

/-- F32 of element k of a packed word (R275, R276). -/
def unpack (f : Fmt) (c x k : Nat) : Nat × Nat := f32.convert c (f.decode (x / 2 ^ (f.width * k) % 2 ^ f.width))

/-- A Q4 instruction: a scale word that raises SCALE in an active lane comes before FPEXC (R270, R277). -/
def State.q4 (s : State) (i : Instr) (c : Ctx) (f : RForm) (op : Nat → Nat × Nat) : State :=
  if ((resultShape i c).lanes c.g.threads).any fun j => scaleExp (c.val f.b j).toNat = 255
  then s.trapAt c Trap.scale 0 0
  else s.floatLanes i c f.d op

/-! ### F32 (R271-R273) -/

/-- FADD (R271). -/
def execFadd (f : RForm) (s : State) : Host.Outcome State Fault Refusal :=
  s.float2 (.fadd f) f fun c => onF32 (f32.addV c)

/-- FSUB (R271). -/
def execFsub (f : RForm) (s : State) : Host.Outcome State Fault Refusal :=
  s.float2 (.fsub f) f fun c => onF32 fun a b => f32.addV c a b.negate

/-- FMUL (R271). -/
def execFmul (f : RForm) (s : State) : Host.Outcome State Fault Refusal :=
  s.float2 (.fmul f) f fun c => onF32 (f32.mulV c)

/-- FSCL: B is an integer (R271). -/
def execFscl (f : RForm) (s : State) : Host.Outcome State Fault Refusal :=
  s.float2 (.fscl f) f fun c x y => f32.scaleV c (f32.decode x) (toSigned 32 y)

/-- FFMA (R271). -/
def execFfma (f : RForm) (s : State) : Host.Outcome State Fault Refusal :=
  s.float3 (.ffma f) f fun c x y z => f32.fmaV c (f32.decode x) (f32.decode y) (f32.decode z)

/-- FFMS (R271). -/
def execFfms (f : RForm) (s : State) : Host.Outcome State Fault Refusal :=
  s.float3 (.ffms f) f fun c x y z => f32.fmaV c (f32.decode x) (f32.decode y) (f32.decode z).negate

/-- FMIN (R272). -/
def execFmin (f : RForm) (s : State) : Host.Outcome State Fault Refusal :=
  s.float2 (.fmin f) f fun _ => f32Extreme false

/-- FMAX (R272). -/
def execFmax (f : RForm) (s : State) : Host.Outcome State Fault Refusal :=
  s.float2 (.fmax f) f fun _ => f32Extreme true

/-- FCSEQ (R272). -/
def execFcseq (f : RForm) (s : State) : Host.Outcome State Fault Refusal :=
  s.float2 (.fcseq f) f fun _ => f32Compare (fun o => o = 0) false false

/-- FCSNE (R272). -/
def execFcsne (f : RForm) (s : State) : Host.Outcome State Fault Refusal :=
  s.float2 (.fcsne f) f fun _ => f32Compare (fun o => o ≠ 0) true false

/-- FCSLT (R272). -/
def execFcslt (f : RForm) (s : State) : Host.Outcome State Fault Refusal :=
  s.float2 (.fcslt f) f fun _ => f32Compare (fun o => o < 0) false true

/-- FCSLE (R272). -/
def execFcsle (f : RForm) (s : State) : Host.Outcome State Fault Refusal :=
  s.float2 (.fcsle f) f fun _ => f32Compare (fun o => o ≤ 0) false true

/-- FCSUN (R272). -/
def execFcsun (f : RForm) (s : State) : Host.Outcome State Fault Refusal :=
  s.float2 (.fcsun f) f fun _ => f32Compare (fun _ => false) true false

/-- FCSOR (R272). -/
def execFcsor (f : RForm) (s : State) : Host.Outcome State Fault Refusal :=
  s.float2 (.fcsor f) f fun _ => f32Compare (fun _ => true) false false

/-- FABS: only the sign bit changes, and no exception is raised (R271). -/
def execFabs (f : RForm) (s : State) : Host.Outcome State Fault Refusal :=
  s.float1 (.fabs f) f fun _ x => (f32Sign (fun x => x % 2 ^ 31) x, 0)

/-- FNEG (R271). -/
def execFneg (f : RForm) (s : State) : Host.Outcome State Fault Refusal :=
  s.float1 (.fneg f) f fun _ x => (f32Sign (fun x => (x + 2 ^ 31) % 2 ^ 32) x, 0)

/-- FRCP (R273). -/
def execFrcp (f : RForm) (s : State) : Host.Outcome State Fault Refusal :=
  s.float1 (.frcp f) f f32Rcp

/-- FRSQ (R273). -/
def execFrsq (f : RForm) (s : State) : Host.Outcome State Fault Refusal :=
  s.float1 (.frsq f) f f32Rsq

/-- FEX2 (R273). -/
def execFex2 (f : RForm) (s : State) : Host.Outcome State Fault Refusal :=
  s.float1 (.fex2 f) f f32Exp2

/-- FLG2 (R273). -/
def execFlg2 (f : RForm) (s : State) : Host.Outcome State Fault Refusal :=
  s.float1 (.flg2 f) f f32Log2

/-- FSIN (R273). -/
def execFsin (f : RForm) (s : State) : Host.Outcome State Fault Refusal :=
  s.float1 (.fsin f) f fun c => f32Trig c false

/-- FCOS (R273). -/
def execFcos (f : RForm) (s : State) : Host.Outcome State Fault Refusal :=
  s.float1 (.fcos f) f fun c => f32Trig c true

/-! ### Packed halves and F64 (R274) -/

/-- HADD2 (R274). -/
def execHadd2 (f : RForm) (s : State) : Host.Outcome State Fault Refusal :=
  s.float2 (.hadd2 f) f fun c => onPacked fp16 (fp16.addV c)

/-- HMUL2 (R274). -/
def execHmul2 (f : RForm) (s : State) : Host.Outcome State Fault Refusal :=
  s.float2 (.hmul2 f) f fun c => onPacked fp16 (fp16.mulV c)

/-- HFMA2 (R274). -/
def execHfma2 (f : RForm) (s : State) : Host.Outcome State Fault Refusal :=
  s.float3 (.hfma2 f) f fun c x y z => packed2
    (fp16.fmaV c (fp16.decode (x % 2 ^ 16)) (fp16.decode (y % 2 ^ 16)) (fp16.decode (z % 2 ^ 16)))
    (fp16.fmaV c (fp16.decode (x / 2 ^ 16)) (fp16.decode (y / 2 ^ 16)) (fp16.decode (z / 2 ^ 16)))

/-- BADD2 (R274). -/
def execBadd2 (f : RForm) (s : State) : Host.Outcome State Fault Refusal :=
  s.float2 (.badd2 f) f fun c => onPacked bf16 (bf16.addV c)

/-- BMUL2 (R274). -/
def execBmul2 (f : RForm) (s : State) : Host.Outcome State Fault Refusal :=
  s.float2 (.bmul2 f) f fun c => onPacked bf16 (bf16.mulV c)

/-- BFMA2 (R274). -/
def execBfma2 (f : RForm) (s : State) : Host.Outcome State Fault Refusal :=
  s.float3 (.bfma2 f) f fun c x y z => packed2
    (bf16.fmaV c (bf16.decode (x % 2 ^ 16)) (bf16.decode (y % 2 ^ 16)) (bf16.decode (z % 2 ^ 16)))
    (bf16.fmaV c (bf16.decode (x / 2 ^ 16)) (bf16.decode (y / 2 ^ 16)) (bf16.decode (z / 2 ^ 16)))

/-- DADD (R274). -/
def execDadd (f : RForm) (s : State) : Host.Outcome State Fault Refusal :=
  s.float64 (.dadd f) f fun c j => f64.addV c.control (f64.decode (c.pair f.a j).toNat) (f64.decode (c.pair f.b j).toNat)

/-- DSUB (R274). -/
def execDsub (f : RForm) (s : State) : Host.Outcome State Fault Refusal :=
  s.float64 (.dsub f) f fun c j => f64.addV c.control (f64.decode (c.pair f.a j).toNat) (f64.decode (c.pair f.b j).toNat).negate

/-- DMUL (R274). -/
def execDmul (f : RForm) (s : State) : Host.Outcome State Fault Refusal :=
  s.float64 (.dmul f) f fun c j => f64.mulV c.control (f64.decode (c.pair f.a j).toNat) (f64.decode (c.pair f.b j).toNat)

/-- DFMA (R274). -/
def execDfma (f : RForm) (s : State) : Host.Outcome State Fault Refusal :=
  s.float64 (.dfma f) f fun c j =>
    f64.fmaV c.control (f64.decode (c.pair f.a j).toNat) (f64.decode (c.pair f.b j).toNat) (f64.decode (c.pair f.d j).toNat)

/-! ### Conversions (R275-R277) -/

/-- CVTFI (R226). -/
def execCvtfi (f : RForm) (s : State) : Host.Outcome State Fault Refusal :=
  s.float1 (.cvtfi f) f fun c x => toInt c 32 true (f32.decode x)

/-- CVTFN (R226). -/
def execCvtfn (f : RForm) (s : State) : Host.Outcome State Fault Refusal :=
  s.float1 (.cvtfn f) f fun c x => toInt c 32 false (f32.decode x)

/-- CVTIF (R226). -/
def execCvtif (f : RForm) (s : State) : Host.Outcome State Fault Refusal :=
  s.float1 (.cvtif f) f fun c x => f32.ofInt c (toSigned 32 x)

/-- CVTNF (R226). -/
def execCvtnf (f : RForm) (s : State) : Host.Outcome State Fault Refusal :=
  s.float1 (.cvtnf f) f fun c x => f32.ofInt c x

/-- NARH (R275). -/
def execNarh (f : RForm) (s : State) : Host.Outcome State Fault Refusal :=
  s.float2 (.narh f) f (narrow2 fp16)

/-- NARB (R275). -/
def execNarb (f : RForm) (s : State) : Host.Outcome State Fault Refusal :=
  s.float2 (.narb f) f (narrow2 bf16)

/-- WIDH: element B[0] (R275). -/
def execWidh (f : RForm) (s : State) : Host.Outcome State Fault Refusal :=
  s.float2 (.widh f) f fun c x y => unpack fp16 c x (y % 2)

/-- WIDB: element B[0] (R275). -/
def execWidb (f : RForm) (s : State) : Host.Outcome State Fault Refusal :=
  s.float2 (.widb f) f fun c x y => unpack bf16 c x (y % 2)

/-- E4PK (R276). -/
def execE4pk (f : RForm) (s : State) : Host.Outcome State Fault Refusal :=
  s.float3 (.e4pk f) f (pack8 e4m3)

/-- E5PK (R276). -/
def execE5pk (f : RForm) (s : State) : Host.Outcome State Fault Refusal :=
  s.float3 (.e5pk f) f (pack8 e5m2)

/-- E4UP: element B[1:0] (R276). -/
def execE4up (f : RForm) (s : State) : Host.Outcome State Fault Refusal :=
  s.float2 (.e4up f) f fun c x y => unpack e4m3 c x (y % 4)

/-- E5UP: element B[1:0] (R276). -/
def execE5up (f : RForm) (s : State) : Host.Outcome State Fault Refusal :=
  s.float2 (.e5up f) f fun c x y => unpack e5m2 c x (y % 4)

/-- Q4PK: the code is shifted in from the top (R277). -/
def execQ4pk (f : RForm) (s : State) : Host.Outcome State Fault Refusal :=
  issue (.q4pk f) s fun s c => s.q4 (.q4pk f) c f fun j =>
    let q := quantise (f32.decode (c.val f.a j).toNat) (c.val f.b j).toNat
    (q.1 * 2 ^ 28 + (c.val f.d j).toNat / 16, q.2)

/-- Q4UP: the low code of A (R277). -/
def execQ4up (f : RForm) (s : State) : Host.Outcome State Fault Refusal :=
  issue (.q4up f) s fun s c => s.q4 (.q4up f) c f fun j =>
    dequantise c.control ((c.val f.a j).toNat % 16) (c.val f.b j).toNat

end Sys2Proof.Machine
end

