-- ==== Sys2Proof/Machine/Integer.lean ====
section
/-! DEFINITION. The integer instructions (R265-R269): opcodes 0x00-0x1F. -/

namespace Sys2Proof.Machine

/-! ### The operations -/

/-- Clamps an integer to the signed 32-bit range. -/
def clamp32 (x : Int) : Word :=
  BitVec.ofInt 32 (if x < -(2 ^ 31) then -(2 ^ 31) else if x > 2 ^ 31 - 1 then 2 ^ 31 - 1 else x)

/-- Bits [63:32] of the signed product. -/
def mulHigh (a b : Word) : Word := ((a.signExtend 64) * (b.signExtend 64)).extractLsb' 32 32

/-- 1 or 0. -/
def flag (b : Bool) : Word := if b then 1 else 0

/-- The shifts of R266; the count is UInt(B), and a full shift gives 0 or the sign. -/
def shiftLeft (a b : Word) : Word := if b.toNat < 32 then a <<< b.toNat else 0
def shiftRight (a b : Word) : Word := a >>> b.toNat
def shiftArith (a b : Word) : Word := a.sshiftRight b.toNat
def rotateLeft (a b : Word) : Word := a.rotateLeft (b.toNat % 32)

/-- The 64-bit left shift of R268. -/
def shiftLeft64 (a : DWord) (b : Word) : DWord := if b.toNat < 64 then a <<< b.toNat else 0

/-- The number of 1 bits. -/
def popCount (a : Word) : Word := BitVec.ofNat 32 (maskCount a)
/-- Number of 0 bits above the highest 1 bit. -/
def leadingZeros (a : Word) : Word := if a = 0 then 32 else BitVec.ofNat 32 (31 - Nat.log2 a.toNat)
/-- Bit reversal. -/
def bitReverse (a : Word) : Word := a.reverse
/-- Index of the lowest 1 bit; 32 when there is none. -/
def findFirst (a : Word) : Word := BitVec.ofNat 32 ((lanesOf a).headD 32)

/-- Position and width of R267. -/
def fieldPos (b : Word) : Nat := b.toNat % 32
def fieldWidth (b : Word) : Nat := min (b.toNat / 2 ^ 8 % 64) (32 - fieldPos b)
/-- w low bits set. -/
def lowMask (w : Nat) : Word := BitVec.ofNat 32 (2 ^ w - 1)

/-- The bit-field instructions (R267). -/
def extractField (a b : Word) : Word := (a >>> fieldPos b) &&& lowMask (fieldWidth b)
def extractSigned (a b : Word) : Word :=
  if fieldWidth b = 0 then 0 else BitVec.ofInt 32 (toSigned (fieldWidth b) (extractField a b).toNat)
def insertField (a b d : Word) : Word :=
  let mask := lowMask (fieldWidth b) <<< fieldPos b
  (d &&& ~~~mask) ||| ((a <<< fieldPos b) &&& mask)

/-- Bits [127:64] of the signed 128-bit product. -/
def mulHigh64 (a b : DWord) : DWord := ((a.signExtend 128) * (b.signExtend 128)).extractLsb' 64 64

/-! ### R format -/

/-- IADD: wrapping sum (R265). -/
def execIadd (f : RForm) (s : State) : Host.Outcome State Fault Refusal :=
  s.lane2 (.iadd f) f fun a b => a + b

/-- IADDS: saturating sum (R265). -/
def execIadds (f : RForm) (s : State) : Host.Outcome State Fault Refusal :=
  s.lane2 (.iadds f) f fun a b => clamp32 (a.toInt + b.toInt)

/-- ISUB: wrapping difference (R265). -/
def execIsub (f : RForm) (s : State) : Host.Outcome State Fault Refusal :=
  s.lane2 (.isub f) f fun a b => a - b

/-- ISUBS: saturating difference (R265). -/
def execIsubs (f : RForm) (s : State) : Host.Outcome State Fault Refusal :=
  s.lane2 (.isubs f) f fun a b => clamp32 (a.toInt - b.toInt)

/-- IMUL: low half of the product (R265). -/
def execImul (f : RForm) (s : State) : Host.Outcome State Fault Refusal :=
  s.lane2 (.imul f) f fun a b => a * b

/-- IMULH: high half of the signed product (R265). -/
def execImulh (f : RForm) (s : State) : Host.Outcome State Fault Refusal :=
  s.lane2 (.imulh f) f fun a b => mulHigh a b

/-- IMAD (R265). -/
def execImad (f : RForm) (s : State) : Host.Outcome State Fault Refusal :=
  s.lane3 (.imad f) f fun a b d => a * b + d

/-- IMADH (R265). -/
def execImadh (f : RForm) (s : State) : Host.Outcome State Fault Refusal :=
  s.lane3 (.imadh f) f fun a b d => mulHigh a b + d

/-- IMIN, signed (R265). -/
def execImin (f : RForm) (s : State) : Host.Outcome State Fault Refusal :=
  s.lane2 (.imin f) f fun a b => if a.slt b then a else b

/-- IMINN, unsigned (R265). -/
def execIminn (f : RForm) (s : State) : Host.Outcome State Fault Refusal :=
  s.lane2 (.iminn f) f fun a b => if a.ult b then a else b

/-- IMAX, signed (R265). -/
def execImax (f : RForm) (s : State) : Host.Outcome State Fault Refusal :=
  s.lane2 (.imax f) f fun a b => if a.slt b then b else a

/-- IMAXN, unsigned (R265). -/
def execImaxn (f : RForm) (s : State) : Host.Outcome State Fault Refusal :=
  s.lane2 (.imaxn f) f fun a b => if a.ult b then b else a

/-- AND (R265). -/
def execAndB (f : RForm) (s : State) : Host.Outcome State Fault Refusal :=
  s.lane2 (.andB f) f fun a b => a &&& b

/-- ANDN (R265). -/
def execAndn (f : RForm) (s : State) : Host.Outcome State Fault Refusal :=
  s.lane2 (.andn f) f fun a b => a &&& ~~~b

/-- OR (R265). -/
def execOrB (f : RForm) (s : State) : Host.Outcome State Fault Refusal :=
  s.lane2 (.orB f) f fun a b => a ||| b

/-- ORN (R265). -/
def execOrn (f : RForm) (s : State) : Host.Outcome State Fault Refusal :=
  s.lane2 (.orn f) f fun a b => a ||| ~~~b

/-- XOR (R265). -/
def execXorB (f : RForm) (s : State) : Host.Outcome State Fault Refusal :=
  s.lane2 (.xorB f) f fun a b => a ^^^ b

/-- XNOR (R265). -/
def execXnor (f : RForm) (s : State) : Host.Outcome State Fault Refusal :=
  s.lane2 (.xnor f) f fun a b => ~~~(a ^^^ b)

/-- SHL (R266). -/
def execShl (f : RForm) (s : State) : Host.Outcome State Fault Refusal :=
  s.lane2 (.shl f) f fun a b => shiftLeft a b

/-- ROL (R266). -/
def execRol (f : RForm) (s : State) : Host.Outcome State Fault Refusal :=
  s.lane2 (.rol f) f fun a b => rotateLeft a b

/-- SHR (R266). -/
def execShr (f : RForm) (s : State) : Host.Outcome State Fault Refusal :=
  s.lane2 (.shr f) f fun a b => shiftRight a b

/-- SAR (R266). -/
def execSar (f : RForm) (s : State) : Host.Outcome State Fault Refusal :=
  s.lane2 (.sar f) f fun a b => shiftArith a b

/-- CSEQ (R265). -/
def execCseq (f : RForm) (s : State) : Host.Outcome State Fault Refusal :=
  s.lane2 (.cseq f) f fun a b => flag (a = b)

/-- CSNE (R265). -/
def execCsne (f : RForm) (s : State) : Host.Outcome State Fault Refusal :=
  s.lane2 (.csne f) f fun a b => flag (a ≠ b)

/-- CSLT, signed (R265). -/
def execCslt (f : RForm) (s : State) : Host.Outcome State Fault Refusal :=
  s.lane2 (.cslt f) f fun a b => flag (a.slt b)

/-- CSLTN, unsigned (R265). -/
def execCsltn (f : RForm) (s : State) : Host.Outcome State Fault Refusal :=
  s.lane2 (.csltn f) f fun a b => flag (a.ult b)

/-- CSLE, signed (R265). -/
def execCsle (f : RForm) (s : State) : Host.Outcome State Fault Refusal :=
  s.lane2 (.csle f) f fun a b => flag (!b.slt a)

/-- CSLEN, unsigned (R265). -/
def execCslen (f : RForm) (s : State) : Host.Outcome State Fault Refusal :=
  s.lane2 (.cslen f) f fun a b => flag (!b.ult a)

/-- SEL (R265). -/
def execSel (f : RForm) (s : State) : Host.Outcome State Fault Refusal :=
  s.lane3 (.sel f) f fun a b d => if d ≠ 0 then a else b

/-- POPC (R265). -/
def execPopc (f : RForm) (s : State) : Host.Outcome State Fault Refusal :=
  s.lane1 (.popc f) f fun a => popCount a

/-- CLZ (R265). -/
def execClz (f : RForm) (s : State) : Host.Outcome State Fault Refusal :=
  s.lane1 (.clz f) f fun a => leadingZeros a

/-- BREV (R265). -/
def execBrev (f : RForm) (s : State) : Host.Outcome State Fault Refusal :=
  s.lane1 (.brev f) f fun a => bitReverse a

/-- FFS (R265). -/
def execFfs (f : RForm) (s : State) : Host.Outcome State Fault Refusal :=
  s.lane1 (.ffs f) f fun a => findFirst a

/-- BFX (R267). -/
def execBfx (f : RForm) (s : State) : Host.Outcome State Fault Refusal :=
  s.lane2 (.bfx f) f fun a b => extractField a b

/-- BFXS (R267). -/
def execBfxs (f : RForm) (s : State) : Host.Outcome State Fault Refusal :=
  s.lane2 (.bfxs f) f fun a b => extractSigned a b

/-- BFI (R267). -/
def execBfi (f : RForm) (s : State) : Host.Outcome State Fault Refusal :=
  s.lane3 (.bfi f) f fun a b d => insertField a b d

/-- WADD (R268). -/
def execWadd (f : RForm) (s : State) : Host.Outcome State Fault Refusal :=
  s.wide (.wadd f) f fun c j => c.pair f.a j + c.pair f.b j

/-- WSUB (R268). -/
def execWsub (f : RForm) (s : State) : Host.Outcome State Fault Refusal :=
  s.wide (.wsub f) f fun c j => c.pair f.a j - c.pair f.b j

/-- WMUL (R268). -/
def execWmul (f : RForm) (s : State) : Host.Outcome State Fault Refusal :=
  s.wide (.wmul f) f fun c j => c.pair f.a j * c.pair f.b j

/-- WMULH (R268). -/
def execWmulh (f : RForm) (s : State) : Host.Outcome State Fault Refusal :=
  s.wide (.wmulh f) f fun c j => mulHigh64 (c.pair f.a j) (c.pair f.b j)

/-- WSHL: B is one register (R268). -/
def execWshl (f : RForm) (s : State) : Host.Outcome State Fault Refusal :=
  s.wide (.wshl f) f fun c j => shiftLeft64 (c.pair f.a j) (c.val f.b j)

/-- WSHR: B is one register (R268). -/
def execWshr (f : RForm) (s : State) : Host.Outcome State Fault Refusal :=
  s.wide (.wshr f) f fun c j => c.pair f.a j >>> (c.val f.b j).toNat

/-- MOV (R265). -/
def execMov (f : RForm) (s : State) : Host.Outcome State Fault Refusal :=
  s.lane1 (.mov f) f fun a => a

/-- MOVG (R265). -/
def execMovg (f : RForm) (s : State) : Host.Outcome State Fault Refusal :=
  s.lane3 (.movg f) f fun a b d => if b ≠ 0 then a else d

/-- IABS (R265). -/
def execIabs (f : RForm) (s : State) : Host.Outcome State Fault Refusal :=
  s.lane1 (.iabs f) f fun a => if a.msb then -a else a

/-- INEG (R265). -/
def execIneg (f : RForm) (s : State) : Host.Outcome State Fault Refusal :=
  s.lane1 (.ineg f) f fun a => -a

/-! ### I format (R269) -/

/-- IADDI (R269). -/
def execIaddi (f : IForm) (s : State) : Host.Outcome State Fault Refusal :=
  s.laneImm (.iaddi f) f fun a b => a + b

/-- IMULI (R269). -/
def execImuli (f : IForm) (s : State) : Host.Outcome State Fault Refusal :=
  s.laneImm (.imuli f) f fun a b => a * b

/-- ANDI (R269). -/
def execAndi (f : IForm) (s : State) : Host.Outcome State Fault Refusal :=
  s.laneImm (.andi f) f fun a b => a &&& b

/-- ORI (R269). -/
def execOri (f : IForm) (s : State) : Host.Outcome State Fault Refusal :=
  s.laneImm (.ori f) f fun a b => a ||| b

/-- XORI (R269). -/
def execXori (f : IForm) (s : State) : Host.Outcome State Fault Refusal :=
  s.laneImm (.xori f) f fun a b => a ^^^ b

/-- SHLI (R269). -/
def execShli (f : IForm) (s : State) : Host.Outcome State Fault Refusal :=
  s.laneImm (.shli f) f fun a b => a <<< (b.toNat % 32)

/-- SHRI: arithmetic when imm10[9] = 1 (R269). -/
def execShri (f : IForm) (s : State) : Host.Outcome State Fault Refusal :=
  s.laneImm (.shri f) f fun a b => if b.getLsbD 9 then a.sshiftRight (b.toNat % 32) else a >>> (b.toNat % 32)

/-- MOVI (R269). -/
def execMovi (f : IForm) (s : State) : Host.Outcome State Fault Refusal :=
  s.laneImm (.movi f) f fun _ b => b

end Sys2Proof.Machine
end

