-- ==== Sys2Proof/Machine/Messages.lean ====
section
/-! DEFINITION. The host messages of `q4` and `q5` (R338-R340). -/

namespace Sys2Proof.Machine

/-- Stores that a host has made to its own memory, at a port (LOG 18). -/
def State.hostStores (s : State) (port : Nat) (bs : List (Nat × Byte)) : State :=
  bs.foldl (fun s b => s.pokeN (hostKey port b.1) [b.2]) s

/-- Reads n bytes of a workgroup's message area, with the segments of the squad that bound it. -/
def State.areaBytes (s : State) (t : Nat) (w : Workgroup) (off n : Nat) : State × Served (List Byte) :=
  let segs := ((w.squad? w.area.slot).map (·.segs)).getD (Vector.replicate 8 ⟨0, 0⟩)
  s.engineRead t w segs (s.tenantOf w) 0 0 ((w.area.offset.toNat + off : Nat) : Int) n

/-- Writes bytes of it. -/
def State.areaWrite (s : State) (t : Nat) (w : Workgroup) (off : Nat) (bs : List Byte) : State × Served (List RegionKey) :=
  let segs := ((w.squad? w.area.slot).map (·.segs)).getD (Vector.replicate 8 ⟨0, 0⟩)
  s.engineWrite t w segs (s.tenantOf w) 0 0 none ((w.area.offset.toNat + off : Nat) : Int) bs

/-- A count line: the count in bytes 0-3, and 0 in the others. -/
def countLine (n : Word) : List Byte := leBytes 4 n.toNat ++ List.replicate 60 0

/-- An access to the area has faulted: the binding is dropped, with the elements that it can no longer carry. -/
def State.areaFault (s : State) (t : Nat) (w : Workgroup) (f : MemFault) : State :=
  (s.msgFault t w w.area.slot f.num f.addr).updWg t fun w => { w with q4 := { w.q4 with items := [] } }

/-- The oldest accepted element of `q4` is written to its slot, and then OUTTAIL. -/
def State.writeMessage (s : State) (t : Nat) (w : Workgroup) (x : DWord) : State :=
  match s.areaWrite t w (0x100 + 8 * (w.area.outTail.toNat % 16)) (leBytes 8 x.toNat) with
  | (s, .wait _) => s
  | (s, .fault f _) => s.areaFault t w f
  | (s, .ok _) =>
    match s.areaWrite t w 0 (countLine (w.area.outTail + 1)) with
    | (s, .wait _) => s
    | (s, .fault f _) => s.areaFault t w f
    | (s, .ok _) => s.updWg t fun w =>
        { w with q4 := { w.q4 with items := w.q4.items.tail }, area := { w.area with outTail := w.area.outTail + 1 } }

/-- HOST_MSG_WRITE. -/
def execHostMsgWrite (s : State) : Host.Outcome State Fault Refusal :=
  match s.input with
  | .hostMsgWrite t =>
    match (s.tile t).wg with
    | none => .next s
    | some w =>
      match w.q4.items with
      | [] => .next s
      | x :: _ => .next (if w.area.bound then s.writeMessage t w x else s)
  | _ => .next s

/-- The stores of the host whose memory the window shows. -/
def State.windowStores (s : State) (bs : List (Nat × Byte)) : State := s.hostStores (s.hostUp.getD 0) bs

/-- OUTHEAD as the area holds it, while the out ring appears full. -/
def State.readOutHead (s : State) (t : Nat) (w : Workgroup) : State :=
  if !w.area.bound || w.outRoom ≠ 0 then s
  else match s.areaBytes t w 0x40 4 with
    | (s, .wait _) => s
    | (s, .fault f _) => s.areaFault t w f
    | (s, .ok bs) => s.updWg t fun w => { w with area := { w.area with outHead := BitVec.ofNat 32 (leValue bs) } }

/-- OUTHEAD_REREAD. -/
def execOutheadReread (s : State) : Host.Outcome State Fault Refusal :=
  match s.input with
  | .outheadReread t bs =>
    let s := s.windowStores bs
    .next (match (s.tile t).wg with | none => s | some w => s.readOutHead t w)
  | _ => .next s

/-- Copies n elements of the in ring into `q5`, and counts them in INHEAD. -/
def State.takeMessages (t : Nat) : Nat → State → State
  | 0, s => s
  | n + 1, s =>
    match (s.tile t).wg with
    | none => s
    | some w =>
      match s.areaBytes t w (0x180 + 8 * (w.area.inHead.toNat % 16)) 8 with
      | (s, .wait _) => s
      | (s, .fault f _) => s.areaFault t w f
      | (s, .ok bs) =>
        let s := s.updWg t fun w => { w with area := { w.area with inHead := w.area.inHead + 1 } }
        State.takeMessages t n (s.pushBox t 5 (BitVec.ofNat 64 (leValue bs)))

/-- INHEAD is written to the area. -/
def State.writeInHead (s : State) (t : Nat) : State :=
  match (s.tile t).wg with
  | none => s
  | some w =>
    if !w.area.bound then s
    else match s.areaWrite t w 0xC0 (countLine w.area.inHead) with
      | (s, .ok _) | (s, .wait _) => s
      | (s, .fault f _) => s.areaFault t w f

/-- The device reads INTAIL, an acquire at system scope, and takes what `q5` has room for; a count error drops the
binding with fault number 0. -/
def State.pollMessages (s : State) (t : Nat) (w : Workgroup) : State :=
  let room := 16 - (w.box 5).items.length
  if !w.area.bound || room = 0 then s
  else match s.areaBytes t w 0x80 4 with
    | (s, .wait _) => s
    | (s, .fault f _) => s.areaFault t w f
    | (s, .ok bs) =>
      let s := s.acquire t 6
      let n := (BitVec.ofNat 32 (leValue bs) - w.area.inHead).toNat
      if 16 < n then s.areaFault t w ⟨0, 0, 0, none⟩
      else if n = 0 then s
      else (State.takeMessages t (min n room) s).writeInHead t

/-- INTAIL_POLL. -/
def execIntailPoll (s : State) : Host.Outcome State Fault Refusal :=
  match s.input with
  | .intailPoll t bs =>
    let s := s.windowStores bs
    .next (match (s.tile t).wg with | none => s | some w => s.pollMessages t w)
  | _ => .next s

/-- What the area holds at a count, if it can be read now. -/
def State.areaCount (s : State) (t : Nat) (w : Workgroup) (off : Nat) : Option Nat :=
  match (s.areaBytes t w off 4).2 with
  | .ok bs => some (leValue bs)
  | .wait _ | .fault _ _ => none

end Sys2Proof.Machine
end

