-- ==== Sys2Proof/Machine/LaunchQueues.lean ====
section
/-! DEFINITION. Launch queues (R67-R76): the watched tail, the reading of packets, the launch check with the check of the
code object (R74, R257-R259, R366), acceptance and rejection. -/

namespace Sys2Proof.Machine

open Sys2Proof.Config

/-- Updates a queue. -/
def State.updQueue (s : State) (qid : Nat) (f : LaunchQueue → LaunchQueue) : State := { s with queues := tabUpd qid f s.queues }

/-- N, the slots of a queue. -/
def LaunchQueue.size (q : LaunchQueue) : Nat := 2 ^ q.logn

/-- A queue error (R72): the queue is disabled, and its ward receives a record. -/
def State.queueError (s : State) (qid code : Nat) : State :=
  match tabFind qid s.queues with
  | none => s
  | some q =>
    let s := (s.disableQueue qid).updQueue qid fun q => { q with qerr := code }
    (s.raise { FaultRecord.blank with num := code, src := 3, ward := q.ward, qid := qid }).flush

/-! ### The tail (R70, R71) -/

/-- TAIL_SNOOP: a host's store to the tail line; the device drops the line. The stores that come with it are what the host
has written before (LOG 18). -/
def execTailSnoop (s : State) : Host.Outcome State Fault Refusal :=
  match s.input with
  | .tailSnoop qid bs =>
    match tabFind qid s.queues with
    | none => .next s
    | some q => .next ((s.hostStores q.port bs).updQueue qid fun q => { q with watching := false })
  | _ => .next s

/-- The tail line may be read: the queue is enabled, its link is up, and the line is not held. -/
def State.tailDue (s : State) (q : LaunchQueue) : Bool := q.enabled && !q.watching && q.qerr = 0 && s.hostPort q.port

/-- TAIL_REREAD: the line is held shared again, and the packets that are available are known (R70 steps 1, 4 and 5). -/
def execTailReread (s : State) : Host.Outcome State Fault Refusal :=
  match s.input with
  | .tailReread qid poison =>
    match tabFind qid s.queues with
    | none => .next s
    | some q =>
      if !s.tailDue q then .next s
      else if poison then .next (s.queueError qid 2)
      else
        let t := s.num (hostKey q.port q.tailA) 4
        if (t + 2 ^ 32 - q.head) % 2 ^ 32 > q.size then .next (s.queueError qid 1)
        else .next (s.updQueue qid fun q => { q with watching := true, tail := t })
  | _ => .next s

/-! ### The code object (R257-R259, R366) -/

/-- A field of the header. -/
def headerField (b : List Byte) (o n : Nat) : Nat := leValue ((b.drop o).take n)

/-- The segment table of a header. -/
def headerSegs (b : List Byte) : List Seg :=
  (List.range 8).map fun i => ⟨BitVec.ofNat 64 (headerField b (0x40 + 16 * i) 8), BitVec.ofNat 64 (headerField b (0x48 + 16 * i) 8)⟩

/-- A reserved field or value of the header is not zero. -/
def headerReserved (b : List Byte) : Bool :=
  let h := headerField b
  bitsOf (h 4 4) 31 19 ≠ 0 || bitsOf (h 8 4) 15 13 ≠ 0 || bitsOf (h 8 4) 31 20 ≠ 0 || h 0x24 4 ≠ 0 || h 0x32 6 ≠ 0
    || h 0x38 8 ≠ 0 || h 0xC0 64 ≠ 0 || (6 < bitsOf (h 8 4) 19 16 && bitsOf (h 8 4) 19 16 < 15) || 16 < bitsOf (h 8 4) 12 8
    || (headerSegs b).getD 1 ⟨0, 0⟩ ≠ ⟨0, 0⟩ || (headerSegs b).getD 5 ⟨0, 0⟩ ≠ ⟨0, 0⟩

/-- The header breaks a condition of R259 or R366, but for those on its entry table. -/
def codeWrong (b : List Byte) (stepping squads shape spad entry : Nat) : Bool :=
  let h := headerField b
  let len := h 0x10 4
  let limit := ((headerSegs b).getD 6 ⟨0, 0⟩).limit.toNat
  h 0 4 ≠ 0x4F434B59 || headerReserved b || len = 0 || len % 4 ≠ 0 || limit < len || h 0x18 4 % 8 ≠ 0 || h 0x1C 4 % 16 ≠ 0
    || spadMax < h 0x20 4 || 112 < h 8 1 || h 8 1 % 4 ≠ 0
    || (bitsOf (h 8 4) 12 8 ≠ 0 && bitsOf (h 8 4) 12 8 ≠ squads)
    || (bitsOf (h 8 4) 19 16 ≠ 15 && bitsOf (h 8 4) 19 16 ≠ shape)
    || h 0x0C 2 ≤ entry || (h 0x14 4 ≠ 0xFFFFFFFF && (h 0x14 4 % 4 ≠ 0 || len ≤ h 0x14 4))
    || h 0x28 8 % 65536 ≠ 0 || 2 ^ 48 ≤ h 0x28 8 || h 0x30 2 = 0 || spad < h 0x20 4
    || (bitOf (h 4 4) 18 && stepping = 0) || h 4 2 / 256 ≠ 1

/-- The header fields that a launch keeps. -/
def headerOf (b : List Byte) (code pc : Nat) : CodeHeader :=
  let h := headerField b
  { codeVa := code, genregs := h 8 1, entryPc := pc, trapPc := if h 0x14 4 = 0xFFFFFFFF then none else some (h 0x14 4)
    nspan := h 0x0E 2, spanOff := h 0x1C 4, saveVa := h 0x28 8, saveSlots := h 0x30 2, segtab := headerSegs b }

/-- Where a code object's entry table holds an entry (R258). -/
def entryVa (code : Nat) (b : List Byte) (entry : Nat) : Nat := code + headerField b 0x18 4 + 8 * entry

/-- Before the check, the header and the entry are obtained for reading. -/
def State.obtainCode (s : State) (tenant code entry : Nat) : State :=
  let s := s.vaObtain tenant code 256
  match s.vaRead tenant code 256 with
  | some b => s.vaObtain tenant (entryVa code b entry) 8
  | none => s

/-- The check of a code object: what the launch keeps of it, or none for reason CODE. -/
def State.checkCode (s : State) (tenant code entry squads shape spad : Nat) : Option CodeHeader :=
  if code % 256 ≠ 0 || 2 ^ 48 ≤ code then none
  else
    (s.vaRead tenant code 256).bind fun b =>
      if codeWrong b s.flash.stepping squads shape spad entry then none
      else
        (s.vaRead tenant (entryVa code b entry) 8).bind fun e =>
          let pc := leValue e
          if pc % 4 ≠ 0 || headerField b 0x10 4 ≤ pc then none else some (headerOf b code pc)

/-! ### The launch check (R73, R74) -/

/-- What the check of a packet answers. -/
inductive PacketCheck where
  | reject (reason : Nat)
  | nop
  | accept (h : CodeHeader)
deriving DecidableEq, Repr

/-- Bits of a packet's 8-byte word at an offset. -/
def packetBits (b : List Byte) (o hi lo : Nat) : Nat := bitsOf (leValue ((b.drop o).take 8)) hi lo

/-- A reserved field or value of a packet is not zero. -/
def packetReserved (b : List Byte) : Bool :=
  let p := packetBits b
  1 < p 0 7 0 || 6 < p 0 15 12 || p 0 31 21 ≠ 0 || p 0x18 63 48 ≠ 0 || p 0x28 63 12 ≠ 0 || p 0x38 63 32 ≠ 0

/-- The check, in the order of the table; SPAD and the gang's tiles alone are compared with the budget (LOG 28). -/
def State.checkPacket (s : State) (q : LaunchQueue) (b : List Byte) (poison : Bool) : PacketCheck :=
  let p := packetBits b
  let tenant := ((s.ward? q.ward).map (·.tenant)).getD 0
  let tiles := shapeTiles (p 0 15 12)
  let spad := p 0x20 31 0
  if p 0x38 31 0 ≠ q.head then .reject 1
  else if poison then .reject 2
  else if p 0 7 0 = 0 then .nop
  else if packetReserved b then .reject 3
  else if s.effTiles q.ward < tiles then .reject 4
  else if p 0 20 16 = 0 || 16 < p 0 20 16 then .reject 5
  else if p 0 63 32 = 0 then .reject 6
  else if spad % 1024 ≠ 0 || spadMax < spad || 1024 * s.effSpadb q.ward < spad then .reject 7
  else if 65536 < p 0x18 31 0 then .reject 8
  else if bitOf (p 0 63 0) 11 && !((tabFind (p 0x28 11 0) s.queues).any fun d =>
      d.enabled && (s.ward? d.ward).any fun w => w.tenant = tenant) then .reject 9
  else match s.checkCode tenant (p 8 63 0) (p 0x18 47 32) (p 0 20 16) (p 0 15 12) spad with
    | none => .reject 10
    | some h => .accept h

/-- The launch that an accepted packet makes. -/
def State.launchOf (s : State) (qid : Nat) (q : LaunchQueue) (b : List Byte) (h : CodeHeader) : Launch :=
  let p := packetBits b
  { key := ⟨qid, q.head⟩, ward := q.ward, tenant := ((s.ward? q.ward).map (·.tenant)).getD 0
    priv := (s.ward? q.ward).any fun w => w.priv, replay := bitOf (p 0 63 0) 8, crec := bitOf (p 0 63 0) 9
    intr := bitOf (p 0 63 0) 10, shape := p 0 15 12, squads := p 0 20 16, gangs := p 0 63 32
    param := BitVec.ofNat 64 (p 0x10 63 0), plen := BitVec.ofNat 32 (p 0x18 31 0), spad := p 0x20 31 0
    dep := if bitOf (p 0 63 0) 11 then some ⟨p 0x28 11 0, p 0x20 63 32⟩ else none, tag := BitVec.ofNat 64 (p 0x30 63 0)
    header := h, order := s.nextOrder, waitSince := s.devclk.toNat, nextGang := 0, again := [], retired := []
    status := none, ending := none, snap := s.snaps.find? fun z => z.ward = q.ward, snapped := [] }

/-- What becomes of a packet (the TAG and INTR of one that is poison are free values, LOG 8): a record with REJECT; a NOP ends
DONE at once; a launch waits for its placement, or ends as CANCEL when what it depends on has failed (R106). -/
def State.takePacket (s : State) (qid : Nat) (q : LaunchQueue) (b : List Byte) (poison : Bool) : State :=
  let p := packetBits b
  let tag := if poison then freeWord s.freeCtr ++ freeWord (s.freeCtr + 1) else BitVec.ofNat 64 (p 0x30 63 0)
  let intr := if poison then freeBool s.freeCtr else bitOf (p 0 63 0) 10
  let seq := q.head
  let s := { s with launches := s.launches.filter fun l => !(l.key = (⟨qid, seq⟩ : LaunchKey) && l.status.isSome)
                    freeCtr := if poison then s.freeCtr + 2 else s.freeCtr }
  let s := s.obtainCode (((s.ward? q.ward).map (·.tenant)).getD 0) (p 8 63 0) (p 0x18 47 32)
  match s.checkPacket q b poison with
  | .reject r => ((s.noteEnd qid seq 1).postRecord qid seq (recordBytes qid seq 1 0 r s.devclk tag) intr).cancelDependents
  | .nop =>
    let s := s.noteEnd qid seq 0
    if bitOf (p 0 63 0) 9 then s.postRecord qid seq (recordBytes qid seq 0 0 0 s.devclk tag) intr else s
  | .accept h =>
    ({ s with launches := s.launches ++ [s.launchOf qid q b h], nextOrder := s.nextOrder + 1 } : State).cancelDependents

/-! ### Reading and the head (R70 steps 5 to 8, R72) -/

/-- Launches are accepted from a queue: at full service, or in reduced service from the bring-up ward through port 0 or 1
(R31, R32); not during a checkpoint (R39), and not from a ward that is DSTOPPED (R94). -/
def State.accepting (s : State) (q : LaunchQueue) : Bool :=
  (s.bringUp.phase = 6 || (s.bringUp.rsvc && q.port ≤ 1 && q.ward = 1)) && s.checkpoint.isNone
    && !(s.ward? q.ward).any fun w => w.dstopped

/-- The launch of s - N has completed, and its record is written (R72); and no launch is still under way that this queue read
under the same sequence number before it was enabled anew (LOG 83). -/
def State.slotFree (s : State) (qid : Nat) (q : LaunchQueue) : Bool :=
  let old := (q.head + 2 ^ 32 - q.size) % 2 ^ 32
  !s.launches.any (fun l => (l.key = (⟨qid, old⟩ : LaunchKey) || l.key = (⟨qid, q.head⟩ : LaunchKey)) && l.status.isNone)
    && !q.held.any fun h => h.seq = old

/-- A packet of a queue may be read. -/
def State.packetDue (s : State) (qid : Nat) (q : LaunchQueue) : Bool :=
  q.enabled && q.qerr = 0 && s.hostPort q.port && q.tail ≠ q.head && s.accepting q && s.slotFree qid q

/-- LAUNCH_PACKET_READ. -/
def execLaunchPacketRead (s : State) : Host.Outcome State Fault Refusal :=
  match s.input with
  | .launchPacketRead qid poison =>
    match tabFind qid s.queues with
    | none => .next s
    | some q =>
      if !s.packetDue qid q then .next s
      else
        let b := s.peekN (hostKey q.port (q.ring + 64 * (q.head % q.size))) 64
        .next (((s.updQueue qid fun q => { q with head := (q.head + 1) % 2 ^ 32, headDirty := true }).takePacket qid q b poison).flush)
  | _ => .next s

/-- Packets have been read since the head line was last written (R70). -/
def State.headDue (s : State) (q : LaunchQueue) : Bool := q.enabled && q.qerr = 0 && s.hostPort q.port && q.headDirty

/-- HEAD_WRITE: the whole line, the head and zeros (R69). -/
def execHeadWrite (s : State) : Host.Outcome State Fault Refusal :=
  match s.input with
  | .headWrite qid poison =>
    match tabFind qid s.queues with
    | none => .next s
    | some q =>
      if !s.headDue q then .next s
      else if poison then .next (s.queueError qid 2)
      else .next ((s.updQueue qid fun q => { q with headDirty := false }).hostWrite q.port q.headA
        (leBytes 4 q.head ++ List.replicate 60 0))
  | _ => .next s

end Sys2Proof.Machine
end

