-- ==== Sys2Proof/Machine/Locks.lean ====
section
/-! DEFINITION. The lock instructions (R296, R303, R305, R307, R308): opcodes 0x60-0x67. -/

namespace Sys2Proof.Machine

/-! ### The descriptor (R296) -/

/-- A lock descriptor as it is read: its physical address and its fields. -/
structure LockDesc where
  pa : Nat
  tid : Word
  scope : Nat
  matrix : Nat
  tiles : Nat
  lines : Nat
  bad : Bool
deriving DecidableEq, Repr

/-- The fields of a descriptor's 64 bytes. `bad` holds every DESC condition of R303 but the unloaded matrix. -/
def lockDesc (pa : Nat) (bs : List Byte) : LockDesc :=
  let w (k : Nat) : Nat := leValue ((bs.drop (8 * k)).take 8)
  let td (k : Nat) : Nat := w 1 / 2 ^ (16 * k) % 2 ^ 16
  let lpt := w 2 % 2 ^ 32
  let nt := td 0 * td 1 * td 2
  let scope := w 0 / 2 ^ 32 % 8
  { pa := pa, tid := BitVec.ofNat 32 (w 0), scope := scope, matrix := w 0 / 2 ^ 35 % 16, tiles := nt, lines := lpt
    bad := w 0 / 2 ^ 39 ≠ 0 || w 1 / 2 ^ 48 ≠ 0 || w 2 / 2 ^ 32 ≠ 0 || (bs.drop 24).any (fun b => b ≠ 0)
      || scope < 2 || nt = 0 || lpt = 0 || nt * lpt > 2 ^ 32 }

/-- Reads the descriptor at an offset of `lseg`. -/
def State.readDesc (s : State) (c : Ctx) (off : Nat) : State × Served LockDesc :=
  match s.resolve c .lseg .read false 64 0 [0] (fun _ => (off : Int)) with
  | (s, .error e) => (s, .fault e false)
  | (s, .ok ts) =>
    match s.loads c.tile (c.tenant s) 64 .lseg ⟨false, false, false, false, true⟩ (c.addressOf .lseg fun _ => (off : Int)) ts with
    | (s, .wait l) => (s, .wait l)
    | (s, .fault e p) => (s, .fault e p)
    | (s, .ok vs) =>
      match ts with
      | (_, .phys pa) :: _ => (s, .ok (lockDesc pa ((tabFind 0 vs).getD [])))
      | _ => (s, .ok (lockDesc 0 []))

/-- An index outside the descriptor at a level: 0 tensor, 1 tile, 2 line. -/
def LockDesc.outside (d : LockDesc) (level index : Nat) : Bool :=
  match level with
  | 0 => false
  | 1 => d.tiles ≤ index
  | _ => d.tiles * d.lines ≤ index

/-- The index operand: none at tensor level. -/
def Ctx.lockIndex (c : Ctx) (f : LForm) : Nat := if f.level = 0 then 0 else (c.uni f.b).toNat

/-- The entry's identity. -/
def LockDesc.entry (d : LockDesc) (tenant level index : Nat) : LockId := ⟨tenant, d.pa, level, index⟩

/-- The tile's checks up to REVOKED: the code of the first that fails (R303). -/
def State.descCheck (s : State) (c : Ctx) (d : LockDesc) (level index : Nat) (query : Bool) : Option Nat :=
  if d.bad || (s.lockMatrix d.matrix).isNone then some 1
  else if d.outside level index then some 2
  else if !query && (s.lockSquad c.key).revoked then some 3
  else none

/-- The virtual address of the descriptor that A names. -/
def Ctx.descAddress (c : Ctx) (f : LForm) : Nat := c.addressOf .lseg (fun _ => ((c.uni f.a).toNat : Int)) 0

/-- LOCK with a code in DETAIL. -/
def State.lockTrap (s : State) (c : Ctx) (code : Nat) : State := s.trapAt c Trap.lock code 0

/-- Reads the descriptor and makes the tile's checks, then acts on it. -/
def State.withDesc (s : State) (c : Ctx) (f : LForm) (query : Bool) (act : State → LockDesc → State) : State :=
  match s.readDesc c (c.uni f.a).toNat with
  | (s, .wait l) => s.block c (.anchor l)
  | (s, .fault e p) => s.memFault c e p
  | (s, .ok d) =>
    match s.descCheck c d f.level.toNat (c.lockIndex f) query with
    | some n => s.lockTrap c n
    | none => act s d

/-! ### Requests (R299, R300, R303) -/

/-- The squad's AGE, fixed now if it is not: the value set, or `devclk`. -/
def State.fixedAge (s : State) (k : SquadKey) : DWord := ((s.lockSquad k).age).getD s.devclk

/-- The request of a `LOCK` or `LKUP`. -/
def State.makeRequest (s : State) (c : Ctx) (f : LForm) (d : LockDesc) (up : Bool) : LockRequest :=
  { entry := d.entry (c.tenant s) f.level.toNat (c.lockIndex f), squad := c.key, mode := lockModeOf f.mode.toNat, up := up
    age := ⟨s.fixedAge c.key, c.ward s, c.key⟩, scope := d.scope, matrix := d.matrix, tid := d.tid
    linesPerTile := d.lines }

/-- A request passes the tile's last check and the slice's, and is accepted. -/
def State.request (s : State) (i : Instr) (c : Ctx) (f : LForm) (d : LockDesc) (up : Bool) : State :=
  let r := s.makeRequest c f d up
  if s.locksOut c.key ≥ 16 then s.lockTrap c 8
  else
    match s.requestCheck r with
    | some n => s.lockTrap c n
    | none =>
      let l := s.lockSquad c.key
      ((s.setLockSquad { l with ward := c.ward s, age := some r.age.age, fixed := true }).acceptRequest r).unlessLost i c [.phys d.pa]
        (c.descAddress f) fun s => s.retire i c id

/-- LOCK. -/
def execLock (f : LForm) (s : State) : Host.Outcome State Fault Refusal :=
  issue (.lock f) s fun s c => s.withDesc c f false fun s d => s.request (.lock f) c f d false

/-- LKUP. -/
def execLkup (f : LForm) (s : State) : Host.Outcome State Fault Refusal :=
  issue (.lkup f) s fun s c => s.withDesc c f false fun s d => s.request (.lkup f) c f d true

/-! ### Releases -/

/-- A release or weakening, after the conditions of R207 for the descriptor's scope. -/
def State.unlock (s : State) (i : Instr) (c : Ctx) (f : LForm) (d : LockDesc) (down : Option LockMode) : State :=
  s.afterRelease c d.scope fun s =>
    let r : LockRelease := ⟨d.entry (c.tenant s) f.level.toNat (c.lockIndex f), c.key, down, d.lines⟩
    match s.releaseCheck r with
    | some n => s.lockTrap c n
    | none => (s.acceptRelease r).unlessLost i c [.phys d.pa] (c.descAddress f) fun s => s.retire i c id

/-- UNLK. -/
def execUnlk (f : LForm) (s : State) : Host.Outcome State Fault Refusal :=
  issue (.unlk f) s fun s c => s.withDesc c f false fun s d => s.unlock (.unlk f) c f d none

/-- LKDN. -/
def execLkdn (f : LForm) (s : State) : Host.Outcome State Fault Refusal :=
  issue (.lkdn f) s fun s c => s.withDesc c f false fun s d =>
    s.unlock (.lkdn f) c f d (some (lockModeOf f.mode.toNat))

/-- Every slice that a squad has to do with is reached from a tile (R47). -/
def State.slicesReached (s : State) (t : Nat) (k : SquadKey) : Bool :=
  (s.locks.filter fun l => (l.holds k).isSome || (l.waits k).isSome).all fun l => s.routes t (s.anchor l.id.descriptor)

/-- The descriptors of every entry that a squad has to do with. -/
def State.descriptors (s : State) (k : SquadKey) : List Target :=
  (s.locks.filter fun l => (l.holds k).isSome || (l.waits k).isSome).map fun l => .phys l.id.descriptor

/-- LKRA (R305). -/
def execLkra (f : LForm) (s : State) : Host.Outcome State Fault Refusal :=
  issue (.lkra f) s fun s c =>
    if !s.slicesReached c.tile c.key then s.trapAt c Trap.fabricLoss 0 0
    else if s.loss = .request && (s.descriptors c.key).any (s.crossesTo c.tile) then s.block c (.answer s.fabricCycles 0 false)
    else s.afterRelease c (s.heldScope c.key) fun s =>
      (s.releaseAll c.key false).unlessLost (.lkra f) c (s.descriptors c.key) 0 fun s => s.retire (.lkra f) c id

/-! ### Query, age and matrices -/

/-- The reply of a query (R307). -/
def State.lockReply (s : State) (e : LockId) (k : SquadKey) (tid : Word) : Word :=
  let code (m : Option LockMode) : Nat := match m with | some x => lockCode x | none => 7
  let others := ((s.lockEntry? e).map fun l => (l.holders.filter fun h => h.1 ≠ k).length).getD 0
  let waits := ((s.lockEntry? e).map fun l => (l.waiting.filter fun w => w.squad ≠ k).length).getD 0
  packFields [(code (s.lockHeld e k), 0), (code ((s.lockWait e k).map (·.mode)), 4), (min 255 others, 8)
    , (min 255 waits, 16), (tid.toNat % 256, 24)]

/-- LKQY. -/
def execLkqy (f : LForm) (s : State) : Host.Outcome State Fault Refusal :=
  issue (.lkqy f) s fun s c => s.withDesc c f true fun s d =>
    let reply := s.lockReply (d.entry (c.tenant s) f.level.toNat (c.lockIndex f)) c.key d.tid
    s.retire (.lkqy f) c fun q => c.write q f.b (.uniform reply)

/-- LKAG: an AGE that is fixed stays until it is cleared (R299). -/
def execLkag (f : LForm) (s : State) : Host.Outcome State Fault Refusal :=
  issue (.lkag f) s fun s c =>
    let l := s.lockSquad c.key
    if l.revoked then s.lockTrap c 3
    else if s.lockBusy c.key then s.lockTrap c 10
    else if l.fixed then s.retire (.lkag f) c id
    else (s.setLockSquad { l with ward := c.ward s, age := some (c.pair f.a 0) }).retire (.lkag f) c id

/-- A matrix is symmetric: bit 6r + c equals bit 6c + r. -/
def symmetric (m : BitVec 36) : Bool :=
  (List.range 6).all fun r => (List.range 6).all fun c => m.getLsbD (6 * r + c) == m.getLsbD (6 * c + r)

/-- LKMX (R308). -/
def execLkmx (f : LForm) (s : State) : Host.Outcome State Fault Refusal :=
  issue (.lkmx f) s fun s c =>
    let n := (c.uni f.a).toNat
    let b := (c.pair f.b 0).toNat
    if (s.lockSquad c.key).revoked then s.lockTrap c 3
    else if n = 0 || 9 ≤ n || b / 2 ^ 36 ≠ 0 || !symmetric (BitVec.ofNat 36 b) then s.lockTrap c 11
    else { s with matrices := tabSet n (BitVec.ofNat 36 b) s.matrices }.retire (.lkmx f) c id

end Sys2Proof.Machine
end

