-- ==== Sys2Proof/Machine/Sys.lean ====
section
/-! DEFINITION. The sub-operations of `SYS` (R323-R330), but for WARD: opcode 0x7C. -/

namespace Sys2Proof.Machine

/-! ### Results -/

/-- A uniform 32-bit result in A. -/
def State.answer (s : State) (i : Instr) (c : Ctx) (f : SForm) (v : Nat) : State :=
  s.retire i c fun q => c.write q f.a (.uniform (BitVec.ofNat 32 v))

/-- `A := v`. -/
def State.sysRead (i : Instr) (f : SForm) (v : State → Ctx → Nat) (s : State) : Host.Outcome State Fault Refusal :=
  issue i s fun s c => s.answer i c f (v s c)

/-- A pair receives a 64-bit value. -/
def State.sysRead64 (i : Instr) (f : SForm) (v : State → Ctx → DWord) (s : State) : Host.Outcome State Fault Refusal :=
  issue i s fun s c => s.retire i c fun q => c.writePair q f.a .uniform fun _ => v s c

/-- An effect without a result. -/
def State.sysDo (i : Instr) (act : State → Ctx → State) (s : State) : Host.Outcome State Fault Refusal :=
  issue i s fun s c => (act s c).retire i c id

/-! ### Registers and identities (R324, R325) -/

/-- MFS. -/
def execSysMfs (f : SForm) (s : State) : Host.Outcome State Fault Refusal :=
  s.sysRead (.sysMfs f) f fun s c => (s.mfs c f.imm.toNat).toNat
/-- MTS: a field that needs privilege raises PRIV. -/
def execSysMts (f : SForm) (s : State) : Host.Outcome State Fault Refusal :=
  issueWith (.sysMts f) (fun _ => mtsPriv f.imm.toNat) s fun s c =>
    (s.mts c f.imm.toNat (c.uni f.a)).retire (.sysMts f) c id
/-- CLKR. -/
def execSysClkr (f : SForm) (s : State) : Host.Outcome State Fault Refusal := s.sysRead64 (.sysClkr f) f fun s _ => s.devclk
/-- CYCR. -/
def execSysCycr (f : SForm) (s : State) : Host.Outcome State Fault Refusal :=
  s.sysRead64 (.sysCycr f) f fun s _ => BitVec.ofNat 64 s.coreCycles
/-- SQID. -/
def execSysSqid (f : SForm) (s : State) : Host.Outcome State Fault Refusal := s.sysRead (.sysSqid f) f fun _ c => c.sq.slot
/-- WGID. -/
def execSysWgid (f : SForm) (s : State) : Host.Outcome State Fault Refusal := s.sysRead (.sysWgid f) f fun _ c => c.wg.member
/-- GNGID. -/
def execSysGngid (f : SForm) (s : State) : Host.Outcome State Fault Refusal :=
  s.sysRead (.sysGngid f) f fun _ c => c.wg.gang.gang

/-- The values of LNCH: LSEQ, QID, ward id, tile id, reticle id. -/
def launchValue (s : State) (c : Ctx) (n : Nat) : Nat :=
  match n with
  | 0 => c.wg.gang.launch.seq
  | 1 => c.wg.gang.launch.qid
  | 2 => c.ward s
  | 3 => c.tile
  | _ => reticleOf c.tile

/-- LNCH. -/
def execSysLnch (f : SForm) (s : State) : Host.Outcome State Fault Refusal :=
  s.sysRead (.sysLnch f) f fun s c => launchValue s c f.imm.toNat
/-- AMSK read. -/
def execSysAmskRead (f : SForm) (s : State) : Host.Outcome State Fault Refusal :=
  s.sysRead (.sysAmskRead f) f fun _ c => c.sq.hmsk.toNat
/-- AMSK swap: MASK of `hmsk` is the old A (R322). -/
def execSysAmskSwap (f : SForm) (s : State) : Host.Outcome State Fault Refusal :=
  issue (.sysAmskSwap f) s fun s c =>
    (s.updSquad c.tile c.sq.slot fun q => { q with hmsk := c.uni f.a &&& 0x7FFFFE#32 }).answer (.sysAmskSwap f) c f
      c.sq.hmsk.toNat
/-- XMSK. -/
def execSysXmsk (f : SForm) (s : State) : Host.Outcome State Fault Refusal :=
  s.sysRead (.sysXmsk f) f fun _ c => c.g.threads.toNat

/-- Segment register k of a squad. -/
def Squad.segAt (q : Squad) (k : Nat) : Seg := q.segs.toList.getD k ⟨0, 0⟩

/-- SEGRD. -/
def execSysSegrd (f : SForm) (s : State) : Host.Outcome State Fault Refusal :=
  s.sysRead64 (.sysSegrd f) f fun _ c =>
    let g := c.sq.segAt (f.imm.toNat % 8)
    if f.imm.getLsbD 3 then g.limit else g.base
/-- SEGLD. -/
def execSysSegld (f : SForm) (s : State) : Host.Outcome State Fault Refusal :=
  s.sysDo (.sysSegld f) fun s c => s.updSquad c.tile c.sq.slot fun q =>
    { q with segs := q.segs.setIfInBounds f.imm.toNat ⟨c.pair f.a 0, c.pair (Operand.plus f.a 2) 0⟩ }
/-- SAVEP: the squad's own gang is asked to stop (R116), and waits from now. -/
def execSysSavep (f : SForm) (s : State) : Host.Outcome State Fault Refusal :=
  s.sysDo (.sysSavep f) fun s c =>
    (s.updGang c.wg.gang fun g => if g.stage = .running then { g with stage := .requested } else g).updLaunch
      c.wg.gang.launch fun l => { l with waitSince := s.devclk.toNat }
/-- PRIO. -/
def execSysPrio (f : SForm) (s : State) : Host.Outcome State Fault Refusal :=
  s.sysRead (.sysPrio f) f fun s c => s.effPrio (c.ward s)
/-- IBINV. -/
def execSysIbinv (f : SForm) (s : State) : Host.Outcome State Fault Refusal :=
  s.sysDo (.sysIbinv f) fun s c => s.updTile c.tile fun tl => { tl with icache := [] }
/-- L1INV. -/
def execSysL1inv (f : SForm) (s : State) : Host.Outcome State Fault Refusal :=
  s.sysDo (.sysL1inv f) fun s c => s.updTile c.tile fun tl => { tl with l1 := [] }

/-! ### TLBI (R163, R164) -/

/-- log2 of the page that imm10[1:0] names; none for every page of the tenant. -/
def tlbiLog (n : Nat) : Option Nat := match n % 4 with | 0 => some 12 | 1 => some 21 | 2 => some 30 | _ => none

/-- A range of 2^log bytes at a virtual address shares an address with the page named. -/
def pageMeets (log : Option Nat) (page va entryLog : Nat) : Bool :=
  match log with
  | none => true
  | some k => va / 2 ^ (max k entryLog) = page / 2 ^ (max k entryLog)

/-- No TLB holds a translation of the page any longer, and a walk that faulted there is tried again. -/
def State.tlbi (s : State) (tenant : Nat) (log : Option Nat) (page : Nat) : State :=
  let old (e : TlbEntry) : Bool := e.tenant = tenant && pageMeets log page e.va e.log
  { s with tiles := s.tiles.map fun e => (e.1, { e.2 with tlb := e.2.tlb.filter fun x => !old x })
           reticleTlb := s.reticleTlb.filter fun e => !old e.2
           walks := mapIf (fun w => w.tenant = tenant && pageMeets log page w.va 12) (fun w => { w with retry := true }) s.walks }

/-- TLBI. -/
def execSysTlbi (f : SForm) (s : State) : Host.Outcome State Fault Refusal :=
  s.sysDo (.sysTlbi f) fun s c => s.tlbi (f.imm.toNat / 4) (tlbiLog f.imm.toNat) (c.pair f.a 0).toNat

/-! ### CAPR (R77) -/

/-- The port-role record in force (R21): two bits a port. -/
def State.roleWord (s : State) : Nat := (s.ports.zipIdx.map fun p => p.1.role * 4 ^ p.2).foldl (· + ·) 0

/-- Word k of a 64-bit value. -/
def wordOf (v k : Nat) : Nat := v / 2 ^ (32 * k) % 2 ^ 32

/-- The granule table's entry (R77): its link group, or all ones when unbound. -/
def State.granuleWord (s : State) (k : Nat) : Nat :=
  match tabFind k s.granules with | some g => g.group % 2 ^ 16 | none => 0xFFFF

/-- The emulation table (R369): what an A0 part lacks. -/
def emulationTable (stepping : Nat) : List Nat :=
  if stepping ≠ 0 then []
  else [0x3E + 2 ^ 20, 0x3E + 2 ^ 7 + 2 ^ 20, 0x4D + 2 ^ 20 + 2 ^ 24, 0x7F + 6 * 2 ^ 8 + 2 ^ 20 + 2 ^ 24]

/-- The words of the Core structure. -/
def State.capCore (s : State) (k : Nat) : Nat :=
  match k with
  | 0 => s.flash.stepping
  | 1 => 0x0100
  | 2 => s.bringUp.bstat.toNat
  | 4 => wordOf s.devclk.toNat 0
  | 5 => wordOf s.devclk.toNat 1
  | 6 => s.linkFail.toNat
  | 8 => wordOf s.roleWord 0
  | 9 => wordOf s.roleWord 1
  | 10 | 11 => 4096
  | 12 => 64
  | 14 => wordOf s.hbmLimit 0
  | 15 => wordOf s.hbmLimit 1
  | _ => 0

/-- The words of the Pool structure. -/
def State.capPool (s : State) (k : Nat) : Nat :=
  if k = 0 then (s.ports.filter fun p => p.role = 1 && p.up).length
  else if k = 2 || k = 3 then wordOf (s.granules.length * 2 ^ 30) (k - 2)
  else if 4 ≤ k && k < 4 + 8192 then s.granuleWord (2 * (k - 4)) + 2 ^ 16 * s.granuleWord (2 * (k - 4) + 1)
  else 0

/-- Word k of a structure's body, 0 at or beyond its length. -/
def State.capWord (s : State) (id k : Nat) : Nat :=
  let listed (l : List Nat) : Nat := l.getD k 0
  match id with
  | 1 => s.capCore k
  | 2 => if 16 ≤ k && k < 16 + Config.tileCount then (streetWord s.street (k - 16)).toNat
         else listed [s.rt.word.toNat, s.rt.errWord.toNat, s.plaza]
  | 3 => listed [(s.street.filter fun e => e.2.getLsbD 1).length, 128, 65536, 16]
  | 4 => s.capPool k
  | 5 => listed [4096, 8, 6]
  | 6 => listed [0x000F, 0x001F]
  | 7 => listed [256, 64, 65536]
  | 8 => listed [wordOf s.sampler.setting.ring 0, wordOf s.sampler.setting.ring 1
                 , if s.sampler.setting.logn = 0 then 0 else 64 * 2 ^ s.sampler.setting.logn]
  | 9 => listed [wordOf s.snap.offset 0, wordOf s.snap.offset 1, wordOf s.snap.size 0, wordOf s.snap.size 1]
  | 10 => listed ((emulationTable s.flash.stepping).length :: emulationTable s.flash.stepping)
  | _ => 0

/-- The length of a structure's body in bytes, to the end of its last field (LOG 96). -/
def State.capLength (s : State) (id : Nat) : Nat :=
  match id with
  | 1 => 0x40
  | 2 => 0x40 + 4 * Config.tileCount
  | 3 | 8 | 9 => 0x10
  | 4 => 0x10 + 2 * 16384
  | 5 | 7 => 0x0C
  | 6 => 0x08
  | 10 => 4 + 4 * (emulationTable s.flash.stepping).length
  | _ => 0

/-- What a host reads in the DVSEC of a structure, after its standard header (R77). -/
structure Dvsec where
  vendor : BitVec 16
  id : Nat
  srev : Nat
  body : Nat
  blen : Nat
deriving DecidableEq, Repr

/-- The capability list of a port's function 0: on a host-role port one entry a structure, whose body lies in BAR 2. -/
def State.dvsecs (s : State) (p : Nat) : List Dvsec :=
  if s.hostPort p then (List.range 10).map fun k =>
    ⟨Config.vendorId, k + 1, 1, 2 + 8 * Config.bodyPlace (k + 1), s.capLength (k + 1)⟩
  else []

/-- A host's read of a word of BAR 2 through a port: a word of the body that lies there, the same for every port. -/
def State.bar2Word (s : State) (p a : Nat) : Option Nat :=
  ((s.dvsecs p).find? fun d => d.body / 8 * 8 ≤ a && a < d.body / 8 * 8 + d.blen).map fun d =>
    s.capWord d.id ((a - d.body / 8 * 8) / 4)

/-- CAPR. -/
def execSysCapr (f : SForm) (s : State) : Host.Outcome State Fault Refusal :=
  issue (.sysCapr f) s fun s c =>
    let off := (c.uni f.a).toNat
    if off % 4 ≠ 0 then s.trapAt c Trap.misalign 0 0
    else s.answer (.sysCapr f) c f (s.capWord f.imm.toNat (off / 4))

/-! ### Traps that are held, and power -/

/-- FTST. -/
def execSysFtst (f : SForm) (s : State) : Host.Outcome State Fault Refusal :=
  s.sysRead (.sysFtst f) f fun s c =>
    bit c.sq.wound + 2 * bit c.sq.engine.isSome + 4 * bit (s.lockSquad c.key).revoked
/-- FCLR: the held engine trap goes, and its record stays. -/
def execSysFclr (f : SForm) (s : State) : Host.Outcome State Fault Refusal :=
  s.sysDo (.sysFclr f) fun s c => s.updSquad c.tile c.sq.slot fun q => { q with engine := none }
/-- PSTAT. -/
def execSysPstat (f : SForm) (s : State) : Host.Outcome State Fault Refusal :=
  s.sysRead (.sysPstat f) f fun s _ => s.power.pwrst.toNat

/-! ### Tags (R324, R327) -/

/-- TAGS. -/
def execSysTags (f : SForm) (s : State) : Host.Outcome State Fault Refusal :=
  s.sysRead (.sysTags f) f fun _ c => (c.sq.reg f.imm.toNat).tag

/-- The odd part of a lane distance has this inverse modulo 2^32, by Newton's iteration. -/
def inverse32 (d : Word) : Word := (List.range 5).foldl (fun x _ => x * (2 - d * x)) d

/-- The exponent of 2 in a distance below 32. -/
def twos (d : Nat) : Nat := if d % 2 = 1 then 0 else if d % 4 = 2 then 1 else if d % 8 = 4 then 2 else if d % 16 = 8 then 3 else 4

/-- A base and stride through the values of the lanes, if there is one. -/
def affineFit (ls : List Nat) (v : Nat → Word) : Option (Word × Word) :=
  match ls with
  | [] => none
  | j :: rest =>
    match best (fun a b => twos (a - j) < twos (b - j)) rest with
    | none => none
    | some k =>
      let t := twos (k - j)
      let d := v k - v j
      let s0 := (d >>> t) * inverse32 (BitVec.ofNat 32 ((k - j) / 2 ^ t))
      ((List.range (2 ^ t)).map fun n => s0 + BitVec.ofNat 32 (n * 2 ^ (32 - t))).findSome? fun st =>
        if ls.all fun l => v l = v j + st * BitVec.ofNat 32 (l - j) then some (v j - st * BitVec.ofNat 32 j, st) else none

/-- The narrowest tag for the values in the live lanes; a dead register stays dead. -/
def RegVal.narrow (r : RegVal) (live : Mask) : RegVal :=
  match r with
  | .dead => .dead
  | .uniform _ | .affine _ _ | .general _ =>
    let ls := lanesOf live
    let u := r.lane (ls.headD 0)
    if ls.all fun j => r.lane j = u then .uniform u
    else match affineFit ls r.lane with
      | some (b, st) => .affine b st
      | none => r

/-- TAGC: only the whole live set retags. -/
def execSysTagc (f : SForm) (s : State) : Host.Outcome State Fault Refusal :=
  issue (.sysTagc f) s fun s c =>
    s.retire (.sysTagc f) c fun q =>
      match f.a with
      | .v n => if c.whole then q.setReg n.val ((q.reg n.val).narrow c.sq.live) else q
      | .oc _ | .lt _ | .zero | .lane | .himm | .bad => q

/-- SHPR. -/
def execSysShpr (f : SForm) (s : State) : Host.Outcome State Fault Refusal :=
  s.sysRead (.sysShpr f) f fun _ c =>
    ((List.range 112).map fun n => 2 ^ (8 * (c.sq.reg n).tag)).foldl (· + ·) 0
/-- DEAD: registers A to A + imm10 die when the whole live set executes it (R145). -/
def execSysDead (f : SForm) (s : State) : Host.Outcome State Fault Refusal :=
  issue (.sysDead f) s fun s c =>
    s.retire (.sysDead f) c fun q =>
      match f.a with
      | .v n => if c.whole then (List.range (f.imm.toNat + 1)).foldl (fun q k => q.setReg (n.val + k) .dead) q else q
      | .oc _ | .lt _ | .zero | .lane | .himm | .bad => q

/-! ### SNAP and CSUM (R378, R379, R324) -/

/-- One byte into a reflected CRC-32C. -/
def crcByte (crc : Word) (b : Byte) : Word :=
  (List.range 8).foldl (fun x _ => if x.getLsbD 0 then (x >>> 1) ^^^ 0x82F63B78#32 else x >>> 1) (crc ^^^ b.setWidth 32)

/-- CSUM. -/
def execSysCsum (f : SForm) (s : State) : Host.Outcome State Fault Refusal :=
  s.sysRead (.sysCsum f) f fun _ c =>
    let r := c.src (Operand.ofBits (f.imm.extractLsb' 0 7))
    let bytes := (List.range 32).flatMap fun j => leBytes 4 (if c.g.threads.getLsbD j then (r.lane j).toNat else 0)
    (bytes.foldl crcByte (c.uni f.a)).toNat

/-- The first 20 bytes of a capture record that a SNAP makes: its key and its value. -/
def Ctx.snapKey (c : Ctx) (tag : Nat) : List Byte :=
  leBytes 8 (c.wg.gang.gang + 2 ^ 32 * c.wg.member + 2 ^ 36 * c.sq.slot + 2 ^ 40 * tag) ++ leBytes 4 c.sq.cmdSeq.toNat

/-- The value of the first record of a buffer with a key, among those that satisfy a test on LSEQ. -/
def State.snapFind (s : State) (z : SnapSetting) (key : List Byte) (p : Nat → Bool) : Option Nat :=
  (List.range (min (s.num z.offset 4) (z.size / 32))).findSome? fun k =>
    let a := z.offset + 64 + 32 * k
    if s.peekN a 12 = key && p (s.num (a + 20) 4) then some (s.num (a + 12) 4) else none

/-- The key under which a launch remembers a record that it has written. -/
def Ctx.snapName (c : Ctx) (tag : Nat) : Nat × Nat × Nat × Nat × Word :=
  (c.wg.gang.gang, c.wg.member, c.sq.slot, tag, c.sq.cmdSeq)

/-- A store of the device's own into the buffer, whose invalidations releases wait for (R210). -/
def State.snapStore (s : State) (t tenant pa : Nat) (bs : List Byte) : State := (s.bankWrite t tenant pa bs).noteAgent t pa

/-- What the device reads of a buffer that lies in host-bias pages, its header and its records, is obtained from the host (R79,
R383). -/
def State.obtainSnap (s : State) (z : SnapSetting) : State :=
  if s.hostBias = [] then s
  else
    let s := s.obtainRead z.offset
    (List.range (min (s.num z.offset 4) (z.size / 32))).foldl (fun s k => s.obtainRead (z.offset + 64 + 32 * k)) s

/-- Capture: a record of a key that is new in the launch, where the buffer has room. -/
def State.capture (s : State) (c : Ctx) (z : SnapSetting) (tag : Nat) (v : Word) : State :=
  let s := s.obtainSnap z
  let n := s.num z.offset 4
  let tenant := c.tenant s
  if (c.launch s).any fun l => l.snapped.contains (c.snapName tag) then s
  else if z.size < 64 + 32 * (n + 1) then s.snapStore c.tile tenant z.offset (leBytes 8 (n + 2 ^ 32))
  else
    let rec32 := c.snapKey tag ++ leBytes 4 v.toNat ++ leBytes 4 c.site.toNat ++ leBytes 4 c.wg.gang.launch.seq
      ++ List.replicate 8 0
    let s := s.updLaunch c.wg.gang.launch fun l => { l with snapped := l.snapped ++ [c.snapName tag] }
    (s.snapStore c.tile tenant (z.offset + 64 + 32 * n) rec32).snapStore c.tile tenant z.offset (leBytes 4 (n + 1))

/-- Compare: the squad halts with a record after a SNAP whose value differs or has no record. -/
def State.compare (s : State) (i : Instr) (c : Ctx) (z : SnapSetting) (tag : Nat) (v : Word) : State :=
  let s := s.obtainSnap z
  let found := s.snapFind z (c.snapKey tag) fun _ => true
  let s := s.retire i c id
  if found = some v.toNat then s
  else
    let addr := match found with | some x => x | none => 2 ^ 32
    let r := c.regs Trap.brk (tag + 2 ^ 16) addr false
    (s.raise (s.squadRecord c.tile c.wg c.sq.slot r 0)).updSquad c.tile c.sq.slot fun q => { q with halted := true }

/-- SNAP. -/
def execSysSnap (f : SForm) (s : State) : Host.Outcome State Fault Refusal :=
  issue (.sysSnap f) s fun s c =>
    match (c.launch s).bind (·.snap) with
    | none => s.retire (.sysSnap f) c id
    | some z =>
      if z.mode = 1 then (s.capture c z f.imm.toNat (c.uni f.a)).retire (.sysSnap f) c id
      else if z.mode = 2 then s.compare (.sysSnap f) c z f.imm.toNat (c.uni f.a)
      else s.retire (.sysSnap f) c id

/-! ### Routing tables, street map and regions -/

/-- RTBL. -/
def execSysRtbl (f : SForm) (s : State) : Host.Outcome State Fault Refusal :=
  s.sysRead (.sysRtbl f) f fun s c =>
    let a := (c.uni f.a).toNat
    let t := a % 2 ^ 12
    let d := a / 2 ^ 12 % 2 ^ 12
    if Config.tileCount ≤ t || Config.tileCount < d then 0
    else ((if bitOf a 24 then s.staging else s.active).entry t d).toNat

/-- A write of a staging entry: discarded with BUSY while a commit runs (R56). -/
def State.writeStaging (s : State) (a v : Nat) : State :=
  let t := a % 2 ^ 12
  let d := a / 2 ^ 12 % 2 ^ 12
  if s.rt.state ≠ 0 then { s with rt := { s.rt with err := 6 } }
  else if Config.tileCount ≤ t || Config.tileCount < d then s
  else { s with staging := { s.staging with written := tabSet (t * 2689 + d) (BitVec.ofNat 16 v) s.staging.written } }

/-- WTBL. -/
def execSysWtbl (f : SForm) (s : State) : Host.Outcome State Fault Refusal :=
  s.sysDo (.sysWtbl f) fun s c => s.writeStaging ((c.pair f.a 0).toNat % 2 ^ 32) ((c.pair f.a 0).toNat / 2 ^ 32)
/-- DMAP. -/
def execSysDmap (f : SForm) (s : State) : Host.Outcome State Fault Refusal :=
  s.sysRead (.sysDmap f) f fun s c =>
    let t := (c.uni f.a).toNat
    if Config.tileCount ≤ t then 0 else (streetWord s.street t).toNat

/-- PMAP (R328). -/
def execSysPmap (f : SForm) (s : State) : Host.Outcome State Fault Refusal :=
  issue (.sysPmap f) s fun s c =>
    match s.resolve c .gseg .read false 1 0 [0] (fun _ => ((c.pair f.a 0).toNat : Int)) with
    | (s, .error e) => s.memFault c e false
    | (s, .ok ts) =>
      let pa := match ts with | (_, .phys pa) :: _ => pa | _ => 0
      let bits := ((s.region? pa).getD (.fresh (regionAt pa 0) (s.anchor pa) 0)).bits
      s.retire (.sysPmap f) c fun q =>
        (List.range 6).foldl (fun q k => c.write q (Operand.plus f.a k) (.uniform (BitVec.ofNat 32 (bits / 2 ^ (32 * k))))) q

/-! ### HALT and RESM (R320, R329) -/

/-- The squads that A names. -/
def State.named (a : Nat) (q : Squad) : Bool := bitOf a 16 || q.slot = a / 2 ^ 12 % 16

/-- A holds a value that has a reserved bit set. -/
def Ctx.haltWrong (c : Ctx) (i : Instr) (f : SForm) : Bool :=
  !isStale i c && !isMisshapen i c && (c.uni f.a).toNat / 2 ^ 17 ≠ 0

/-- Halts or resumes the squads that A names; reserved bits raise ILLEGAL, before the other traps at issue (R148). -/
def State.setHalted (i : Instr) (f : SForm) (v : Bool) (s : State) : Host.Outcome State Fault Refusal :=
  issueIf i (fun c => c.haltWrong i f) (fun _ => false) s fun s c =>
    let a := (c.uni f.a).toNat
    let s := s.retire i c id
    match tabFind (a % 2 ^ 12) s.tiles with
    | none => s
    | some _ => s.updWg (a % 2 ^ 12) fun w => { w with squads := mapIf (State.named a) (fun q => { q with halted := v && !q.ended }) w.squads }

/-- HALT. -/
def execSysHalt (f : SForm) (s : State) : Host.Outcome State Fault Refusal := s.setHalted (.sysHalt f) f true
/-- RESM with imm10 = 1. -/
def execSysResmHalted (f : SForm) (s : State) : Host.Outcome State Fault Refusal := s.setHalted (.sysResmHalted f) f false

/-- RESM with imm10 = 0. -/
def execSysResm (f : SForm) (s : State) : Host.Outcome State Fault Refusal :=
  issue (.sysResm f) s fun s c =>
    let t : Int := c.sq.trap.pc.toNat
    if !c.sq.intrap then s.trapAt c Trap.illegal 0 0
    else if t % 4 ≠ 0 then s.trapAt c Trap.misalign 0 t.toNat
    else if !segCheck c.sq .iseg t 4 then s.trapAt c Trap.segment 0 t.toNat
    else s.putSquad c.tile (((s.squad? c.tile c.sq.slot).getD c.sq).leaveHandler c.g s.coreCycles) 0

/-- RESM with imm10 = 2. -/
def execSysResmDefault (f : SForm) (s : State) : Host.Outcome State Fault Refusal :=
  issue (.sysResmDefault f) s fun s c =>
    if !c.sq.intrap then s.trapAt c Trap.illegal 0 0 else s.defaultWound c.tile c.sq.slot c.wg

/-! ### EVPST and SLEEP -/

/-- EVPST. -/
def execSysEvpst (f : SForm) (s : State) : Host.Outcome State Fault Refusal :=
  issue (.sysEvpst f) s fun s c =>
    match s.postEvent c.tile f.imm.toNat c.sq.slot 0 (c.uni f.a).toNat with
    | none => s.queueTrap c QueueCode.event
    | some s => s.retire (.sysEvpst f) c id

/-- SLEEP: a deschedule point; a sleep whose timer has fired is over (R330). -/
def execSysSleep (f : SForm) (s : State) : Host.Outcome State Fault Refusal :=
  issue (.sysSleep f) s fun s c =>
    match c.g.blocked with
    | some (.sleep target fired) => if fired then s.retire (.sysSleep f) c id else s.block c (.sleep target false)
    | some (.waitp _ _) | some (.qpop _) | some (.anchor _) | some (.home _) | some (.release _) | some .fence | some .snoops
    | some .unbind | some (.page _ _) | some (.answer _ _ _) | none =>
      let s := s.updSquad c.tile c.sq.slot Squad.deschedule
      let target := s.devclk.toNat + (c.uni f.a).toNat
      if c.uni f.a = 0 then s.retire (.sysSleep f) c id else s.block c (.sleep target false)

end Sys2Proof.Machine
end

