-- ==== Sys2Proof/Machine/Mailbox.lean ====
section
/-! DEFINITION. The management mailbox (R65, R66): roles, images, identity, marks, checkpoints, bias flips, launch queues,
the pool, peers, the sampler and capture. -/

namespace Sys2Proof.Machine

open Sys2Proof.Config

/-- A command of a number is served on a port: ports 0 and 1 present mailboxes while they hold the host role (R65), and in phase 0
of bring-up, which offers no service (R29), they take the push of an image alone (R37). -/
def State.mailbox (s : State) (p opcode : Nat) : Bool :=
  p ≤ 1 && s.hostPort p && (s.bringUp.phase ≠ 0 || opcode = 0xC001 || opcode = 0xC002)

/-- A mailbox command: it is answered with a code and bytes, and a command that is not a success changes nothing. -/
def State.command (s : State) (port opcode : Nat) (check : Option MbCode) (act : State → State) (out : List Byte) : State :=
  if !s.mailbox port opcode then s
  else match check with
    | some c => s.mbAnswer port opcode c []
    | none => (act s).mbAnswer port opcode .success out

/-- A background command: it is answered Background now, and with its completion later. Its caller's check says which running
commands it conflicts with: those of its kind, and of these only overlapping ones where they name ranges (LOG 39). -/
def State.backCommand (s : State) (port opcode : Nat) (check : Option MbCode) (b : Background) (act : State → State) : State :=
  if !s.mailbox port opcode then s
  else match check with
    | some c => s.mbAnswer port opcode c []
    | none => ({ act s with background := s.background ++ [(port, b)] } : State).mbAnswer port opcode .background []

/-- A condition that makes a command fail with a code. -/
def failsWith (b : Bool) (c : MbCode) : Option MbCode := if b then some c else none

/-- The first failing condition. -/
def firstFail (cs : List (Option MbCode)) : Option MbCode := cs.findSome? id

/-- A background command that satisfies a test is running. -/
def State.running (s : State) (p : Background → Bool) : Bool := s.background.any fun e => p e.2

/-- The first background command that satisfies a test. -/
def State.runningOne (s : State) (p : Background → Bool) : Option (Nat × Background) := s.background.find? fun e => p e.2

/-- A background command ends with an answer. -/
def State.finish (s : State) (e : Nat × Background) (opcode : Nat) (out : List Byte) : State :=
  ({ s with background := s.background.erase e } : State).mbAnswer e.1 opcode .success out

/-! ### Standard commands (R65, R96) -/

/-- The records of the event log, as the event-record command returns them. -/
def State.eventBytes (s : State) : List Byte := (s.eventLog.zipIdx.map fun r => r.1.bytes (r.2 + 1) 0).flatten

/-- STANDARD_COMMAND: the event log is read and cleared; the other answers' contents are those of the CXL standard, which
the specification does not give: free values (LOG 8, LOG 39). -/
def execStandardCommand (s : State) : Host.Outcome State Fault Refusal :=
  match s.input with
  | .standardCommand p op _ =>
    let known := op ∈ [0x0001#16, 0x0200#16, 0x0400#16, 0x0401#16, 0x4000#16]
    if op = 0x0100 then .next (s.command p 0x0100 none id s.eventBytes)
    else if op = 0x0101 then .next (s.command p 0x0101 none (fun s => { s with eventLog := [] }) [])
    else if known then
      .next (s.command p op.toNat none (fun s => { s with freeCtr := s.freeCtr + 64 })
        ((List.range 64).map fun i => freeByte (s.freeCtr + i)))
    else .next (s.command p op.toNat (some .unsupported) id [])
  | _ => .next s

/-! ### Roles, images, identity (R21, R37, R38) -/

/-- SETROLES: the record is stored, and takes effect at the next reset. -/
def execSetroles (s : State) : Host.Outcome State Fault Refusal :=
  match s.input with
  | .setroles p r => .next (s.command p 0xC000 none (fun s => { s with flash := { s.flash with roles := r } }) [])
  | _ => .next s

/-- The longest image. -/
def imageLimit : Nat := 0x40 + 2 ^ 24 + 64

/-- An image is being written to flash. -/
def State.writingImage (s : State) : Bool := s.running fun b => b = .image

/-- IMGCHUNK. -/
def execImgchunk (s : State) : Host.Outcome State Fault Refusal :=
  match s.input with
  | .imgchunk p o bs =>
    .next (s.command p 0xC001
      (firstFail [failsWith (4096 < bs.length || imageLimit < o + bs.length) .invalidInput, failsWith s.writingImage .busy])
      (fun s => { s with staged := Memory.writeN s.staged o bs }) [])
  | _ => .next s

/-- IMGCOMMIT: an image that fails the checks of the boot ROM is rejected at once, as Invalid Input, which R66 does not say
(LOG 105), and flash is left as it is. -/
def execImgcommit (s : State) : Host.Outcome State Fault Refusal :=
  match s.input with
  | .imgcommit p n =>
    let b := Memory.readN s.staged 0 n
    .next (s.backCommand p 0xC002
      (firstFail [failsWith s.writingImage .busy
        , failsWith (imageLimit < n || !imageAccepted b s.flash.minSvn s.flash.keyDigest) .invalidInput])
      .image fun s => { s with flashWrite := some b })
  | _ => .next s

/-- IMGCOMMIT_COMPLETE. -/
def execImgcommitComplete (s : State) : Host.Outcome State Fault Refusal :=
  match s.flashWrite, s.runningOne fun b => b = .image with
  | some b, some e =>
    .next (({ s with flash := { s.flash with image := b, torn := false }, flashWrite := none } : State).finish e 0xC002 [])
  | _, _ => .next s

/-- Bytes of a digest, as SHA-256 orders them. -/
def digestBytes (d : BitVec 256) : List Byte := (leBytes 32 d.toNat).reverse

/-- The first 128 bytes of the identity report. -/
def State.report (s : State) (nonce : BitVec 256) : List Byte :=
  leBytes 16 s.flash.serial.toNat ++ digestBytes s.bringUp.digest ++ leBytes 4 (s.bringUp.svn.toNat + 256 * s.flash.stepping)
    ++ leBytes 4 s.bringUp.bstat.toNat ++ leBytes 8 s.roleWord
    ++ digestBytes (sha256 ((List.range tileCount).flatMap fun t => leBytes 4 (streetWord s.street t).toNat))
    ++ leBytes 32 nonce.toNat

/-- IDREPORT. -/
def execIdreport (s : State) : Host.Outcome State Fault Refusal :=
  match s.input with
  | .idreport p n => .next (s.command p 0xC003 none id (s.report n ++ (deviceSign (s.report n)).take 64))
  | _ => .next s

/-- CERTREAD. -/
def execCertread (s : State) : Host.Outcome State Fault Refusal :=
  match s.input with
  | .certread p o => .next (s.command p 0xC004 none id ((s.flash.certificate.drop o).take 4096))
  | _ => .next s

/-! ### Marks (R52) -/

/-- The part exists. -/
def partExists : Part → Bool
  | .tile t | .bank t | .router t => t < tileCount
  | .link t p => t < tileCount && (neighbour t p).isSome

/-- The part becomes defective: a bank is emptied before it leaves the map (R179); the rest waits for a commit. -/
def State.markPart (s : State) (p : Part) : State :=
  let s : State := { s with marks := s.marks ++ [p] }
  match p with
  | .tile _ | .link _ _ => s.loseParts [p]
  | .bank t | .router t => if s.bgood t then { s with emptying := s.emptying ++ [t] } else s.loseParts [p]

/-- MARK: a new table generation is built against the mark, and its commit ends the command. -/
def execMark (s : State) : Host.Outcome State Fault Refusal :=
  match s.input with
  | .mark p part =>
    let busy := s.running fun b => match b with | .mark _ => true | _ => false
    let bad := firstFail [failsWith (!partExists part) .invalidInput, failsWith busy .busy]
    .next (s.backCommand p 0xC005 bad (.mark part) fun s => s.markPart part)
  | _ => .next s

/-! ### Checkpoints (R39, R40) -/

/-- The region that starts at a granule lies inside the safe region of the management ward. -/
def State.safeRegion (s : State) (r : Nat) : Bool :=
  (s.ward? 0).any fun w => w.safeg ≤ r && r + checkpointGranules ≤ w.safeg + w.safen

/-- CHKPT: placement stops, and every running gang is pre-empted. -/
def execChkpt (s : State) : Host.Outcome State Fault Refusal :=
  match s.input with
  | .chkpt p r =>
    .next (s.backCommand p 0xC006
      (firstFail [failsWith (!s.safeRegion r) .invalidInput, failsWith s.checkpoint.isSome .busy])
      (.checkpoint r) fun s => ({ s with checkpoint := some ⟨r, p⟩ } : State).requestAll)
  | _ => .next s

/-- The whole of HBM is copied to a region: its bytes, and the lines in error. -/
def State.copyHbm (s : State) (r : Nat) : State :=
  let base := poolBase + r * 2 ^ 30
  let cells := s.mem.filter fun c => c.1 < hbmEnd
  let cleared := Memory.clear s.mem base (base + hbmEnd)
  let inside (l : Nat) : Bool := base ≤ 128 * l && 128 * l < base + hbmEnd
  { s with mem := cells.foldl (fun m c => Memory.write m (base + c.1) c.2) cleared
           replicas := s.replicas.filter fun x => !inside x.line
           inError := s.inError.filter (fun l => !inside l)
             ++ (s.inError.filter fun l => 128 * l < hbmEnd).map fun l => l + base / 128 }

/-- The record of a checkpoint: its status, the failing region and link group, and `devclk` (LOG 36). -/
def State.checkpointRecord (s : State) (f : Option (Nat × Nat)) : List Byte :=
  match f with
  | none => leBytes 8 0 ++ leBytes 8 s.devclk.toNat
  | some (r, g) => leBytes 8 (1 + 2 ^ 16 * (g % 2 ^ 16) + 2 ^ 32 * r) ++ leBytes 8 s.devclk.toNat

/-- CHECKPOINT_COMPLETE: once every gang is off the wafer, modified lines go home and HBM is copied, unless a pool fault
strikes the region; launches and peer traffic go on. -/
def execCheckpointComplete (s : State) : Host.Outcome State Fault Refusal :=
  match s.input, s.checkpoint, s.runningOne fun b => match b with | .checkpoint _ => true | _ => false with
  | .checkpointComplete f, some c, some e =>
    if !s.allSaved then .next s.requestAll
    else
      let s := s.writeAllHome
      let f := f.orElse fun _ => s.regionFault c.region
      let s := if f.isNone then s.copyHbm c.region else s
      let retry := s.peerRefused.map fun x => (⟨.peerChunkArrival, .peerChunkArrival x⟩ : Pending)
      .next (({ s with checkpoint := none, peerRefused := [], agenda := s.agenda ++ retry } : State).finish e 0xC006
        (s.checkpointRecord f))
  | _, _, _ => .next s

/-! ### Bias flips (R80, R382, R383) -/

/-- Two ranges of pages or granules meet. -/
def rangesMeet (a n b m : Nat) : Bool := a < b + m && b < a + n

/-- A page's lines, as line numbers. -/
def inPage (page line : Nat) : Bool := line / 32 = page

/-- BIASFLIP, step 1: the pages that are not in the target bias are marked flipping. -/
def execBiasflip (s : State) : Host.Outcome State Fault Refusal :=
  match s.input with
  | .biasflip p x =>
    let off := (x.extractLsb' 0 64).toNat
    let n := (x.extractLsb' 64 21).toNat
    let toHost := x.getLsbD 88
    let bad := off % 4096 ≠ 0 || s.hbmLimit < off + 4096 * n || n = 0 || 1048576 < n || x.extractLsb' 85 3 ≠ 0
      || x.extractLsb' 89 39 ≠ 0
    let busy := s.running fun b => match b with | .biasFlip a m _ => rangesMeet a m (off / 4096) n | _ => false
    .next (s.backCommand p 0xC007 (firstFail [failsWith bad .invalidInput, failsWith busy .busy])
      (.biasFlip (off / 4096) n toHost) fun s =>
        { s with flipping := s.flipping ++ ((List.range n).map fun i => off / 4096 + i).filter fun g =>
            s.hostBias.contains g ≠ toHost })
  | _ => .next s

/-- Steps 2 to 4 of one page to host bias: modified lines go to HBM, every copy and replica goes, the bit is set. -/
def State.pageToHost (s : State) (g : Nat) : State :=
  let s := s.evict (inPage g)
  ({ s with replicas := s.replicas.filter (fun r => !inPage g r.line)
            hostBias := s.hostBias ++ [g], flipping := s.flipping.filter fun x => x ≠ g } : State).prune

/-- The lines of a page that the host's caches hold modified and that the device does not hold owned. -/
def State.hostModified (s : State) (g : Nat) : List Nat :=
  (dedup (s.hostLines.map fun h => h.1 / 2)).filter fun l => inPage g l && !(s.wcLine? l).any fun x => x.hostHeld && x.owned

/-- Steps 2 to 4 of one page to device bias: the host gives up its lines, and the modified data that it returns goes to HBM;
what the device holds stays at its serving bank (R80, R383). -/
def State.pageToDevice (s : State) (g : Nat) : State :=
  let s := (s.hostModified g).foldl State.hostGives s
  { s with wc := mapIf (fun l => inPage g l.line) (fun l => { l with hostHeld := false, owned := false }) s.wc
           hostBias := s.hostBias.filter (fun x => x ≠ g), flipping := s.flipping.filter fun x => x ≠ g }

/-- BIASFLIP_COMPLETE: the flip that has run longest performs steps 2 to 4 of its pages, in ascending order. -/
def execBiasflipComplete (s : State) : Host.Outcome State Fault Refusal :=
  match s.runningOne fun b => match b with | .biasFlip _ _ _ => true | _ => false with
  | some (p, .biasFlip a n toHost) =>
    let pages := ((List.range n).map fun i => a + i).filter fun g => s.flipping.contains g
    .next ((pages.foldl (if toHost then State.pageToHost else State.pageToDevice) s).finish (p, .biasFlip a n toHost) 0xC007 [])
  | _ => .next s

/-- n bits as bytes, the first the lowest. -/
def bitBytes (bs : List Bool) : List Byte :=
  leBytes ((bs.length + 7) / 8) ((bs.zipIdx.map fun b => bit b.1 * 2 ^ b.2).foldl (· + ·) 0)

/-- BIASREAD. -/
def execBiasread (s : State) : Host.Outcome State Fault Refusal :=
  match s.input with
  | .biasread p off n =>
    let bad := off % 4096 ≠ 0 || n = 0 || 32768 < n || s.hbmLimit < off + 4096 * n
    .next (s.command p 0xC008 (failsWith bad .invalidInput) id
      (bitBytes ((List.range n).map fun i => s.hostBias.contains (off / 4096 + i))))
  | _ => .next s

/-! ### Launch queues (R67, R68) -/

/-- A queue from its descriptor. -/
def queueOf (d : BitVec 512) : LaunchQueue :=
  let f (o n : Nat) : Nat := (d.toNat / 2 ^ o) % 2 ^ n
  { enabled := true, ring := f 0 64, tailA := f 64 64, headA := f 128 64, cring := f 192 64, ward := f 256 12, logn := f 268 4
    port := f 272 5, msix := f 288 16, head := f 320 32, qerr := 0, watching := false, tail := f 320 32, ended := []
    held := [], headDirty := false }

/-- A field of a descriptor is out of range, misaligned or reserved. -/
def descriptorWrong (d : BitVec 512) : Bool :=
  let q := queueOf d
  q.ring % 4096 ≠ 0 || q.tailA % 64 ≠ 0 || q.headA % 64 ≠ 0 || q.cring % 4096 ≠ 0 || q.logn < 6
    || d.extractLsb' 277 11 ≠ 0 || d.extractLsb' 304 16 ≠ 0 || d.extractLsb' 352 32 ≠ 0 || d.extractLsb' 384 128 ≠ 0

/-- The line at an address lies in the ring, the completion ring, or is the tail or head line of a queue. -/
def LaunchQueue.usesLine (q : LaunchQueue) (a : Nat) : Bool :=
  let inside (base n : Nat) : Bool := base / 64 ≤ a / 64 && a < base + n
  inside q.ring (64 * q.size) || inside q.cring (32 * q.size) || q.tailA / 64 = a / 64 || q.headA / 64 = a / 64

/-- The check of ENABLE. The tail and head lines are compared with the rings and lines of the other enabled queues alone
(LOG 97), by their addresses, whatever port they are watched through (LOG 103). -/
def State.enableWrong (s : State) (qid : Nat) (d : BitVec 512) : Bool :=
  let q := queueOf d
  descriptorWrong d || s.role q.port ≠ 0 || (s.ward? q.ward).isNone
    || s.queues.any fun e => e.1 ≠ qid && e.2.enabled && (e.2.usesLine q.tailA || e.2.usesLine q.headA)

/-- QCTL ENABLE. A queue that is enabled answers Busy before the descriptor is judged (LOG 97). -/
def execQctlEnable (s : State) : Host.Outcome State Fault Refusal :=
  match s.input with
  | .qctlEnable p qid d =>
    let on := (tabFind qid s.queues).any fun q => q.enabled
    .next (s.command p 0xC009
      (firstFail [failsWith (4096 ≤ qid) .invalidInput, failsWith on .busy, failsWith (s.enableWrong qid d) .invalidInput])
      (fun s => { s with queues := tabSet qid { queueOf d with
          held := ((tabFind qid s.queues).map (·.held)).getD [] } s.queues }) [])
  | _ => .next s

/-- QCTL DISABLE. -/
def execQctlDisable (s : State) : Host.Outcome State Fault Refusal :=
  match s.input with
  | .qctlDisable p qid => .next (s.command p 0xC009 (failsWith (4096 ≤ qid) .invalidInput) (fun s => s.disableQueue qid) [])
  | _ => .next s

/-- The descriptor with the device's head count, then HEAD and QERR as 4-byte words, a layout that R68 does not give (LOG 104). -/
def LaunchQueue.bytes (q : LaunchQueue) : List Byte :=
  leBytes 8 q.ring ++ leBytes 8 q.tailA ++ leBytes 8 q.headA ++ leBytes 8 q.cring
    ++ leBytes 4 (q.ward + 2 ^ 12 * q.logn + 2 ^ 16 * q.port) ++ leBytes 4 q.msix ++ leBytes 8 q.head ++ List.replicate 16 0
    ++ leBytes 4 q.head ++ leBytes 4 q.qerr

/-- QCTL READ. -/
def execQctlRead (s : State) : Host.Outcome State Fault Refusal :=
  match s.input with
  | .qctlRead p qid =>
    .next (s.command p 0xC009 (failsWith (4096 ≤ qid) .invalidInput) id
      (((tabFind qid s.queues).map LaunchQueue.bytes).getD (List.replicate 72 0)))
  | _ => .next s

/-! ### The pool and peers (R82, R85) -/

/-- POOLBIND. -/
def execPoolbind (s : State) : Host.Outcome State Fault Refusal :=
  match s.input with
  | .poolbind p a n g =>
    let bad := n = 0 || 16384 < a + n || (tabFind g s.linkGroups).isNone
    let busy := s.running fun b => match b with | .poolBind b m _ => rangesMeet a n b m | _ => false
    .next (s.backCommand p 0xC00A (firstFail [failsWith bad .invalidInput, failsWith busy .busy]) (.poolBind a n g) id)
  | _ => .next s

/-- POOLBIND_COMPLETE: the granules are bound, and no longer lost unless their group is. Granules that were bound already keep
their bytes, and the cache its lines of them (LOG 97). -/
def execPoolbindComplete (s : State) : Host.Outcome State Fault Refusal :=
  match s.runningOne fun b => match b with | .poolBind _ _ _ => true | _ => false with
  | some (p, .poolBind a n g) =>
    let lost := s.groupDown ((tabFind g s.linkGroups).getD [])
    .next (({ s with granules := (List.range n).foldl (fun t i => tabSet (a + i) ⟨g, lost⟩ t) s.granules } : State).finish
      (p, .poolBind a n g) 0xC00A [])
  | _ => .next s

/-- PEERSET. -/
def execPeerset (s : State) : Host.Outcome State Fault Refusal :=
  match s.input with
  | .peerset p i e =>
    .next (s.command p 0xC00B (failsWith (64 ≤ i) .invalidInput) (fun s => { s with peers := tabSet i e s.peers }) [])
  | _ => .next s

/-! ### Observation (R376, R378) -/

/-- A setting of the sampler is out of range. -/
def State.samplerWrong (s : State) (z : SampSetting) : Bool :=
  2 < z.mode || (z.mode = 2 && s.flash.stepping = 0) || (z.mode ≠ 0 && (z.ring % 4096 ≠ 0 || z.logn < 6 || 16 < z.logn
    || s.role z.port ≠ 0 || z.per < 10 || 24 < z.per || 4096 ≤ z.ward))

/-- SAMPCTL. -/
def execSampctl (s : State) : Host.Outcome State Fault Refusal :=
  match s.input with
  | .sampctl p z =>
    .next (s.command p 0xC00C (failsWith (s.samplerWrong z) .invalidInput)
      (fun s => { s with sampler := { setting := z, seq := 0, done := [], start := s.coreCycles, taken := [] } }) [])
  | _ => .next s

/-- A setting of capture or compare is out of range. -/
def State.snapWrong (s : State) (z : SnapSetting) : Bool :=
  2 < z.mode || (s.ward? z.ward).isNone || (z.mode ≠ 0 && (z.offset % 4096 ≠ 0 || z.size % 4096 ≠ 0 || z.size = 0
    || s.hbmLimit < z.offset + z.size))

/-- SNAPCTL: it applies to launches of the ward accepted from now on; a capture buffer gets an empty header. -/
def execSnapctl (s : State) : Host.Outcome State Fault Refusal :=
  match s.input with
  | .snapctl p z =>
    .next (s.command p 0xC00D (failsWith (s.snapWrong z) .invalidInput)
      (fun s =>
        let others := s.snaps.filter fun y => y.ward ≠ z.ward
        let s := { s with snap := z, snaps := if z.mode = 0 then others else z :: others }
        if z.mode = 1 then s.bankWrite s.plaza 0 z.offset (List.replicate 64 0) else s) [])
  | _ => .next s

end Sys2Proof.Machine
end

