-- ==== Sys2Proof/Machine/Sampling.lean ====
section
/-! DEFINITION. The sampler (R376, R377): which instruction a tile samples, and the record it writes. -/

namespace Sys2Proof.Machine

open Sys2Proof.Config

/-- The sampling period that core cycles lie in. -/
def Sampler.period (z : Sampler) (now : Nat) : Nat := (now - z.start) / 2 ^ z.setting.per

/-- A new period begins: no tile has sampled in it. -/
def Sampler.renew (z : Sampler) (now : Nat) : Sampler :=
  if z.period now = 0 then z else { z with done := [], start := z.start + z.period now * 2 ^ z.setting.per }

/-- The mode and the ward filter admit an instruction. -/
def Sampler.admits (z : Sampler) (governed : Bool) (ward : Nat) : Bool :=
  (z.setting.mode = 1 || (z.setting.mode = 2 && governed)) && (z.setting.ward = 0xFFF || z.setting.ward = ward)

/-- The random point of the period has passed for a tile that has not sampled in it. -/
def Sampler.looks (z : Sampler) (t now : Nat) : Bool :=
  !z.done.contains t && z.start + samplePoint z.start t % 2 ^ z.setting.per ≤ now

/-- What the sampler notes of an instruction that issues. -/
def State.issued (s : State) (c : Ctx) (w : Word) (result : Bool) : Issued :=
  let prof := c.g.hints.bind (·.prof)
  { tile := c.tile, slot := c.sq.slot, governed := prof.isSome, prof := (prof.map (·.toNat)).getD 0, site := c.site.toNat
    word := w, ward := c.ward s, gang := c.wg.gang, member := c.wg.member, threads := maskCount c.g.threads
    time := s.devclk, cmdSeq := c.sq.cmdSeq, result := result, cause := c.g.cause }

/-- A fence of its group holds the instruction back, and it does not issue yet (R292). -/
def State.fenced (s : State) (c : Ctx) (i : Instr) : Bool := fencedRow i && (s.passFences c).2.g.fences ≠ []

/-- An instruction issues: the tile samples it if it is the first that qualifies at or after the period's point. Hint
words govern an instruction and are not sampled themselves; an instruction that is tried again after a wait in it issued before. -/
def State.noteIssue (s : State) (i : Instr) : State :=
  if s.sampler.setting.mode = 0 then s
  else match s.ctx, encode i with
    | some c, some w =>
      let z := s.sampler.renew s.coreCycles
      let x := s.issued c w (writeOps i ≠ [])
      if w.extractLsb' 25 7 ≠ 0x7F#7 && !c.g.inWait && !s.fenced c i && z.looks c.tile s.coreCycles && z.admits x.governed x.ward then
        { s with sampler := { z with done := c.tile :: z.done, taken := z.taken ++ [x] } }
      else { s with sampler := z }
    | _, _ => s

/-- The cause of the last wait: parked, held by the skew rule or blocked; or a free choice of those that the model does not
follow: none, interlock, collector, not picked (LOG 2, LOG 101). -/
def Issued.waitCause (x : Issued) (free : Nat) : Nat :=
  if x.cause ≠ 0 then x.cause else [0, 1, 2, 5].getD ((freeWord free).toNat % 4) 0

/-- The 64 bytes of a sample record. The cycles at 0x28 are timing, which the model does not follow: free values, but for an
instruction without a result, which counts 0 to its result (LOG 2, LOG 8). -/
def Issued.bytes (x : Issued) (seq free : Nat) : List Byte :=
  leBytes 4 seq ++ leBytes 4 (x.tile + 2 ^ 12 * x.slot + 2 ^ 16 * x.prof) ++ leBytes 4 x.site ++ leBytes 4 x.word.toNat
    ++ leBytes 4 (x.ward + 2 ^ 12 * x.gang.launch.qid) ++ leBytes 4 x.gang.launch.seq ++ leBytes 4 x.gang.gang
    ++ leBytes 4 (x.member + 2 ^ 4 * x.slot + 2 ^ 8 * x.threads + 2 ^ 14 * bit x.governed) ++ leBytes 8 x.time.toNat
    ++ leBytes 4 (if x.result then (freeWord free).toNat else (freeWord free).toNat % 2 ^ 16)
    ++ leBytes 1 (x.waitCause (free + 1)) ++ List.replicate 3 0
    ++ leBytes 4 x.cmdSeq.toNat ++ List.replicate 12 0

/-- SAMPLE: the record of what a tile has sampled is written to the ring, without flow control. -/
def execSample (s : State) : Host.Outcome State Fault Refusal :=
  match s.input with
  | .sample t =>
    match s.sampler.taken.find? fun x => x.tile = t with
    | none => .next s
    | some x =>
      let z := s.sampler
      let seq := z.seq + 1
      let s := { s with sampler := { z with seq := seq % 2 ^ 32, taken := z.taken.erase x }, freeCtr := s.freeCtr + 2 }
      .next (if s.hostPort z.setting.port then
          s.hostWrite z.setting.port (z.setting.ring + 64 * (seq % 2 ^ z.setting.logn)) (x.bytes seq (s.freeCtr - 2))
        else s)
  | _ => .next s

end Sys2Proof.Machine
end

