-- ==== Sys2Proof/Machine/WardOps.lean ====
section
/-! DEFINITION. Ward operations (R86-R91, R326): the ward control block, the checks of each operation in their order, and
`SYS WARD`. -/

namespace Sys2Proof.Machine

/-! ### The ward control block (R88) -/

/-- Bits [h:l] of the 64-bit word at a byte offset of a block. -/
def blockField (b o h l : Nat) : Nat := bitsOf (b / 2 ^ (8 * o) % 2 ^ 64) h l

/-- The fields that CREATE and MODIFY take, put into a ward. -/
def Ward.fill (w : Ward) (b : Nat) : Ward :=
  { w with priv := blockField b 0 31 31 = 1, prio := blockField b 0 34 32, fdom := blockField b 0 47 40
           dstop := blockField b 0 48 48 = 1, ovr := BitVec.ofNat 7 (blockField b 0 55 49), spadb := blockField b 8 31 0
           tiles := blockField b 8 43 32, wcsh := blockField b 8 58 48, hbmsh := blockField b 16 10 0
           poolsh := blockField b 16 26 16, safeg := blockField b 24 13 0, safen := blockField b 24 30 16
           fqRing := blockField b 32 63 0, fqHead := blockField b 40 63 0, fqLogn := blockField b 48 3 0
           fqPort := blockField b 48 8 4, fqMsix := blockField b 48 47 32 }

/-- A ward's block as READ returns it. -/
def Ward.block (w : Ward) (wid : Nat) : List Byte :=
  let w0 := wid + 2 ^ 12 * w.parent + 2 ^ 24 * w.tenant + 2 ^ 30 + 2 ^ 31 * bit w.priv + 2 ^ 32 * w.prio + 2 ^ 40 * w.fdom
    + 2 ^ 48 * bit w.dstop + 2 ^ 49 * w.ovr.toNat
  leBytes 8 w0 ++ leBytes 8 (w.spadb + 2 ^ 32 * w.tiles + 2 ^ 48 * w.wcsh) ++ leBytes 8 (w.hbmsh + 2 ^ 16 * w.poolsh)
    ++ leBytes 8 (w.safeg + 2 ^ 16 * w.safen) ++ leBytes 8 w.fqRing ++ leBytes 8 w.fqHead
    ++ leBytes 8 (w.fqLogn + 2 ^ 4 * w.fqPort + 2 ^ 32 * w.fqMsix) ++ List.replicate 72 0

/-- A reserved field of a block is not 0. -/
def blockReserved (b : Nat) : Bool :=
  blockField b 0 39 35 ≠ 0 || blockField b 0 63 56 ≠ 0 || blockField b 8 47 44 ≠ 0 || blockField b 8 63 59 ≠ 0
    || blockField b 16 15 11 ≠ 0 || blockField b 16 63 27 ≠ 0 || blockField b 24 15 14 ≠ 0 || blockField b 24 63 31 ≠ 0
    || blockField b 48 31 9 ≠ 0 || blockField b 48 63 48 ≠ 0 || b / 2 ^ (8 * 0x38) % 2 ^ (8 * 0x48) ≠ 0

/-- A value of a block is out of its range. -/
def State.blockRange (s : State) (b : Nat) : Bool :=
  let logn := blockField b 48 3 0
  8257536 < blockField b 8 31 0 || 2688 < blockField b 8 43 32 || 1024 < blockField b 8 58 48
    || 1024 < blockField b 16 10 0 || 1024 < blockField b 16 26 16 || 16384 < blockField b 24 30 16
    || blockField b 32 11 0 ≠ 0 || blockField b 40 5 0 ≠ 0
    || (logn ≠ 0 && (logn < 6 || 12 < logn || (s.ports[blockField b 48 8 4]?).all fun p => p.role ≠ 0))

/-- PARENT and TENANT of a block. -/
def blockParent (b : Nat) : Nat := blockField b 0 23 12
def blockTenant (b : Nat) : Nat := blockField b 0 29 24

/-- INVAL for a condition on the block's own fields (R89). -/
def State.blockWrong (s : State) (wid b : Nat) : Bool :=
  blockReserved b || s.blockRange b || blockField b 0 11 0 ≠ wid
    || (blockParent b = 0xFFF && wid ≠ 0 && blockField b 48 3 0 = 0) || (blockField b 0 31 31 = 1 && blockTenant b ≠ 0)

/-! ### Operations (R89) -/

/-- The statuses. -/
inductive WardStatus where
  | ok | inval | noward | exists | full | busy
deriving DecidableEq, Repr

/-- A status as A receives it (R326). -/
def WardStatus.code : WardStatus → Nat
  | .ok => 0 | .inval => 1 | .noward => 2 | .exists => 3 | .full => 4 | .busy => 5

/-- The roots that are valid. -/
def State.roots (s : State) : List (Nat × Ward) := s.wards.filter fun e => e.2.parent = 0xFFF

/-- The tree conditions of CREATE: a TENANT that differs from the root's, or is held by another root; a depth above 8. -/
def State.treeWrong (s : State) (b : Nat) : Bool :=
  if blockParent b = 0xFFF then s.roots.any fun e => e.2.tenant = blockTenant b
  else (s.ward? (blockParent b)).any (fun p => p.tenant ≠ blockTenant b) || 8 ≤ (s.lineage (blockParent b)).length

/-- CREATE. -/
def State.wardCreate (s : State) (wid b : Nat) : State × WardStatus :=
  if s.blockWrong wid b then (s, .inval)
  else if (s.ward? wid).isSome then (s, .exists)
  else if blockParent b ≠ 0xFFF && (s.ward? (blockParent b)).isNone then (s, .noward)
  else if blockParent b = 0xFFF && 64 ≤ s.roots.length then (s, .full)
  else if s.treeWrong b then (s, .inval)
  else
    let w : Ward := ({ Ward.bringUp with parent := blockParent b, tenant := blockTenant b } : Ward).fill b
    ({ s with wards := tabSet wid w s.wards }, .ok)

/-- MODIFY: every field but WID, PARENT, TENANT and VALID. The counts of the ward's fault queue go on, whatever it changes of that
(LOG 106). -/
def State.wardModify (s : State) (wid b : Nat) : State × WardStatus :=
  match s.ward? wid with
  | none => (s, .noward)
  | some w =>
    if s.blockWrong wid b || blockParent b ≠ w.parent || blockTenant b ≠ w.tenant then (s, .inval)
    else ({ s with wards := tabSet wid (w.fill b) s.wards }, .ok)

/-- What keeps a ward from being deleted. -/
def State.wardInUse (s : State) (wid : Nat) : Bool :=
  s.wards.any (fun e => e.2.parent = wid && wid ≠ 0xFFF) || s.queues.any (fun e => e.2.enabled && e.2.ward = wid)
    || s.launches.any (fun l => l.ward = wid && l.status.isNone) || s.faults.any fun r => r.ward = wid || r.queue = some wid

/-- DELETE. -/
def State.wardDelete (s : State) (wid : Nat) : State × WardStatus :=
  if (s.ward? wid).isNone then (s, .noward)
  else if wid = 0 || wid = 1 then (s, .inval)
  else if s.wardInUse wid then (s, .busy)
  else ({ s with wards := tabDel wid s.wards }, .ok)

/-- RESET: a tenant reset is requested. -/
def State.wardReset (s : State) (wid : Nat) : State × WardStatus :=
  match s.ward? wid with
  | none => (s, .noward)
  | some w =>
    if w.tenant = 0 then (s, .inval)
    else if s.resets.contains w.tenant then (s, .busy)
    else ({ s with resets := s.resets ++ [w.tenant] }, .ok)

/-- CLEAR: the wards of the tenant with the ward's effective FDOM are no longer DSTOPPED. -/
def State.wardClear (s : State) (wid : Nat) : State × WardStatus :=
  match s.ward? wid with
  | none => (s, .noward)
  | some w =>
    ({ s with wards := s.wards.map fun e =>
        if e.2.tenant = w.tenant && s.effFdom e.1 = s.effFdom wid then (e.1, { e.2 with dstopped := false }) else e }, .ok)

/-! ### SYS WARD (R326) -/

/-- What naming a request area raises: SEGMENT where it does not lie wholly in one member's allocation, then MISALIGN. -/
def Ctx.areaTrap (c : Ctx) (a : Operand) : Option Nat :=
  let off := c.object a
  let size := max 1 c.wg.spad
  if !segCheck c.sq .sseg (off : Int) 256 || off / size ≠ (off + 255) / size then some Trap.segment
  else if off % 64 ≠ 0 then some Trap.misalign else none

/-- A ward operation: the request area, at a key, is read, the operation answers a status, and READ fills the area. -/
def State.wardOp (i : Instr) (f : SForm) (act : State → Nat → Nat → Nat → State × WardStatus) (s : State) :
    Host.Outcome State Fault Refusal :=
  issue i s fun s c =>
    match c.areaTrap f.a with
    | some n => s.trapAt c n 0 (c.object f.a)
    | none =>
      match (s.targetVerdict c.tile (s.spadTarget c.wg 0 (c.object f.a)) false).fault? with
      | some (n, d) => s.memFault c ⟨n, d, c.object f.a, none⟩ false
      | none =>
        let k := s.gangKeyAt c.wg (c.object f.a)
        let r := act s k (s.num k 2 % 2 ^ 12) (s.num (k + 0x40) 128)
        r.1.unlessLost i c [s.spadTarget c.wg 0 (c.object f.a)] (c.object f.a) fun s =>
          s.retire i c fun q => c.write q f.a (.uniform (BitVec.ofNat 32 r.2.code))

/-- SYS WARD, CREATE. -/
def execSysWardCreate (f : SForm) (s : State) : Host.Outcome State Fault Refusal :=
  s.wardOp (.sysWardCreate f) f fun s _ w b => s.wardCreate w b
/-- SYS WARD, MODIFY. -/
def execSysWardModify (f : SForm) (s : State) : Host.Outcome State Fault Refusal :=
  s.wardOp (.sysWardModify f) f fun s _ w b => s.wardModify w b
/-- SYS WARD, DELETE. -/
def execSysWardDelete (f : SForm) (s : State) : Host.Outcome State Fault Refusal :=
  s.wardOp (.sysWardDelete f) f fun s _ w _ => s.wardDelete w
/-- SYS WARD, RESET. -/
def execSysWardReset (f : SForm) (s : State) : Host.Outcome State Fault Refusal :=
  s.wardOp (.sysWardReset f) f fun s _ w _ => s.wardReset w
/-- SYS WARD, CLEAR. -/
def execSysWardClear (f : SForm) (s : State) : Host.Outcome State Fault Refusal :=
  s.wardOp (.sysWardClear f) f fun s _ w _ => s.wardClear w

/-- What READ writes into the area: the block, the usage and DSTOPPED. -/
def State.wardReport (s : State) (wid : Nat) (w : Ward) : List Byte :=
  w.block wid ++ leBytes 4 (s.usedTiles wid) ++ leBytes 4 (s.usedSpad wid) ++ leBytes 4 (bit w.dstopped)

/-- SYS WARD, READ. -/
def execSysWardRead (f : SForm) (s : State) : Host.Outcome State Fault Refusal :=
  s.wardOp (.sysWardRead f) f fun s k wid _ =>
    match s.ward? wid with
    | none => (s, .noward)
    | some w => (s.pokeN (k + 0x40) (s.wardReport wid w), .ok)

end Sys2Proof.Machine
end

