-- ==== Sys2Proof/Machine/Dispatch.lean ====
section
/-! DEFINITION. The dispatch of an operation to its meaning: one arm for each constructor of `Instr`, in the order of the
constructors. -/

namespace Sys2Proof.Machine

/-- What an operation does (R1-R388): its own meaning. -/
def exec (i : Instr) (s : State) : Host.Outcome State Fault Refusal :=
  match i with
  | .iadd f => Sys2Proof.Machine.execIadd f s
  | .iadds f => Sys2Proof.Machine.execIadds f s
  | .isub f => Sys2Proof.Machine.execIsub f s
  | .isubs f => Sys2Proof.Machine.execIsubs f s
  | .imul f => Sys2Proof.Machine.execImul f s
  | .imulh f => Sys2Proof.Machine.execImulh f s
  | .imad f => Sys2Proof.Machine.execImad f s
  | .imadh f => Sys2Proof.Machine.execImadh f s
  | .imin f => Sys2Proof.Machine.execImin f s
  | .iminn f => Sys2Proof.Machine.execIminn f s
  | .imax f => Sys2Proof.Machine.execImax f s
  | .imaxn f => Sys2Proof.Machine.execImaxn f s
  | .andB f => Sys2Proof.Machine.execAndB f s
  | .andn f => Sys2Proof.Machine.execAndn f s
  | .orB f => Sys2Proof.Machine.execOrB f s
  | .orn f => Sys2Proof.Machine.execOrn f s
  | .xorB f => Sys2Proof.Machine.execXorB f s
  | .xnor f => Sys2Proof.Machine.execXnor f s
  | .shl f => Sys2Proof.Machine.execShl f s
  | .rol f => Sys2Proof.Machine.execRol f s
  | .shr f => Sys2Proof.Machine.execShr f s
  | .sar f => Sys2Proof.Machine.execSar f s
  | .cseq f => Sys2Proof.Machine.execCseq f s
  | .csne f => Sys2Proof.Machine.execCsne f s
  | .cslt f => Sys2Proof.Machine.execCslt f s
  | .csltn f => Sys2Proof.Machine.execCsltn f s
  | .csle f => Sys2Proof.Machine.execCsle f s
  | .cslen f => Sys2Proof.Machine.execCslen f s
  | .sel f => Sys2Proof.Machine.execSel f s
  | .popc f => Sys2Proof.Machine.execPopc f s
  | .clz f => Sys2Proof.Machine.execClz f s
  | .brev f => Sys2Proof.Machine.execBrev f s
  | .ffs f => Sys2Proof.Machine.execFfs f s
  | .bfx f => Sys2Proof.Machine.execBfx f s
  | .bfxs f => Sys2Proof.Machine.execBfxs f s
  | .bfi f => Sys2Proof.Machine.execBfi f s
  | .wadd f => Sys2Proof.Machine.execWadd f s
  | .wsub f => Sys2Proof.Machine.execWsub f s
  | .wmul f => Sys2Proof.Machine.execWmul f s
  | .wmulh f => Sys2Proof.Machine.execWmulh f s
  | .wshl f => Sys2Proof.Machine.execWshl f s
  | .wshr f => Sys2Proof.Machine.execWshr f s
  | .mov f => Sys2Proof.Machine.execMov f s
  | .movg f => Sys2Proof.Machine.execMovg f s
  | .iabs f => Sys2Proof.Machine.execIabs f s
  | .ineg f => Sys2Proof.Machine.execIneg f s
  | .iaddi f => Sys2Proof.Machine.execIaddi f s
  | .imuli f => Sys2Proof.Machine.execImuli f s
  | .andi f => Sys2Proof.Machine.execAndi f s
  | .ori f => Sys2Proof.Machine.execOri f s
  | .xori f => Sys2Proof.Machine.execXori f s
  | .shli f => Sys2Proof.Machine.execShli f s
  | .shri f => Sys2Proof.Machine.execShri f s
  | .movi f => Sys2Proof.Machine.execMovi f s
  | .fadd f => Sys2Proof.Machine.execFadd f s
  | .fsub f => Sys2Proof.Machine.execFsub f s
  | .fmul f => Sys2Proof.Machine.execFmul f s
  | .fscl f => Sys2Proof.Machine.execFscl f s
  | .ffma f => Sys2Proof.Machine.execFfma f s
  | .ffms f => Sys2Proof.Machine.execFfms f s
  | .fmin f => Sys2Proof.Machine.execFmin f s
  | .fmax f => Sys2Proof.Machine.execFmax f s
  | .fcseq f => Sys2Proof.Machine.execFcseq f s
  | .fcsne f => Sys2Proof.Machine.execFcsne f s
  | .fcslt f => Sys2Proof.Machine.execFcslt f s
  | .fcsle f => Sys2Proof.Machine.execFcsle f s
  | .fcsun f => Sys2Proof.Machine.execFcsun f s
  | .fcsor f => Sys2Proof.Machine.execFcsor f s
  | .fabs f => Sys2Proof.Machine.execFabs f s
  | .fneg f => Sys2Proof.Machine.execFneg f s
  | .frcp f => Sys2Proof.Machine.execFrcp f s
  | .frsq f => Sys2Proof.Machine.execFrsq f s
  | .fex2 f => Sys2Proof.Machine.execFex2 f s
  | .flg2 f => Sys2Proof.Machine.execFlg2 f s
  | .fsin f => Sys2Proof.Machine.execFsin f s
  | .fcos f => Sys2Proof.Machine.execFcos f s
  | .hadd2 f => Sys2Proof.Machine.execHadd2 f s
  | .badd2 f => Sys2Proof.Machine.execBadd2 f s
  | .hmul2 f => Sys2Proof.Machine.execHmul2 f s
  | .bmul2 f => Sys2Proof.Machine.execBmul2 f s
  | .hfma2 f => Sys2Proof.Machine.execHfma2 f s
  | .bfma2 f => Sys2Proof.Machine.execBfma2 f s
  | .dadd f => Sys2Proof.Machine.execDadd f s
  | .dsub f => Sys2Proof.Machine.execDsub f s
  | .dmul f => Sys2Proof.Machine.execDmul f s
  | .dfma f => Sys2Proof.Machine.execDfma f s
  | .cvtfi f => Sys2Proof.Machine.execCvtfi f s
  | .cvtfn f => Sys2Proof.Machine.execCvtfn f s
  | .cvtif f => Sys2Proof.Machine.execCvtif f s
  | .cvtnf f => Sys2Proof.Machine.execCvtnf f s
  | .narh f => Sys2Proof.Machine.execNarh f s
  | .narb f => Sys2Proof.Machine.execNarb f s
  | .widh f => Sys2Proof.Machine.execWidh f s
  | .widb f => Sys2Proof.Machine.execWidb f s
  | .e4pk f => Sys2Proof.Machine.execE4pk f s
  | .e5pk f => Sys2Proof.Machine.execE5pk f s
  | .e4up f => Sys2Proof.Machine.execE4up f s
  | .e5up f => Sys2Proof.Machine.execE5up f s
  | .q4pk f => Sys2Proof.Machine.execQ4pk f s
  | .q4up f => Sys2Proof.Machine.execQ4up f s
  | .shfl f => Sys2Proof.Machine.execShfl f s
  | .shfx f => Sys2Proof.Machine.execShfx f s
  | .bcst f => Sys2Proof.Machine.execBcst f s
  | .sqrd f => Sys2Proof.Machine.execSqrd f s
  | .sqrf f => Sys2Proof.Machine.execSqrf f s
  | .sqmx f => Sys2Proof.Machine.execSqmx f s
  | .sqmf f => Sys2Proof.Machine.execSqmf f s
  | .scan f => Sys2Proof.Machine.execScan f s
  | .scnx f => Sys2Proof.Machine.execScnx f s
  | .balt f => Sys2Proof.Machine.execBalt f s
  | .bcnt f => Sys2Proof.Machine.execBcnt f s
  | .rank f => Sys2Proof.Machine.execRank f s
  | .ranka f => Sys2Proof.Machine.execRanka f s
  | .iota f => Sys2Proof.Machine.execIota f s
  | .ldg f => Sys2Proof.Machine.execLdg f s
  | .stg f => Sys2Proof.Machine.execStg f s
  | .lds f => Sys2Proof.Machine.execLds f s
  | .sts f => Sys2Proof.Machine.execSts f s
  | .ldk f => Sys2Proof.Machine.execLdk f s
  | .ldp f => Sys2Proof.Machine.execLdp f s
  | .stp f => Sys2Proof.Machine.execStp f s
  | .ldx f => Sys2Proof.Machine.execLdx f s
  | .stx f => Sys2Proof.Machine.execStx f s
  | .ldaq f => Sys2Proof.Machine.execLdaq f s
  | .strl f => Sys2Proof.Machine.execStrl f s
  | .pref f => Sys2Proof.Machine.execPref f s
  | .flsh f => Sys2Proof.Machine.execFlsh f s
  | .flshd f => Sys2Proof.Machine.execFlshd f s
  | .place f => Sys2Proof.Machine.execPlace f s
  | .psts f => Sys2Proof.Machine.execPsts f s
  | .plds f => Sys2Proof.Machine.execPlds f s
  | .aadd f => Sys2Proof.Machine.execAadd f s
  | .amin f => Sys2Proof.Machine.execAmin f s
  | .amax f => Sys2Proof.Machine.execAmax f s
  | .aand f => Sys2Proof.Machine.execAand f s
  | .aor f => Sys2Proof.Machine.execAor f s
  | .afadd f => Sys2Proof.Machine.execAfadd f s
  | .axch f => Sys2Proof.Machine.execAxch f s
  | .acas f => Sys2Proof.Machine.execAcas f s
  | .fence f => Sys2Proof.Machine.execFence f s
  | .binit f => Sys2Proof.Machine.execBinit f s
  | .arrv f => Sys2Proof.Machine.execArrv f s
  | .arrx f => Sys2Proof.Machine.execArrx f s
  | .waitp f => Sys2Proof.Machine.execWaitp f s
  | .tstp f => Sys2Proof.Machine.execTstp f s
  | .bxpb f => Sys2Proof.Machine.execBxpb f s
  | .yield f => Sys2Proof.Machine.execYield f s
  | .binv f => Sys2Proof.Machine.execBinv f s
  | .lock f => Sys2Proof.Machine.execLock f s
  | .unlk f => Sys2Proof.Machine.execUnlk f s
  | .lkup f => Sys2Proof.Machine.execLkup f s
  | .lkdn f => Sys2Proof.Machine.execLkdn f s
  | .lkra f => Sys2Proof.Machine.execLkra f s
  | .lkqy f => Sys2Proof.Machine.execLkqy f s
  | .lkag f => Sys2Proof.Machine.execLkag f s
  | .lkmx f => Sys2Proof.Machine.execLkmx f s
  | .qpsh f => Sys2Proof.Machine.execQpsh f s
  | .qpop f => Sys2Proof.Machine.execQpop f s
  | .qcnt f => Sys2Proof.Machine.execQcnt f s
  | .cpyj f => Sys2Proof.Machine.execCpyj f s
  | .colj f => Sys2Proof.Machine.execColj f s
  | .qbnd f => Sys2Proof.Machine.execQbnd f s
  | .mxcfConfig f => Sys2Proof.Machine.execMxcfConfig f s
  | .mxcfRelease f => Sys2Proof.Machine.execMxcfRelease f s
  | .mxlw f => Sys2Proof.Machine.execMxlw f s
  | .mxst f => Sys2Proof.Machine.execMxst f s
  | .mxchBegin f => Sys2Proof.Machine.execMxchBegin f s
  | .mxchEnd f => Sys2Proof.Machine.execMxchEnd f s
  | .mxchDrain f => Sys2Proof.Machine.execMxchDrain f s
  | .mxchZero f => Sys2Proof.Machine.execMxchZero f s
  | .bra f => Sys2Proof.Machine.execBra f s
  | .bz f => Sys2Proof.Machine.execBz f s
  | .bnz f => Sys2Proof.Machine.execBnz f s
  | .call f => Sys2Proof.Machine.execCall f s
  | .jmpr f => Sys2Proof.Machine.execJmpr f s
  | .callr f => Sys2Proof.Machine.execCallr f s
  | .exit f => Sys2Proof.Machine.execExit f s
  | .span f => Sys2Proof.Machine.execSpan f s
  | .trapc f => Sys2Proof.Machine.execTrapc f s
  | .trap f => Sys2Proof.Machine.execTrap f s
  | .brk f => Sys2Proof.Machine.execBrk f s
  | .sysMfs f => Sys2Proof.Machine.execSysMfs f s
  | .sysMts f => Sys2Proof.Machine.execSysMts f s
  | .sysClkr f => Sys2Proof.Machine.execSysClkr f s
  | .sysCycr f => Sys2Proof.Machine.execSysCycr f s
  | .sysSqid f => Sys2Proof.Machine.execSysSqid f s
  | .sysWgid f => Sys2Proof.Machine.execSysWgid f s
  | .sysGngid f => Sys2Proof.Machine.execSysGngid f s
  | .sysLnch f => Sys2Proof.Machine.execSysLnch f s
  | .sysWardCreate f => Sys2Proof.Machine.execSysWardCreate f s
  | .sysWardModify f => Sys2Proof.Machine.execSysWardModify f s
  | .sysWardDelete f => Sys2Proof.Machine.execSysWardDelete f s
  | .sysWardRead f => Sys2Proof.Machine.execSysWardRead f s
  | .sysWardReset f => Sys2Proof.Machine.execSysWardReset f s
  | .sysWardClear f => Sys2Proof.Machine.execSysWardClear f s
  | .sysAmskRead f => Sys2Proof.Machine.execSysAmskRead f s
  | .sysAmskSwap f => Sys2Proof.Machine.execSysAmskSwap f s
  | .sysXmsk f => Sys2Proof.Machine.execSysXmsk f s
  | .sysSegrd f => Sys2Proof.Machine.execSysSegrd f s
  | .sysSegld f => Sys2Proof.Machine.execSysSegld f s
  | .sysSavep f => Sys2Proof.Machine.execSysSavep f s
  | .sysPrio f => Sys2Proof.Machine.execSysPrio f s
  | .sysIbinv f => Sys2Proof.Machine.execSysIbinv f s
  | .sysL1inv f => Sys2Proof.Machine.execSysL1inv f s
  | .sysTlbi f => Sys2Proof.Machine.execSysTlbi f s
  | .sysCapr f => Sys2Proof.Machine.execSysCapr f s
  | .sysFtst f => Sys2Proof.Machine.execSysFtst f s
  | .sysFclr f => Sys2Proof.Machine.execSysFclr f s
  | .sysPstat f => Sys2Proof.Machine.execSysPstat f s
  | .sysTags f => Sys2Proof.Machine.execSysTags f s
  | .sysTagc f => Sys2Proof.Machine.execSysTagc f s
  | .sysSnap f => Sys2Proof.Machine.execSysSnap f s
  | .sysCsum f => Sys2Proof.Machine.execSysCsum f s
  | .sysRtbl f => Sys2Proof.Machine.execSysRtbl f s
  | .sysWtbl f => Sys2Proof.Machine.execSysWtbl f s
  | .sysDmap f => Sys2Proof.Machine.execSysDmap f s
  | .sysPmap f => Sys2Proof.Machine.execSysPmap f s
  | .sysHalt f => Sys2Proof.Machine.execSysHalt f s
  | .sysResm f => Sys2Proof.Machine.execSysResm f s
  | .sysResmHalted f => Sys2Proof.Machine.execSysResmHalted f s
  | .sysResmDefault f => Sys2Proof.Machine.execSysResmDefault f s
  | .sysEvpst f => Sys2Proof.Machine.execSysEvpst f s
  | .sysSleep f => Sys2Proof.Machine.execSysSleep f s
  | .sysShpr f => Sys2Proof.Machine.execSysShpr f s
  | .sysDead f => Sys2Proof.Machine.execSysDead f s
  | .hintNop f => Sys2Proof.Machine.execHintNop f s
  | .hintImm f => Sys2Proof.Machine.execHintImm f s
  | .hintMem f => Sys2Proof.Machine.execHintMem f s
  | .hintArith f => Sys2Proof.Machine.execHintArith f s
  | .hintSched f => Sys2Proof.Machine.execHintSched f s
  | .hintKill f => Sys2Proof.Machine.execHintKill f s
  | .hintProf f => Sys2Proof.Machine.execHintProf f s
  | .reservedEncoding f => Sys2Proof.Machine.execReservedEncoding f s
  | .powerOnReset => Sys2Proof.Machine.execPowerOnReset s
  | .deviceReset => Sys2Proof.Machine.execDeviceReset s
  | .hostPortReset => Sys2Proof.Machine.execHostPortReset s
  | .powerSample => Sys2Proof.Machine.execPowerSample s
  | .powerAlarmClear => Sys2Proof.Machine.execPowerAlarmClear s
  | .waferPowerRemoval => Sys2Proof.Machine.execWaferPowerRemoval s
  | .romCheck => Sys2Proof.Machine.execRomCheck s
  | .harvest => Sys2Proof.Machine.execHarvest s
  | .treeBuild => Sys2Proof.Machine.execTreeBuild s
  | .hbmTraining => Sys2Proof.Machine.execHbmTraining s
  | .memoryClear => Sys2Proof.Machine.execMemoryClear s
  | .fullServiceBegin => Sys2Proof.Machine.execFullServiceBegin s
  | .standardCommand => Sys2Proof.Machine.execStandardCommand s
  | .setroles => Sys2Proof.Machine.execSetroles s
  | .imgchunk => Sys2Proof.Machine.execImgchunk s
  | .imgcommit => Sys2Proof.Machine.execImgcommit s
  | .imgcommitComplete => Sys2Proof.Machine.execImgcommitComplete s
  | .idreport => Sys2Proof.Machine.execIdreport s
  | .certread => Sys2Proof.Machine.execCertread s
  | .mark => Sys2Proof.Machine.execMark s
  | .bankEmptyDone => Sys2Proof.Machine.execBankEmptyDone s
  | .chkpt => Sys2Proof.Machine.execChkpt s
  | .checkpointComplete => Sys2Proof.Machine.execCheckpointComplete s
  | .biasflip => Sys2Proof.Machine.execBiasflip s
  | .biasflipComplete => Sys2Proof.Machine.execBiasflipComplete s
  | .biasread => Sys2Proof.Machine.execBiasread s
  | .qctlEnable => Sys2Proof.Machine.execQctlEnable s
  | .qctlDisable => Sys2Proof.Machine.execQctlDisable s
  | .qctlRead => Sys2Proof.Machine.execQctlRead s
  | .poolbind => Sys2Proof.Machine.execPoolbind s
  | .peerset => Sys2Proof.Machine.execPeerset s
  | .sampctl => Sys2Proof.Machine.execSampctl s
  | .snapctl => Sys2Proof.Machine.execSnapctl s
  | .cxlLinkTraining => Sys2Proof.Machine.execCxlLinkTraining s
  | .portLinkDown => Sys2Proof.Machine.execPortLinkDown s
  | .flitCrcFail => Sys2Proof.Machine.execFlitCrcFail s
  | .replayRequest => Sys2Proof.Machine.execReplayRequest s
  | .flitAcknowledge => Sys2Proof.Machine.execFlitAcknowledge s
  | .replayWindowEnd => Sys2Proof.Machine.execReplayWindowEnd s
  | .linkRetrainDone => Sys2Proof.Machine.execLinkRetrainDone s
  | .packetInject => Sys2Proof.Machine.execPacketInject s
  | .packetDeliver => Sys2Proof.Machine.execPacketDeliver s
  | .headerUeDiscard => Sys2Proof.Machine.execHeaderUeDiscard s
  | .resendTimeout => Sys2Proof.Machine.execResendTimeout s
  | .requestTimeout => Sys2Proof.Machine.execRequestTimeout s
  | .commitRequest => Sys2Proof.Machine.execCommitRequest s
  | .firmwareCommit => Sys2Proof.Machine.execFirmwareCommit s
  | .commitDrainDone => Sys2Proof.Machine.execCommitDrainDone s
  | .commitComplete => Sys2Proof.Machine.execCommitComplete s
  | .tailSnoop => Sys2Proof.Machine.execTailSnoop s
  | .tailReread => Sys2Proof.Machine.execTailReread s
  | .launchPacketRead => Sys2Proof.Machine.execLaunchPacketRead s
  | .headWrite => Sys2Proof.Machine.execHeadWrite s
  | .hostMemRead => Sys2Proof.Machine.execHostMemRead s
  | .hostMemWrite => Sys2Proof.Machine.execHostMemWrite s
  | .hostSnoop => Sys2Proof.Machine.execHostSnoop s
  | .bisnpInv => Sys2Proof.Machine.execBisnpInv s
  | .bisnpData => Sys2Proof.Machine.execBisnpData s
  | .poolGroupLost => Sys2Proof.Machine.execPoolGroupLost s
  | .faultRecordWrite => Sys2Proof.Machine.execFaultRecordWrite s
  | .launchAbort => Sys2Proof.Machine.execLaunchAbort s
  | .tenantReset => Sys2Proof.Machine.execTenantReset s
  | .placementDecision => Sys2Proof.Machine.execPlacementDecision s
  | .preemptRequest => Sys2Proof.Machine.execPreemptRequest s
  | .preemptStop => Sys2Proof.Machine.execPreemptStop s
  | .preemptSave => Sys2Proof.Machine.execPreemptSave s
  | .workgroupEnd => Sys2Proof.Machine.execWorkgroupEnd s
  | .gangRetire => Sys2Proof.Machine.execGangRetire s
  | .poolEntryReclaim => Sys2Proof.Machine.execPoolEntryReclaim s
  | .skewHoldTimeout => Sys2Proof.Machine.execSkewHoldTimeout s
  | .resultWriteback => Sys2Proof.Machine.execResultWriteback s
  | .asyncTrapEntry => Sys2Proof.Machine.execAsyncTrapEntry s
  | .engineTrapArrival => Sys2Proof.Machine.execEngineTrapArrival s
  | .pageWalkDone => Sys2Proof.Machine.execPageWalkDone s
  | .replayableFaultTimeout => Sys2Proof.Machine.execReplayableFaultTimeout s
  | .peerProbe => Sys2Proof.Machine.execPeerProbe s
  | .anchorRequest => Sys2Proof.Machine.execAnchorRequest s
  | .regionEvaluation => Sys2Proof.Machine.execRegionEvaluation s
  | .moveOrder => Sys2Proof.Machine.execMoveOrder s
  | .migrationTransfer => Sys2Proof.Machine.execMigrationTransfer s
  | .moveAck => Sys2Proof.Machine.execMoveAck s
  | .replicaInvalidate => Sys2Proof.Machine.execReplicaInvalidate s
  | .invalidationAck => Sys2Proof.Machine.execInvalidationAck s
  | .replicaFillArrival => Sys2Proof.Machine.execReplicaFillArrival s
  | .uncorrectableError => Sys2Proof.Machine.execUncorrectableError s
  | .jobStart => Sys2Proof.Machine.execJobStart s
  | .jobWriteLand => Sys2Proof.Machine.execJobWriteLand s
  | .jobComplete => Sys2Proof.Machine.execJobComplete s
  | .jobStop => Sys2Proof.Machine.execJobStop s
  | .followOnIssue => Sys2Proof.Machine.execFollowOnIssue s
  | .matrixCommandAct => Sys2Proof.Machine.execMatrixCommandAct s
  | .mxstSumsArrive => Sys2Proof.Machine.execMxstSumsArrive s
  | .collectiveJoin => Sys2Proof.Machine.execCollectiveJoin s
  | .collectiveJoinTimeout => Sys2Proof.Machine.execCollectiveJoinTimeout s
  | .collectiveChunkLand => Sys2Proof.Machine.execCollectiveChunkLand s
  | .collectiveGroupFail => Sys2Proof.Machine.execCollectiveGroupFail s
  | .collectiveTreeRebuild => Sys2Proof.Machine.execCollectiveTreeRebuild s
  | .hostMsgWrite => Sys2Proof.Machine.execHostMsgWrite s
  | .outheadReread => Sys2Proof.Machine.execOutheadReread s
  | .intailPoll => Sys2Proof.Machine.execIntailPoll s
  | .lockRequestArrival => Sys2Proof.Machine.execLockRequestArrival s
  | .lockReleaseArrival => Sys2Proof.Machine.execLockReleaseArrival s
  | .lockGrant => Sys2Proof.Machine.execLockGrant s
  | .grantResendTimeout => Sys2Proof.Machine.execGrantResendTimeout s
  | .woundTrap => Sys2Proof.Machine.execWoundTrap s
  | .revocation => Sys2Proof.Machine.execRevocation s
  | .sleepTimer => Sys2Proof.Machine.execSleepTimer s
  | .sample => Sys2Proof.Machine.execSample s
  | .instructionFetchFault => Sys2Proof.Machine.execInstructionFetchFault s
  | .modulePowerLoss => Sys2Proof.Machine.execModulePowerLoss s
  | .memoryDeviceCompletion => Sys2Proof.Machine.execMemoryDeviceCompletion s
  | .peerChunkArrival => Sys2Proof.Machine.execPeerChunkArrival s
  | .poolbindComplete => Sys2Proof.Machine.execPoolbindComplete s

end Sys2Proof.Machine
end

