-- ==== Sys2Proof/Machine/Due.lean ====
section
/-! DEFINITION. The events that the device's own agents perform next, when nothing is asked of them from outside (LOG 1):
each when its condition holds or its time has come. -/

namespace Sys2Proof.Machine

/-- An event, if its condition holds. -/
def dueIf (b : Bool) (row : Instr) (input : Input := .none) : List Pending := if b then [⟨row, input⟩] else []

/-- Bring-up and power (R24, R26, R29); a harvest test finds no failure unless an event says otherwise (LOG 6). -/
def State.dueBringUp (s : State) : List Pending :=
  let p := s.bringUp.phase
  dueIf s.power.mayClear .powerAlarmClear ++ dueIf (s.power.mustCut && !s.power.removed) .waferPowerRemoval
    ++ dueIf (p = 0 && !s.power.removed) .romCheck ++ dueIf (p = 2) .harvest (.harvest [] [])
    ++ dueIf (p = 3) .treeBuild ++ dueIf (p = 4) .hbmTraining
    ++ dueIf (p = 5 && s.bringUp.worked = 4) .memoryClear ++ dueIf (s.servicing && s.rt.state = 0) .fullServiceBegin

/-- The commit of a table generation (R58, R59). -/
def State.dueCommit (s : State) : List Pending :=
  dueIf (s.rt.want && s.rt.state = 0) .firmwareCommit
    ++ dueIf (s.rt.state = 2 && !s.rt.swapped && s.fabricDrained) .commitDrainDone
    ++ dueIf (s.rt.state = 2 && s.rt.swapped && s.flights = []) .commitComplete

/-- Links: acknowledgements, the ends of counting windows, and retraining (R41-R43). -/
def State.dueLinks (s : State) : List Pending :=
  s.links.flatMap fun e =>
    let d : LinkDir := ⟨e.1 / 4, e.1 % 4⟩
    (match e.2.buffer with
      | [] => []
      | f :: _ => dueIf (e.2.st ≠ .down && !e.2.retraining) .flitAcknowledge (.flitAcknowledge d f.1))
      ++ dueIf (e.2.window < s.fabricCycles / replayWindow && (neighbour d.tile d.port).isSome) .replayWindowEnd (.replayWindowEnd d)
      ++ dueIf e.2.retraining .linkRetrainDone (.linkRetrainDone d)

/-- Packets reach their endpoints; those unanswered are sent again or given up (R48, R61). -/
def State.duePackets (s : State) : List Pending :=
  (s.flights.zipIdx.flatMap fun e =>
      dueIf (s.isNext e.1 && (!s.heldFlight e.1 || (e.1.route = .upDown && s.rt.state = 2))) .packetDeliver
        (.packetDeliver e.2 false))
    ++ (s.awaited.zipIdx.flatMap fun e =>
      if payloadResent e.1.packet.payload then
        dueIf (e.1.sent + 2 ^ 16 ≤ s.fabricCycles && s.rt.state ≠ 2) .resendTimeout (.resendTimeout e.2)
      else dueIf (e.1.sent + 2 ^ 20 ≤ s.fabricCycles) .requestTimeout (.requestTimeout e.2))
    ++ s.unheard.zipIdx.flatMap fun e => dueIf (s.unheardLate e.1) .requestTimeout (.requestTimeout (s.awaited.length + e.2))

/-- What the squads of a tile meet: results that arrive, timers that fire, and held traps that a squad with no eligible
group takes (R140, R318, R330). -/
def State.dueSquad (s : State) (t : Nat) (w : Workgroup) (q : Squad) : List Pending :=
  (match q.outstanding with
    | [] => []
    | o :: _ => dueIf true .resultWriteback (.resultWriteback t q.slot 0 o.lanes))
    ++ dueIf (q.groups.any fun g => g.fire s.devclk.toNat ≠ g) .sleepTimer (.sleepTimer t q.slot)
    ++ (if q.held && !q.ended && ((({ s with cur := none } : State).taker t w q).isSome
          || (q.wound && !s.lockBusy (squadKey w q))) then [Sys2Proof.Machine.heldRow q.wound t q.slot] else [])

/-- What the jobs of a tile do (R345-R356). -/
def State.dueJob (s : State) (t : Nat) (w : Workgroup) (j : Job) : List Pending :=
  let done := j.stage = .started && j.writes = []
  let stop := match j.stage with | .faulted _ _ _ => true | .queued | .started | .paused _ => false
  dueIf stop .jobStop (.jobStop t j.id) ++
    match j.kind with
    | .copy _ =>
      dueIf (s.mayStart w j) .jobStart (.jobStart t j.id) ++ dueIf (s.mayLand w j) .jobWriteLand (.jobWriteLand t j.id)
        ++ dueIf done .jobComplete (.jobComplete t j.id)
    | .collective _ =>
      dueIf (s.joinLate j) .collectiveJoinTimeout (.collectiveJoinTimeout t j.id)
        ++ dueIf (s.mayStart w j) .collectiveJoin (.collectiveJoin t j.id)
        ++ dueIf (s.mayLand w j) .collectiveChunkLand (.collectiveChunkLand t j.id)
        ++ dueIf (done && s.reducedJob t j.id) .jobComplete (.jobComplete t j.id)
    | .matrix _ _ => dueIf (w.mayFollow j.id) .followOnIssue (.followOnIssue t j.id)

/-- The message area of a workgroup: accepted elements are written, and its counts read when they have changed
(R339, R340). -/
def State.dueMessages (s : State) (t : Nat) (w : Workgroup) : List Pending :=
  if !w.area.bound then []
  else dueIf (w.q4.items ≠ [] ) .hostMsgWrite (.hostMsgWrite t)
    ++ dueIf (w.outRoom = 0 && s.areaCount t w 0x40 ≠ some w.area.outHead.toNat) .outheadReread (.outheadReread t [])
    ++ dueIf ((w.box 5).items.length < 16 && s.areaCount t w 0x80 ≠ some w.area.inHead.toNat) .intailPoll (.intailPoll t [])

/-- What a tile's own agents do. -/
def State.dueTile (s : State) (t : Nat) (tl : Tile) : List Pending :=
  match tl.wg with
  | none => []
  | some w =>
    dueIf (w.finished && !w.ended) .workgroupEnd (.workgroupEnd t)
      ++ dueIf (s.yielder t w).isSome .poolEntryReclaim (.poolEntryReclaim t)
      ++ dueIf (tl.skew.any fun k => k.2 + 2048 ≤ s.coreCycles) .skewHoldTimeout (.skewHoldTimeout t)
      ++ w.squads.flatMap (s.dueSquad t w) ++ w.jobs.flatMap (s.dueJob t w)
      ++ dueIf w.mayAct.isSome .matrixCommandAct (.matrixCommandAct t)
      ++ dueIf (w.accs.any fun a => a.sums ≠ []) .mxstSumsArrive (.mxstSumsArrive t)
      ++ s.dueMessages t w

/-- Gangs end, stop and are saved (R99, R116). -/
def State.dueGang (s : State) (g : Gang) : List Pending :=
  dueIf (s.gangOver g) .gangRetire (.gangRetire g.key)
    ++ dueIf (g.stage = .requested && s.goesOn g.key.launch && s.atRestart g.key && !s.gangOver g) .preemptStop (.preemptStop g.key)
    ++ dueIf (g.stage = .stopped && s.goesOn g.key.launch && s.mayLeave g.key) .preemptSave (.preemptSave g.key)

/-- Launches that are being stopped end when their engine commands are over (R93). -/
def State.dueStops (s : State) : List Pending :=
  (s.launches.filter s.mayClose).map fun l => ⟨.launchAbort, .launchAbort l.key 0⟩

/-- Launches that a failed dependence ends. -/
def State.canceled (s : State) : Bool := s.launches.any fun l => l.goes && l.nextGang = 0 && s.depState l = .cancel

/-- The scheduler's decisions (R105-R109). -/
def State.dueScheduler (s : State) : List Pending :=
  dueIf (s.canceled || s.toPlace.isSome) .placementDecision (.placementDecision 0)
    ++ (match s.victims with | some gs => dueIf true .preemptRequest (.preemptRequest gs) | none => [])

/-- Queues are read and written (R67-R73), fault records written (R96), tenants reset (R97). -/
def State.dueQueues (s : State) : List Pending :=
  s.queues.flatMap (fun e =>
      dueIf (s.tailDue e.2) .tailReread (.tailReread e.1 false)
        ++ dueIf (s.packetDue e.1 e.2) .launchPacketRead (.launchPacketRead e.1 false)
        ++ dueIf (s.headDue e.2) .headWrite (.headWrite e.1 false))
    ++ dueIf (s.faults.any fun r => (s.writeFault r).2) .faultRecordWrite
    ++ (if s.checkpoint.isSome then [] else (s.resets.filter s.mayReset).map fun t => ⟨.tenantReset, .tenantReset t⟩)

/-- Background commands end (R66). -/
def State.dueBackground (s : State) : List Pending :=
  s.background.flatMap fun e =>
    match e.2 with
    | .image => dueIf s.flashWrite.isSome .imgcommitComplete
    | .mark _ => []
    | .checkpoint _ => dueIf s.checkpoint.isSome .checkpointComplete (.checkpointComplete none)
    | .biasFlip _ _ _ => dueIf true .biasflipComplete
    | .poolBind _ _ _ => dueIf true .poolbindComplete

/-- Walks are made again or given up (R164). -/
def State.dueWalks (s : State) : List Pending :=
  s.walks.zipIdx.flatMap fun e =>
    dueIf e.1.retry .pageWalkDone (.pageWalkDone e.2)
      ++ dueIf (e.1.raised + pageTimeout ≤ s.devclk.toNat) .replayableFaultTimeout (.replayableFaultTimeout e.2)

/-- The request that came first for a line goes on once nothing holds it at the anchor; a host's write waits for invalidations
too. A group and a job try again of themselves. -/
def State.dueHeld (s : State) (h : Held) : List Pending :=
  if s.firstHeld h.line ≠ some h.request || s.anchorBusy (128 * h.line) then []
  else match h.request with
    | .group _ | .job _ _ => []
    | .access x => [⟨.anchorRequest, .anchorRequest x⟩]
    | .hostRead p x n => [⟨.hostMemRead, .hostMemRead p x n⟩]
    | .hostWrite p x bs => dueIf (s.inHostBias x || (s.regionFor x).acks = []) .hostMemWrite (.hostMemWrite p x bs)
    | .snoop a true inv w => [⟨.hostSnoop, .hostSnoop a inv w⟩]
    | .snoop a false true w => [⟨.bisnpInv, .bisnpInv a w⟩]
    | .snoop a false false _ => [⟨.bisnpData, .bisnpData a⟩]

/-- The wafer cache: banks are emptied, regions evaluated, held requests served, device writes completed (R79, R83, R174). -/
def State.dueCache (s : State) : List Pending :=
  s.emptying.map (fun b => ⟨.bankEmptyDone, .bankEmptyDone b⟩)
    ++ s.regions.flatMap (fun e => dueIf (s.evaluable e) .regionEvaluation (.regionEvaluation e.key))
    ++ s.held.flatMap s.dueHeld
    ++ dueIf (s.deviceWrites ≠ []) .memoryDeviceCompletion (.memoryDeviceCompletion 0)

/-- The lock manager's clocks (R301, R309). -/
def State.dueLocks (s : State) : List Pending :=
  s.sentGrants.zipIdx.flatMap (fun e => dueIf (s.grantLate e.1) .grantResendTimeout (.grantResendTimeout e.2))
    ++ s.lockSquads.flatMap fun q => dueIf (q.woundLeft = some 0) .revocation (.revocation q.squad)

/-- Failed groups end (R356), and what was sampled is written (R377). -/
def State.dueRest (s : State) : List Pending :=
  s.junctions.flatMap (fun e => dueIf (e.2.failed || s.memberLost e.2) .collectiveGroupFail (.collectiveGroupFail e.1))
    ++ s.sampler.taken.map fun x => ⟨.sample, .sample x.tile⟩

/-- The events whose time or condition has come. -/
def State.due (s : State) : List Pending :=
  s.dueBringUp ++ s.dueCommit ++ s.dueLinks ++ s.duePackets ++ s.tiles.flatMap (fun e => s.dueTile e.1 e.2)
    ++ s.gangs.flatMap s.dueGang ++ s.dueStops ++ s.dueScheduler ++ s.dueQueues ++ s.dueBackground ++ s.dueWalks ++ s.dueCache
    ++ s.dueLocks ++ s.dueRest

end Sys2Proof.Machine
end

