-- ==== Sys2Proof/Machine/Moves.lean ====
section
/-! DEFINITION. The choice of the next move (LOG 1), and the machine that is placed so that its next step fetches and
runs a given word (LOG 11). -/

namespace Sys2Proof.Machine

/-- What a step does: performs an event, lets a group issue, or lets time pass. -/
inductive Move where
  | event (p : Pending)
  | issue (c : Cursor)
  | idle
deriving DecidableEq, Repr

/-- The n-th of some moves, counted round them. -/
def nthMove (n : Nat) (ms : List Move) : Move := (ms[n % ms.length]?).getD .idle

/-- The events that may come next: the oldest of the agenda, or else those that are due. -/
def State.events (s : State) : List Move :=
  match s.agenda with
  | p :: _ => [.event p]
  | [] => s.due.map .event

/-- What moves next: as `sched` says; or else the oldest event of the agenda; or else the events that are due and the
groups that may issue, in turn. -/
def State.move (s : State) : Move :=
  match s.sched with
  | .issue n :: _ | .losing _ false n :: _ => nthMove n (s.picks.map .issue)
  | .event n :: _ | .losing _ true n :: _ => nthMove n s.events
  | [] =>
    match s.agenda with
    | p :: _ => .event p
    | [] => nthMove s.rr (s.events ++ s.picks.map .issue)

/-- What a choice loses of the requests that the step sends (R61, LOG 110). -/
def Choice.loss : Choice → Loss
  | .losing l _ _ => l
  | .event _ | .issue _ => .none

/-- Time passes, holds are brought up to date, the turn passes on, and the last choice is used up. -/
def State.settle (s : State) : State :=
  { s.tick.holdSkew with sched := s.sched.tail, rr := s.rr + 1, loss := (s.sched.tail.head?.map Choice.loss).getD .none }

/-- An event leaves the agenda and brings its input. -/
def State.begin (s : State) (p : Pending) : State :=
  { s with agenda := s.agenda.erase p, input := p.input, cur := none }

/-- A group issues. -/
def State.select (s : State) (c : Cursor) : State := { s with cur := some c, input := .none }

/-! ### A machine that runs one word next (LOG 11) -/

/-- Where the word lies: the code segment's base, in the first GiB of HBM, which is mapped to itself. -/
def bootCode : Nat := 0x10000
/-- The root table and the level-3 table. -/
def bootRoot : Nat := 0x1000
def bootTable : Nat := 0x2000

/-- A squad at its start (R127): slot 0, PC 0, no parameter block. -/
def bootSquad (now : Nat) : Squad :=
  { slot := 0, live := fullMask, groups := [Group.fresh fullMask 0 now]
    regs := ((((Vector.replicate 112 RegVal.dead).setIfInBounds 0 (.uniform 0)).setIfInBounds 1 (.uniform 0)).setIfInBounds
      2 (.uniform 0)).setIfInBounds 110 (.uniform 0)
    oc := Vector.replicate 8 ⟨.uniform 0, 0⟩, lt := Vector.replicate 4 ⟨.uniform 0, 0⟩
    genregs := 112, outstanding := [], deadrd := false, drtrap := false, intrap := false, handler := 0
    hmsk := 0x7FFFFE, trap := ⟨0, 0, false, false, false, 0, 0, 0, 0, 0⟩, span := none, inSpan := false, spanned := false, entryPc := 0
    cmdSeq := 1
    segs := (Vector.replicate 8 ⟨0, 0⟩ |>.setIfInBounds 1 ⟨0, 4096⟩).setIfInBounds 6 ⟨BitVec.ofNat 64 bootCode, 4096⟩
    wound := false, engine := none, late := none, halted := false, stopped := false, ended := false
    invals := [], poolWrites := [] }

/-- The gang of the machine that runs one word. -/
def bootGang : GangKey := ⟨⟨0, 0⟩, 0⟩

/-- Its one workgroup. -/
def bootWorkgroup (now : Nat) : Workgroup :=
  { gang := bootGang, member := 0, spad := 4096, squads := [bootSquad now], q3 := ⟨0, 0, 0, 0, none⟩, q4 := ⟨[], 0, none⟩
    boxes := List.replicate 9 ⟨[], 0, none⟩, area := ⟨false, 0, 0, 0, 0, 0⟩, jobs := [], nextJob := 0
    jobPhases := [0, 0, 0], accs := List.replicate 8 ⟨.uncfg, [], [], [], 0, 0, 0, []⟩, latch := none, skewQuiet := 0 }

/-- Its launch: of the management ward, which is privileged. -/
def bootLaunch : Launch :=
  { key := ⟨0, 0⟩, ward := 0, tenant := 0, priv := true, replay := false, crec := false, intr := false, shape := 0
    squads := 1, gangs := 1, param := 0, plen := 0, spad := 4096, dep := none, tag := 0
    header := ⟨bootCode, 112, 0, none, 65535, 0x10000, 0, 1, []⟩, order := 0, waitSince := 0, nextGang := 1, again := []
    retired := [], status := none, ending := none, snap := none, snapped := [] }

/-- The machine with a word where the one squad of tile 0 fetches next. -/
def State.boot (s : State) (w : Word) : State :=
  let s := { s with
    bringUp := { s.bringUp with phase := 6, rsvc := false, fwfail := false }
    street := [(0, 0x2007#32)], streetNext := [(0, 0x2007#32)], placement := [0], redealt := [], emptying := []
    flipping := [], wc := [], held := [], inError := [], regions := [], replicas := [], walks := [], reticleTlb := [], resets := []
    checkpoint := none, ptbase := [(0, bootRoot)], launches := [bootLaunch]
    gangs := [⟨bootGang, 0, 0, s.devclk.toNat, .running, [], [], []⟩], claims := []
    tiles := [(0, { Tile.empty with wg := some (bootWorkgroup s.coreCycles) })]
    agenda := [], sched := [], rr := 0, cur := none, loss := .none }
  ((s.pokeNum bootRoot 8 (bootTable + 7)).pokeNum bootTable 8 15).pokeNum bootCode 4 w.toNat

end Sys2Proof.Machine
end

