-- ==== Sys2Proof/Machine/Step.lean ====
section
/-! DEFINITION. One step: time passes and one agent moves, a squad by one instruction or the device by one event. -/

namespace Sys2Proof.Machine

/-- A group issues: its instruction is fetched and executed. A trap held for its squad is taken in the instruction's
place, unless the instruction itself traps (R148). -/
def stepGroup (s : State) (c : Cursor) : Host.Outcome State Fault Refusal :=
  let f := s.nextInstr
  match exec f.2 (f.1.noteIssue f.2) with
  | .next t =>
    if f.1.heldAt c && !t.left c f.2 then exec (f.1.heldRow c).row { f.1 with input := (f.1.heldRow c).input } else .next t
  | .fault r => .fault r
  | .refused r => .refused r

/-- One step. -/
def step (s : State) : Host.Outcome State Fault Refusal :=
  match s.settle.move with
  | .event p => exec p.row (s.settle.begin p)
  | .issue c => stepGroup (s.settle.select c) c
  | .idle => .next s.settle

/-- The machine with an instruction of `nbits` bits where its next step fetches: one word, since every instruction is
one word (R238). -/
def State.withFetchWord (s : State) (nbits w : Nat) : State := s.boot (BitVec.ofNat 32 (w % 2 ^ nbits))

end Sys2Proof.Machine
end

