-- ==== Sys2Proof/Safety.lean ====
section
/-! DEFINITION. What counts as a safe run, and the terms in which statements about single instructions are made: the group
that issues, what completing an instruction does to its squad, and what it leaves alone. -/

namespace Sys2Proof.Safety

open Sys2Proof.Machine

/-! ### Runs -/

/-- The invariant: memory, and the staged image, keep their canonical form. -/
def Inv (s : State) : Prop := Memory.wf s.mem = true ∧ Memory.wf s.staged = true

/-- A step goes on. -/
def Goes (s : State) : Prop := ∃ t, step s = .next t

/-! ### The group that issues -/

/-- The group that `cur` names, as it comes to issue i: it waits for no fence, and the results that i waits for are written
(R139, R140, R292). -/
def Issuing (i : Instr) (s : State) (c : Ctx) : Prop :=
  ∃ x, s.ctx = some x ∧ x.g.fences = [] ∧ c = { x with sq := x.sq.settle i x.g }

/-- The group issues i, R148 raises no trap at issue, and no trap of R146 follows a dead read, which c notes. -/
def Issues (i : Instr) (s : State) (c : Ctx) : Prop :=
  ∃ y, Issuing i s y ∧ issueTrap i y (s.flash.stepping = 0) (y.priv s) i.isPrivileged = none
    ∧ (y.readsDead i && y.sq.drtrap) = false ∧ c = y.reading i

/-- The group is tried again at an instruction that waits, which has issued already (R330). -/
def Resumes (i : Instr) (s : State) (c : Ctx) : Prop :=
  ∃ y, Issuing i s y ∧ y.g.inWait = true ∧ (y.readsDead i && y.sq.drtrap) = false ∧ c = y.reading i

/-- The state in which the instruction acts: its squad's due results are written. -/
def ready (s : State) (c : Ctx) : State := s.updSquad c.tile c.sq.slot fun _ => c.sq

/-- The state in which a release of a scope acts once its conditions hold: its squad has no write left to wait for. -/
def releasedAt (s : State) (c : Ctx) (scope : Nat) : State := s.updSquad c.tile c.sq.slot fun q => q.released scope

/-! ### Values -/

/-- The value that a register, slot or latch of a squad holds in a lane. -/
def laneVal (q : Squad) (o : Operand) (j : Nat) : Word := (q.peek none o).lane j

/-- The 64-bit value that a pair of a squad holds in a lane. -/
def pairVal (q : Squad) (o : Operand) (j : Nat) : DWord := pairValue (laneVal q o j) (laneVal q (Operand.plus o 1) j)

/-- An entry of the operand cache or a latch is valid in a lane; a file register always is. -/
def laneValid (q : Squad) (o : Operand) (j : Nat) : Bool :=
  match o with
  | .oc n => (q.ocSlot n.val).valid.getLsbD j
  | .lt n => (q.latch n.val).valid.getLsbD j
  | .v _ | .zero | .lane | .himm | .bad => true

/-- Storage that no dead mark and no result touches is as in b; storage that i marks dead is dead (R145). -/
def storageFrom (i : Instr) (c : Ctx) (b : Squad) (dst : List Operand) (q : Squad) : Prop :=
  let killed (o : Operand) : Bool := c.whole && (killOps i c.g.hints).contains o
  (∀ n : Fin 112, .v n ∉ dst → q.reg n.val = if killed (.v n) then .dead else b.reg n.val) ∧
  (∀ n : Fin 8, .oc n ∉ dst → q.ocSlot n.val = if killed (.oc n) then { b.ocSlot n.val with valid := 0 } else b.ocSlot n.val) ∧
  (∀ n : Fin 4, .lt n ∉ dst → q.latch n.val = if killed (.lt n) then { b.latch n.val with valid := 0 } else b.latch n.val)

/-- The lanes of the group stand at their next PCs (R128, R129). -/
def moved (c : Ctx) (next : Nat → DWord) (q : Squad) : Prop :=
  ∀ j ∈ lanesOf c.g.threads, ∃ g ∈ q.groups, g.threads.getLsbD j = true ∧ g.pc = next j

/-- The next PC of every lane of an instruction that does not transfer. -/
def fallsThrough (c : Ctx) (_ : Nat) : DWord := c.g.pc + 4

/-- The squad q after i has completed, where b is the squad with what i changes beside registers, slots and latches: it
wrote only `dst` and its dead marks, and its lanes stand at `next`. Whatever b keeps of the squad as it issued (DEADRD, which c
notes; trap registers, segment registers, handler mask, span number, outstanding results and every other register) is as it was. -/
def PassedFrom (i : Instr) (c : Ctx) (b : Squad) (dst : List Operand) (next : Nat → DWord) (q : Squad) : Prop :=
  storageFrom i c b dst q ∧ moved c next q ∧
  q.inSpan = (b.inSpan && !i.isTerminator) ∧
  { q with regs := b.regs, oc := b.oc, lt := b.lt, groups := b.groups, inSpan := b.inSpan } = b

/-- A squad but for the instruction-buffer entries of its groups, which another squad's completion may move (R130), and what a
sample says of their last wait, which a new entry ends (R377). -/
def bare (q : Squad) : Squad := { q with groups := q.groups.map fun g => { g with entry := .home, cause := 0 } }

/-- Nothing of a tile changed but squad `slot` and the instruction-buffer entries of the others' groups. -/
def tileKept (s t : State) (n slot : Nat) : Prop :=
  { t.tile n with wg := (s.tile n).wg, parkSeq := (s.tile n).parkSeq } = s.tile n ∧
  (t.tile n).wg.map (fun w => { w with squads := [] }) = (s.tile n).wg.map (fun w => { w with squads := [] }) ∧
  ∀ k, k ≠ slot → (t.squad? n k).map bare = (s.squad? n k).map bare

/-- Nothing outside the tiles changed but the counter of free values, and no other tile changed: memory, the special
registers, the lock tables, the fabric and every other field of the state are as they were. -/
def outsideKept (s t : State) (n : Nat) : Prop :=
  { t with tiles := s.tiles, freeCtr := s.freeCtr } = s ∧ ∀ m, m ≠ n → t.tile m = s.tile m

/-- An instruction that acts on its own squad alone has completed, leaving the squad as q. -/
def SquadOnly (s : State) (c : Ctx) (t : State) (q : Squad) : Prop :=
  t.squad? c.tile c.sq.slot = some q ∧ tileKept s t c.tile c.sq.slot ∧ outsideKept s t c.tile

/-- i has completed: outside its squad the state is e, and q is the squad it leaves, which is b but for `dst`, its dead
marks and the place of its lanes. -/
def Acts (i : Instr) (s : State) (c : Ctx) (e : State) (b : Squad) (dst : List Operand) (next : Nat → DWord) (t : State)
    (q : Squad) : Prop :=
  exec i s = .next t ∧ SquadOnly e c t q ∧ PassedFrom i c b dst next q

/-- i has completed with no effect but on its own squad, where it wrote `dst`. -/
def Completes (i : Instr) (s : State) (c : Ctx) (dst : List Operand) (next : Nat → DWord) (t : State) (q : Squad) : Prop :=
  Acts i s c s c.sq dst next t q

/-- The destination holds v in the lanes of the group; `zero` discards. -/
def Holds (c : Ctx) (q : Squad) (d : Operand) (v : Nat → Word) : Prop :=
  d ≠ .zero → ∀ j ∈ lanesOf c.g.threads, laneVal q d j = v j ∧ laneValid q d j = true

/-- A general register keeps its value in the lanes of other groups (R143). -/
def OthersKeep (c : Ctx) (q : Squad) (d : Operand) : Prop :=
  c.whole = false → ∀ j < 32, c.g.threads.getLsbD j = false → laneVal q d j = laneVal c.sq d j

/-- i completes with no result in storage: outside its squad the state is e, and the squad is b. -/
def Effect (i : Instr) (s : State) (c : Ctx) (e : State) (b : Squad) : Prop :=
  ∃ t q, Acts i s c e b [] (fallsThrough c) t q

/-- i completes with the result v in d. -/
def Result (i : Instr) (s : State) (c : Ctx) (e : State) (b : Squad) (d : Operand) (v : Nat → Word) : Prop :=
  ∃ t q, Acts i s c e b [d] (fallsThrough c) t q ∧ Holds c q d v ∧ OthersKeep c q d

/-- i completes with the 64-bit result v in a pair. -/
def PairResult (i : Instr) (s : State) (c : Ctx) (e : State) (b : Squad) (d : Operand) (v : Nat → DWord) : Prop :=
  ∃ t q, Acts i s c e b [d, Operand.plus d 1] (fallsThrough c) t q ∧
    (d ≠ .zero → ∀ j ∈ lanesOf c.g.threads, pairVal q d j = v j) ∧ OthersKeep c q d ∧ OthersKeep c q (Operand.plus d 1)

/-- The anchor of the line for which a group waits holds its request. -/
def heldFor (s : State) (c : Ctx) : Blocked → State
  | .anchor line => s.hold line (.group ⟨c.tile, c.sq.slot, c.g.pc⟩)
  | .waitp _ _ | .qpop _ | .sleep _ _ | .home _ | .release _ | .fence | .snoops | .unbind | .page _ _ | .answer _ _ _ => s

/-- The group waits at i without taking effect, as w says, and keeps what i has read; its squad is b but for that. -/
def Blocks (i : Instr) (s : State) (c : Ctx) (b : Squad) (w : Blocked) : Prop :=
  ∃ t q, exec i s = .next t ∧ SquadOnly (heldFor (ready s c) c w) c t q ∧
    q = { b with groups := b.groups.map fun g => if g.pc = c.g.pc then
            { g with blocked := some w, since := if g.blocked.isSome then g.since else s.coreCycles, cause := 6
                     read := some (c.g.read.getD c.sq.sources) } else g }

/-! ### Memory accesses -/

/-- What an access of the issuing tile may change beside its squad: memory, the caches, TLBs and predictors of its tile,
the wafer cache, what a host gives back of a line, and the packets and completions that follow. No other tile, no other squad and no other part of the
state changes. -/
def AccessOnly (s e : State) (c : Ctx) : Prop :=
  { e with tiles := s.tiles, mem := s.mem, wc := s.wc, inError := s.inError, regions := s.regions, replicas := s.replicas
           reticleTlb := s.reticleTlb, deviceWrites := s.deviceWrites, lastAtomic := s.lastAtomic, agenda := s.agenda
           hostLines := s.hostLines, useCtr := s.useCtr, freeCtr := s.freeCtr } = s ∧
  (∀ m, m ≠ c.tile → e.tile m = s.tile m) ∧
  { e.tile c.tile with wg := (s.tile c.tile).wg, l1 := (s.tile c.tile).l1, tlb := (s.tile c.tile).tlb
                       replicaTable := (s.tile c.tile).replicaTable, contention := (s.tile c.tile).contention }
    = s.tile c.tile ∧
  (e.tile c.tile).wg.map (fun w => { w with squads := [] }) = (s.tile c.tile).wg.map (fun w => { w with squads := [] }) ∧
  ∀ k, k ≠ c.sq.slot → e.squad? c.tile k = s.squad? c.tile k

/-- The byte at a key of the memory list: HBM, pool, host memory and every scratchpad. -/
def byteAt (s : State) (a : Nat) : Byte := Memory.read s.mem a

/-! ### Traps -/

/-- The group has taken the trap with the registers r into its squad's handler at `pc` (R317): the registers are written,
`oc` and `lt` are invalid, INTRAP is set, the group's lanes stand at `pc`, and nothing else has changed; `base` is the
squad before the entry. -/
def Enters (s : State) (c : Ctx) (base : Squad) (r : TrapRegs) (pc : DWord) (t : State) : Prop :=
  ∃ q, SquadOnly s c t q ∧ moved c (fun _ => pc) q ∧
    { q with groups := [] } =
      { base with trap := r, intrap := true, handler := c.g.threads, groups := []
                  oc := base.oc.map fun e => { e with valid := 0 }, lt := base.lt.map fun e => { e with valid := 0 } }

/-- The handler that a trap of the issuing squad goes to, if it goes to one (R316). -/
def handlerOf (s : State) (c : Ctx) (num : Nat) : Option DWord := handlerPc (c.launch s) c.sq num

end Sys2Proof.Safety
end

