-- ==== Sys2Proof/Rules.lean ====
section
/-! DEFINITION. The results that the rules of the instruction chapters give, as tables over the constructors of `Instr`:
statements compare what `exec` leaves with them. -/

namespace Sys2Proof.Rules

open Sys2Proof.Machine

/-! ### Integer instructions (R265-R267, R269) -/

/-- An integer kept within [-2^31, 2^31 - 1]. -/
def saturate (x : Int) : Word := BitVec.ofInt 32 (max (-(2 ^ 31)) (min (2 ^ 31 - 1) x))

/-- Bits [63:32] of a product. -/
def highProduct (a b : Int) : Word := BitVec.ofInt 32 (a * b / 2 ^ 32)

/-- 1 where a condition holds, else 0. -/
def oneIf (p : Prop) [Decidable p] : Word := if p then 1 else 0

/-- pos and width of R267. -/
def pos (b : Word) : Nat := (b.extractLsb' 0 5).toNat
def width (b : Word) : Nat := min (b.extractLsb' 8 6).toNat (32 - pos b)

/-- The bits [pos + width - 1 : pos] of a word. -/
def field (a b : Word) : Nat := a.toNat / 2 ^ pos b % 2 ^ width b

/-- D of the instructions of opcodes 0x00-0x1F with a 32-bit result: the destination and its value in each lane. -/
def intResult (c : Ctx) : Instr → Option (Operand × (Nat → Word))
  | .iadd f => some (f.d, fun j => c.val f.a j + c.val f.b j)
  | .iadds f => some (f.d, fun j => saturate ((c.val f.a j).toInt + (c.val f.b j).toInt))
  | .isub f => some (f.d, fun j => c.val f.a j - c.val f.b j)
  | .isubs f => some (f.d, fun j => saturate ((c.val f.a j).toInt - (c.val f.b j).toInt))
  | .imul f => some (f.d, fun j => c.val f.a j * c.val f.b j)
  | .imulh f => some (f.d, fun j => highProduct (c.val f.a j).toInt (c.val f.b j).toInt)
  | .imad f => some (f.d, fun j => c.val f.a j * c.val f.b j + c.val f.d j)
  | .imadh f => some (f.d, fun j => highProduct (c.val f.a j).toInt (c.val f.b j).toInt + c.val f.d j)
  | .imin f => some (f.d, fun j => if (c.val f.a j).toInt ≤ (c.val f.b j).toInt then c.val f.a j else c.val f.b j)
  | .iminn f => some (f.d, fun j => if (c.val f.a j).toNat ≤ (c.val f.b j).toNat then c.val f.a j else c.val f.b j)
  | .imax f => some (f.d, fun j => if (c.val f.a j).toInt ≤ (c.val f.b j).toInt then c.val f.b j else c.val f.a j)
  | .imaxn f => some (f.d, fun j => if (c.val f.a j).toNat ≤ (c.val f.b j).toNat then c.val f.b j else c.val f.a j)
  | .andB f => some (f.d, fun j => c.val f.a j &&& c.val f.b j)
  | .andn f => some (f.d, fun j => c.val f.a j &&& ~~~(c.val f.b j))
  | .orB f => some (f.d, fun j => c.val f.a j ||| c.val f.b j)
  | .orn f => some (f.d, fun j => c.val f.a j ||| ~~~(c.val f.b j))
  | .xorB f => some (f.d, fun j => c.val f.a j ^^^ c.val f.b j)
  | .xnor f => some (f.d, fun j => ~~~(c.val f.a j ^^^ c.val f.b j))
  | .shl f => some (f.d, fun j => c.val f.a j <<< (c.val f.b j).toNat)
  | .rol f => some (f.d, fun j => (c.val f.a j).rotateLeft ((c.val f.b j).toNat % 32))
  | .shr f => some (f.d, fun j => c.val f.a j >>> (c.val f.b j).toNat)
  | .sar f => some (f.d, fun j => (c.val f.a j).sshiftRight (c.val f.b j).toNat)
  | .cseq f => some (f.d, fun j => oneIf (c.val f.a j = c.val f.b j))
  | .csne f => some (f.d, fun j => oneIf (c.val f.a j ≠ c.val f.b j))
  | .cslt f => some (f.d, fun j => oneIf ((c.val f.a j).toInt < (c.val f.b j).toInt))
  | .csltn f => some (f.d, fun j => oneIf ((c.val f.a j).toNat < (c.val f.b j).toNat))
  | .csle f => some (f.d, fun j => oneIf ((c.val f.a j).toInt ≤ (c.val f.b j).toInt))
  | .cslen f => some (f.d, fun j => oneIf ((c.val f.a j).toNat ≤ (c.val f.b j).toNat))
  | .sel f => some (f.d, fun j => if c.val f.d j ≠ 0 then c.val f.a j else c.val f.b j)
  | .popc f => some (f.d, fun j => BitVec.ofNat 32 ((List.range 32).filter fun k => (c.val f.a j).getLsbD k).length)
  | .clz f => some (f.d, fun j => BitVec.ofNat 32 ((List.range 32).takeWhile fun k => !(c.val f.a j).getMsbD k).length)
  | .brev f => some (f.d, fun j => (c.val f.a j).reverse)
  | .ffs f => some (f.d, fun j => BitVec.ofNat 32 ((List.range 32).takeWhile fun k => !(c.val f.a j).getLsbD k).length)
  | .bfx f => some (f.d, fun j => BitVec.ofNat 32 (field (c.val f.a j) (c.val f.b j)))
  | .bfxs f => some (f.d, fun j =>
      BitVec.ofInt 32 (if width (c.val f.b j) = 0 then 0 else toSigned (width (c.val f.b j)) (field (c.val f.a j) (c.val f.b j))))
  | .bfi f => some (f.d, fun j => BitVec.ofFnLE fun k : Fin 32 =>
      if pos (c.val f.b j) ≤ k.val ∧ k.val < pos (c.val f.b j) + width (c.val f.b j)
      then (c.val f.a j).getLsbD (k.val - pos (c.val f.b j)) else (c.val f.d j).getLsbD k.val)
  | .mov f => some (f.d, fun j => c.val f.a j)
  | .movg f => some (f.d, fun j => if c.val f.b j ≠ 0 then c.val f.a j else c.val f.d j)
  | .iabs f => some (f.d, fun j => if (c.val f.a j).toInt < 0 then -(c.val f.a j) else c.val f.a j)
  | .ineg f => some (f.d, fun j => -(c.val f.a j))
  | .iaddi f => some (f.d, fun j => c.val f.a j + f.imm.signExtend 32)
  | .imuli f => some (f.d, fun j => c.val f.a j * f.imm.signExtend 32)
  | .andi f => some (f.d, fun j => c.val f.a j &&& f.imm.signExtend 32)
  | .ori f => some (f.d, fun j => c.val f.a j ||| f.imm.signExtend 32)
  | .xori f => some (f.d, fun j => c.val f.a j ^^^ f.imm.signExtend 32)
  | .shli f => some (f.d, fun j => c.val f.a j <<< (f.imm.toNat % 32))
  | .shri f => some (f.d, fun j =>
      if f.imm.getLsbD 9 then (c.val f.a j).sshiftRight (f.imm.toNat % 32) else c.val f.a j >>> (f.imm.toNat % 32))
  | .movi f => some (f.d, fun _ => f.imm.signExtend 32)
  | _ => none

/-- D:D+1 of the instructions with a 64-bit integer result (R268). -/
def wideResult (c : Ctx) : Instr → Option (Operand × (Nat → DWord))
  | .wadd f => some (f.d, fun j => c.pair f.a j + c.pair f.b j)
  | .wsub f => some (f.d, fun j => c.pair f.a j - c.pair f.b j)
  | .wmul f => some (f.d, fun j => c.pair f.a j * c.pair f.b j)
  | .wmulh f => some (f.d, fun j => BitVec.ofInt 64 ((c.pair f.a j).toInt * (c.pair f.b j).toInt / 2 ^ 64))
  | .wshl f => some (f.d, fun j => c.pair f.a j <<< (c.val f.b j).toNat)
  | .wshr f => some (f.d, fun j => c.pair f.a j >>> (c.val f.b j).toNat)
  | _ => none

/-! ### Float instructions (R270-R277) -/

/-- An F32 operand in a lane. -/
def f32At (c : Ctx) (o : Operand) (j : Nat) : FVal := f32.decode (c.val o j).toNat
/-- An F64 operand in a lane. -/
def f64At (c : Ctx) (o : Operand) (j : Nat) : FVal := f64.decode (c.pair o j).toNat
/-- Element k of a packed operand of a format. -/
def elemAt (f : Fmt) (c : Ctx) (o : Operand) (j k : Nat) : FVal :=
  f.decode ((c.val o j).toNat / 2 ^ (f.width * k) % 2 ^ f.width)
/-- Two packed results with their exceptions. -/
def twoOf (lo hi : Nat × Nat) : Nat × Nat := (lo.1 + 2 ^ 16 * hi.1, lo.2 ||| hi.2)

/-- D of the float instructions with a 32-bit result: the destination, and in each lane the value and its exceptions,
under the arithmetic control in force. -/
def floatResult (c : Ctx) : Instr → Option (Operand × (Nat → Nat × Nat))
  | .fadd f => some (f.d, fun j => f32.addV c.control (f32At c f.a j) (f32At c f.b j))
  | .fsub f => some (f.d, fun j => f32.addV c.control (f32At c f.a j) (f32At c f.b j).negate)
  | .fmul f => some (f.d, fun j => f32.mulV c.control (f32At c f.a j) (f32At c f.b j))
  | .fscl f => some (f.d, fun j => f32.scaleV c.control (f32At c f.a j) (c.val f.b j).toInt)
  | .ffma f => some (f.d, fun j => f32.fmaV c.control (f32At c f.a j) (f32At c f.b j) (f32At c f.d j))
  | .ffms f => some (f.d, fun j => f32.fmaV c.control (f32At c f.a j) (f32At c f.b j) (f32At c f.d j).negate)
  | .fmin f => some (f.d, fun j => f32Extreme false (c.val f.a j).toNat (c.val f.b j).toNat)
  | .fmax f => some (f.d, fun j => f32Extreme true (c.val f.a j).toNat (c.val f.b j).toNat)
  | .fcseq f => some (f.d, fun j => f32Compare (fun o => o = 0) false false (c.val f.a j).toNat (c.val f.b j).toNat)
  | .fcsne f => some (f.d, fun j => f32Compare (fun o => o ≠ 0) true false (c.val f.a j).toNat (c.val f.b j).toNat)
  | .fcslt f => some (f.d, fun j => f32Compare (fun o => o < 0) false true (c.val f.a j).toNat (c.val f.b j).toNat)
  | .fcsle f => some (f.d, fun j => f32Compare (fun o => o ≤ 0) false true (c.val f.a j).toNat (c.val f.b j).toNat)
  | .fcsun f => some (f.d, fun j => f32Compare (fun _ => false) true false (c.val f.a j).toNat (c.val f.b j).toNat)
  | .fcsor f => some (f.d, fun j => f32Compare (fun _ => true) false false (c.val f.a j).toNat (c.val f.b j).toNat)
  | .fabs f => some (f.d, fun j => (match f32At c f.a j with
      | .nan _ => f32.nan | .inf _ | .fin _ _ _ => (c.val f.a j &&& 0x7FFFFFFF#32).toNat, 0))
  | .fneg f => some (f.d, fun j => (match f32At c f.a j with
      | .nan _ => f32.nan | .inf _ | .fin _ _ _ => (c.val f.a j ^^^ 0x80000000#32).toNat, 0))
  | .frcp f => some (f.d, fun j => f32Rcp c.control (c.val f.a j).toNat)
  | .frsq f => some (f.d, fun j => f32Rsq c.control (c.val f.a j).toNat)
  | .fex2 f => some (f.d, fun j => f32Exp2 c.control (c.val f.a j).toNat)
  | .flg2 f => some (f.d, fun j => f32Log2 c.control (c.val f.a j).toNat)
  | .fsin f => some (f.d, fun j => f32Trig c.control false (c.val f.a j).toNat)
  | .fcos f => some (f.d, fun j => f32Trig c.control true (c.val f.a j).toNat)
  | .hadd2 f => some (f.d, fun j => twoOf (fp16.addV c.control (elemAt fp16 c f.a j 0) (elemAt fp16 c f.b j 0))
      (fp16.addV c.control (elemAt fp16 c f.a j 1) (elemAt fp16 c f.b j 1)))
  | .hmul2 f => some (f.d, fun j => twoOf (fp16.mulV c.control (elemAt fp16 c f.a j 0) (elemAt fp16 c f.b j 0))
      (fp16.mulV c.control (elemAt fp16 c f.a j 1) (elemAt fp16 c f.b j 1)))
  | .hfma2 f => some (f.d, fun j =>
      twoOf (fp16.fmaV c.control (elemAt fp16 c f.a j 0) (elemAt fp16 c f.b j 0) (elemAt fp16 c f.d j 0))
        (fp16.fmaV c.control (elemAt fp16 c f.a j 1) (elemAt fp16 c f.b j 1) (elemAt fp16 c f.d j 1)))
  | .badd2 f => some (f.d, fun j => twoOf (bf16.addV c.control (elemAt bf16 c f.a j 0) (elemAt bf16 c f.b j 0))
      (bf16.addV c.control (elemAt bf16 c f.a j 1) (elemAt bf16 c f.b j 1)))
  | .bmul2 f => some (f.d, fun j => twoOf (bf16.mulV c.control (elemAt bf16 c f.a j 0) (elemAt bf16 c f.b j 0))
      (bf16.mulV c.control (elemAt bf16 c f.a j 1) (elemAt bf16 c f.b j 1)))
  | .bfma2 f => some (f.d, fun j =>
      twoOf (bf16.fmaV c.control (elemAt bf16 c f.a j 0) (elemAt bf16 c f.b j 0) (elemAt bf16 c f.d j 0))
        (bf16.fmaV c.control (elemAt bf16 c f.a j 1) (elemAt bf16 c f.b j 1) (elemAt bf16 c f.d j 1)))
  | .cvtfi f => some (f.d, fun j => toInt c.control 32 true (f32At c f.a j))
  | .cvtfn f => some (f.d, fun j => toInt c.control 32 false (f32At c f.a j))
  | .cvtif f => some (f.d, fun j => f32.ofInt c.control (c.val f.a j).toInt)
  | .cvtnf f => some (f.d, fun j => f32.ofInt c.control (c.val f.a j).toNat)
  | .narh f => some (f.d, fun j => twoOf (fp16.convert c.control (f32At c f.a j)) (fp16.convert c.control (f32At c f.b j)))
  | .narb f => some (f.d, fun j => twoOf (bf16.convert c.control (f32At c f.a j)) (bf16.convert c.control (f32At c f.b j)))
  | .widh f => some (f.d, fun j => f32.convert c.control (elemAt fp16 c f.a j ((c.val f.b j).toNat % 2)))
  | .widb f => some (f.d, fun j => f32.convert c.control (elemAt bf16 c f.a j ((c.val f.b j).toNat % 2)))
  | .e4pk f => some (f.d, fun j => pack8 e4m3 c.control (c.val f.a j).toNat (c.val f.b j).toNat (c.val f.d j).toNat)
  | .e5pk f => some (f.d, fun j => pack8 e5m2 c.control (c.val f.a j).toNat (c.val f.b j).toNat (c.val f.d j).toNat)
  | .e4up f => some (f.d, fun j => f32.convert c.control (elemAt e4m3 c f.a j ((c.val f.b j).toNat % 4)))
  | .e5up f => some (f.d, fun j => f32.convert c.control (elemAt e5m2 c f.a j ((c.val f.b j).toNat % 4)))
  | .q4pk f => some (f.d, fun j =>
      ((quantise (f32At c f.a j) (c.val f.b j).toNat).1 * 2 ^ 28 + (c.val f.d j).toNat / 2 ^ 4
        , (quantise (f32At c f.a j) (c.val f.b j).toNat).2))
  | .q4up f => some (f.d, fun j => dequantise c.control ((c.val f.a j).toNat % 2 ^ 4) (c.val f.b j).toNat)
  | _ => none

/-- D:D+1 of the F64 instructions (R274). -/
def doubleResult (c : Ctx) : Instr → Option (Operand × (Nat → Nat × Nat))
  | .dadd f => some (f.d, fun j => f64.addV c.control (f64At c f.a j) (f64At c f.b j))
  | .dsub f => some (f.d, fun j => f64.addV c.control (f64At c f.a j) (f64At c f.b j).negate)
  | .dmul f => some (f.d, fun j => f64.mulV c.control (f64At c f.a j) (f64At c f.b j))
  | .dfma f => some (f.d, fun j => f64.fmaV c.control (f64At c f.a j) (f64At c f.b j) (f64At c f.d j))
  | _ => none

/-- The scale word of a Q4 instruction raises SCALE (R277). -/
def badScale (c : Ctx) (j : Nat) : Instr → Bool
  | .q4pk f | .q4up f => scaleExp (c.val f.b j).toNat = 255
  | _ => false

/-! ### Cross-lane instructions (R278-R280) -/

/-- The active lanes with their values of an operand. -/
def active (c : Ctx) (o : Operand) : List (Nat × Word) := (lanesOf c.g.threads).map fun k => (k, c.val o k)

/-- The sum of the values of some lanes, modulo 2^32. -/
def laneSum (l : List (Nat × Word)) : Word := BitVec.ofNat 32 ((l.map fun x => x.2.toNat).foldl (· + ·) 0)

/-- D of the cross-lane instructions. -/
def crossResult (c : Ctx) : Instr → Option (Operand × (Nat → Word))
  | .shfl f => some (f.d, fun j => c.val f.a ((c.val f.b j).toNat % 32))
  | .shfx f => some (f.d, fun j => c.val f.a ((BitVec.ofNat 32 j ^^^ c.val f.b j).toNat % 32))
  | .bcst f => some (f.d, fun _ => c.val f.a ((c.uni f.b).toNat % 32))
  | .sqrd f => some (f.d, fun _ => laneSum (active c f.a))
  | .sqrf f => some (f.d, fun _ => BitVec.ofNat 32 (f32.sum ((active c f.a).map fun x => f32.decode x.2.toNat)))
  | .sqmx f => some (f.d, fun _ => BitVec.ofInt 32 ((active c f.a).foldl (fun m x => max m x.2.toInt) (-(2 ^ 31))))
  | .sqmf f => some (f.d, fun _ => match (active c f.a).map fun x => x.2.toNat with
      | [] => 0
      | x :: r => BitVec.ofNat 32 (r.foldl (fun m y => (f32Extreme true m y).1) (f32Extreme true x x).1))
  | .scan f => some (f.d, fun j => laneSum ((active c f.a).filter fun x => x.1 ≤ j))
  | .scnx f => some (f.d, fun j => laneSum ((active c f.a).filter fun x => x.1 < j))
  | .balt f => some (f.d, fun _ => BitVec.ofFnLE fun k : Fin 32 => c.g.threads.getLsbD k.val && c.val f.a k.val ≠ 0)
  | .bcnt f => some (f.d, fun _ => BitVec.ofNat 32 ((active c f.a).filter fun x => x.2 ≠ 0).length)
  | .rank f => some (f.d, fun j => BitVec.ofNat 32 ((active c f.a).filter fun x => x.2.toInt < (c.val f.a j).toInt).length)
  | .ranka f => some (f.d, fun j => BitVec.ofNat 32 ((active c f.a).filter fun x =>
      x.2.toInt < (c.val f.a j).toInt ∨ (x.2 = c.val f.a j ∧ x.1 < j)).length)
  | .iota f => some (f.d, fun j => c.uni f.a + c.uni f.b * BitVec.ofNat 32 j)
  | _ => none

/-! ### Transfers (R311-R313) -/

/-- The target of each lane that transfers. -/
def branchTarget (c : Ctx) : Instr → Option (Nat → Option Int)
  | .bra p => some fun _ => some (c.g.pc.toNat + 4 * p.toInt)
  | .call p => some fun _ => some (c.g.pc.toNat + 4 * p.toInt)
  | .bz f => some fun j =>
      if c.val f.a (if f.u then 0 else j) = 0 then some (c.g.pc.toNat + 4 * f.offset.toInt) else none
  | .bnz f => some fun j =>
      if c.val f.a (if f.u then 0 else j) ≠ 0 then some (c.g.pc.toNat + 4 * f.offset.toInt) else none
  | .jmpr f => some fun j => some (c.val f.a j).toNat
  | .callr f => some fun j => some (c.val f.a j).toNat
  | _ => none

/-- The register that takes the link p + 4. -/
def linkReg : Instr → List Operand
  | .call _ => [.v 111]
  | .callr f => [f.d]
  | _ => []

/-- Where a lane goes. -/
def branchNext (c : Ctx) (target : Nat → Option Int) (j : Nat) : DWord :=
  match target j with
  | some t => BitVec.ofInt 64 t
  | none => c.g.pc + 4

/-! ### SYS (R324-R330) -/

/-- How many file registers of a squad carry a tag. -/
def tagged (q : Squad) (tag : Nat) : Nat := ((List.range 112).filter fun n => (q.reg n).tag = tag).length

/-- The routing table that RTBL's address word names. -/
def tableAt (s : State) (a : Nat) : Tables := if a / 2 ^ 24 % 2 = 1 then s.staging else s.active

/-- A of the sub-operations that answer a uniform word; none for the others. -/
def sysResult (s : State) (c : Ctx) : Instr → Option (Operand × Word)
  | .sysMfs f => some (f.a, s.mfs c f.imm.toNat)
  | .sysSqid f => some (f.a, BitVec.ofNat 32 c.sq.slot)
  | .sysWgid f => some (f.a, BitVec.ofNat 32 c.wg.member)
  | .sysGngid f => some (f.a, BitVec.ofNat 32 c.wg.gang.gang)
  | .sysLnch f => some (f.a, match f.imm.toNat with
      | 0 => BitVec.ofNat 32 c.wg.gang.launch.seq
      | 1 => BitVec.ofNat 32 c.wg.gang.launch.qid
      | 2 => BitVec.ofNat 32 (c.ward s)
      | 3 => BitVec.ofNat 32 c.tile
      | _ => BitVec.ofNat 32 (reticleOf c.tile))
  | .sysAmskRead f => some (f.a, c.sq.hmsk)
  | .sysXmsk f => some (f.a, c.g.threads)
  | .sysPrio f => some (f.a, BitVec.ofNat 32 (s.effPrio (c.ward s)))
  | .sysCapr f =>
    if (c.uni f.a).toNat % 4 = 0 then some (f.a, BitVec.ofNat 32 (s.capWord f.imm.toNat ((c.uni f.a).toNat / 4))) else none
  | .sysFtst f => some (f.a, BitVec.ofNat 32 (c.sq.wound.toNat + 2 * c.sq.engine.isSome.toNat + 4 * (s.lockSquad c.key).revoked.toNat))
  | .sysPstat f => some (f.a, s.power.pwrst)
  | .sysTags f => some (f.a, BitVec.ofNat 32 (match c.sq.reg f.imm.toNat with
      | .uniform _ => 0 | .affine _ _ => 1 | .general _ => 2 | .dead => 3))
  | .sysShpr f => some (f.a, BitVec.ofNat 32
      (tagged c.sq 0 + 2 ^ 8 * tagged c.sq 1 + 2 ^ 16 * tagged c.sq 2 + 2 ^ 24 * tagged c.sq 3))
  | .sysCsum f => some (f.a,
      ((List.range 32).flatMap fun j => leBytes 4 (if c.g.threads.getLsbD j
        then (c.val (Operand.ofBits (f.imm.extractLsb' 0 7)) j).toNat else 0)).foldl crcByte (c.uni f.a))
  | .sysRtbl f => some (f.a, BitVec.ofNat 32
      (if (c.uni f.a).toNat % 2 ^ 12 < 2688 ∧ (c.uni f.a).toNat / 2 ^ 12 % 2 ^ 12 ≤ 2688
       then ((tableAt s (c.uni f.a).toNat).entry ((c.uni f.a).toNat % 2 ^ 12) ((c.uni f.a).toNat / 2 ^ 12 % 2 ^ 12)).toNat else 0))
  | .sysDmap f => some (f.a, if (c.uni f.a).toNat < 2688 then streetWord s.street (c.uni f.a).toNat else 0)
  | _ => none

/-- The fields of a special register: their lowest bits, their widths and their values (R34, R57, R147, R237, R309, R319). -/
def specialFields (s : State) (c : Ctx) (sel : Nat) : List (Nat × Nat × Nat) :=
  match sel with
  | 0x00 => [(0, 1, c.sq.deadrd.toNat), (1, 1, c.sq.drtrap.toNat), (2, 1, c.sq.intrap.toNat), (4, 4, c.sq.slot), (8, 2, c.sq.slot % 4)
      , (10, 6, c.sq.groups.length), (16, 5, (c.sq.groups.filter Group.parked).length), (21, 7, c.sq.genUse)]
  | 0x01 => [(0, 4, s.bringUp.phase), (4, 1, s.bringUp.rsvc.toNat), (5, 1, s.bringUp.fwfail.toNat), (6, 1, s.bringUp.short.toNat)
      , (7, 1, s.bringUp.roledef.toNat), (8, 12, s.bringUp.good), (20, 8, s.bringUp.svn.toNat)]
  | 0x03 => [(0, 24, (s.tile c.tile).accCorr), (24, 8, (s.tile c.tile).accFail)]
  | 0x04 => [(0, 16, s.rt.gen.toNat), (16, 2, s.rt.state), (18, 5, s.rt.err), (23, 1, s.rt.fwc.toNat)]
  | 0x05 => [(0, 12, s.rt.router), (12, 12, s.rt.dest)]
  | 0x09 => [(0, 8, c.sq.trap.num.toNat), (8, 1, c.sq.trap.async.toNat), (9, 1, c.sq.trap.past.toNat), (10, 1, c.sq.trap.part.toNat)]
  | 0x40 => [(0, 1, (!s.lockBusy c.key).toNat), (1, 8, min 255 (s.locksHeld c.key)), (9, 5, s.locksOut c.key)
      , (14, 1, (s.lockSquad c.key).wounded.toNat), (15, 1, (s.lockSquad c.key).revoked.toNat), (16, 1, (s.lockSquad c.key).age.isSome.toNat)]
  | _ => []

/-- The pair of the sub-operations that answer 64 bits. -/
def sysPair (s : State) (c : Ctx) : Instr → Option (Operand × DWord)
  | .sysClkr f => some (f.a, s.devclk)
  | .sysCycr f => some (f.a, BitVec.ofNat 64 s.coreCycles)
  | .sysSegrd f => some (f.a, if f.imm.getLsbD 3 then (c.sq.segs.toList.getD (f.imm.toNat % 8) ⟨0, 0⟩).limit
      else (c.sq.segs.toList.getD (f.imm.toNat % 8) ⟨0, 0⟩).base)
  | _ => none

/-- The squad after a write of a special register by MTS (R325). -/
def mtsSquad (c : Ctx) (sel : Nat) (v : Word) : Squad :=
  match sel with
  | 0x00 => { c.sq with deadrd := c.sq.deadrd && !v.getLsbD 0, drtrap := v.getLsbD 1 }
  | 0x08 => if c.sq.intrap then { c.sq with trap := { c.sq.trap with pc := v.setWidth 64 } } else c.sq
  | _ => c.sq

/-- The rest of the state after a write by MTS: `lkst.WOUNDED` clears by a 1, GO requests a commit, the low half of
`ptbase` is held and the high half makes both take effect. -/
def mtsState (s : State) (c : Ctx) (sel : Nat) (v : Word) : State :=
  if sel = 0x04 then (if v.getLsbD 24 then s.requestCommit else s)
  else if sel = 0x40 then
    (if v.getLsbD 14 then s.setLockSquad { s.lockSquad c.key with wounded := false } else s)
  else if 0x100 ≤ sel then s.writePtbase sel v
  else s

/-- The sub-operations with no result: what becomes of the state outside the squad, and of the squad. -/
def sysEffect (s : State) (c : Ctx) : Instr → Option (State × Squad)
  | .sysSegld f => some (s, { c.sq with segs := c.sq.segs.setIfInBounds f.imm.toNat ⟨c.pair f.a 0, c.pair (Operand.plus f.a 2) 0⟩ })
  | .sysSavep _ => some ({ s with
      gangs := s.gangs.map fun g => if g.key = c.wg.gang ∧ g.stage = .running then { g with stage := .requested } else g
      launches := s.launches.map fun l => if l.key = c.wg.gang.launch then { l with waitSince := s.devclk.toNat } else l }, c.sq)
  | .sysIbinv _ => some (s.updTile c.tile fun tl => { tl with icache := [] }, c.sq)
  | .sysL1inv _ => some (s.updTile c.tile fun tl => { tl with l1 := [] }, c.sq)
  | .sysTlbi f => some (s.tlbi (f.imm.toNat / 4) (tlbiLog f.imm.toNat) (c.pair f.a 0).toNat, c.sq)
  | .sysFclr _ => some (s, { c.sq with engine := none })
  | .sysWtbl f => some (s.writeStaging ((c.pair f.a 0).toNat % 2 ^ 32) ((c.pair f.a 0).toNat / 2 ^ 32), c.sq)
  | .sysSnap _ => if ((c.launch s).bind (·.snap)).isNone then some (s, c.sq) else none
  | .sysEvpst f => (s.postEvent c.tile f.imm.toNat c.sq.slot 0 (c.uni f.a).toNat).map fun e => (e, c.sq)
  | _ => none

/-! ### Loads and stores (R281-R291) -/

/-- The key at which a target's bytes lie. -/
def keyOf (s : State) : Target → Nat
  | .phys pa => s.memKey pa
  | .spad _ k => k

/-- The loads, with the address, size and copies that each may use. -/
def loadKind (c : Ctx) : Instr → Option (MForm × LoadKind)
  | .ldg f => some (f, plainLoad .gseg 0 c)
  | .lds f => some (f, plainLoad .sseg f.bs.toNat c)
  | .ldk f => some (f, privateLoad .kseg c)
  | .ldp f => some (f, plainLoad .pseg 0 c)
  | .ldx f => some (f, privateLoad .xseg c)
  | .ldaq f => some (f, acquireLoad f.bs.toNat c)
  | _ => none

/-- The offset of a lane: base, scaled offset and immediate. -/
def loadOffset (i : Instr) (c : Ctx) (f : MForm) (k : LoadKind) : Nat → Int :=
  c.offset i f.o (if k.scaled then 2 ^ f.sz.toNat else 1)

/-- The state in which a load reads: after its peer probes and its placement hint. -/
def readState (s : State) (c : Ctx) (k : LoadKind) (ts : List (Nat × Target)) : State :=
  (if k.probe then s.probes c (k.seg = .kseg) ts else s).placeHint k.plc (c.tenant s) ts

/-- The lines of physical targets. -/
def linesOf (ts : List (Nat × Target)) : List Nat :=
  ts.filterMap fun x => match x.2 with | .phys pa => some (pa / 128) | .spad _ _ => none

/-- The state once hosts have given what their caches hold modified of lines of host-bias pages (R79, R383). -/
def gathered (s : State) (lines : List Nat) : State :=
  (s.hostLines.filter fun h => lines.contains (h.1 / 2) && s.inHostBias (64 * h.1)).foldl
    (fun s h => s.pokeN (64 * h.1) (h.2.take 64)) s

/-- The banks that may serve a line reach its home, so that no write-back of it is lost (R19, R47, R61, LOG 111). -/
def sureHome (s : State) (line : Nat) : Prop :=
  s.homeReached (s.anchor (128 * line)) (128 * line) = true ∧
  ∀ e ∈ s.regions, e.key.has (128 * line) = true → s.homeReached e.loc (128 * line) = true

/-- A byte of a line whose write-back may be lost. -/
def losable (s : State) (a : Nat) : Prop :=
  ∃ line, ¬ sureHome s line ∧ s.memKey (128 * line) ≤ a ∧ a < s.memKey (128 * line) + 128

/-- A byte is v, or 0 where the only copy of its line was lost on its way home (R184). -/
def orLost (s : State) (a : Nat) (b v : Byte) : Prop := b = v ∨ (b = 0 ∧ losable s a)

/-- A byte is as before, or as a host has given it with a line that was obtained, or 0 where its line was lost. -/
def asGiven (s : State) (a : Nat) (b : Byte) : Prop :=
  orLost s a b (Safety.byteAt s a) ∨ ∃ lines, b = Safety.byteAt (gathered s lines) a

/-- Every byte is as before, or as a host has given it, or lost. -/
def memoryAs (s e : State) : Prop := ∀ a, asGiven s a (Safety.byteAt e a)

/-- The bytes that a load of n bytes at a target may return: those of memory, of the tile's own L1 copy of the line where
the load may use it, or of the replica in the tile's reticle (R176, R208). -/
def mayRead (s m : State) (c : Ctx) (way : LoadWay) (n : Nat) (x : Target) (bs : List Byte) : Prop :=
  bs = m.peekN (keyOf s x) n ∨
  match x with
  | .phys pa =>
    (way.l1 = true ∧ ∃ l ∈ (s.tile c.tile).l1, l.line = pa / 128 ∧ l.tenant = c.tenant s ∧ (way.kseg = true ∨ l.kseg = false) ∧
      bs = (l.bytes.drop (pa % 128)).take n) ∨
    (way.replica = true ∧ ∃ r ∈ s.replicas, r.line = pa / 128 ∧ r.reticle = reticleOf c.tile ∧
      bs = (r.bytes.drop (pa % 128)).take n)
  | .spad _ _ => False

/-- Every target can be served now: not lost, not waiting at its anchor, not in error, and reached by the fabric. -/
def servable (s : State) (c : Ctx) (whole : Bool) (ts : List (Nat × Target)) : Prop :=
  ∀ x ∈ ts, s.targetVerdict c.tile x.2 whole = .ok

/-- The stores: segment, whether the offset is scaled, swizzle mode, and the scope of a release for a `STRL`. -/
def storeKind : Instr → Option (MForm × SegName × Bool × Nat × Option Nat)
  | .stg f => some (f, .gseg, true, 0, none)
  | .sts f => some (f, .sseg, false, f.bs.toNat, none)
  | .stp f => some (f, .pseg, true, 0, none)
  | .stx f => some (f, .xseg, false, 0, none)
  | .strl f => some (f, if f.bs = 7 then .pseg else .gseg, true, 0, some f.bs.toNat)
  | _ => none

/-- The state in which a store acts: after its placement hint (R332). -/
def storeState (s : State) (c : Ctx) (seg : SegName) (ts : List (Nat × Target)) : State :=
  s.placeHint (if seg = .gseg ∨ seg = .pseg then (memHint c.g.hints).plc else 0) (c.tenant s) ts

/-- The targets of an access lie on another tile, or have their anchors there: it sends packets (R44, R46). -/
def leaves (s : State) (c : Ctx) (ts : List (Nat × Target)) : Prop :=
  ∃ x ∈ ts, match x.2 with
    | .phys pa => s.anchor pa ≠ c.tile
    | .spad t _ => t ≠ c.tile

/-- The bytes that a lane stores: the low bytes of T, or of the pair T:T+1, lowest first. -/
def storedBytes (c : Ctx) (f : MForm) (j : Nat) : List Byte :=
  leBytes (2 ^ f.sz.toNat) (if f.sz = 3 then (c.pair f.t j).toNat else (c.val f.t j).toNat)

/-- The byte that lanes storing in ascending order leave at an address, none where no lane stores. -/
def storedAt (s : State) (data : Nat → List Byte) (ts : List (Nat × Target)) (a : Nat) : Option Byte :=
  ts.foldl (fun o x =>
    if keyOf s x.2 ≤ a ∧ a < keyOf s x.2 + (data x.1).length then (data x.1)[a - keyOf s x.2]? else o) none

/-- The new value of an atomic's location from the old value m, in a lane (R290). -/
def atomicResult (c : Ctx) : Instr → Option (AForm × (Nat → Nat → Nat))
  | .aadd f => some (f, fun j m => (m + c.atomOperand f j) % 2 ^ (8 * atomSize f))
  | .amin f => some (f, fun j m => if toSigned (8 * atomSize f) (c.atomOperand f j) < toSigned (8 * atomSize f) m
      then c.atomOperand f j else m)
  | .amax f => some (f, fun j m => if toSigned (8 * atomSize f) m < toSigned (8 * atomSize f) (c.atomOperand f j)
      then c.atomOperand f j else m)
  | .aand f => some (f, fun j m => m &&& c.atomOperand f j)
  | .aor f => some (f, fun j m => m ||| c.atomOperand f j)
  | .afadd f => some (f, fun j m =>
      if f.w then (f64.addV 0 (f64.decode m) (f64.decode (c.atomOperand f j))).1
      else (f32.addV 0 (f32.decode m) (f32.decode (c.atomOperand f j))).1)
  | .axch f => some (f, fun j _ => c.atomOperand f j)
  | .acas f => some (f, fun j m => if m = (c.casOperands f j).1 then (c.casOperands f j).2 else m)
  | _ => none

/-- The lanes of an atomic in ascending order: memory after them, and the value that each found. -/
def atomicRun (s : State) (size : Nat) (op : Nat → Nat → Nat) (ts : List (Nat × Target)) : State × List (Nat × Nat) :=
  ts.foldl (fun r x =>
    (r.1.pokeNum (keyOf s x.2) size (op x.1 (r.1.num (keyOf s x.2) size)), r.2 ++ [(x.1, r.1.num (keyOf s x.2) size)])) (s, [])

/-- A flushed line as `FLSHD` leaves it: the bytes its home holds (R287). -/
def homeBytes (s : State) (line : Nat) : List Byte :=
  match s.wcLine? line with
  | some l => if l.modified then l.home else s.peekN (s.memKey (128 * line)) 128
  | none => s.peekN (s.memKey (128 * line)) 128

/-- The lines of a flush that gives each its home's bytes, one after another. -/
def discardRun (s : State) (ls : List Nat) : State :=
  ls.foldl (fun r l => { r.pokeN (r.memKey (128 * l)) (homeBytes r l) with wc := r.wc.filter fun w => w.line ≠ l }) (gathered s ls)

/-- The checks of R157 stop a load, a store or an atomic with a fault, in the state that its walks leave. -/
def AccessFault (i : Instr) (s : State) (c : Ctx) (s1 : State) (x : MemFault) : Prop :=
  (∃ f k, loadKind c i = some (f, k) ∧ s.acquireReady k.acquire = true ∧
    (Safety.ready s c).resolve c k.seg .read (k.seg = .pseg) (2 ^ f.sz.toNat) k.swz (c.accessLanes f.u) (loadOffset i c f k)
      = (s1, .error x)) ∨
  (∃ f seg scaled swz scope, storeKind i = some (f, seg, scaled, swz, scope) ∧
    (Safety.ready s c).resolve c seg .write (seg = .pseg) (2 ^ f.sz.toNat) swz (c.accessLanes f.u)
      (c.offset i f.o (if scaled then 2 ^ f.sz.toNat else 1)) = (s1, .error x)) ∨
  (∃ f op, atomicResult c i = some (f, op) ∧
    (Safety.ready s c).resolve c (atomSeg f) .write (atomSeg f = .pseg) (atomSize f) 0 (c.accessLanes f.u)
      (c.offset i f.o (if atomSeg f = .sseg then 1 else atomSize f)) = (s1, .error x))

/-- Word k of a bit-plane store: bit k of every active lane (R289). -/
def planeWord (c : Ctx) (o : Operand) (k : Nat) : Word :=
  BitVec.ofFnLE fun j : Fin 32 => c.g.threads.getLsbD j.val && (c.val o j.val).getLsbD k

/-- The targets of a plane move with the numbers of their words. -/
def planeTargets (ts : List Target) : List (Nat × Target) := ts.zipIdx.map fun x => (x.2, x.1)

/-- A region entry under a hint of a tenant: 1 pinned, 2 streaming, 3 a replication hint (R178). -/
def hinted (kind tenant : Nat) (r : RegionEntry) : Prop :=
  r.owner = tenant ∧ (kind = 1 → r.state = .pinned) ∧ (kind = 2 → r.state = .streaming) ∧ (kind = 3 → r.rhint = true)

/-! ### Barriers (R293) -/

/-- The instructions that arrive: the object they name, what they change of it first, and how often they arrive. -/
def arrivalOf (c : Ctx) : Instr → Option (Operand × (BarrierObj → BarrierObj) × Nat)
  | .arrv f => some (f.a, id, maskCount c.g.threads)
  | .arrx f => some (f.a, id, (c.uni f.b).toNat % 2 ^ 16)
  | .bxpb f => some (f.a, fun o => { o with expbytes := (c.uni f.b).toNat }, 1)
  | _ => none

/-! ### Hints (R244, R331) -/

/-- The run of a group after a hint word: a field that must be 0, or the reserved kind 7, makes the governed instruction ILLEGAL. -/
def hintRun (h : HintRun) : Instr → Option HintRun
  | .hintNop p => some { h with bad := h.bad || p ≠ 0 }
  | .hintImm p =>
    let v := p.toNat % 2 ^ 20
    some (match p.toNat / 2 ^ 20 with
      | 0 => match h.upper with
        | none => { h with imm := some (BitVec.ofInt 32 (toSigned 20 v)) }
        | some u => { h with imm := some (BitVec.ofNat 32 (u.toNat * 2 ^ 16 + v % 2 ^ 16)), upper := none
                             bad := h.bad || v / 2 ^ 16 ≠ 0 }
      | 1 => { h with upper := some (BitVec.ofNat 16 v), bad := h.bad || v / 2 ^ 16 ≠ 0 }
      | 2 => { h with base := some (BitVec.ofNat 3 v), bad := h.bad || v / 2 ^ 3 ≠ 0 }
      | _ => { h with bad := true })
  | .hintMem p => some { h with mem := some (p.setWidth 8), bad := h.bad || p.toNat / 2 ^ 8 ≠ 0 }
  | .hintArith p => some { h with arith := some (p.setWidth 8), bad := h.bad || p.toNat / 2 ^ 8 ≠ 0 }
  | .hintSched p => some { h with sched := some (p.setWidth 5)
                                  bad := h.bad || p.toNat / 2 ^ 5 ≠ 0 || (9 ≤ p.toNat % 16 && p.toNat % 16 ≤ 14) }
  | .hintKill p => some { h with kill := some (p.setWidth 2), bad := h.bad || p.toNat / 2 ^ 2 ≠ 0 }
  | .hintProf p => some { h with prof := some (p.setWidth 16), bad := h.bad || p.toNat / 2 ^ 16 ≠ 0 }
  | .reservedEncoding w => if w.toNat / 2 ^ 22 = 0x3FF then some { h with bad := true } else none
  | _ => none

/-- The run that a hint word continues: the group's own, or one that begins here. -/
def runOf (c : Ctx) : HintRun :=
  c.g.hints.getD { start := c.g.pc, imm := none, upper := none, base := none, mem := none, arith := none, sched := none
                   kill := none, prof := none, bad := false }

/-- A HINT.IMM of mode 0, which a word of mode 1 asks for. -/
def endsWide : Instr → Bool
  | .hintImm p => p.toNat / 2 ^ 20 = 0
  | _ => false

/-! ### Issue (R148) -/

/-- What a step does with the row of a group's word: it runs; or else, where a trap is held for the squad and the row does not itself
trap, the held trap's row is performed in its place, on the state before it. -/
def runs (s : State) (k : Cursor) (i : Instr) (o : Host.Outcome State Fault Refusal) : Prop :=
  (s.heldAt k = false → o = exec i (s.noteIssue i)) ∧
  (s.heldAt k = true → ∀ t, exec i (s.noteIssue i) = .next t →
    o = if t.left k i then .next t else exec (s.heldRow k).row { s with input := (s.heldRow k).input })

/-- An instruction needs privilege: its row, or the field that MTS writes. -/
def needsPriv : Instr → Bool
  | .sysMts f => f.imm.toNat = 4 || 256 ≤ f.imm.toNat
  | i => i.isPrivileged

/-- What an instruction's own rule makes ILLEGAL beside its encoding: a span that the launch does not declare or whose table entry has a
reserved bit set (R252), a reserved value in the hint word of `PLACE` (R288), a reserved bit set in A of HALT or RESM 1 (R329). -/
def ownIllegal (s : State) (c : Ctx) (i : Instr) : Bool :=
  match i with
  | .span p => s.spanWrong c (p.toNat % 2 ^ 16)
  | .place f => placeBad (c.uni f.t)
  | .sysHalt f | .sysResmHalted f => !isStale i c && !isMisshapen i c && (c.uni f.a).toNat / 2 ^ 17 ≠ 0
  | _ => false

/-- The conditions of R148 in its order, with the number of the trap that each raises. -/
def issueConditions (s : State) (c : Ctx) (i : Instr) : List (Bool × Nat) :=
  [(isIllegal i c.g.hints (s.flash.stepping = 0) || ownIllegal s c i, 1), (needsPriv i && !c.priv s, 17)
   , (i.isConvergent && c.sq.groups.length ≠ 1, 7), (isStale i c, 3), (isMisshapen i c, 2), (genOverflow i c, 16)]

/-- The lanes whose exceptions an instruction looks at: those of the group, or the one of a uniform instruction. -/
def lanesOfFloat (c : Ctx) (i : Instr) : List Nat := if i.sig.uni then [0] else lanesOf c.g.threads

/-! ### Traps and their return (R316-R321) -/

/-- The trap registers of a trap that the instruction takes at its launch site (R319). -/
def siteRegs (c : Ctx) (num detail addr : Nat) (part : Bool) : TrapRegs :=
  { pc := c.site, num := BitVec.ofNat 8 num, async := false, past := false, part := part, det := BitVec.ofNat 32 detail
    addr := BitVec.ofNat 64 addr, seq := 0, arg := 0, site := c.site }

/-- Those of a trap whose return PC follows the instruction (R321). -/
def nextRegs (c : Ctx) (num detail : Nat) (arg : Word) : TrapRegs :=
  { siteRegs c num detail 0 false with pc := c.g.pc + 4, past := true, arg := arg }

/-- The active lanes in which an operand is not 0. -/
def lanesSet (c : Ctx) (o : Operand) : Word := BitVec.ofFnLE fun j : Fin 32 => c.g.threads.getLsbD j.val && c.val o j.val ≠ 0

/-- The squads that A of HALT and RESM names are halted, or go on (R329). -/
def haltNamed (s : State) (a : Nat) (v : Bool) : State :=
  if (tabFind (a % 2 ^ 12) s.tiles).isNone then s
  else s.updWg (a % 2 ^ 12) fun w => { w with squads := w.squads.map fun q =>
    if a / 2 ^ 16 % 2 = 1 ∨ q.slot = a / 2 ^ 12 % 16 then { q with halted := v && !q.ended } else q }

/-- HALT, and RESM of halted squads. -/
def haltOf : Instr → Option (Operand × Bool)
  | .sysHalt f => some (f.a, true)
  | .sysResmHalted f => some (f.a, false)
  | _ => none

/-- Byte k of a list, 0 beyond its end. -/
def nth (bs : List Byte) (k : Nat) : Byte := bs.getD k 0

/-- The 32 bytes of a capture record (R378): key, value, launch site and LSEQ. -/
def captureRecord (c : Ctx) (tag : Nat) (v : Word) : List Byte :=
  leBytes 8 (c.wg.gang.gang + 2 ^ 32 * c.wg.member + 2 ^ 36 * c.sq.slot + 2 ^ 40 * tag) ++ leBytes 4 c.sq.cmdSeq.toNat
    ++ leBytes 4 v.toNat ++ leBytes 4 c.site.toNat ++ leBytes 4 c.wg.gang.launch.seq ++ List.replicate 8 0

/-! ### Locks (R296-R310) -/

/-- The instructions that ask for a lock: a new one, or a stronger mode. -/
def lockOf : Instr → Option (LForm × Bool)
  | .lock f => some (f, false)
  | .lkup f => some (f, true)
  | _ => none

/-- Those that release one, or keep it in a weaker mode. -/
def unlockOf : Instr → Option (LForm × Option LockMode)
  | .unlk f => some (f, none)
  | .lkdn f => some (f, some (lockModeOf f.mode.toNat))
  | _ => none

/-- The entry that a lock instruction names under a descriptor. -/
def entryOf (s : State) (c : Ctx) (f : LForm) (d : LockDesc) : LockId :=
  { tenant := c.tenant s, descriptor := d.pa, level := f.level.toNat, index := if f.level = 0 then 0 else (c.uni f.b).toNat }

/-- The request that reaches the slice: at the squad's AGE, fixed now if it is not. -/
def requestOf (s : State) (c : Ctx) (f : LForm) (d : LockDesc) (up : Bool) : LockRequest :=
  { entry := entryOf s c f d, squad := c.key, mode := lockModeOf f.mode.toNat, up := up
    age := ⟨((s.lockSquad c.key).age).getD s.devclk, c.ward s, c.key⟩, scope := d.scope, matrix := d.matrix, tid := d.tid
    linesPerTile := d.lines }

/-- The release that reaches the slice. -/
def releaseOf (s : State) (c : Ctx) (f : LForm) (d : LockDesc) (down : Option LockMode) : LockRelease :=
  { entry := entryOf s c f d, squad := c.key, down := down, linesPerTile := d.lines }

/-- The entry of a request before it is decided, as the slice has it or new. -/
def entryBefore (s : State) (r : LockRequest) : LockEntry :=
  (s.lockEntry? r.entry).getD { id := r.entry, scope := r.scope, matrix := r.matrix, tid := r.tid
                                linesPerTile := r.linesPerTile, holders := [], waiting := [] }

/-- A request that is decided, as it would wait. -/
def waiterOf (r : LockRequest) : Waiting := { squad := r.squad, mode := r.mode, up := r.up, age := r.age }

/-- LKQY's word (R307): the squad's own mode and its waiting mode, 7 for none, then the other holders and waiters. -/
def queryWord (s : State) (c : Ctx) (e : LockId) (tid : Word) : Word :=
  BitVec.ofNat 32 (((s.lockHeld e c.key).map lockCode).getD 7 + 2 ^ 4 * (((s.lockWait e c.key).map fun w => lockCode w.mode).getD 7)
    + 2 ^ 8 * min 255 (((s.lockEntry? e).map fun l => (l.holders.filter fun h => h.1 ≠ c.key).length).getD 0)
    + 2 ^ 16 * min 255 (((s.lockEntry? e).map fun l => (l.waiting.filter fun w => w.squad ≠ c.key).length).getD 0)
    + 2 ^ 24 * (tid.toNat % 256))

/-! ### Queues and jobs (R333-R353) -/

/-- An element enters a queue at its end, and the phase counter advances. -/
def entered (q : QueueState) (x : DWord) : QueueState := { q with items := q.items ++ [x], phase := q.phase + 1 }

/-- The workgroup of the issuing tile. -/
def wgNow (s : State) (c : Ctx) : Workgroup := ((s.tile c.tile).wg).getD c.wg

/-- A job in its queue's scheduler: q0 copies, q1 matrix commands, q2 collectives. -/
def queueOf : JobKind → Nat
  | .copy _ => 0
  | .matrix _ _ => 1
  | .collective _ => 2

/-- Uncompleted jobs of a queue. -/
def jobsIn (w : Workgroup) (q : Nat) : Nat := (w.jobs.filter fun j => queueOf j.kind = q).length

/-- The workgroup with a job more, under a command sequence number (R334, R346). -/
def withJob (c : Ctx) (kind : JobKind) (seq : Word) (w : Workgroup) : Workgroup :=
  { w with
    jobs := w.jobs ++ [{ id := w.nextJob, slot := c.sq.slot, seq := seq, site := c.site, kind := kind, stage := .queued
                         waitSince := none, writes := [], segs := c.sq.segs, read := [], fills := [] }]
    nextJob := w.nextJob + 1
    jobPhases := w.jobPhases.set (queueOf kind) (w.jobPhases.getD (queueOf kind) 0 + 1) }

/-- The number that follows a command sequence number: 0 is skipped (R334). -/
def numberAfter (n : Word) : Word := if n = 0xFFFFFFFF#32 then 1 else n + 1

/-- The matrix instructions: their command, whether A is an offset of the member's allocation, and the reserved bits of B. -/
def matrixOf : Instr → Option (XForm × MatrixOp × Bool × (Nat → Bool))
  | .mxcfConfig f => some (f, .config, false, fun _ => false)
  | .mxcfRelease f => some (f, .release, false, fun _ => false)
  | .mxlw f => some (f, .loadWeights, true, fun _ => false)
  | .mxst f => some (f, .stream, true, fun b => b / 2 ^ 19 ≠ 0)
  | .mxchBegin f => some (f, .openChain, false, fun b => b / 2 ^ 8 ≠ 0)
  | .mxchEnd f => some (f, .closeChain, false, fun _ => false)
  | .mxchDrain f => some (f, .drain, true, fun b => b / 2 ^ 13 % 2 = 1)
  | .mxchZero f => some (f, .zero, false, fun _ => false)
  | _ => none

/-! ### Ward operations (R89, R326) -/

/-- The fields of a ward that CREATE and MODIFY take are those of a block (R88). -/
def wardFields (v : Ward) (b : Nat) : Prop :=
  v.priv = b.testBit 31 ∧ v.prio = b / 2 ^ 32 % 2 ^ 3 ∧ v.fdom = b / 2 ^ 40 % 2 ^ 8 ∧ v.dstop = b.testBit 48 ∧
  v.ovr.toNat = b / 2 ^ 49 % 2 ^ 7 ∧ v.spadb = b / 2 ^ 64 % 2 ^ 32 ∧ v.tiles = b / 2 ^ 96 % 2 ^ 12 ∧
  v.wcsh = b / 2 ^ 112 % 2 ^ 11 ∧ v.hbmsh = b / 2 ^ 128 % 2 ^ 11 ∧ v.poolsh = b / 2 ^ 144 % 2 ^ 11 ∧
  v.safeg = b / 2 ^ 192 % 2 ^ 14 ∧ v.safen = b / 2 ^ 208 % 2 ^ 15 ∧ v.fqRing = b / 2 ^ 256 % 2 ^ 64 ∧
  v.fqHead = b / 2 ^ 320 % 2 ^ 64 ∧ v.fqLogn = b / 2 ^ 384 % 2 ^ 4 ∧ v.fqPort = b / 2 ^ 388 % 2 ^ 5 ∧
  v.fqMsix = b / 2 ^ 416 % 2 ^ 16

/-- What each operation does with the ward id and the block of its request area, and the status it answers. -/
def wardOf (s : State) (area : Nat) : Instr → Option (SForm × (Nat → Nat → State × WardStatus))
  | .sysWardCreate f => some (f, s.wardCreate)
  | .sysWardModify f => some (f, s.wardModify)
  | .sysWardDelete f => some (f, fun w _ => s.wardDelete w)
  | .sysWardReset f => some (f, fun w _ => s.wardReset w)
  | .sysWardClear f => some (f, fun w _ => s.wardClear w)
  | .sysWardRead f => some (f, fun w _ => match s.ward? w with
      | some b => (s.pokeN (area + 64) (s.wardReport w b), .ok)
      | none => (s, .noward))
  | _ => none

/-! ### Events of the device -/

/-- What is left after all volatile state is lost (R20, R24, R27, R28): every field is as after reset but flash, the roles
that its record gives the ports, memory outside the module, `devclk`, the controller's view of power, what hosts have
received, and the events that come from outside. -/
def lost (s t : State) : Prop :=
  { t with flash := State.reset.flash, ports := State.reset.ports, bringUp := State.reset.bringUp, mem := [], inError := []
           devclk := 0, pace := [], power := State.reset.power, answers := []
           hostAnswers := [], msix := [], agenda := [], sched := [], rr := 0, freeCtr := 0 } = State.reset ∧
  t.bringUp = { State.reset.bringUp with roledef := recordWrong s.flash.roles } ∧
  t.flash = { s.flash with torn := s.flash.torn || s.flashWrite.isSome } ∧ t.ports.length = 32 ∧
  (∀ p < 32, t.ports[p]? = some ⟨if s.flash.roles = 0 ∨ recordWrong s.flash.roles then defaultRole p
    else s.flash.roles.toNat / 4 ^ p % 4, false⟩) ∧
  ∀ a, 2 ^ 70 ≤ a → a < 2 ^ 71 → Safety.byteAt t a = 0

/-- The rows of the mailbox commands, with the port and the opcode of each (R65, R66). -/
def mailboxRow : Input → Option (Instr × Nat × Nat)
  | .standardCommand p op _ => some (.standardCommand, p, op.toNat)
  | .setroles p _ => some (.setroles, p, 0xC000)
  | .imgchunk p _ _ => some (.imgchunk, p, 0xC001)
  | .imgcommit p _ => some (.imgcommit, p, 0xC002)
  | .idreport p _ => some (.idreport, p, 0xC003)
  | .certread p _ => some (.certread, p, 0xC004)
  | .mark p _ => some (.mark, p, 0xC005)
  | .chkpt p _ => some (.chkpt, p, 0xC006)
  | .biasflip p _ => some (.biasflip, p, 0xC007)
  | .biasread p _ _ => some (.biasread, p, 0xC008)
  | .qctlEnable p _ _ => some (.qctlEnable, p, 0xC009)
  | .qctlDisable p _ => some (.qctlDisable, p, 0xC009)
  | .qctlRead p _ => some (.qctlRead, p, 0xC009)
  | .poolbind p _ _ _ => some (.poolbind, p, 0xC00A)
  | .peerset p _ _ => some (.peerset, p, 0xC00B)
  | .sampctl p _ => some (.sampctl, p, 0xC00C)
  | .snapctl p _ => some (.snapctl, p, 0xC00D)
  | _ => none

/-- A mailbox has answered. -/
def answered (s : State) (p op : Nat) (c : MbCode) (out : List Byte) : State :=
  { s with answers := s.answers ++ [{ port := p, opcode := op, code := c, out := out }] }

/-- A background command has begun. -/
def begun (s : State) (p op : Nat) (b : Background) : State :=
  answered { s with background := s.background ++ [(p, b)] } p op .background []

/-- A background command has ended. -/
def ended (s : State) (e : Nat × Background) (op : Nat) (out : List Byte) : State :=
  answered { s with background := s.background.erase e } e.1 op .success out

/-- Bytes written at consecutive addresses, over what a state has. -/
def written (s : State) (a : Nat) (bs : List Byte) (x : Nat) : Byte :=
  if a ≤ x ∧ x < a + bs.length then nth bs (x - a) else Safety.byteAt s x

/-- The state in which the launch check reads a packet: the head has passed it, a launch that ended under its number is
forgotten, and its code object is obtained for reading. -/
def packetState (s : State) (qid : Nat) (q : LaunchQueue) (b : List Byte) : State :=
  ({ s with queues := tabUpd qid (fun r => { r with head := (q.head + 1) % 2 ^ 32, headDirty := true }) s.queues
            launches := s.launches.filter fun l => !(l.key = (⟨qid, q.head⟩ : LaunchKey) && l.status.isSome) } : State).obtainCode
    (((s.ward? q.ward).map (·.tenant)).getD 0) (packetBits b 8 63 0) (packetBits b 0x18 47 32)

/-- No completion record waits at a queue, and no fault record is to be written. -/
def nothingHeld (s : State) : Prop := s.faults = [] ∧ ∀ e ∈ s.queues, e.2.held = []

/-- No tile holds a workgroup of a launch. -/
def offWafer (s : State) (k : LaunchKey) : Prop := ∀ m w, (s.tile m).wg = some w → w.gang.launch ≠ k

/-- The engine trap FABRIC_LOSS of a packet's request (R61). -/
def lossTrap (p : Packet) : EngineTrap :=
  { number := Trap.fabricLoss, detail := 0, address := p.address, site := p.site, seq := p.seq }

end Sys2Proof.Rules
end

