-- ==== Sys2Proof/Certificates/Slice0/Obligations.lean ====
section
/-! DEFINITION. The statements about the model, taken from the numbered rules of the specification. -/

open Sys2Proof Sys2Proof.Machine Sys2Proof.Safety Sys2Proof.Rules

/-! ## The machine -/

/-- R238-R252: decoding the word of every well-formed instruction gives it back. -/
def Obligations.DecodeEncode : Prop :=
  ∀ (i : Instr) (w : Word), i.wf = true → encode i = some w → decodeWord w = .ok i

/-- R238-R252: a word that decodes is the word of what it decodes to, which is well formed, so that no two rows share a
word. -/
def Obligations.EncodeDecode : Prop :=
  ∀ (w : Word) (i : Instr), decodeWord w = .ok i → i.wf = true ∧ encode i = some w

/-- R249: words written out from the tables of the specification decode to the instructions they stand for. -/
def Obligations.DecodeWords : Prop :=
  decodeWord 0x00A4180A#32 = .ok (.iadd ⟨false, .v 82, .v 6, .v 1, false, true⟩) ∧
  decodeWord 0x00A4180B#32 = .ok (.iadds ⟨false, .v 82, .v 6, .v 1, false, true⟩) ∧
  decodeWord 0xF4000064#32 = .ok (.span 0x64#25) ∧
  decodeWord 0xF8000C05#32 = .ok (.sysMfs ⟨0, .v 3, 5⟩) ∧
  decodeWord 0xF2000000#32 = .ok (.exit 0) ∧
  decodeWord 0xFE000000#32 = .ok (.hintNop 0)

/-- R238, R148, R252: a group that issues runs the instruction that its word decodes to, after what R376 notes of it. Where a trap is
held for its squad, and the instruction does not itself trap, the instruction does not run: the row of the held trap is performed in
its place, on the state before it. A word whose row does not allow one of its fields runs as that row, which raises ILLEGAL; a word
of no row is a reserved encoding; a fetch that fails or waits has a row of its own; each of them with a trap held in the same way.
An event is performed by its row. The step itself changes only the clocks, the holds of R135 and the choice of the next move, with
what the fabric loses of its packets, which is the model's (LOG 1, LOG 2, LOG 110). -/
def Obligations.StepRunsDecoded : Prop :=
  (∀ (s s1 : State) (k : Cursor) (x : Ctx) (w : Word) (i : Instr),
    s.settle.move = .issue k → (s.settle.select k).ctx = some x → (s.settle.select k).fetch x = (s1, .ok w) →
    decodeWord w = .ok i → runs s1 k i (step s)) ∧
  (∀ (s s1 : State) (k : Cursor) (x : Ctx) (w : Word),
    s.settle.move = .issue k → (s.settle.select k).ctx = some x → (s.settle.select k).fetch x = (s1, .ok w) →
    decodeWord w = .error .illegalField → ∃ i, decodeRow w = some i ∧ i.wf = false ∧ runs s1 k i (step s)) ∧
  (∀ (s s1 : State) (k : Cursor) (x : Ctx) (w : Word),
    s.settle.move = .issue k → (s.settle.select k).ctx = some x → (s.settle.select k).fetch x = (s1, .ok w) →
    decodeWord w = .error .reservedOpcode → runs s1 k (.reservedEncoding w) (step s)) ∧
  (∀ (s s1 : State) (k : Cursor) (x : Ctx) (r : Served Word),
    s.settle.move = .issue k → (s.settle.select k).ctx = some x → (s.settle.select k).fetch x = (s1, r) →
    (∀ w, r ≠ .ok w) → runs (s.settle.select k) k .instructionFetchFault (step s)) ∧
  (∀ (s : State) (p : Pending), s.settle.move = .event p → step s = exec p.row (s.settle.begin p)) ∧
  (∀ (s : State), s.settle.move = .idle → step s = .next s.settle) ∧
  (∀ (s : State), { s.settle with devclk := s.devclk, coreCycles := s.coreCycles, fabricCycles := s.fabricCycles
                                  pace := s.pace, lockSquads := s.lockSquads, sched := s.sched, loss := s.loss, rr := s.rr
                                  tiles := s.tiles } = s)

/-- The model's choice (LOG 4), on the memory of R102 and R160: every step keeps memory and the staged image in their
canonical form, so that equal memories are equal lists. -/
def Obligations.MemoryCanonical : Prop :=
  ∀ (s t : State), Inv s → step s = .next t → Inv t

/-- The model's choice (LOG 4): the invariant of memory's canonical form holds after reset. -/
def Obligations.ResetInv : Prop :=
  Inv State.reset

/-- R23, R29, R86 and the model's choices (LOG 4-6): after power-on reset `devclk` is 0, bring-up is at phase 0, no
link is up, wards 0 and 1 are all that there is, no tile holds a workgroup, and every byte reads 0. -/
def Obligations.ResetState : Prop :=
  State.reset.devclk = 0 ∧ State.reset.bringUp.phase = 0 ∧ State.reset.bringUp.rsvc = false ∧
  (∀ p ∈ State.reset.ports, p.up = false) ∧ State.reset.ports.length = 32 ∧
  State.reset.wards.map (·.1) = [0, 1] ∧ (State.reset.ward? 0).map (·.priv) = some true ∧
  (State.reset.ward? 1).map (·.parent) = some 0 ∧ State.reset.queues = [] ∧ State.reset.launches = [] ∧
  (∀ n, (State.reset.tile n).wg = none) ∧ ∀ a, byteAt State.reset a = 0

/-! ## Instructions that compute in registers -/

/-- R265-R267, R269: every integer instruction with a 32-bit result completes, writes that result in each active lane and
leaves everything else alone.
R268: the instructions with a 64-bit integer result. -/
def Obligations.IntegerResults : Prop :=
  (∀ (i : Instr) (s : State) (c : Ctx) (d : Operand) (v : Nat → Word),
     intResult c i = some (d, v) → Issues i s c →
       ∃ t q, Completes i s c [d] (fallsThrough c) t q ∧ Holds c q d v ∧ OthersKeep c q d) ∧
  (∀ (i : Instr) (s : State) (c : Ctx) (d : Operand) (v : Nat → DWord),
     wideResult c i = some (d, v) → Issues i s c →
       ∃ t q, Completes i s c [d, Operand.plus d 1] (fallsThrough c) t q ∧
         (d ≠ .zero → ∀ j ∈ lanesOf c.g.threads, pairVal q d j = v j) ∧ OthersKeep c q d ∧ OthersKeep c q (Operand.plus d 1))

/-- R224, R270-R277: a float instruction that raises no enabled exception and no SCALE writes its result, and keeps the lanes of other
groups.
R274: the F64 instructions, each to both registers of its pair. What the spec leaves open of their results is the model's choice (LOG 16, LOG 51). -/
def Obligations.FloatResults : Prop :=
  (∀ (i : Instr) (s : State) (c : Ctx) (d : Operand) (v : Nat → Nat × Nat),
     floatResult c i = some (d, v) → Issues i s c →
     (∀ j ∈ lanesOfFloat c i, (v j).2 &&& ctlTraps c.control = 0 ∧ badScale c j i = false) →
       ∃ t q, Completes i s c [d] (fallsThrough c) t q ∧ Holds c q d (fun j => BitVec.ofNat 32 (v j).1) ∧ OthersKeep c q d) ∧
  (∀ (i : Instr) (s : State) (c : Ctx) (d : Operand) (v : Nat → Nat × Nat),
     doubleResult c i = some (d, v) → Issues i s c →
     (∀ j ∈ lanesOfFloat c i, (v j).2 &&& ctlTraps c.control = 0) →
       ∃ t q, Completes i s c [d, Operand.plus d 1] (fallsThrough c) t q ∧
         (d ≠ .zero → ∀ j ∈ lanesOf c.g.threads, pairVal q d j = BitVec.ofNat 64 (v j).1) ∧
         OthersKeep c q d ∧ OthersKeep c q (Operand.plus d 1))

/-- R278-R280: every cross-lane instruction completes and writes its result in each active lane. -/
def Obligations.CrossLaneResults : Prop :=
  ∀ (i : Instr) (s : State) (c : Ctx) (d : Operand) (v : Nat → Word),
    crossResult c i = some (d, v) → Issues i s c →
      ∃ t q, Completes i s c [d] (fallsThrough c) t q ∧ Holds c q d v ∧ OthersKeep c q d

/-! ## Transfers of control, hints -/

/-- R311-R313: a branch or call whose targets lie in `iseg` and are aligned sends each lane to its target or to p + 4, and
writes the link.
R312: a branch with a target that is misaligned, or else outside `iseg`, is taken by the handler at its launch site; the order
of the two among the lanes is the model's choice (LOG 54). -/
def Obligations.BranchResults : Prop :=
  (∀ (i : Instr) (s : State) (c : Ctx) (target : Nat → Option Int),
     branchTarget c i = some target → Issues i s c →
     (∀ j ∈ lanesOf c.g.threads, ∀ x, target j = some x → x % 4 = 0 ∧ segCheck c.sq .iseg x 4 = true) →
       ∃ t q, Completes i s c (linkReg i) (branchNext c target) t q ∧
         ∀ d ∈ linkReg i, Holds c q d fun _ => (c.g.pc + 4).setWidth 32) ∧
  (∀ (i : Instr) (s : State) (c : Ctx) (target : Nat → Option Int) (j : Nat) (x : Int) (pc : DWord),
     branchTarget c i = some target → Issues i s c → j ∈ lanesOf c.g.threads → target j = some x →
     ((x % 4 ≠ 0 ∧ (∀ k ∈ lanesOf c.g.threads, k < j → ∀ y, target k = some y → y % 4 = 0) ∧ handlerOf s c 8 = some pc →
       ∃ t, exec i s = .next t ∧ Enters s c c.sq (siteRegs c 8 0 (x % (2 ^ 64 : Nat)).toNat false) pc t) ∧
     (segCheck c.sq .iseg x 4 = false ∧ (∀ k ∈ lanesOf c.g.threads, ∀ y, target k = some y → y % 4 = 0) ∧
       (∀ k ∈ lanesOf c.g.threads, k < j → ∀ y, target k = some y → segCheck c.sq .iseg y 4 = true) ∧
       handlerOf s c 5 = some pc →
       ∃ t, exec i s = .next t ∧ Enters s c c.sq (siteRegs c 5 0 (x % (2 ^ 64 : Nat)).toNat false) pc t)))

/-- R244, R245, R331: a hint word, the reserved kind 7 among them, passes the group to p + 4 with its run changed, and changes nothing
else. -/
def Obligations.HintWords : Prop :=
  ∀ (i : Instr) (s : State) (c : Ctx) (h : HintRun), hintRun (runOf c) i = some h → Issuing i s c →
    ((runOf c).upper.isSome = true → endsWide i = true) →
      ∃ t q, exec i s = .next t ∧ SquadOnly s c t q ∧ moved c (fallsThrough c) q ∧
        { q with groups := c.sq.groups } = c.sq ∧
        (c.g.threads ≠ 0 → (∀ g ∈ c.sq.groups, g.pc ≠ c.g.pc + 4) →
          ∃ g ∈ q.groups, g.threads = c.g.threads ∧ g.pc = c.g.pc + 4 ∧ g.hints = some h)

/-- R314: `EXIT` by a part of the live set removes its threads and nothing of the others: their lanes of registers, entries,
latches and results on their way are as before, and every lane of a live-in of the span (the values that exited lanes then hold
are free, LOG 8); by the whole live set, once its locks can be released, it ends the squad, which then holds no lock and waits
for none.
R111, R148, R258, R315: `SPAN` of a number that the launch declares, with a legal table entry, begins a span there; of another
number, or with a reserved bit set in the entry, it raises ILLEGAL, before every other trap at issue. -/
def Obligations.ExitAndSpan : Prop :=
  ((∀ (p : BitVec 25) (s : State) (c : Ctx), Inv s → Issues (.exit p) s c → c.whole = false →
     ∃ t q, exec (.exit p) s = .next t ∧ SquadOnly s c t q ∧ q.live = c.sq.live &&& ~~~c.g.threads ∧
       (bare q).groups = (bare { c.sq with groups := c.sq.groups.filter fun g => g.pc ≠ c.g.pc }).groups ∧
       (∀ n, n < 112 → (q.reg n).tag = (c.sq.reg n).tag ∧
         (∀ j, j < 32 → c.g.threads.getLsbD j = false → (q.reg n).lane j = (c.sq.reg n).lane j) ∧
         (∀ z, c.sq.span = some z → c.sq.inSpan = true → z.liveIn.getLsbD n = true → q.reg n = c.sq.reg n)) ∧
       (∀ n, n < 8 → (q.ocSlot n).valid = (c.sq.ocSlot n).valid &&& ~~~c.g.threads ∧
         ∀ j, j < 32 → c.g.threads.getLsbD j = false → (q.ocSlot n).val.lane j = (c.sq.ocSlot n).val.lane j) ∧
       (∀ n, n < 4 → (q.latch n).valid = (c.sq.latch n).valid &&& ~~~c.g.threads ∧
         ∀ j, j < 32 → c.g.threads.getLsbD j = false → (q.latch n).val.lane j = (c.sq.latch n).val.lane j) ∧
       q.outstanding = (c.sq.outstanding.map fun o => { o with lanes := o.lanes &&& ~~~c.g.threads }).filter (fun o => o.lanes ≠ 0) ∧
       { q with live := c.sq.live, groups := c.sq.groups, regs := c.sq.regs, oc := c.sq.oc, lt := c.sq.lt
                outstanding := c.sq.outstanding } = c.sq) ∧
   (∀ (p : BitVec 25) (s : State) (c : Ctx), Inv s → Issues (.exit p) s c → c.whole = true → c.sq.engine = none →
     (ready s c).releaseState c.tile c.sq ((ready s c).heldScope c.key) = .ready →
       ∃ t q, exec (.exit p) s = .next t ∧ t.squad? c.tile c.sq.slot = some q ∧
         q.ended = true ∧ q.live = 0 ∧ q.groups = [] ∧ q.outstanding = [] ∧ (∀ n, q.reg n = .dead) ∧ q.wound = false ∧
         t.lockBusy c.key = false ∧ (t.lockSquad c.key).age = none ∧
         ((∀ g ∈ s.sentGrants, g.grant.squad ≠ c.key) → ∀ a, byteAt t a = byteAt s a))) ∧
  (∀ (p : BitVec 25) (s : State) (c : Ctx) (s1 : State) (v : Nat), Inv s → Issues (.span p) s c →
     s.spanWrong c (p.toNat % 2 ^ 16) = false → (ready s c).readSpan c (c.spanEntry s (p.toNat % 2 ^ 16)) = (s1, .ok v) →
       Effect (.span p) s c s1 { c.sq with
           span := some ⟨p.toNat % 2 ^ 16, c.g.pc, BitVec.ofNat 112 v, c.sq.live⟩, inSpan := true, spanned := true }
         ∧ AccessOnly s s1 c ∧ memoryAs s s1) ∧
  (∀ (p : BitVec 25) (s s1 : State) (x : Ctx) (pc : DWord), Issuing (.span p) s x → x.g.inWait = false → handlerOf s x 1 = some pc →
     x.spanCount s ≤ p.toNat % 2 ^ 16 ∨
       (∃ v, s.readSpan x (x.spanEntry s (p.toNat % 2 ^ 16)) = (s1, .ok v) ∧ 2 ^ 112 ≤ v) →
       ∃ t, exec (.span p) s = .next t ∧ Enters s x x.sq (siteRegs x 1 0 0 false) pc t)

/-! ## SYS -/

/-- R324, R325: the sub-operations that answer a word write it to A and leave everything else alone.
R324: CLKR, CYCR and SEGRD.
R34, R57, R147, R237, R309, R319: MFS of `bstat`, `rtstat`, `rterr`, `sqst`, `accfix`, `lkst` and `trnum` answers their fields, each in
its bits, and 0 in every reserved bit; that GENUSE counts a slot reserved for a result on its way is the model's choice (LOG 109). -/
def Obligations.SysResults : Prop :=
  (∀ (i : Instr) (s : State) (c : Ctx) (d : Operand) (v : Word),
     sysResult s c i = some (d, v) → Issues i s c → Result i s c s c.sq d fun _ => v) ∧
  (∀ (i : Instr) (s : State) (c : Ctx) (d : Operand) (v : DWord),
     sysPair s c i = some (d, v) → Issues i s c → PairResult i s c s c.sq d fun _ => v) ∧
  (∀ (f : SForm) (s : State) (c : Ctx), Issues (.sysMfs f) s c → specialFields s c f.imm.toNat ≠ [] →
     (∀ x ∈ specialFields s c f.imm.toNat, x.2.2 < 2 ^ x.2.1) →
       ∃ v, Result (.sysMfs f) s c s c.sq f.a (fun _ => v) ∧
         (∀ x ∈ specialFields s c f.imm.toNat, v.toNat / 2 ^ x.1 % 2 ^ x.2.1 = x.2.2) ∧
         ∀ k < 32, (∀ x ∈ specialFields s c f.imm.toNat, k < x.1 ∨ x.1 + x.2.1 ≤ k) → v.getLsbD k = false)

/-- R163, R324: the sub-operations with an effect and no result.
R7, R322, R325: MTS writes its register field by field, in a privileged context where the field needs it, and AMSK swaps the
handler mask. -/
def Obligations.SysEffects : Prop :=
  (∀ (i : Instr) (s : State) (c : Ctx) (e : State) (b : Squad),
     sysEffect s c i = some (e, b) → Issues i s c → Effect i s c e b) ∧
  ((∀ (f : SForm) (s : State) (c : Ctx), Issues (.sysMts f) s c →
     (needsPriv (.sysMts f) = true → c.priv s = true) →
       Effect (.sysMts f) s c (mtsState s c f.imm.toNat (c.uni f.a)) (mtsSquad c f.imm.toNat (c.uni f.a))) ∧
   (∀ (f : SForm) (s : State) (c : Ctx), Issues (.sysAmskSwap f) s c →
     Result (.sysAmskSwap f) s c s { c.sq with hmsk := c.uni f.a &&& 0x7FFFFE#32 } f.a fun _ => c.sq.hmsk))

/-- R327: TAGC by the whole live set keeps every live lane's value and gives the narrowest tag: uniform for equal values,
else affine where they follow a base and stride, else the register as it was; a dead register stays dead, and a smaller
group changes nothing.
R145, R324: DEAD marks registers A to A + imm10 dead when the whole live set executes it, and reads nothing. -/
def Obligations.TagsAndDeadRegisters : Prop :=
  (∀ (f : SForm) (s : State) (c : Ctx) (n : Fin 112), Issues (.sysTagc f) s c → f.a = .v n →
     ∃ t q, exec (.sysTagc f) s = .next t ∧ SquadOnly s c t q ∧ PassedFrom (.sysTagc f) c c.sq [f.a] (fallsThrough c) q ∧
       let r := c.sq.reg n.val
       let ls := lanesOf c.sq.live
       (c.whole = false ∨ r = .dead → q.reg n.val = r) ∧
       (c.whole = true → r ≠ .dead →
         (∀ j ∈ ls, (q.reg n.val).lane j = r.lane j) ∧
         ((∀ j ∈ ls, ∀ k ∈ ls, r.lane j = r.lane k) → ∃ v, q.reg n.val = .uniform v) ∧
         ((∃ j ∈ ls, ∃ k ∈ ls, r.lane j ≠ r.lane k) →
           ((∃ b st : Word, ∀ j ∈ ls, r.lane j = b + st * BitVec.ofNat 32 j) → ∃ b st, q.reg n.val = .affine b st) ∧
           ((∀ b st : Word, ∃ j ∈ ls, r.lane j ≠ b + st * BitVec.ofNat 32 j) → q.reg n.val = r)))) ∧
  (∀ (f : SForm) (s : State) (c : Ctx) (n : Fin 112), Issues (.sysDead f) s c → f.a = .v n →
     ∃ t q, exec (.sysDead f) s = .next t ∧ SquadOnly s c t q ∧ moved c (fallsThrough c) q ∧
       { q with regs := c.sq.regs, groups := c.sq.groups } = c.sq ∧
       ∀ m : Fin 112, q.reg m.val =
         if c.whole = true ∧ n.val ≤ m.val ∧ m.val ≤ n.val + f.imm.toNat then .dead else c.sq.reg m.val)

/-- R328: PMAP writes the six words of the region entry that covers the translated address, or of a fresh one; that it checks one
byte is the model's choice (LOG 68).
R378, R379: SNAP of a launch that captures appends the record of a key that the launch has not written and counts it; one that
it has written changes nothing; of a launch that compares, it goes on where the recorded value is the same, and halts the squad
with a record where it is not; what the device reads of a buffer in host-bias pages is obtained from the host first (R79). The CMDSEQ and the launch site of a record are the model's reading (LOG 63).
R330: SLEEP of 0 completes; another waits from its first issue, and completes when its timer has fired. -/
def Obligations.ObservingInstructions : Prop :=
  (∀ (f : SForm) (s : State) (c : Ctx) (s1 : State) (pa : Nat), Inv s → Issues (.sysPmap f) s c →
     (ready s c).resolve c .gseg .read false 1 0 [0] (fun _ => ((c.pair f.a 0).toNat : Int)) = (s1, .ok [(0, .phys pa)]) →
       ∃ t q, Acts (.sysPmap f) s c s1 c.sq ((List.range 6).map (Operand.plus f.a)) (fallsThrough c) t q ∧
         AccessOnly s s1 c ∧ (∀ a, byteAt s1 a = byteAt s a) ∧
         ∀ k < 6, ∀ j ∈ lanesOf c.g.threads, laneVal q (Operand.plus f.a k) j = BitVec.ofNat 32
           (((s1.region? pa).getD (.fresh (regionAt pa 0) (s1.anchor pa) 0)).bits / 2 ^ (32 * k))) ∧
  ((∀ (f : SForm) (s : State) (c : Ctx) (z : SnapSetting), Inv s → Issues (.sysSnap f) s c → (c.launch s).bind (·.snap) = some z →
     z.mode = 1 → z.offset + z.size ≤ Config.hbmEnd →
     let name := (c.wg.gang.gang, c.wg.member, c.sq.slot, f.imm.toNat, c.sq.cmdSeq)
     let o := (ready s c).obtainSnap z
     let n := o.num z.offset 4
     AccessOnly s o c ∧ memoryAs s o ∧
     ((c.launch s).any (fun l => l.snapped.contains name) = true → Effect (.sysSnap f) s c o c.sq) ∧
     ((c.launch s).any (fun l => l.snapped.contains name) = false → 64 + 32 * (n + 1) ≤ z.size →
       ∃ (e t : State) (q : Squad), Acts (.sysSnap f) s c e c.sq [] (fallsThrough c) t q ∧
         AccessOnly { s with launches := s.launches.map fun l => if l.key = c.wg.gang.launch
             then { l with snapped := l.snapped ++ [name] } else l }
           (e.updTile c.tile fun tl => { tl with invals := (s.tile c.tile).invals, poolWrites := (s.tile c.tile).poolWrites }) c ∧
         ∀ a,
           if z.offset + 64 + 32 * n ≤ a ∧ a < z.offset + 96 + 32 * n then
             orLost s a (byteAt e a) (nth (captureRecord c f.imm.toNat (c.uni f.a)) (a - (z.offset + 64 + 32 * n)))
           else if z.offset ≤ a ∧ a < z.offset + 4 then byteAt e a = nth (leBytes 4 (n + 1)) (a - z.offset)
           else asGiven s a (byteAt e a))) ∧
   (∀ (f : SForm) (s : State) (c : Ctx) (z : SnapSetting), Inv s → Issues (.sysSnap f) s c → (c.launch s).bind (·.snap) = some z →
     z.mode = 2 →
     let o := (ready s c).obtainSnap z
     AccessOnly s o c ∧ memoryAs s o ∧
     (o.snapFind z (c.snapKey f.imm.toNat) (fun _ => true) = some (c.uni f.a).toNat → Effect (.sysSnap f) s c o c.sq) ∧
     (o.snapFind z (c.snapKey f.imm.toNat) (fun _ => true) ≠ some (c.uni f.a).toNat →
       ∃ r, Effect (.sysSnap f) s c (o.raise r) { c.sq with halted := true } ∧
         r.num = 19 ∧ r.src = 0 ∧ r.detail = BitVec.ofNat 32 (f.imm.toNat + 2 ^ 16) ∧ r.tile = c.tile ∧ r.squad = c.sq.slot))) ∧
  (∀ (f : SForm) (s : State) (c : Ctx), Issues (.sysSleep f) s c →
     (∀ n b, c.g.blocked ≠ some (.sleep n b)) →
       (c.uni f.a = 0 → Effect (.sysSleep f) s c s c.sq.deschedule) ∧
       (c.uni f.a ≠ 0 →
         Blocks (.sysSleep f) s c c.sq.deschedule (.sleep (s.devclk.toNat + (c.uni f.a).toNat) false))) ∧
  (∀ (f : SForm) (s : State) (c : Ctx), Resumes (.sysSleep f) s c →
     (∀ n, c.g.blocked = some (.sleep n true) → Effect (.sysSleep f) s c s c.sq) ∧
     (∀ n, c.g.blocked = some (.sleep n false) → Blocks (.sysSleep f) s c c.sq (.sleep n false)))

/-! ## Memory -/

/-- R281-R285: a load whose lanes pass the checks of R157 and can be served completes, unless the fabric loses its answers. Its result is
on its way to T, each lane's value extended from bytes that R208 lets it return; no memory changes but for what hosts give of lines
of host-bias pages that are obtained (R79), and for lines that a bank cannot send home (R61, LOG 111). -/
def Obligations.LoadResults : Prop :=
  ∀ (i : Instr) (s : State) (c : Ctx) (f : MForm) (k : LoadKind) (s1 : State) (ts : List (Nat × Target)),
    loadKind c i = some (f, k) → Inv s → Issues i s c → s.acquireReady k.acquire = true → s.loss ≠ .answer →
    (ready s c).resolve c k.seg .read (k.seg = .pseg) (2 ^ f.sz.toNat) k.swz (c.accessLanes f.u) (loadOffset i c f k)
      = (s1, .ok ts) →
    servable (readState s1 c k ts) c false ts →
      ∃ (e t : State) (q : Squad) (v : Nat → List Byte),
        Acts i s c e ((c.send c.sq f.t (if f.sz = 3 then 2 else 1) f.la.toNat f.u fun j =>
            loadValue f.sz.toNat f.sx (v (if f.u then 0 else j))).fromPool c.sq
              (poolLines k.seg (c.addressOf k.seg (loadOffset i c f k)) ts)) [] (fallsThrough c) t q ∧
        AccessOnly s e c ∧ memoryAs s e ∧
        ((∀ l ∈ linesOf ts, sureHome s1 l) → ∀ x ∈ ts,
          mayRead (readState s1 c k ts) (gathered (readState s1 c k ts) (linesOf ts)) c k.way (2 ^ f.sz.toNat) x.2 (v x.1))

/-- R281, R282, R285: a store whose lanes pass the checks of R157 and can be served completes, unless the fabric loses its answers. Every
byte of memory is as before but for those its lanes store, where the highest lane's byte stands, what hosts give of the lines
stored to (R79), and lines that a bank cannot send home (R61, LOG 111).
R207: a `STRL` whose conditions hold completes once every earlier load has returned. -/
def Obligations.StoreEffects : Prop :=
  ∀ (i : Instr) (s : State) (c : Ctx) (f : MForm) (seg : SegName) (scaled : Bool) (swz : Nat) (scope : Option Nat) (s1 : State)
    (ts : List (Nat × Target)),
    storeKind i = some (f, seg, scaled, swz, scope) → Inv s → Issues i s c → s.loss ≠ .answer →
    (ready s c).resolve c seg .write (seg = .pseg) (2 ^ f.sz.toNat) swz (c.accessLanes f.u)
      (c.offset i f.o (if scaled then 2 ^ f.sz.toNat else 1)) = (s1, .ok ts) →
    (∀ n, scope = some n → s1.releaseState c.tile c.sq n = .ready) →
    servable (storeState s1 c seg ts) c (coalesced seg (2 ^ f.sz.toNat) ts).isSome ts →
      ∃ (e t : State) (q b : Squad), Acts i s c e b [] (fallsThrough c) t q ∧ AccessOnly s e c ∧
        { b with invals := c.sq.invals, poolWrites := c.sq.poolWrites } =
          (if scope.isSome then c.sq.deliverAll fun _ => true else c.sq) ∧
        ∀ a, orLost s1 a (byteAt e a) ((storedAt s1 (storedBytes c f) ts a).getD (byteAt (gathered s1 (linesOf ts)) a))

/-- R290, R291: an atomic whose lanes pass the checks of R157 and can be served performs them in ascending order: T
receives the value that each lane found, and the location its new one, unless the fabric loses its answers.
R175, R180: where a near atomic's line is not at the requester's bank, its region begins to move there, and the group waits at
the anchor with nothing performed. -/
def Obligations.AtomicEffects : Prop :=
  ∀ (i : Instr) (s : State) (c : Ctx) (f : AForm) (op : Nat → Nat → Nat) (s1 : State) (ts : List (Nat × Target)),
    atomicResult c i = some (f, op) → Inv s → Issues i s c →
    (ready s c).resolve c (atomSeg f) .write (atomSeg f = .pseg) (atomSize f) 0 (c.accessLanes f.u)
      (c.offset i f.o (if atomSeg f = .sseg then 1 else atomSize f)) = (s1, .ok ts) →
    servable s1 c false ts →
    let run := atomicRun (gathered s1 (linesOf ts)) (atomSize f) op ts
    (s1.nearMoves c.tile ts = [] → s.loss ≠ .answer → (∀ l ∈ linesOf ts, sureHome s1 l) →
      ∃ (e t : State) (q b : Squad), Acts i s c e b [] (fallsThrough c) t q ∧ AccessOnly s e c ∧
        { b with invals := c.sq.invals, poolWrites := c.sq.poolWrites } =
          (c.send c.sq f.t (if f.w then 2 else 1) f.la.toNat f.u fun j =>
            BitVec.ofNat 64 ((tabFind (if f.u then 0 else j) run.2).getD 0)).fromPool c.sq
              (poolLines (atomSeg f) (c.addressOf (atomSeg f) (c.offset i f.o (if atomSeg f = .sseg then 1 else atomSize f))) ts) ∧
        ∀ a, orLost s1 a (byteAt e a) (byteAt run.1 a)) ∧
    (∀ l r, s1.nearMoves c.tile ts = l :: r → ∃ t q, exec i s = .next t ∧ t.squad? c.tile c.sq.slot = some q ∧
      (∃ g ∈ q.groups, g.pc = c.g.pc ∧ g.blocked = some (.anchor l)) ∧ { q with groups := c.sq.groups } = c.sq ∧
      (s1.regions.length + 10 * (l :: r).length ≤ 32768 → ∀ n ∈ l :: r, t.movingAt (128 * n) = true) ∧ memoryAs s t)

/-- R286: `PREF` always completes, whatever its addresses, and changes no memory but for what hosts give (R79) and what a bank cannot
send home (R61, LOG 111).
R287: `FLSH` of lines whose homes acknowledge at once completes with none of them modified or in the tile's L1, and
memory as before; `FLSHD` gives each line the bytes its home holds.
R288: a legal `PLACE` inside its segment completes without changing memory; the entries inside a block of at most a
page carry its hint. What becomes of an earlier hint, and of a line in error, is the model's choice (LOG 24, LOG 52). Each of them
completes unless the fabric loses its packets (R61). -/
def Obligations.PrefetchFlushAndHints : Prop :=
  ((∀ (f : MForm) (s : State) (c : Ctx), Inv s → Issues (.pref f) s c →
      ∃ (e t : State) (q : Squad), Acts (.pref f) s c e c.sq [] (fallsThrough c) t q ∧ AccessOnly s e c ∧ memoryAs s e) ∧
   ((∀ (f : MForm) (s : State) (c : Ctx) (s1 : State) (ls : List Nat), Inv s → Issues (.flsh f) s c → s.loss ≠ .answer →
      (ready s c).flushLines c (.flsh f) f .read = (s1, .ok ls) →
      (∀ l ∈ ls, s1.farLine l = false ∧ s1.deviceWrites.contains l = false) →
      (∀ w ∈ s1.wc, w.line ∈ ls → s1.wcLine? w.line = some w) →
        ∃ (e t : State) (q : Squad), Acts (.flsh f) s c e c.sq [] (fallsThrough c) t q ∧ AccessOnly s e c ∧
          (∀ a, byteAt e a = byteAt s1 a) ∧ memoryAs s s1 ∧ (∀ w ∈ e.wc, w.line ∈ ls → w.modified = false) ∧
          ∀ x ∈ (e.tile c.tile).l1, x.line ∉ ls) ∧
    (∀ (f : MForm) (s : State) (c : Ctx) (s1 : State) (ls : List Nat), Inv s → Issues (.flshd f) s c → s.loss ≠ .answer →
      (ready s c).flushLines c (.flshd f) f .write = (s1, .ok ls) →
        ∃ (e t : State) (q b : Squad), Acts (.flshd f) s c e b [] (fallsThrough c) t q ∧ AccessOnly s e c ∧
          { b with invals := c.sq.invals, poolWrites := c.sq.poolWrites } = c.sq ∧
          (∀ a, orLost s1 a (byteAt e a) (byteAt (discardRun s1 ls) a)) ∧ (∀ l ∈ ls, e.inError.contains l = false) ∧
          ∀ x ∈ (e.tile c.tile).l1, x.line ∉ ls))) ∧
  (∀ (f : MForm) (s : State) (c : Ctx) (s1 : State) (bs : List (Nat × Nat)),
     let h := (c.uni f.t).toNat
     let o := c.offset (.place f) f.o 1 0
     let bytes := 128 * 2 ^ (h / 16 % 16)
     Inv s → Issues (.place f) s c → s.loss = .none → h % 8 < 4 → h / 8 % 2 = 0 → h / 16 < 10 →
     segCheck c.sq .gseg o bytes = true → segAddr c.sq .gseg o 0 % bytes = 0 →
     (ready s c).placeAll c (placeBlocks (segAddr c.sq .gseg o 0) (h / 16 % 16)) = (s1, .ok bs) →
     (∀ b ∈ bs, s1.routes c.tile (s1.anchor b.1) = true) →
       ∃ (e t : State) (q : Squad), Acts (.place f) s c e c.sq [] (fallsThrough c) t q ∧ AccessOnly s e c ∧ memoryAs s e ∧
         ∀ x, bs = [x] → h % 4 ≠ 0 → ∀ r ∈ e.regions, (regionAt x.1 x.2).base ≤ r.key.base →
           r.key.base + r.key.size ≤ (regionAt x.1 x.2).base + (regionAt x.1 x.2).size →
           hinted (h % 4) (c.tenant s) r)

/-- R289: bit-plane moves inside their segment, whose answers the fabric does not lose: word k of the 32 holds bit k of the active lanes,
and every other byte is as before; lane j receives bit j of each word. -/
def Obligations.PlaneMoves : Prop :=
  (∀ (f : MForm) (s : State) (c : Ctx) (ts : List Target), Inv s → Issues (.psts f) s c → s.loss ≠ .answer →
    (ready s c).planeWords c (.psts f) f = .ok ts →
      ∃ (e t : State) (q : Squad), Acts (.psts f) s c e c.sq [] (fallsThrough c) t q ∧ { e with mem := s.mem } = ready s c ∧
        ∀ a, byteAt e a = (storedAt s (fun k => leBytes 4 (planeWord c f.t k).toNat) (planeTargets ts) a).getD (byteAt s a)) ∧
  (∀ (f : MForm) (s : State) (c : Ctx) (ts : List Target), Inv s → Issues (.plds f) s c → s.loss ≠ .answer →
    (ready s c).planeWords c (.plds f) f = .ok ts →
      Effect (.plds f) s c s (c.send c.sq f.t 1 f.la.toNat false fun j =>
        (BitVec.ofFnLE fun k : Fin 32 => (s.num (keyOf s (ts.getD k.val (.spad 0 0))) 4).testBit j : Word).setWidth 64))

/-! ## Barriers -/

/-- R150, R151, R293: an object written and read again is the same, and the write touches only its 32 bytes; arrivals and
landed bytes complete a phase when both counts are reached, and bytes alone complete as many phases as they cover where
none is expected to arrive. -/
def Obligations.BarrierObjects : Prop :=
  (∀ (s : State) (k : Nat) (o : BarrierObj), Inv s → o.phase < 2 ^ 32 → o.exparr < 2 ^ 16 → o.arrived < 2 ^ 16 → o.expbytes < 2 ^ 64 →
    o.landed < 2 ^ 64 → o.scope < 8 → o.reserved = false →
      (s.setBarrier k o).barrier k = o ∧ ∀ a, a < k ∨ k + 32 ≤ a → byteAt (s.setBarrier k o) a = byteAt s a) ∧
  (∀ (o : BarrierObj) (n : Nat), o.scope ≠ 0 → 0 < o.exparr →
    o.arrive n = (if o.exparr ≤ min 65535 (o.arrived + n) ∧ o.expbytes ≤ o.landed
      then { o with phase := (o.phase + 1) % 2 ^ 32, arrived := 0, landed := o.landed - o.expbytes }
      else { o with arrived := min 65535 (o.arrived + n) })) ∧
  (∀ (o : BarrierObj) (n : Nat), o.scope ≠ 0 → 0 < o.exparr →
    o.land n = (if o.exparr ≤ o.arrived ∧ o.expbytes ≤ (o.landed + n) % 2 ^ 64
      then { o with phase := (o.phase + 1) % 2 ^ 32, arrived := 0, landed := (o.landed + n) % 2 ^ 64 - o.expbytes }
      else { o with landed := (o.landed + n) % 2 ^ 64 })) ∧
  (∀ (o : BarrierObj) (n : Nat), o.scope ≠ 0 → o.exparr = 0 → 0 < o.expbytes →
    let m := (o.landed + n) % 2 ^ 64
    o.land n = { o with phase := (o.phase + m / o.expbytes) % 2 ^ 32, landed := m % o.expbytes
                        arrived := if m < o.expbytes then o.arrived else 0 })

/-- R293: the barrier instructions on a sound object complete, unless the fabric loses their packets: BINIT writes the fields, BINV clears
all but PHASE and ends the waits on the object, ARRV, ARRX and BXPB arrive as a release at the object's scope, which earlier loads
come before (R207).
R292: `FENCE` whose acquire and release conditions hold completes: results that are outstanding are delivered, an acquire drops the
tile's copies, a release leaves no write to wait for. One whose conditions do not hold yet stays with its group, which goes on; its
instructions of opcodes 0x40-0x73 then wait. R182: one whose writes are lost raises POOL_LOST. That BINIT does not look at what
the object held is the model's choice (LOG 53). -/
def Obligations.BarrierInstructions : Prop :=
  ((∀ (f : RForm) (s : State) (c : Ctx), Issues (.binit f) s c → s.loss = .none →
     (ready s c).objectCheck c f.a true false = none → (c.uni f.b).toNat / 2 ^ 19 = 0 →
     (c.uni f.b).toNat / 2 ^ 16 % 8 ∈ [1, 2, 3] →
       Effect (.binit f) s c ((ready s c).setBarrier ((ready s c).gangKeyAt c.wg (c.object f.a))
         { phase := 0, exparr := (c.uni f.b).toNat % 2 ^ 16, arrived := 0, expbytes := (c.uni f.d).toNat, landed := 0,
           scope := (c.uni f.b).toNat / 2 ^ 16 % 8, lkg := false, reserved := false }) c.sq) ∧
   (∀ (f : RForm) (s : State) (c : Ctx), Issues (.binv f) s c → s.loss = .none → (ready s c).objectCheck c f.a true true = none →
     let k := (ready s c).gangKeyAt c.wg (c.object f.a)
     let e := (ready s c).setBarrier k { phase := ((ready s c).barrier k).phase, exparr := 0, arrived := 0, expbytes := 0,
                                          landed := 0, scope := 0, lkg := ((ready s c).barrier k).lkg, reserved := false }
     ∃ r q, SquadOnly e c r q ∧ PassedFrom (.binv f) c c.sq [] (fallsThrough c) q ∧
       exec (.binv f) s = .next (((ready s c).waiters (((ready s c).tile c.tile).wg.getD c.wg) k).foldl
         (fun r w => r.endWait c.tile w.1 w.2 (c.object f.a)) r)) ∧
   (∀ (i : Instr) (a : Operand) (s : State) (c : Ctx) (change : BarrierObj → BarrierObj) (n : Nat),
     arrivalOf c i = some (a, change, n) → Issues i s c → s.loss = .none → (ready s c).objectCheck c a false true = none →
     let k := (ready s c).gangKeyAt c.wg (c.object a)
     (ready s c).releaseState c.tile c.sq ((ready s c).barrier k).scope = .ready →
       Effect i s c ((ready s c).setBarrier k ((change ((ready s c).barrier k)).arrive n)) (c.sq.deliverAll fun _ => true))) ∧
  (∀ (f : SForm) (s : State) (c : Ctx), Issues (.fence f) s c →
     let scope := f.sub.toNat % 8
     let acquires := f.sub.toNat / 8 % 4 ≠ 1
     let releases := f.sub.toNat / 8 % 4 ≠ 0
     let rel := if releases then scope else 0
     ((acquires → s.acquireReady scope = true) → (releases → (ready s c).releaseState c.tile c.sq scope = .ready) →
       Effect (.fence f) s c (if acquires then (ready s c).acquire c.tile scope else ready s c)
         (if scope = 0 then c.sq else c.sq.released rel)) ∧
     (∀ pc, releases → ((ready s c).startRelease c.sq scope).releaseState c.tile c.sq scope = .poolLost → handlerOf s c 11 = some pc →
       ∃ t, exec (.fence f) s = .next t ∧ Enters ((ready s c).startRelease c.sq scope) c c.sq (siteRegs c 11 0 0 false) pc t) ∧
     ((releases → ((ready s c).startRelease c.sq scope).releaseState c.tile c.sq scope ≠ .poolLost) →
       (acquires ∧ s.acquireReady scope = false ∨
         releases ∧ ((ready s c).startRelease c.sq scope).releaseState c.tile c.sq scope = .waiting) →
       ∃ t q, Acts (.fence f) s c ((ready s c).startRelease c.sq rel) c.sq [] (fallsThrough c) t q ∧
         ((∀ g ∈ c.sq.groups, g.pc ≠ c.g.pc + 4) → c.g.threads ≠ 0 →
           ∃ g ∈ q.groups, g.threads = c.g.threads ∧ g.pc = c.g.pc + 4 ∧ g.fences = [f.sub.toNat]))) ∧
  (∀ (i : Instr) (s : State) (x : Ctx), s.ctx = some x → i.code.isSome = true → fencedRow i = true →
     (∀ o v, x.g.blocked ≠ some (.waitp o v)) → x.g.fences ≠ [] →
     (∀ n ∈ x.g.fences, s.fenceOver x.tile x.sq n = false ∧ s.fenceLost x.tile x.sq n = false) →
       ∃ t q, exec i s = .next t ∧ t.squad? x.tile x.sq.slot = some q ∧ (∀ a, orLost s a (byteAt t a) (byteAt s a)) ∧
         { q with groups := x.sq.groups } = x.sq ∧
         ∃ g ∈ q.groups, g.pc = x.g.pc ∧ g.threads = x.g.threads ∧ g.blocked = some .fence ∧ g.fences = x.g.fences)

/-- R193, R294: `WAITP` on an object, or on the squad's lock-grant object, answers the phase once it differs from B, and at once
for the lock-grant object of a squad with no request waiting; otherwise the group waits, and so it does while an acquire of pool
scope waits for snoops that have arrived (R208). `TSTP` answers it always, but for that wait.
R138, R295: `YIELD` invalidates `oc` and `lt`, and no group of the squad may issue in the four cycles that follow. -/
def Obligations.WaitResults : Prop :=
  ((∀ (f : RForm) (s : State) (c : Ctx), Issues (.waitp f) s c → c.g.blocked = none →
     (f.a = .zero ∨ (ready s c).objectCheck c f.a true true = none) →
     let o := c.waitObject f.a
     let ph := (ready s c).phaseOf c o
     let b := c.sq.deschedule
     let scope := (ready s c).phaseScope c o (c.uni f.b) ph
     (ph ≠ c.uni f.b → s.acquireReady scope = true → Result (.waitp f) s c ((ready s c).acquire c.tile scope) b f.d
       fun _ => ph) ∧
     (ph ≠ c.uni f.b → s.acquireReady scope = false → Blocks (.waitp f) s c b (.waitp o (c.uni f.b))) ∧
     (ph = c.uni f.b → o = none → (ready s c).lockWaits c.key = false → Result (.waitp f) s c s b f.d fun _ => ph) ∧
     (ph = c.uni f.b → o ≠ none ∨ (ready s c).lockWaits c.key = true → Blocks (.waitp f) s c b (.waitp o (c.uni f.b)))) ∧
   (∀ (f : RForm) (s : State) (c : Ctx) (o : Option Nat) (v : Word), s.ctx = some c → c.g.blocked = some (.waitp o v) →
     f.d.isFileDest = true → (c.readsDead (.waitp f) && c.sq.drtrap) = false → s.phaseOf c o ≠ v →
     s.acquireReady (s.phaseScope c o v (s.phaseOf c o)) = true →
       Result (.waitp f) s c (s.acquire c.tile (s.phaseScope c o v (s.phaseOf c o))) c.sq f.d fun _ => s.phaseOf c o) ∧
   (∀ (f : RForm) (s : State) (c : Ctx), Issues (.tstp f) s c →
     (f.a = .zero ∨ (ready s c).objectCheck c f.a true true = none) →
     let o := c.waitObject f.a
     let ph := (ready s c).phaseOf c o
     let scope := if ph ≠ c.uni f.b then (ready s c).phaseScope c o (c.uni f.b) ph else 0
     (s.acquireReady scope = true → Result (.tstp f) s c ((ready s c).acquire c.tile scope) c.sq f.d fun _ => ph) ∧
     (s.acquireReady scope = false → Blocks (.tstp f) s c c.sq .snoops))) ∧
  (∀ (f : RForm) (s : State) (c : Ctx), Issues (.yield f) s c →
     ∃ t q, Acts (.yield f) s c s c.sq.deschedule [] (fallsThrough c) t q ∧ ∀ g ∈ q.groups, s.coreCycles + 5 ≤ g.notBefore)

/-! ## Traps -/

/-- R148, R316, R317: of the conditions ILLEGAL, PRIV, COLLECTIVE, STALE, SHAPE and GENOVF, the first in this order that an instruction
meets is taken by the handler in its place, with the launch site as return PC; so is ILLEGAL at a word that breaks the pairing of a
HINT.IMM of MODE 1 (R252).
R7, R87, R325: MTS to a field that needs privilege raises PRIV in an unprivileged context.
R146: where `sqst.DRTRAP` is 1, an integer instruction that reads a dead register is executed with the 0, and DEADREAD is raised after
it: DEADRD is set, and the return PC lies after the launch site. -/
def Obligations.IssueTraps : Prop :=
  (∀ (i : Instr) (s : State) (c : Ctx) (before after : List (Bool × Nat)) (n : Nat) (pc : DWord), i.code.isSome = true →
     i.isHint = false → c.g.inWait = false → Issuing i s c →
     issueConditions s c i = before ++ (true, n) :: after → (∀ x ∈ before, x.1 = false) → handlerOf s c n = some pc →
       ∃ t, exec i s = .next t ∧ Enters s c c.sq (siteRegs c n 0 0 false) pc t) ∧
  (∀ (i : Instr) (s : State) (c : Ctx) (h : HintRun) (pc : DWord), hintRun (runOf c) i = some h → s.ctx = some c →
     (runOf c).upper.isSome = true → endsWide i = false → handlerOf s c 1 = some pc →
       ∃ t, exec i s = .next t ∧ Enters s c c.sq (siteRegs c 1 0 0 false) pc t) ∧
  (∀ (f : SForm) (s : State) (c : Ctx) (pc : DWord), Issuing (.sysMts f) s c → c.g.inWait = false →
     isIllegal (.sysMts f) c.g.hints (s.flash.stepping = 0) = false →
     (f.imm.toNat = 4 ∨ 256 ≤ f.imm.toNat) → c.priv s = false → handlerOf s c 17 = some pc →
       ∃ t, exec (.sysMts f) s = .next t ∧ Enters s c c.sq (siteRegs c 17 0 0 false) pc t) ∧
  (∀ (i : Instr) (s : State) (c : Ctx) (n : Fin 112) (v : Nat → Word) (pc : DWord), intResult c i = some (.v n, v) → Issuing i s c →
     c.g.inWait = false → (∀ x ∈ issueConditions s c i, x.1 = false) → c.readsDead i = true → c.sq.drtrap = true → c.g.threads ≠ 0 →
     (∀ g ∈ c.sq.groups, g.pc ≠ c.g.pc → g.threads &&& c.g.threads = 0) → handlerOf s c 4 = some pc →
       ∃ t q, exec i s = .next t ∧ SquadOnly s c t q ∧ moved c (fun _ => pc) q ∧ q.intrap = true ∧ q.deadrd = true ∧
         q.trap = { siteRegs c 4 0 0 false with pc := c.g.pc + 4, past := true } ∧
         ∀ j ∈ lanesOf c.g.threads, laneVal q (.v n) j = v j)

/-- R321: `TRAP`, `TRAPC` with a lane set, and `BRK` enter the handler with the next instruction as return PC; `TRAPC`
without one does nothing; a `BRK` that the squad does not handle halts it with a record. -/
def Obligations.TrapInstructions : Prop :=
  (∀ (f : SForm) (s : State) (c : Ctx) (pc : DWord), Issues (.trap f) s c → handlerOf s c 18 = some pc →
    ∃ t, exec (.trap f) s = .next t ∧ Enters s c { c.mark (.trap f) c.sq with inSpan := false }
      (nextRegs c 18 f.imm.toNat (c.uni f.a)) pc t) ∧
  (∀ (f : SForm) (s : State) (c : Ctx) (pc : DWord), Issues (.trapc f) s c → lanesSet c f.a ≠ 0 → handlerOf s c 18 = some pc →
    ∃ t, exec (.trapc f) s = .next t ∧ Enters s c (c.mark (.trapc f) c.sq)
      (nextRegs c 18 (f.imm.toNat + 2 ^ 10) (lanesSet c f.a)) pc t) ∧
  (∀ (f : SForm) (s : State) (c : Ctx), Issues (.trapc f) s c → lanesSet c f.a = 0 → Effect (.trapc f) s c s c.sq) ∧
  (∀ (f : SForm) (s : State) (c : Ctx) (pc : DWord), Issues (.brk f) s c → handlerOf s c 19 = some pc →
    ∃ t, exec (.brk f) s = .next t ∧ Enters s c c.sq (nextRegs c 19 f.imm.toNat 0) pc t) ∧
  (∀ (f : SForm) (s : State) (c : Ctx), Issues (.brk f) s c → handlerOf s c 19 = none →
    ∃ t q r, exec (.brk f) s = .next t ∧ SquadOnly (s.raise r) c t q ∧ moved c (fallsThrough c) q ∧
      { q with groups := c.sq.groups, halted := c.sq.halted } = c.sq ∧ q.halted = true ∧
      r.num = 19 ∧ r.src = 0 ∧ r.tile = c.tile ∧ r.squad = c.sq.slot ∧ r.pc = c.site ∧
      r.detail = BitVec.ofNat 32 f.imm.toNat)

/-- R92-R94, R98: a trap that the squad does not handle, other than WOUND and `BRK`, stops its launch: it ends with status FAULT and the
trap's number, and no tile keeps a workgroup of the launch. While engine commands of the launch wait for a page the end is still to
come, with that status and number, and no squad of the launch issues (LOG 113). -/
def Obligations.UnhandledTraps : Prop :=
  ∀ (s : State) (n slot : Nat) (w : Workgroup) (q : Squad) (l : Launch) (r : TrapRegs) (pc : DWord),
    (s.tile n).wg = some w → w.squad? slot = some q → s.launch? w.gang.launch = some l → l.status = none → l.ending = none →
    handlerPc (some l) q r.num.toNat = none → r.num ≠ 6 → r.num ≠ 19 →
      let t := s.takeTrap n slot pc r
      ((∀ m v, (s.tile m).wg = some v → v.gang.launch = w.gang.launch → v.jobs = []) →
        (t.launch? w.gang.launch).bind (·.status) = some (2, r.num.toNat) ∧ offWafer t w.gang.launch) ∧
      ((t.launch? w.gang.launch).bind (·.status) = some (2, r.num.toNat) ∧ offWafer t w.gang.launch ∨
        (t.launch? w.gang.launch).bind (·.ending) = some (2, r.num.toNat) ∧ t.jobsLeft w.gang.launch = true ∧
        ∀ m v, (t.tile m).wg = some v → v.gang.launch = w.gang.launch → ∀ x ∈ v.squads, x.stopped = true)

/-- R284, R316: a load, store or atomic whose lanes fail a check of R157 that is not replayable is taken by the handler, with the
fault's DETAIL and address.
R115, R162, R164: a replayable page fault makes a record, unless a walk for the page is outstanding already, and its group waits
until the walk is resolved: outside a span, or in a handler, at its instruction; inside one, at the span's `SPAN` with every
thread of its entry, and the span's results are discarded. While the walker keeps 64 walks the instruction waits without one. That a
squad in its handler waits at its instruction though it is inside a span, and what the page's trap will say if the walk is given up,
is the model's reading (LOG 44).
R61: a load whose request or answer the fabric loses waits for its time-out with nothing in T (LOG 110). -/
def Obligations.AccessTraps : Prop :=
  (∀ (i : Instr) (s : State) (c : Ctx) (s1 : State) (x : MemFault) (pc : DWord), Issues i s c → AccessFault i s c s1 x →
     x.replay = none → x.detail < 2 ^ 32 → handlerOf s c x.num = some pc →
       ∃ t, exec i s = .next t ∧ Enters s1 c c.sq (siteRegs c x.num x.detail x.addr false) pc t) ∧
  (∀ (i : Instr) (s : State) (c : Ctx) (s1 : State) (x : MemFault) (level : Nat), Inv s → Issues i s c → AccessFault i s c s1 x →
     x.replay = some level →
     let known := (ready s c).walkPending (c.tenant s) x.addr
     let full := (ready s c).walkerFull c.tile
     let page : Option Blocked := some (.page (x.addr / 4096) (siteRegs c x.num (x.detail - 2) x.addr false))
     (known = false → full = true →
       ∃ t q, exec i s = .next t ∧ t.squad? c.tile c.sq.slot = some q ∧ t.walks = s.walks ∧ t.faults = s.faults ∧
         (∃ g ∈ q.groups, g.pc = c.g.pc ∧ g.blocked = page) ∧ { q with groups := c.sq.groups } = c.sq ∧ memoryAs s t) ∧
     (known = true ∨ full = false →
       ∃ t q, exec i s = .next t ∧ t.squad? c.tile c.sq.slot = some q ∧ t.walkPending (c.tenant s) x.addr = true ∧
         memoryAs s t ∧ (known = true → t.faults = s.faults) ∧
         (known = false → ∃ r, t.faults = s.faults ++ [r] ∧ r.num = x.num ∧ r.detail = BitVec.ofNat 32 x.detail ∧
           r.addr = BitVec.ofNat 64 x.addr ∧ r.src = 0 ∧ r.tile = c.tile ∧ r.squad = c.sq.slot ∧ r.pc = c.site) ∧
         (c.sq.inSpan = false ∨ c.sq.intrap = true →
           (∃ g ∈ q.groups, g.pc = c.g.pc ∧ g.blocked = page) ∧ { q with groups := c.sq.groups } = c.sq) ∧
         (∀ z, c.sq.inSpan = true → c.sq.intrap = false → c.sq.span = some z → z.entryMask ≠ 0 →
           q.live = z.entryMask ∧ q.outstanding = [] ∧ (∀ n, n < 8 → (q.ocSlot n).valid = 0) ∧ (∀ n, n < 4 → (q.latch n).valid = 0) ∧
           ∃ g, q.groups = [g] ∧ g.threads = z.entryMask ∧ g.pc = z.pc ∧ g.hints = none ∧ g.blocked = page))) ∧
  (∀ (i : Instr) (s : State) (c : Ctx) (f : MForm) (k : LoadKind) (s1 : State) (ts : List (Nat × Target)),
     loadKind c i = some (f, k) → Inv s → Issues i s c → s.acquireReady k.acquire = true →
     (ready s c).resolve c k.seg .read (k.seg = .pseg) (2 ^ f.sz.toNat) k.swz (c.accessLanes f.u) (loadOffset i c f k)
       = (s1, .ok ts) →
     let r := readState s1 c k ts
     (s.loss = .answer ∧ servable r c false ts ∧ leaves s1 c ts) ∨
       (s.loss = .request ∧ ¬ servable r c false ts ∧
         ∀ x ∈ ts, r.targetVerdict c.tile x.2 false = .ok ∨ r.targetVerdict c.tile x.2 false = .fault 22 lostMark) →
       ∃ t q, exec i s = .next t ∧ t.squad? c.tile c.sq.slot = some q ∧ memoryAs s t ∧ { q with groups := c.sq.groups } = c.sq ∧
         ∃ g ∈ q.groups, g.pc = c.g.pc ∧ g.threads = c.g.threads ∧ ∃ a, g.blocked = some (.answer s.fabricCycles a false))

/-- R224: a float instruction, uniform or not, with a 32-bit or an F64 result, whose lanes raise an exception that its arithmetic control
enables is not executed: FPEXC is taken with the exceptions in DETAIL.
R277: a Q4 instruction whose scale word is reserved in a lane raises SCALE, before FPEXC (R270).
R238, R252: a word that no row encodes raises ILLEGAL, and a fetch that fails raises its fault. -/
def Obligations.FloatAndFetchTraps : Prop :=
  (∀ (i : Instr) (s : State) (c : Ctx) (d : Operand) (v : Nat → Nat × Nat) (pc : DWord),
     floatResult c i = some (d, v) ∨ doubleResult c i = some (d, v) → Issues i s c →
     (∀ j ∈ lanesOfFloat c i, badScale c j i = false) →
     let e := ((lanesOfFloat c i).map fun j => (v j).2).foldl (· ||| ·) 0
     e &&& ctlTraps c.control ≠ 0 → handlerOf s c 20 = some pc →
       ∃ t, exec i s = .next t ∧ Enters s c c.sq (siteRegs c 20 e 0 false) pc t) ∧
  (∀ (i : Instr) (s : State) (c : Ctx) (pc : DWord), Issues i s c → (∃ j ∈ lanesOfFloat c i, badScale c j i = true) →
     handlerOf s c 21 = some pc →
       ∃ t, exec i s = .next t ∧ Enters s c c.sq (siteRegs c 21 0 0 false) pc t) ∧
  ((∀ (w : Word) (s : State) (c : Ctx) (pc : DWord), s.ctx = some c → w.toNat / 2 ^ 22 ≠ 0x3FF → handlerOf s c 1 = some pc →
     ∃ t, exec (.reservedEncoding w) s = .next t ∧ Enters s c c.sq (siteRegs c 1 0 0 false) pc t) ∧
   (∀ (s : State) (c : Ctx) (s1 : State) (x : MemFault) (part : Bool) (pc : DWord), s.ctx = some c →
     s.fetch c = (s1, .fault x part) → x.replay = none → x.detail < 2 ^ 32 → handlerOf s c x.num = some pc →
       ∃ t, exec .instructionFetchFault s = .next t ∧ Enters s1 c c.sq (siteRegs c x.num x.detail x.addr part) pc t))

/-- R320, R304: `RESM` 0 in a handler returns to `trpc` and clears INTRAP; `RESM` 2 takes the default action of WOUND. That the step itself
brings about the releases for which R305 and R207 have it wait is the model's choice (LOG 99).
R148, R329: HALT halts the squads that A names, and RESM 1 lets them go on; no other squad changes; a reserved bit of A raises
ILLEGAL. -/
def Obligations.TrapReturnAndHalt : Prop :=
  ((∀ (f : SForm) (s : State) (c : Ctx), Inv s → Issues (.sysResm f) s c → c.sq.intrap = true → c.sq.trap.pc.toNat % 4 = 0 →
     segCheck c.sq .iseg c.sq.trap.pc.toNat 4 = true →
       ∃ t q, Acts (.sysResm f) s c s { c.sq.deschedule with intrap := false, handler := 0 } [] (fun _ => c.sq.trap.pc) t q) ∧
   (∀ (f : SForm) (s : State) (c : Ctx), Inv s → Issues (.sysResmDefault f) s c → c.sq.intrap = true → c.sq.live ≠ 0 →
     ∃ t q, exec (.sysResmDefault f) s = .next t ∧ t.squad? c.tile c.sq.slot = some q ∧ q.intrap = false ∧ q.wound = false ∧
       (∃ g, q.groups = [g] ∧ g.threads = c.sq.live ∧ g.pc = c.sq.spanPc ∧ g.blocked = none ∧ g.hints = none) ∧
       t.lockBusy c.key = false ∧ (t.lockSquad c.key).wounded = true ∧
       (t.lockSquad c.key).age = (s.lockSquad c.key).age ∧
       ((∀ g ∈ s.sentGrants, g.grant.squad ≠ c.key) → ∀ a, orLost s a (byteAt t a) (byteAt s a))) ∧
   (∀ (s : State) (c : Ctx) (i : Instr) (f : SForm) (pc : DWord), i = .sysResm f ∨ i = .sysResmDefault f → Inv s → Issues i s c →
     c.sq.intrap = false → handlerOf s c 1 = some pc →
       ∃ t, exec i s = .next t ∧ Enters s c c.sq (siteRegs c 1 0 0 false) pc t)) ∧
  (∀ (i : Instr) (s : State) (c : Ctx) (a : Operand) (v : Bool), haltOf i = some (a, v) → Issues i s c →
     (c.uni a).toNat < 2 ^ 17 →
       ∃ r q, exec i s = .next (haltNamed r (c.uni a).toNat v) ∧ SquadOnly s c r q ∧
         PassedFrom i c c.sq [] (fallsThrough c) q) ∧
  (∀ (i : Instr) (f : SForm) (s : State) (x : Ctx) (pc : DWord), i = .sysHalt f ∨ i = .sysResmHalted f → Issuing i s x →
     x.g.inWait = false → isStale i x = false → isMisshapen i x = false → 2 ^ 17 ≤ (x.uni f.a).toNat → handlerOf s x 1 = some pc →
       ∃ t, exec i s = .next t ∧ Enters s x x.sq (siteRegs x 1 0 0 false) pc t)

/-! ## Locks -/

/-- R296, R299, R303: `LOCK` and `LKUP` that pass every check are accepted at the slice, with the squad's AGE fixed, and complete unless the
fabric loses their answers; the first check of the tile that fails raises LOCK with its code, then MANY where 16 requests are outstanding, then the first check
of the slice that fails. R297, R298, R303: which check of each fails, and its code. -/
def Obligations.LockRequests : Prop :=
  (∀ (i : Instr) (f : LForm) (up : Bool) (s : State) (c : Ctx) (s1 : State) (d : LockDesc), lockOf i = some (f, up) →
    Inv s → Issues i s c → (ready s c).readDesc c (c.uni f.a).toNat = (s1, .ok d) →
    s1.descCheck c d f.level.toNat (c.lockIndex f) false = none → s1.locksOut c.key < 16 → s.loss ≠ .answer →
    s1.requestCheck (requestOf s1 c f d up) = none →
      AccessOnly s s1 c ∧ memoryAs s s1 ∧
      ∃ b, { b with wound := c.sq.wound } = c.sq ∧
        Effect i s c ((s1.setLockSquad { s1.lockSquad c.key with
          ward := c.ward s, age := some ((requestOf s1 c f d up).age.age), fixed := true }).acceptRequest (requestOf s1 c f d up)) b) ∧
  (∀ (i : Instr) (f : LForm) (up : Bool) (s : State) (c : Ctx) (s1 : State) (d : LockDesc) (n : Nat) (pc : DWord),
    lockOf i = some (f, up) → Inv s → Issues i s c → (ready s c).readDesc c (c.uni f.a).toNat = (s1, .ok d) →
    (s1.descCheck c d f.level.toNat (c.lockIndex f) false = some n ∨
      (s1.descCheck c d f.level.toNat (c.lockIndex f) false = none ∧
        ((16 ≤ s1.locksOut c.key ∧ n = 8) ∨ (s1.locksOut c.key < 16 ∧ s1.requestCheck (requestOf s1 c f d up) = some n)))) →
    handlerOf s c 12 = some pc →
      ∃ t, exec i s = .next t ∧ Enters s1 c c.sq (siteRegs c 12 n 0 false) pc t) ∧
  (∀ (s : State) (c : Ctx) (d : LockDesc) (level index : Nat) (query : Bool),
    let r := s.descCheck c d level index query
    let desc := d.bad = true ∨ (d.matrix ≠ 0 ∧ tabFind d.matrix s.matrices = none)
    let out := (level = 1 ∧ d.tiles ≤ index) ∨ (2 ≤ level ∧ d.tiles * d.lines ≤ index)
    let gone := query = false ∧ (s.lockSquad c.key).revoked = true
    (desc → r = some 1) ∧ (¬ desc → out → r = some 2) ∧ (¬ desc → ¬ out → gone → r = some 3) ∧
    (¬ desc → ¬ out → ¬ gone → r = none)) ∧
  (∀ (s : State) (r : LockRequest),
    let held := s.lockHeld r.entry r.squad
    let waits := (s.lockWait r.entry r.squad).isSome
    let hier := ∃ p, lockParent r.entry r.linesPerTile = some p ∧ (∀ m, s.lockHeld p r.squad = some m → covers m r.mode = false) ∧
      ∀ w, s.lockWait p r.squad = some w → covers w.mode r.mode = false
    let has := held.isSome = true ∨ waits = true
    let free := held = none ∨ waits = true
    let weak := ∀ m, held = some m → stronger m r.mode = false
    let n := s.requestCheck r
    (hier → n = some 4) ∧ (¬ hier → r.up = false → has → n = some 5) ∧ (¬ hier → r.up = true → free → n = some 6) ∧
    (¬ hier → r.up = true → ¬ free → weak → n = some 7) ∧
    (¬ hier → (r.up = false ∧ ¬ has) ∨ (r.up = true ∧ ¬ free ∧ ¬ weak) →
      n = if s.sliceFull r.entry then some 9 else none))

/-- R300-R302: an accepted request that no other squad's mode forbids, and that stands behind no parent, is granted and its
grant is sent; any other waits, and every younger holder in an incompatible mode is wounded. -/
def Obligations.LockDecisions : Prop :=
  ∀ (s : State) (r : LockRequest), s.requestCheck r = none →
    let l := entryBefore s r
    let e := s.acceptRequest r
    (s.lockBehind { l with waiting := l.waiting.filter fun o => o.squad ≠ r.squad } (waiterOf r) = false →
      s.grantable { l with waiting := l.waiting.filter fun o => o.squad ≠ r.squad } (waiterOf r) = true →
      e.lockHeld r.entry r.squad = some r.mode ∧ ∃ g ∈ e.sentGrants, g.grant = ⟨r.squad, r.entry, l.scope, s.nextGrant⟩) ∧
    (s.lockBehind { l with waiting := l.waiting.filter fun o => o.squad ≠ r.squad } (waiterOf r) = true →
      e.lockWait r.entry r.squad = some (waiterOf r)) ∧
    (s.lockBehind { l with waiting := l.waiting.filter fun o => o.squad ≠ r.squad } (waiterOf r) = false →
      s.grantable { l with waiting := l.waiting.filter fun o => o.squad ≠ r.squad } (waiterOf r) = false →
      e.lockWait r.entry r.squad = some (waiterOf r) ∧
      ∀ h ∈ l.holders, h.1 ≠ r.squad →
        older r.age ⟨((s.lockSquad h.1).age).getD 0, (s.lockSquad h.1).ward, h.1⟩ = true →
        (∃ mx, s.lockMatrix l.matrix = some mx ∧ compatible mx r.mode h.2 = false) →
          (e.lockSquad h.1).woundLeft.isSome = true)

/-- R300, R303, R305: `UNLK` and `LKDN` that pass their checks are applied at the slice once the writes before them are
released and every earlier load has returned (R207), and leave the squad the mode they name; `LKRA` leaves it nothing. Each completes unless
the fabric loses its packets.
R297, R299, R307, R308: `LKQY` answers the state of an entry, `LKAG` sets AGE while the squad holds and asks for
nothing, but for an AGE that is fixed, and `LKMX` loads a symmetric matrix. -/
def Obligations.LockReleasesAndSettings : Prop :=
  ((∀ (i : Instr) (f : LForm) (down : Option LockMode) (s : State) (c : Ctx) (s1 : State) (d : LockDesc),
     unlockOf i = some (f, down) → Inv s → Issues i s c → (ready s c).readDesc c (c.uni f.a).toNat = (s1, .ok d) →
     s1.descCheck c d f.level.toNat (c.lockIndex f) false = none → s1.releaseState c.tile c.sq d.scope = .ready →
     s1.releaseCheck (releaseOf s1 c f d down) = none → s.loss ≠ .answer →
       AccessOnly s s1 c ∧ memoryAs s s1 ∧
       ∃ b, { b with wound := c.sq.wound, poolWrites := c.sq.poolWrites } = (c.sq.deliverAll fun _ => true) ∧
         Effect i s c ((releasedAt s1 c d.scope).acceptRelease (releaseOf s1 c f d down)) b) ∧
   (∀ (s : State) (r : LockRelease), s.releaseCheck r = none → (s.acceptRelease r).lockHeld r.entry r.squad = r.down) ∧
   (∀ (f : LForm) (s : State) (c : Ctx), Inv s → Issues (.lkra f) s c → (ready s c).slicesReached c.tile c.key = true →
     (ready s c).releaseState c.tile c.sq ((ready s c).heldScope c.key) = .ready → s.loss = .none →
       let e := (releasedAt (ready s c) c ((ready s c).heldScope c.key)).releaseAll c.key false
       e.lockBusy c.key = false ∧
       ∃ b, { b with wound := c.sq.wound, poolWrites := c.sq.poolWrites } = (c.sq.deliverAll fun _ => true) ∧ Effect (.lkra f) s c e b)) ∧
  ((∀ (f : LForm) (s : State) (c : Ctx) (s1 : State) (d : LockDesc), Inv s → Issues (.lkqy f) s c →
     (ready s c).readDesc c (c.uni f.a).toNat = (s1, .ok d) → s1.descCheck c d f.level.toNat (c.lockIndex f) true = none →
       AccessOnly s s1 c ∧ memoryAs s s1 ∧
       Result (.lkqy f) s c s1 c.sq f.b fun _ => queryWord s1 c (entryOf s1 c f d) d.tid) ∧
   (∀ (f : LForm) (s : State) (c : Ctx), Inv s → Issues (.lkag f) s c → (s.lockSquad c.key).revoked = false →
     s.lockBusy c.key = false →
       ((s.lockSquad c.key).fixed = false → Effect (.lkag f) s c (s.setLockSquad { s.lockSquad c.key with
         ward := c.ward s, age := some (c.pair f.a 0), fixed := false }) c.sq) ∧
       ((s.lockSquad c.key).fixed = true → Effect (.lkag f) s c s c.sq)) ∧
   (∀ (f : LForm) (s : State) (c : Ctx), Inv s → Issues (.lkmx f) s c → (s.lockSquad c.key).revoked = false →
     let n := (c.uni f.a).toNat
     let m := (c.pair f.b 0).toNat
     1 ≤ n → n ≤ 8 → m < 2 ^ 36 → (∀ r < 6, ∀ k < 6, m.testBit (6 * r + k) = m.testBit (6 * k + r)) →
       Effect (.lkmx f) s c { s with matrices := tabSet n (BitVec.ofNat 36 m) s.matrices } c.sq))

/-! ## Queues, jobs and matrix commands -/

/-- R153, R337, R340: `QPSH` to `q4` or a mailbox with room appends its element and advances the phase counter, as a release that
earlier loads come before; a mailbox notifies the object bound to it.
R333, R336, R346: a push to a full queue (`q0` and the `q1` of its FOLLOW command, `q1`, `q2`, `q4` or a mailbox) raises QUEUE
with code FULL and pushes nothing; one to an unbound `q4` raises UNBOUND; an instruction that the queue it names does not take
raises DIR. -/
def Obligations.QueuePushes : Prop :=
  ((∀ (f : QForm) (s : State) (c : Ctx), Issues (.qpsh f) s c → f.q = 4 → (wgNow (ready s c) c).area.bound = true →
     (wgNow (ready s c) c).outRoom ≠ 0 → (ready s c).releaseState c.tile c.sq 6 = .ready →
       Effect (.qpsh f) s c ((ready s c).updWg c.tile fun w => { w with q4 := entered w.q4 (c.pair f.a 0) }) (c.sq.released 6)) ∧
   (∀ (f : QForm) (s : State) (c : Ctx), Issues (.qpsh f) s c → 6 ≤ f.q.toNat → f.q.toNat ≤ 13 →
     ((wgNow (ready s c) c).box f.q.toNat).items.length < 16 →
       let w := (wgNow (ready s c) c).setBox f.q.toNat (entered ((wgNow (ready s c) c).box f.q.toNat) (c.pair f.a 0))
       Effect (.qpsh f) s c (((ready s c).updWg c.tile fun _ => w).notify w ((wgNow (ready s c) c).box f.q.toNat).bind) (c.sq.released 2))) ∧
  ((∀ (i : Instr) (f : XForm) (op : MatrixOp) (offset : Bool) (bad : Nat → Bool) (s : State) (c : Ctx) (pc : DWord),
     matrixOf i = some (f, op, offset, bad) → Issues i s c → (offset = true → c.matrixTrap f.a = none) →
     bad (c.uni f.b).toNat = false → 32 ≤ jobsIn (wgNow (ready s c) c) 1 → handlerOf s c 13 = some pc →
       ∃ t, exec i s = .next t ∧ Enters s c c.sq (siteRegs c 13 1 0 false) pc t) ∧
   (∀ (f : QForm) (s : State) (c : Ctx) (pc : DWord), Issues (.qpsh f) s c → 6 ≤ f.q.toNat → f.q.toNat ≤ 13 →
     16 ≤ ((wgNow (ready s c) c).box f.q.toNat).items.length → handlerOf s c 13 = some pc →
       ∃ t, exec (.qpsh f) s = .next t ∧ Enters s c c.sq (siteRegs c 13 1 0 false) pc t) ∧
   (∀ (f : QForm) (s : State) (c : Ctx) (pc : DWord), Issues (.qpsh f) s c → f.q = 4 → handlerOf s c 13 = some pc →
     ((wgNow (ready s c) c).area.bound = false →
       ∃ t, exec (.qpsh f) s = .next t ∧ Enters s c c.sq (siteRegs c 13 3 0 false) pc t) ∧
     ((wgNow (ready s c) c).area.bound = true → (wgNow (ready s c) c).outRoom = 0 →
       ∃ t, exec (.qpsh f) s = .next t ∧ Enters s c c.sq (siteRegs c 13 1 0 false) pc t)) ∧
   (∀ (f : QForm) (s : State) (c : Ctx) (pc : DWord), Issues (.cpyj f) s c → f.q = 0 → c.cardTrap f.a = none →
     let card := (ready s c).readCard c f.a
     (ready s c).cardCheck (wgNow (ready s c) c) card = none →
     16 ≤ jobsIn (wgNow (ready s c) c) 0 ∨ (cardFon card = true ∧ 32 ≤ jobsIn (wgNow (ready s c) c) 1) → handlerOf s c 13 = some pc →
       ∃ t, exec (.cpyj f) s = .next t ∧ Enters s c c.sq (siteRegs c 13 1 0 false) pc t) ∧
   (∀ (f : QForm) (s : State) (c : Ctx) (pc : DWord), Issues (.colj f) s c → f.q = 2 → c.cardTrap f.a = none →
     (ready s c).collCheck (wgNow (ready s c) c) ((ready s c).readCard c f.a) = none →
     16 ≤ jobsIn (wgNow (ready s c) c) 2 → handlerOf s c 13 = some pc →
       ∃ t, exec (.colj f) s = .next t ∧ Enters s c c.sq (siteRegs c 13 1 0 false) pc t) ∧
   (∀ (i : Instr) (f : QForm) (s : State) (c : Ctx) (pc : DWord), Issues i s c → handlerOf s c 13 = some pc →
     (i = .qpsh f ∧ (f.q.toNat < 4 ∨ f.q.toNat = 5 ∨ 13 < f.q.toNat)) ∨
       (i = .qpop f ∧ (f.q.toNat < 3 ∨ f.q.toNat = 4 ∨ 13 < f.q.toNat)) ∨ (i = .qcnt f ∧ 13 < f.q.toNat) ∨
       (i = .qbnd f ∧ (f.q.toNat < 3 ∨ 13 < f.q.toNat)) ∨ (i = .cpyj f ∧ f.q ≠ 0) ∨ (i = .colj f ∧ f.q ≠ 2) →
       ∃ t, exec i s = .next t ∧ Enters s c c.sq (siteRegs c 13 2 0 false) pc t))

/-- R138, R153, R154: `QPOP` of a queue that holds an element takes the oldest, and its pair is on its way to A; an empty
queue makes the group wait.
R337, R338: `QCNT` answers the free places of `q0`-`q2`, the room of `q4`, or the elements held; `QBND` binds and
unbinds the object that a queue notifies. -/
def Obligations.QueuePops : Prop :=
  (∀ (f : QForm) (s : State) (c : Ctx), Issues (.qpop f) s c → f.q.toNat = 3 ∨ (5 ≤ f.q.toNat ∧ f.q.toNat ≤ 13) →
     let b := if c.g.blocked = some (.qpop f.q.toNat) then c.sq else c.sq.deschedule
     (∀ n, c.g.blocked = some (.qpop n) → n = f.q.toNat) →
     (∀ x, (ready s c).popHead c.tile (wgNow (ready s c) c) f.q.toNat = some x →
       Effect (.qpop f) s c (((ready s c).updWg c.tile fun w => w.popped f.q.toNat).acquire c.tile (if f.q = 5 then 6 else 2))
         (c.send b f.a 2 f.la.toNat true fun _ => x)) ∧
     ((ready s c).popHead c.tile (wgNow (ready s c) c) f.q.toNat = none → Blocks (.qpop f) s c b (.qpop f.q.toNat))) ∧
  ((∀ (f : QForm) (s : State) (c : Ctx), Issues (.qcnt f) s c → f.q.toNat ≤ 13 →
     Effect (.qcnt f) s c s (c.send c.sq f.a 1 f.la.toNat true fun _ => BitVec.ofNat 64
       (if f.q.toNat < 3 then (if f.q = 1 then 32 else 16) - jobsIn (wgNow (ready s c) c) f.q.toNat
        else if f.q = 4 then (wgNow (ready s c) c).outRoom else (wgNow (ready s c) c).held f.q.toNat))) ∧
   (∀ (f : QForm) (s : State) (c : Ctx), Issues (.qbnd f) s c → f.q.toNat = 3 ∨ (5 ≤ f.q.toNat ∧ f.q.toNat ≤ 13) →
     (f.a = .zero → Effect (.qbnd f) s c ((ready s c).updWg c.tile fun w => w.setBind f.q.toNat none) c.sq) ∧
     (f.a ≠ .zero → (ready s c).objectCheck c f.a true true = none →
       Effect (.qbnd f) s c ((ready s c).updWg c.tile fun w => w.setBind f.q.toNat (some (c.object f.a))) c.sq)))

/-- R338, R340: `QBND` of `q4` unbinds an area once its elements are written, and binds one from the ring indices that it
holds; that OUTHEAD is read, and what a second binding waits for, are the model's choice (LOG 55). -/
def Obligations.MessageAreas : Prop :=
  (∀ (f : QForm) (s : State) (c : Ctx), Inv s → Issues (.qbnd f) s c → f.q = 4 → f.a = .zero → (wgNow (ready s c) c).q4.items = [] →
    Effect (.qbnd f) s c ((ready s c).updWg c.tile fun w => { w with area := { w.area with bound := false } }) c.sq) ∧
  (∀ (f : QForm) (s : State) (c : Ctx) (s1 s2 s3 : State) (outTail inHead outHead : Nat), Inv s → Issues (.qbnd f) s c → f.q = 4 →
    f.a ≠ .zero → segCheck c.sq .gseg (c.pair f.a 0).toNat 512 = true → (c.pair f.a 0).toNat % 512 = 0 →
    (wgNow (ready s c) c).q4.items = [] →
    ¬ ((wgNow (ready s c) c).area.bound = true ∧ (wgNow (ready s c) c).area.offset = c.pair f.a 0 ∧
      (wgNow (ready s c) c).area.slot = c.sq.slot) →
    (ready s c).areaRead c (c.pair f.a 0) 0 4 = (s1, .ok outTail) →
    s1.areaRead c (c.pair f.a 0) 0xC0 4 = (s2, .ok inHead) → s2.areaRead c (c.pair f.a 0) 0x40 4 = (s3, .ok outHead) →
      AccessOnly s s3 c ∧ memoryAs s s3 ∧
      Effect (.qbnd f) s c (s3.updWg c.tile fun w => { w with area :=
        { bound := true, offset := c.pair f.a 0, slot := c.sq.slot, outTail := BitVec.ofNat 32 outTail,
          outHead := BitVec.ofNat 32 outHead, inHead := BitVec.ofNat 32 inHead } }) c.sq)

/-- R334, R346, R351, R353: `CPYJ` and `COLJ` of a card that passes its checks push a job under the squad's next command
sequence number, which is on its way to B, as a release that earlier loads come before; a card with FOLLOW pushes its matrix command under the number after it.
R334, R358, R363: a matrix instruction with a legal offset and no reserved bit of B pushes its command to `q1`. -/
def Obligations.EnginePushes : Prop :=
  ((∀ (f : QForm) (s : State) (c : Ctx), Issues (.cpyj f) s c → f.q = 0 → c.cardTrap f.a = none →
     let card := (ready s c).readCard c f.a
     let w := wgNow (ready s c) c
     let n := c.sq.cmdSeq
     (ready s c).cardCheck w card = none → jobsIn w 0 < 16 →
     (cardFon card = false →
       Effect (.cpyj f) s c ((ready s c).updWg c.tile (withJob c (.copy card) n))
         (c.send { c.sq.released 2 with cmdSeq := numberAfter n } f.b 1 f.la.toNat true fun _ => n.setWidth 64)) ∧
     (cardFon card = true → jobsIn w 1 < 32 →
       Effect (.cpyj f) s c
         ((ready s c).updWg c.tile fun v => withJob c (.matrix (followCmd (cardFollow card)) (some w.nextJob)) (numberAfter n)
           (withJob c (.copy card) n v))
         (c.send { c.sq.released 2 with cmdSeq := numberAfter (numberAfter n) } f.b 1 f.la.toNat true fun _ => n.setWidth 64))) ∧
   (∀ (f : QForm) (s : State) (c : Ctx), Issues (.colj f) s c → f.q = 2 → c.cardTrap f.a = none →
     let card := (ready s c).readCard c f.a
     let w := wgNow (ready s c) c
     (ready s c).collCheck w card = none → jobsIn w 2 < 16 →
       Effect (.colj f) s c ((ready s c).updWg c.tile (withJob c (.collective card) c.sq.cmdSeq))
         (c.send { c.sq.released 2 with cmdSeq := numberAfter c.sq.cmdSeq } f.b 1 f.la.toNat true fun _ => c.sq.cmdSeq.setWidth 64))) ∧
  (∀ (i : Instr) (f : XForm) (op : MatrixOp) (offset : Bool) (bad : Nat → Bool) (s : State) (c : Ctx),
     matrixOf i = some (f, op, offset, bad) → Issues i s c → (offset = true → c.matrixTrap f.a = none) →
     bad (c.uni f.b).toNat = false → jobsIn (wgNow (ready s c) c) 1 < 32 →
       Effect i s c
         ((ready s c).updWg c.tile (withJob c (.matrix ⟨op, f.tile.toNat, c.uni f.a, c.uni f.b⟩ none) c.sq.cmdSeq))
         { c.sq with cmdSeq := numberAfter c.sq.cmdSeq })

/-! ## Wards -/

/-- R89, R326: `SYS WARD` on a sound request area in privileged mode performs its operation and answers the status, unless the fabric
loses its answer.
R86-R89: an operation that does not answer OK changes nothing; CREATE makes the ward that its block describes, MODIFY
gives a ward every field of its block but keeps WID, PARENT and TENANT, DELETE removes the ward, RESET asks for the tenant's
reset, CLEAR ends DSTOPPED of every ward of the fault domain; no other ward and nothing else changes. -/
def Obligations.WardOperations : Prop :=
  (∀ (i : Instr) (f : SForm) (act : Nat → Nat → State × WardStatus) (s : State) (c : Ctx),
     let k := (ready s c).gangKeyAt c.wg (c.object f.a)
     wardOf (ready s c) k i = some (f, act) → Issues i s c → c.areaTrap f.a = none → s.loss ≠ .answer →
     (ready s c).targetVerdict c.tile ((ready s c).spadTarget c.wg 0 (c.object f.a)) false = .ok →
       Result i s c (act ((ready s c).num k 2 % 2 ^ 12) ((ready s c).num (k + 64) 128)).1 c.sq f.a fun _ =>
         BitVec.ofNat 32 (act ((ready s c).num k 2 % 2 ^ 12) ((ready s c).num (k + 64) 128)).2.code) ∧
  ((∀ (s : State) (w b : Nat), ((s.wardCreate w b).2 ≠ .ok → (s.wardCreate w b).1 = s) ∧
     ((s.wardModify w b).2 ≠ .ok → (s.wardModify w b).1 = s) ∧ ((s.wardDelete w).2 ≠ .ok → (s.wardDelete w).1 = s) ∧
     ((s.wardReset w).2 ≠ .ok → (s.wardReset w).1 = s) ∧ ((s.wardClear w).2 ≠ .ok → (s.wardClear w).1 = s)) ∧
   (∀ (s : State) (w b : Nat), (s.wardCreate w b).2 = .ok → s.ward? w = none ∧
     ∃ v, (s.wardCreate w b).1.ward? w = some v ∧ v.parent = b / 2 ^ 12 % 2 ^ 12 ∧ v.tenant = b / 2 ^ 24 % 2 ^ 6 ∧
       wardFields v b ∧ v.dstopped = false ∧ { (s.wardCreate w b).1 with wards := s.wards } = s ∧
       (v.parent = 0xFFF ∨ ∃ p, s.ward? v.parent = some p ∧ p.tenant = v.tenant) ∧ (v.priv = true → v.tenant = 0) ∧
       ∀ m, m ≠ w → (s.wardCreate w b).1.ward? m = s.ward? m) ∧
   (∀ (s : State) (w b : Nat) (v : Ward), s.ward? w = some v → (s.wardModify w b).2 = .ok →
     ∃ u, (s.wardModify w b).1.ward? w = some u ∧ u.parent = v.parent ∧ u.tenant = v.tenant ∧ wardFields u b ∧
       u.dstopped = v.dstopped ∧ { (s.wardModify w b).1 with wards := s.wards } = s ∧
       ∀ m, m ≠ w → (s.wardModify w b).1.ward? m = s.ward? m) ∧
   (∀ (s : State) (w : Nat), (s.wardDelete w).2 = .ok → 2 ≤ w ∧ (s.wardDelete w).1.ward? w = none ∧
     { (s.wardDelete w).1 with wards := s.wards } = s ∧
     (∀ m, m ≠ w → (s.wardDelete w).1.ward? m = s.ward? m) ∧ ∀ l ∈ s.launches, l.ward = w → l.status.isSome = true) ∧
   (∀ (s : State) (w : Nat), (s.wardReset w).2 = .ok → ∃ v, s.ward? w = some v ∧ v.tenant ≠ 0 ∧
     (s.wardReset w).1 = { s with resets := s.resets ++ [v.tenant] }) ∧
   (∀ (s : State) (w : Nat) (v : Ward), s.ward? w = some v → (s.wardClear w).2 = .ok ∧
     { (s.wardClear w).1 with wards := s.wards } = s ∧ ∀ m u, s.ward? m = some u → (s.wardClear w).1.ward? m =
       some (if u.tenant = v.tenant ∧ s.effFdom m = s.effFdom w then { u with dstopped := false } else u)))

/-! ## Power and bring-up -/

/-- R24-R28: what a power sample does to the alarm and its count; the clearing of the alarm; the three losses of state. What
memory outside the module, flash and the counters hold then, and that a device reset leaves the alarm and the samples, are the
model's choices (LOG 4, LOG 5, LOG 6, LOG 26, LOG 32, LOG 89). -/
def Obligations.PowerEvents : Prop :=
  (∀ (s : State) (w x : Nat), s.input = .powerSample w x → s.power.removed = false →
    let h := (w :: s.power.history).take 10
    let avg := h.sum / h.length
    let above (watts : Nat) : Prop := watts * h.length < h.sum
    ∃ p, exec .powerSample s = .next { s with power := p } ∧ p.removed = false ∧ p.history = h ∧ p.average = avg ∧
      p.inlet = x ∧ p.hot = decide (450 < x) ∧
      (above 27000 ∨ 450 < x → p.alarm = true ∧ p.narrow = true ∧
        p.count = (if s.power.alarm = false ∧ s.power.count ≠ 255 then s.power.count + 1 else s.power.count)) ∧
      (¬ above 27000 → x ≤ 450 → p.alarm = s.power.alarm ∧ p.narrow = s.power.narrow ∧ p.count = s.power.count) ∧
      p.calm = (if avg < 24000 ∧ x < 420 then s.power.calm + 100 else 0) ∧
      (above 30000 → p.overUs = s.power.overUs + 100) ∧ (¬ above 30000 → p.overUs = 0)) ∧
  (∀ (s : State), s.power.alarm = true → 10000 ≤ s.power.calm →
    exec .powerAlarmClear s = .next { s with power := { s.power with alarm := false, narrow := false } }) ∧
  (∀ (s : State), Inv s → ∃ t, exec .powerOnReset s = .next t ∧ lost s t ∧ t.devclk = 0 ∧ t.power = State.reset.power ∧
    ∀ a, a < Config.hbmEnd → byteAt t a = 0) ∧
  (∀ (s : State), Inv s → s.power.removed = false → ∃ t, exec .deviceReset s = .next t ∧ lost s t ∧ t.devclk = s.devclk ∧
    t.power = { s.power with count := 0 } ∧ (s.wc = [] → ∀ a, a < Config.hbmEnd → byteAt t a = byteAt s a)) ∧
  (∀ (s : State) (i : Instr), Inv s → (i = .modulePowerLoss ∨ (i = .waferPowerRemoval ∧ 10000 ≤ s.power.overUs)) →
    ∃ t, exec i s = .next t ∧ lost s t ∧ t.power.removed = true ∧ ∀ a, a < Config.hbmEnd → byteAt t a = 0)

/-- R29-R33, R52: each phase of bring-up, from the check of the image to full service, whose commit CommitEvents states; the parts
marked since the reset stay out of the map. How a public key's digest and signature are judged is presumed (LOG 9); that full service
begins with no region entry, no replica and no line in the banks is the model's inference (LOG 31), and what stands in the staging
tables its choice (LOG 93). -/
def Obligations.BringUpEvents : Prop :=
  (∀ (s : State), Inv s → s.bringUp.phase = 0 → s.power.removed = false →
    (s.flash.torn = false ∧ imageAccepted s.flash.image s.flash.minSvn s.flash.keyDigest = true →
      ∃ t, exec .romCheck s = .next t ∧ t.bringUp.phase = 2 ∧ t.bringUp.rsvc = true ∧ t.bringUp.fwfail = false ∧
        t.flash = { s.flash with minSvn := max s.flash.minSvn (imageField s.flash.image 8 4) } ∧
        (∀ a, byteAt t a = if a < Config.stack2 then 0 else byteAt s a) ∧
        (∀ x, streetBit t.street x 0 = true → reticleOf x = 0) ∧
        { t with flash := s.flash, mem := s.mem, bringUp := s.bringUp, street := s.street, streetNext := s.streetNext
                 active := s.active, staging := s.staging, placement := s.placement, redealt := s.redealt, fkey := s.fkey
                 wc := s.wc, regions := s.regions, replicas := s.replicas, freeCtr := s.freeCtr } = s) ∧
    (s.flash.torn = true ∨ imageAccepted s.flash.image s.flash.minSvn s.flash.keyDigest = false →
      exec .romCheck s = .next { s with bringUp := { s.bringUp with phase := 1, fwfail := true } })) ∧
  (∀ (s : State) (ts bs : List Nat), s.input = .harvest ts bs → s.bringUp.phase = 2 →
    ∃ m, exec .harvest s = .next { s with harvestMap := m, bringUp := { s.bringUp with
        phase := 3, good := goodTiles m, short := decide (goodTiles m < 2560) } } ∧
      (∀ x ∈ ts, streetBit m x 0 = false) ∧ (∀ x ∈ bs, streetBit m x 1 = false) ∧
      (∀ x, .tile x ∈ s.marks → streetBit m x 0 = false) ∧ (∀ x, .bank x ∈ s.marks → streetBit m x 1 = false) ∧
      ∀ x, .router x ∈ s.marks → streetBit m x 2 = false) ∧
  (∀ (s : State), s.bringUp.phase = 3 →
    ∃ m, exec .treeBuild s = .next { s with harvestMap := m, bringUp := { s.bringUp with phase := 4 } } ∧
      ∀ x, tabFind x (hopMap s.harvestMap) = none → streetBit m x 1 = false) ∧
  (∀ (s : State), s.bringUp.phase = 4 →
    exec .hbmTraining s = .next { s with bringUp := { s.bringUp with phase := 5, worked := 4 } }) ∧
  (∀ (s : State), Inv s → s.bringUp.phase = 5 → s.bringUp.worked = 4 →
    ∃ m, exec .memoryClear s = .next { s with mem := m, bringUp := { s.bringUp with worked := 5 } } ∧
      ∀ a, Memory.read m a = if Config.stack2 ≤ a ∧ a < Config.hbmEnd then 0 else byteAt s a) ∧
  (∀ (s : State), Inv s → s.bringUp.phase = 5 → s.bringUp.worked = 5 →
    (¬ (∀ g ∈ s.gangs, g.stage = .saved) → exec .fullServiceBegin s = .next { s with gangs := s.gangs.map fun g =>
      if g.stage = .running then { g with stage := .requested } else g }) ∧
    ((∀ g ∈ s.gangs, g.stage = .saved) → s.rt.state = 0 →
      ∃ t, exec .fullServiceBegin s = .next t ∧ t.bringUp = { s.bringUp with worked := 6 } ∧
        t.rt = { s.rt with state := 2, fwc := true, swapped := false, want := false } ∧ t.streetCommit = s.harvestMap ∧
        t.streetNext = s.harvestMap ∧ t.regions = [] ∧ t.replicas = [] ∧ t.wc = [] ∧
        { t with mem := s.mem, rt := s.rt, streetCommit := s.streetCommit, streetNext := s.streetNext, bringUp := s.bringUp
                 wc := s.wc, regions := s.regions, replicas := s.replicas } = s ∧
        ∀ a, byteAt t a = if Config.stack1Top ≤ a ∧ a < Config.stack2 then 0 else byteAt s a)) ∧
  (∀ (s : State), s.bringUp.phase = 5 → s.bringUp.worked = 7 → (∀ g ∈ s.gangs, g.stage = .saved) → s.rt.state = 0 →
    exec .fullServiceBegin s = .next { s with harvestMap := [], bringUp := { s.bringUp with phase := 6, rsvc := false } })

/-! ## The mailbox -/

/-- R65: a mailbox command on a port with a mailbox is answered once, under its opcode; one that is not a success changes
nothing else. A port without one answers nothing. R29, R37: in phase 0 of bring-up a mailbox takes the push of an image alone.
R21, R37, R38, R65, R68, R82, R85, R96, R376, R378: what the mailbox commands that end at once do. Which commands conflict, what
they hold against a wrong input, the lines that ENABLE compares and the layout of READ's output are the model's choices (LOG 39, LOG 69,
LOG 97, LOG 103, LOG 104). -/
def Obligations.MailboxCommands : Prop :=
  (∀ (s : State) (i : Instr) (p op : Nat), mailboxRow s.input = some (i, p, op) →
     (s.bringUp.phase = 0 → op ≠ 0xC001 → op ≠ 0xC002 → s.mailbox p op = false) ∧
     (s.mailbox p op = false → exec i s = .next s) ∧
     (s.mailbox p op = true → ∃ t a, exec i s = .next t ∧ t.answers = s.answers ++ [a] ∧ a.port = p ∧ a.opcode = op ∧
       (a.code ≠ .success → a.code ≠ .background → { t with answers := s.answers } = s))) ∧
  ((∀ (s : State) (p : Nat) (bs : List Byte), s.mailbox p 0x0100 = true → s.mailbox p 0x0101 = true →
     (s.input = .standardCommand p 0x0100 bs → exec .standardCommand s = .next (answered s p 0x0100 .success s.eventBytes)) ∧
     (s.input = .standardCommand p 0x0101 bs →
       exec .standardCommand s = .next (answered { s with eventLog := [] } p 0x0101 .success []))) ∧
   (∀ (s : State) (p : Nat) (r : DWord), s.input = .setroles p r → s.mailbox p 0xC000 = true →
     exec .setroles s = .next (answered { s with flash := { s.flash with roles := r } } p 0xC000 .success [])) ∧
   (∀ (s : State) (p o : Nat) (bs : List Byte), s.input = .imgchunk p o bs → s.mailbox p 0xC001 = true → Inv s → bs.length ≤ 4096 →
     o + bs.length ≤ 0x40 + 2 ^ 24 + 64 → s.background = [] →
       ∃ m, exec .imgchunk s = .next (answered { s with staged := m } p 0xC001 .success []) ∧
         ∀ x, Memory.read m x = if o ≤ x ∧ x < o + bs.length then nth bs (x - o) else Memory.read s.staged x) ∧
   (∀ (s : State) (p : Nat) (n : BitVec 256), s.input = .idreport p n → s.mailbox p 0xC003 = true →
     (s.report n).length = 128 ∧
     exec .idreport s = .next (answered s p 0xC003 .success (s.report n ++ (Config.deviceSign (s.report n)).take 64))) ∧
   (∀ (s : State) (p o : Nat), s.input = .certread p o → s.mailbox p 0xC004 = true →
     exec .certread s = .next (answered s p 0xC004 .success ((s.flash.certificate.drop o).take 4096))) ∧
   (∀ (s : State) (p off n : Nat), s.input = .biasread p off n → s.mailbox p 0xC008 = true → off % 4096 = 0 → 0 < n → n ≤ 32768 →
     off + 4096 * n ≤ s.hbmLimit →
       ∃ out, exec .biasread s = .next (answered s p 0xC008 .success out) ∧ out.length = (n + 7) / 8 ∧
         ∀ i, i < n → (nth out (i / 8)).getLsbD (i % 8) = s.hostBias.contains (off / 4096 + i)) ∧
   (∀ (s : State) (p qid : Nat) (d : BitVec 512), s.input = .qctlEnable p qid d → s.mailbox p 0xC009 = true → qid < 4096 →
     (∀ q, tabFind qid s.queues = some q → q.enabled = false) → s.enableWrong qid d = false →
       ∃ q, exec .qctlEnable s = .next (answered { s with queues := tabSet qid q s.queues } p 0xC009 .success []) ∧
         q.enabled = true ∧ q.ring = (d.extractLsb' 0 64).toNat ∧ q.tailA = (d.extractLsb' 64 64).toNat ∧
         q.headA = (d.extractLsb' 128 64).toNat ∧ q.cring = (d.extractLsb' 192 64).toNat ∧
         q.ward = (d.extractLsb' 256 12).toNat ∧ q.logn = (d.extractLsb' 268 4).toNat ∧
         q.port = (d.extractLsb' 272 5).toNat ∧ q.msix = (d.extractLsb' 288 16).toNat ∧
         q.head = (d.extractLsb' 320 32).toNat ∧ q.tail = q.head ∧ q.qerr = 0 ∧ q.watching = false ∧ q.ended = [] ∧
         q.headDirty = false) ∧
   (∀ (s : State) (p qid : Nat), s.input = .qctlDisable p qid → s.mailbox p 0xC009 = true → qid < 4096 →
     ∃ t, exec .qctlDisable s = .next t ∧ ∀ q, tabFind qid t.queues = some q → q.enabled = false ∧ q.watching = false) ∧
   (∀ (s : State) (p qid : Nat) (q : LaunchQueue), s.input = .qctlRead p qid → s.mailbox p 0xC009 = true → qid < 4096 →
     tabFind qid s.queues = some q → exec .qctlRead s = .next (answered s p 0xC009 .success q.bytes)) ∧
   (∀ (s : State) (p i : Nat) (e : PeerEntry), s.input = .peerset p i e → s.mailbox p 0xC00B = true → i < 64 →
     exec .peerset s = .next (answered { s with peers := tabSet i e s.peers } p 0xC00B .success [])) ∧
   (∀ (s : State) (p : Nat) (z : SampSetting), s.input = .sampctl p z → s.mailbox p 0xC00C = true → s.samplerWrong z = false →
     exec .sampctl s = .next (answered { s with sampler :=
       { setting := z, seq := 0, done := [], start := s.coreCycles, taken := [] } } p 0xC00C .success [])) ∧
   (∀ (s : State) (p : Nat) (z : SnapSetting), s.input = .snapctl p z → s.mailbox p 0xC00D = true → s.snapWrong z = false → Inv s →
     ∃ t, exec .snapctl s = .next t ∧ t.snap = z ∧
       t.snaps = (if z.mode = 0 then [] else [z]) ++ s.snaps.filter (fun y => y.ward ≠ z.ward) ∧
       ∀ a, (z.mode = 1 → z.offset ≤ a → a < z.offset + 64 → byteAt t a = 0) ∧
         (z.mode ≠ 1 ∨ a < z.offset ∨ z.offset + 64 ≤ a → asGiven s a (byteAt t a))))

/-- R37, R39, R40, R52, R66, R80, R82: the commands that run in the background, and how each ends. That a checkpoint runs beside other
commands is presumed (LOG 39); that a mark of a part that is bad already is answered as any other is the model's inference (LOG 20);
what a checkpoint's record holds, that the pages of a flip change together, the code of an image that is rejected, and what becomes of
a line that its bank cannot send home are its choices (LOG 30, LOG 36, LOG 105, LOG 111). -/
def Obligations.BackgroundCommands : Prop :=
  (∀ (s : State) (p n : Nat), s.input = .imgcommit p n → s.mailbox p 0xC002 = true → s.background = [] → n ≤ 0x40 + 2 ^ 24 + 64 →
    let b := Memory.readN s.staged 0 n
    exec .imgcommit s = .next (if imageAccepted b s.flash.minSvn s.flash.keyDigest
      then begun { s with flashWrite := some b } p 0xC002 .image else answered s p 0xC002 .invalidInput [])) ∧
  (∀ (s : State) (b : List Byte) (p : Nat), s.flashWrite = some b → (s.runningOne fun b => b = .image) = some (p, .image) →
    exec .imgcommitComplete s = .next (ended { s with flash := { s.flash with image := b, torn := false }
                                                      flashWrite := none } (p, .image) 0xC002 [])) ∧
  (∀ (s : State) (p : Nat) (part : Part), s.input = .mark p part → s.mailbox p 0xC005 = true → s.background = [] →
    partExists part = true →
      exec .mark s = .next (begun (s.markPart part) p 0xC005 (.mark part)) ∧
      (∀ t, part = .tile t → streetBit (s.markPart part).streetNext t 0 = false ∧ (s.markPart part).rt.want = true) ∧
      (∀ t k, part = .link t k → streetBit (s.markPart part).streetNext t (3 + k) = false ∧ (s.markPart part).rt.want = true) ∧
      (s.markPart part).marks = s.marks ++ [part] ∧
      (∀ t, part = .bank t ∨ part = .router t → s.bgood t = true →
        s.markPart part = { s with marks := s.marks ++ [part], emptying := s.emptying ++ [t] })) ∧
  (∀ (s : State) (p r : Nat), s.input = .chkpt p r → s.mailbox p 0xC006 = true → s.safeRegion r = true → s.checkpoint = none →
    exec .chkpt s = .next (begun { s with
      checkpoint := some ⟨r, p⟩
      gangs := s.gangs.map fun g => if g.stage = .running then { g with stage := .requested } else g } p 0xC006 (.checkpoint r))) ∧
  (∀ (s : State) (f : Option (Nat × Nat)) (c : Checkpoint) (p r : Nat), s.input = .checkpointComplete f → Inv s →
    s.checkpoint = some c →
    (s.runningOne fun b => match b with | .checkpoint _ => true | _ => false) = some (p, .checkpoint r) →
    (∀ g ∈ s.gangs, g.stage = .saved) →
      ∃ t out, exec .checkpointComplete s = .next t ∧ t.checkpoint = none ∧ t.peerRefused = [] ∧
        t.background = s.background.erase (p, .checkpoint r) ∧ t.answers = s.answers ++ [⟨p, 0xC006, .success, out⟩] ∧
        t.agenda = s.agenda ++ s.peerRefused.map (fun x => ⟨.peerChunkArrival, .peerChunkArrival x⟩) ∧
        (f = none → s.regionFault c.region = none → out = leBytes 8 0 ++ leBytes 8 s.devclk.toNat ∧
          ∀ a, a < Config.hbmEnd → byteAt t a = byteAt s a ∧
            byteAt t (Config.poolBase + c.region * 2 ^ 30 + a) = byteAt s a)) ∧
  (∀ (s : State) (p : Nat) (x : BitVec 128), s.input = .biasflip p x → s.mailbox p 0xC007 = true → s.background = [] →
    let off := (x.extractLsb' 0 64).toNat
    let n := (x.extractLsb' 64 21).toNat
    off % 4096 = 0 → off + 4096 * n ≤ s.hbmLimit → 0 < n → n ≤ 1048576 → x.extractLsb' 85 3 = 0 → x.extractLsb' 89 39 = 0 →
      ∃ fs, exec .biasflip s = .next (begun { s with flipping := fs } p 0xC007 (.biasFlip (off / 4096) n (x.getLsbD 88))) ∧
        ∀ g, g ∈ fs ↔ g ∈ s.flipping ∨
          (off / 4096 ≤ g ∧ g < off / 4096 + n ∧ s.hostBias.contains g ≠ x.getLsbD 88)) ∧
  (∀ (s : State) (p a n : Nat) (toHost : Bool),
    (s.runningOne fun b => match b with | .biasFlip _ _ _ => true | _ => false) = some (p, .biasFlip a n toHost) →
      ∃ t, exec .biasflipComplete s = .next t ∧ t.background = s.background.erase (p, .biasFlip a n toHost) ∧
        t.answers = s.answers ++ [⟨p, 0xC007, .success, []⟩] ∧
        (∀ g, t.hostBias.contains g = if a ≤ g ∧ g < a + n ∧ s.flipping.contains g then toHost else s.hostBias.contains g) ∧
        (∀ g, t.flipping.contains g = (s.flipping.contains g && !decide (a ≤ g ∧ g < a + n))) ∧
        (toHost = true → (∀ x, orLost s x (byteAt t x) (byteAt s x)) ∧
          ∀ l ∈ t.wc, ¬ (a ≤ l.line / 32 ∧ l.line / 32 < a + n ∧ s.flipping.contains (l.line / 32))) ∧
        (toHost = false → (∀ g, s.flipping.contains g = true → s.hostBias.contains g = true) → memoryAs s t ∧
          (∀ l ∈ t.wc, a ≤ l.line / 32 → l.line / 32 < a + n → s.flipping.contains (l.line / 32) = true →
            l.hostHeld = false ∧ l.owned = false) ∧
          ∀ line, a ≤ line / 32 → line / 32 < a + n → s.flipping.contains (line / 32) = true → s.wcLine? line = none →
            (∀ h ∈ t.hostLines, h.1 / 2 ≠ line) ∧ ∀ k, k < 128 → byteAt t (128 * line + k) = byteAt (gathered s [line]) (128 * line + k))) ∧
  (∀ (s : State) (p a n g : Nat), s.input = .poolbind p a n g → s.mailbox p 0xC00A = true → s.background = [] → 0 < n →
    a + n ≤ 16384 → (tabFind g s.linkGroups).isSome = true →
      exec .poolbind s = .next (begun s p 0xC00A (.poolBind a n g))) ∧
  (∀ (s : State) (p a n g : Nat),
    (s.runningOne fun b => match b with | .poolBind _ _ _ => true | _ => false) = some (p, .poolBind a n g) →
      ∃ gs, exec .poolbindComplete s = .next (ended { s with granules := gs } (p, .poolBind a n g) 0xC00A []) ∧
        ∀ k, tabFind k gs = if a ≤ k ∧ k < a + n
          then some ⟨g, s.groupDown ((tabFind g s.linkGroups).getD [])⟩ else tabFind k s.granules)

/-! ## Ports, links and packets -/

/-- R27, R63, R72, R82, R85, R182, R356, where it is the model's choice that LINKFAIL keeps its other bits when a port trains, and that
training ends the PORTDOWN error of its queues (LOG 27): a port's link comes up, or stays down and sets LINKFAIL when its partner lacks a
mandatory feature; a link goes down by itself or, on a host port other than 0, by the port's reset, and the loss of a port to a peer rebuilds the trees that reach the
peer through it; a link group is lost, with its modified lines and the loads in flight of its granules. -/
def Obligations.PortEvents : Prop :=
  (∀ (s : State) (p : Nat) (x : Partner), s.input = .cxlLinkTraining p x → p < 32 → p < s.ports.length →
    (x.mandatory = true → ∃ t, exec .cxlLinkTraining s = .next t ∧
      t.ports[p]? = some ⟨s.role p, true⟩ ∧ t.linkFail = s.linkFail ∧
      (s.role p = 0 → ∀ e ∈ t.queues, e.2.enabled = true → e.2.port = p → e.2.qerr ≠ 3) ∧
      (s.role p = 1 → ∃ ps, tabFind x.device t.linkGroups = some ps ∧ p ∈ ps) ∧
      (s.role p = 2 → ∀ e ∈ t.peers, e.2.ports.getLsbD p = true → e.2.serial ≠ x.serial → e.2.valid = false)) ∧
    (x.mandatory = false → ∃ t, exec .cxlLinkTraining s = .next t ∧ t.ports[p]? = some ⟨s.role p, false⟩ ∧
      t.linkFail = s.linkFail ||| (1#32 <<< p))) ∧
  (∀ (s : State) (i : Instr) (p : Nat), p < s.ports.length →
    (i = .portLinkDown ∧ s.input = .portLinkDown p) ∨
      (i = .hostPortReset ∧ s.input = .hostPortReset p ∧ p ≠ 0 ∧ s.role p = 0) →
      ∃ t, exec i s = .next t ∧ t.ports[p]? = some ⟨s.role p, false⟩ ∧
        (s.role p = 0 → { t with ports := s.ports } = { s with queues := s.queues.map fun e =>
          if e.2.enabled && e.2.port = p then (e.1, { e.2 with qerr := 3, watching := false }) else e }) ∧
        (s.role p = 1 → ∀ g ∈ s.linkGroups, p ∈ g.2 → (∀ k ∈ g.2, ∀ y, t.ports[k]? = some y → y.up = false) →
          ∀ x ∈ t.granules, x.2.group = g.1 → x.2.lost = true) ∧
        (s.role p = 2 →
          (∀ j ∈ s.junctions, (∃ n e, n < 64 ∧ j.2.peers.getLsbD n = true ∧ tabFind n s.peers = some e ∧ e.valid = true ∧
            e.ports.getLsbD p = true) → ⟨.collectiveTreeRebuild, .collectiveTreeRebuild j.1⟩ ∈ t.agenda) ∧
          ∀ j ∈ t.junctions, (∃ n, n < 64 ∧ j.2.peers.getLsbD n = true ∧ t.peerUp n = false) → j.2.failed = true)) ∧
  (∀ (s : State) (g : Nat), s.input = .poolGroupLost g →
    ∃ t, exec .poolGroupLost s = .next t ∧ (∀ x ∈ t.granules, x.2.group = g → x.2.lost = true) ∧
      (∀ k, (tabFind k t.granules).map (·.group) = (tabFind k s.granules).map (·.group)) ∧
      (∀ l ∈ t.wc, isPool (128 * l.line) = true →
        ∀ x, tabFind (granuleOf (128 * l.line)) t.granules = some x → x.group ≠ g) ∧
      ∀ m w q, (s.tile m).wg = some w → q ∈ w.squads →
        ∃ w' q', (t.tile m).wg = some w' ∧ q' ∈ w'.squads ∧ q'.slot = q.slot ∧
          (∀ o, o ∈ q'.outstanding ↔ o ∈ q.outstanding ∧ ∀ x ∈ o.pool, t.poolLost (128 * x.1) = false) ∧
          ((∀ o ∈ q.outstanding, ∀ x ∈ o.pool, t.poolLost (128 * x.1) = false) → q' = q) ∧
          ((∃ o ∈ q.outstanding, ∃ x ∈ o.pool, t.poolLost (128 * x.1) = true) → q.late = none →
            ∃ e, q'.late = some e ∧ e.number = Trap.poolLost))

/-- R41-R43, R52, R356, with a flit for each packet as the model's choice (LOG 79, LOG 92): replay on a link, its steps down, what
the street maps take of them, and its retraining. -/
def Obligations.LinkEvents : Prop :=
  (∀ (s : State) (d : LinkDir) (q : BitVec 8), s.input = .flitCrcFail d q → (s.link d).fromSeq q ≠ [] →
    exec .flitCrcFail s = .next { s with links := tabSet (linkKey d) { s.link d with expect := q } s.links
                                         agenda := s.agenda ++ [⟨.replayRequest, .replayRequest d q⟩] }) ∧
  (∀ (s : State) (d : LinkDir) (q : BitVec 8), s.input = .replayRequest d q → (s.link d).fromSeq q ≠ [] →
    exec .replayRequest s = .next { s with links := tabSet (linkKey d) { s.link d with
      replays := (s.link d).replays + 1, resend := ((s.link d).buffer.dropWhile fun e => e.1 ≠ q).map (·.1) } s.links }) ∧
  (∀ (s : State) (d : LinkDir) (q : BitVec 8) (e : BitVec 8 × Nat) (rest : List (BitVec 8 × Nat)),
    s.input = .flitAcknowledge d q → (neighbour d.tile d.port).isSome = true → (s.link d).fromSeq q = e :: rest →
      ∃ t, exec .flitAcknowledge s = .next t ∧ { t with links := s.links, flights := s.flights } = s ∧
        (t.link d).expect = q + 1 ∧ (∀ x ∈ rest, x ∈ (t.link d).buffer) ∧
        ∀ f ∈ s.flights, f.id = e.2 → f.router = d.tile → ∃ g ∈ t.flights, g.id = f.id ∧ some g.router = neighbour d.tile d.port) ∧
  (∀ (s : State) (d : LinkDir), s.input = .replayWindowEnd d → (neighbour d.tile d.port).isSome = true →
    (s.link d).window < s.fabricCycles / 2 ^ 20 →
      ∃ t, exec .replayWindowEnd s = .next t ∧ (t.link d).replays = 0 ∧ (t.link d).window = s.fabricCycles / 2 ^ 20 ∧
        ((s.link d).replays ≤ 16 → { t with links := s.links } = s ∧ (t.link d).st = (s.link d).st) ∧
        (16 < (s.link d).replays → (s.link d).st = .full →
          { t with links := s.links, streetNext := s.streetNext, harvestMap := s.harvestMap } = s ∧
          ∀ k ∈ [d, reverse d], (t.link k).st = .half ∧ (t.link k).retraining = true ∧
            (streetBit s.streetNext d.tile (3 + d.port) = true → streetBit t.streetNext k.tile (7 + k.port) = true) ∧
            (streetBit s.harvestMap d.tile (3 + d.port) = true → streetBit t.harvestMap k.tile (7 + k.port) = true)) ∧
        (16 < (s.link d).replays → (s.link d).st = .half →
          t.rt.want = true ∧ (∀ k ∈ [d, reverse d], (t.link k).st = .down ∧ (t.link k).buffer = [] ∧
            (t.link k).retraining = true ∧ streetBit t.streetNext k.tile (3 + k.port) = false ∧
            streetBit t.harvestMap k.tile (3 + k.port) = false) ∧
          ∀ j ∈ s.junctions, ⟨.collectiveTreeRebuild, .collectiveTreeRebuild j.1⟩ ∈ t.agenda)) ∧
  (∀ (s : State) (d : LinkDir), s.input = .linkRetrainDone d →
    ∃ t, exec .linkRetrainDone s = .next t ∧ { t with links := s.links } = s ∧ (t.link d).retraining = false ∧
      (t.link (reverse d)).retraining = false ∧ (t.link d).buffer = (s.link d).buffer)

/-- R44-R49, R59-R61, R98, R184, R348: a packet takes a class that its entry allows, a copy of an MCAST line the tree; while a commit drains
the fabric it waits; it is delivered behind the packets of its virtual channel that are before it on its way; an uncorrectable data flit
makes its payload uncorrectable; and what is lost or unanswered comes to, at a squad whose instruction was passed or that is gone, at a
group that waits for its answer, and at a job. What a packet carries and who replies to it, what an unanswered invalidation loses, which
accesses are lost and when their groups take the trap, and what becomes of copies, are the model's choices (LOG 79, LOG 90, LOG 110, LOG 112). -/
def Obligations.PacketEvents : Prop :=
  let isCopy (p : Packet) : Prop := ∃ t id n o x, p.payload = .copy t id n o x
  let gone (s : State) (k : SquadKey) : Nat := ((s.launch? k.gang.launch).map (·.ward)).getD 0
  (∀ (p : Packet), (∀ a, p.payload = .forward a → packetClass p = .reply ∧ packetLine p = a.address / 128 % 2 ^ 45) ∧
    (∀ a, p.payload = .access a → packetClass p = .request ∧ packetLine p = a.address / 128 % 2 ^ 45) ∧
    (∀ o, p.payload = .scratch o ∨ p.payload = .arrival o →
      packetClass p = .request ∧ packetLine p = p.dest * 2 ^ 15 + o / 128 % 2 ^ 15) ∧
    (∀ m l, p.payload = .reply m (.line l) → packetClass p = .reply ∧ packetLine p = l) ∧
    (∀ m, p.payload = .reply m .none → packetLine p = p.dest)) ∧
  (∀ (s : State) (p : Packet), s.input = .packetInject p →
    (s.rt.state = 2 → exec .packetInject s = .next { s with waiting := s.waiting ++ [p] }) ∧
    (s.rt.state ≠ 2 →
      let e := s.active.entry p.source p.dest
      (e.getLsbD 6 = true ∨ s.onTree p = true → ∃ t f, exec .packetInject s = .next t ∧ t.flights = s.flights ++ [f] ∧
        f.id = s.nextPacket ∧ f.packet = p ∧ f.router = p.source ∧ f.injected = s.fabricCycles ∧
        (s.onTree p = true → f.route = .xFirst) ∧
        (s.onTree p = false → (f.route = .xFirst → e.getLsbD 4 = true) ∧ (f.route = .yFirst → e.getLsbD 5 = true) ∧
          (f.route = .upDown → e.getLsbD 4 = false ∧ e.getLsbD 5 = false)) ∧
        t.awaited = (if payloadResent p.payload = true ∨ p.owner.isSome = true
          then s.awaited ++ [⟨s.nextPacket, p, s.fabricCycles, 0⟩] else s.awaited) ∧
        { t with links := s.links, flights := s.flights, awaited := s.awaited, nextPacket := s.nextPacket } = s) ∧
      (e.getLsbD 6 = false → ¬ isCopy p →
        (p.owner = none → exec .packetInject s = .next s) ∧
        (∀ k t slot w, p.owner = some k → s.locate k = some (t, slot) → (s.tile t).wg = some w → p.seq = 0 →
          s.goesOn k.gang.launch = true → exec .packetInject s = .next (s.updSquad t slot fun q => { q with
            outstanding := q.outstanding.filter fun o => o.site ≠ p.site, late := some (q.late.getD (lossTrap p)) })) ∧
        (∀ k, p.owner = some k → s.locate k = none → s.faultWard (gone s k) = none →
          ∃ t, exec .packetInject s = .next t ∧ ∃ r ∈ t.eventLog, r.num = Trap.fabricLoss ∧ r.squad = k.squad ∧ r.time = s.devclk ∧
            (s.launch? k.gang.launch = none → r.abort = true))))) ∧
  (∀ (s : State) (n : Nat) (bad : Bool) (f : Flight), s.input = .packetDeliver n bad → s.flights[n]? = some f →
    ((∃ g ∈ s.flights, g.id < f.id ∧ g.packet.source = f.packet.source ∧ packetClass g.packet = packetClass f.packet ∧
        packetLine g.packet = packetLine f.packet ∧ g.packet.dest = f.packet.dest) ∨
      (∃ g ∈ s.flights.takeWhile (fun g => g.id ≠ f.id), g.router = f.router ∧ packetClass g.packet = packetClass f.packet ∧
        g.route = f.route ∧ s.nextLink g = s.nextLink f ∧ (s.nextLink f).isSome = true) →
      exec .packetDeliver s = .next s) ∧
    (s.isNext f = true → s.heldFlight f = false → bad = false → ¬ isCopy f.packet → exec .packetDeliver s = .next { s with
      flights := s.flights.filter (fun g => g.id ≠ f.id)
      awaited := match f.packet.payload with
        | .reply m _ => s.awaited.filter fun a => a.id ≠ m
        | .invalidateAck _ _ => s.awaited.filter fun a => a.id ≠ f.id
        | _ => s.awaited
      agenda := s.agenda ++ (payloadEvent f.packet.payload).toList ++ s.replyTo f }) ∧
    (s.isNext f = true → s.heldFlight f = false → ∀ tl id m o x w j, f.packet.payload = .copy tl id m o x →
      s.copying tl id m = some (w, j) → ∃ t w' j', exec .packetDeliver s = .next t ∧
        t.flights = s.flights.filter (fun g => g.id ≠ f.id) ∧ t.awaited = s.awaited.filter (fun a => a.id ≠ f.id) ∧
        t.job? tl id = some (w', j') ∧
        (bad = false → (∀ y ∈ j'.writes, y.copy ≠ some m) ∧ j'.writes.length = j.writes.length) ∧
        (bad = true → ∃ d, j' = { j with stage := .faulted Trap.dataUe d f.packet.address.toNat })) ∧
    (s.isNext f = true → s.heldFlight f = false → bad = true → ∃ t, exec .packetDeliver s = .next t ∧
      t.flights = s.flights.filter (fun g => g.id ≠ f.id) ∧
      (∀ a, f.packet.payload = .access a ∨ f.packet.payload = .forward a → a.kind ≠ .load → lineOf a.address ∈ t.inError ∧
        ⟨.anchorRequest, .anchorRequest a⟩ ∉ t.agenda.drop s.agenda.length) ∧
      (∀ k, f.packet.payload = .migration k → ∀ l ∈ s.wc, l.modified = true → k.has (128 * l.line) = true →
        l.line ∈ t.inError) ∧
      (∀ k r l, f.packet.payload = .replicaFill k r l → t.agenda = s.agenda ++ s.replyTo f) ∧
      ∀ m l a k tl slot w, f.packet.payload = .reply m l → (s.awaited.find? fun a => a.id = m) = some a →
        a.packet.owner = some k → s.locate k = some (tl, slot) → (s.tile tl).wg = some w → a.packet.seq = 0 →
        s.goesOn k.gang.launch = true → ∀ q, s.squad? tl slot = some q → q.late = none →
          ∃ q' e, t.squad? tl slot = some q' ∧ q'.late = some e ∧ e.number = Trap.dataUe ∧ e.site = a.packet.site) ∧
    (s.isNext f = true → s.heldFlight f = true → ∃ t, exec .packetDeliver s = .next t ∧
      (f.route = .upDown → s.rt.state = 2 → ∀ g ∈ t.flights, g.id ≠ f.id) ∧
      (f.route ≠ .upDown → { t with flights := s.flights } = s ∧ (t.flights = s.flights ∨
        ∃ r, t.flights = (s.flights.filter fun g => g.id ≠ f.id) ++ [{ f with router := r }])))) ∧
  (∀ (s : State) (n : Nat) (f : Flight), s.input = .headerUeDiscard n → s.flights[n]? = some f →
    ∃ t, exec .headerUeDiscard s = .next t ∧ t.flights = s.flights.filter (fun g => g.id ≠ f.id) ∧
      (s.faultWard 0 = none → ∃ r ∈ t.eventLog, r.src = 5 ∧ r.ward = 0 ∧ r.tile = f.router ∧ r.time = s.devclk)) ∧
  (∀ (s : State) (n : Nat) (a : Awaited), s.input = .resendTimeout n → s.awaited[n]? = some a →
    payloadResent a.packet.payload = true → a.sent + 2 ^ 16 ≤ s.fabricCycles → s.rt.state ≠ 2 →
    (a.resends < 3 → (s.active.entry a.packet.source a.packet.dest).getLsbD 6 = true →
      ∃ t f, exec .resendTimeout s = .next t ∧ t.flights = s.flights ++ [f] ∧ f.packet = a.packet ∧ f.id = s.nextPacket ∧
        t.awaited = s.awaited.set n ⟨s.nextPacket, a.packet, s.fabricCycles, a.resends + 1⟩) ∧
    (3 ≤ a.resends → ∃ t, exec .resendTimeout s = .next t ∧ t.awaited = s.awaited.eraseIdx n ∧
      (∀ k r, a.packet.payload = .invalidate k r ∨ a.packet.payload = .invalidateAck k r →
        ⟨.invalidationAck, .invalidationAck k r⟩ ∈ t.agenda ∧
        ∀ line, k.base / 128 ≤ line → line < k.base / 128 + k.size / 128 → line ∈ t.inError ∧ ∀ l ∈ t.wc, l.line ≠ line) ∧
      ∀ m pa p k, a.packet.payload = .probe m pa p k → s.modified (lineOf pa) = true → lineOf pa ∈ t.inError)) ∧
  (∀ (s : State) (n : Nat) (a : Awaited), s.input = .requestTimeout n → s.awaited[n]? = some a →
    payloadResent a.packet.payload = false → a.sent + 2 ^ 20 ≤ s.fabricCycles →
    let r : State := { s with awaited := s.awaited.eraseIdx n }
    (¬ isCopy a.packet → a.packet.owner = none → exec .requestTimeout s = .next r) ∧
    (¬ isCopy a.packet → ∀ k t slot w, a.packet.owner = some k → s.locate k = some (t, slot) → (s.tile t).wg = some w → a.packet.seq = 0 →
      s.goesOn k.gang.launch = true → exec .requestTimeout s = .next (r.updSquad t slot fun q =>
        { q with outstanding := q.outstanding.filter fun o => o.site ≠ a.packet.site
                 late := some (q.late.getD (lossTrap a.packet)) })) ∧
    (∀ tl id m o x, a.packet.payload = .copy tl id m o x → (s.copying tl id m).isSome = true → exec .requestTimeout s = .next
      (r.updJob tl id fun j => { j with stage := .faulted Trap.fabricLoss 0 a.packet.address.toNat }))) ∧
  (∀ (s : State) (n : Nat) (k : Cursor) (sent addr : Nat) (part : Bool) (c : Ctx) (pc : DWord), s.input = .requestTimeout n →
    s.awaited.length ≤ n → s.unheard[n - s.awaited.length]? = some ⟨k, sent, addr, part⟩ → s.at? k = some c →
    (s.fabricCycles < sent + 2 ^ 20 → exec .requestTimeout s = .next s) ∧
    (sent + 2 ^ 20 ≤ s.fabricCycles → handlerOf s c Trap.fabricLoss = some pc →
      ∃ t, exec .requestTimeout s = .next t ∧ Enters s c c.sq (siteRegs c Trap.fabricLoss 0 addr part) pc t))

/-- R33, R56-R59, R99, R100. That firmware commits tables of its own and leaves the staging tables, when MAPCHG ends, when FWC changes,
how the banks are dealt, and that the stop of a launch may wait for its engine commands are the model's choices (LOG 10, LOG 25, LOG 31, LOG
88, LOG 102, LOG 113). A commit request is refused with the first condition of R58 that fails, MAPCHG last, and a refusal leaves FWC as it was; or it
drains the fabric. When every packet has arrived or is held, tables, the key and the map change at once, and the banks are dealt
when full service begins. When none is left, service resumes, the packets that have waited are injected, and the launches that have a gang on a tile that can no longer be
reached place it again or end PARTIAL. -/
def Obligations.CommitEvents : Prop :=
  (∀ (s : State),
    (s.rt.state ≠ 0 → exec .commitRequest s = .next { s with rt := { s.rt with err := 6 } }) ∧
    (s.rt.state = 0 → ∀ e r d, checkTables s.street s.staging = some (e, r, d) →
      exec .commitRequest s = .next { s with rt := { s.rt with err := e, router := r, dest := d } }) ∧
    (s.rt.state = 0 → checkTables s.street s.staging = none → s.rt.want = true →
      exec .commitRequest s = .next { s with rt := { s.rt with err := 7 } }) ∧
    (s.rt.state = 0 → checkTables s.street s.staging = none → s.rt.want = false →
      exec .commitRequest s = .next { s with
        rt := { s.rt with state := 2, err := 0, fwc := false, swapped := false }, streetCommit := s.streetNext })) ∧
  (∀ (s : State), s.rt.want = true → s.rt.state = 0 →
    exec .firmwareCommit s = .next { s with
      rt := { s.rt with state := 2, fwc := true, swapped := false, want := false }, streetCommit := s.streetNext }) ∧
  (∀ (s : State), s.rt.state = 2 → s.rt.swapped = false → (∀ f ∈ s.flights, f.route ≠ .upDown ∧ s.canArrive f = false) →
    ∃ t, exec .commitDrainDone s = .next t ∧ t.rt = { s.rt with gen := s.rt.gen + 1, swapped := true } ∧
      t.active = (if s.rt.fwc then ⟨.of s.streetCommit, []⟩ else s.staging) ∧ t.staging = s.staging ∧
      t.fkey = Config.drawKey s.freeCtr ∧ t.freeCtr = s.freeCtr + 1 ∧
      t.flights.map (fun f => (f.id, f.packet)) = s.flights.map (fun f => (f.id, f.packet)) ∧
      (∀ f ∈ t.flights, f.route = .upDown) ∧
      (∀ x n, n ≠ 13 → n < 32 → streetBit t.street x n = streetBit s.streetCommit x n) ∧
      (s.bringUp.worked ≠ 6 → t.placement = s.placement ∧ t.bringUp = s.bringUp) ∧
      (s.bringUp.worked = 6 → t.bringUp = { s.bringUp with worked := 7 } ∧ t.redealt = [] ∧
        t.placement = (t.street.filter fun e => e.2.getLsbD 1).map (·.1))) ∧
  (∀ (s : State), s.rt.state = 2 → s.rt.swapped = true → s.flights = [] →
    let struck (l : Launch) (g : GangKey) : Prop := g.launch = l.key ∧ (∃ h ∈ s.gangs, h.key = g) ∧
      ∃ e ∈ s.tiles, (∃ w, e.2.wg = some w ∧ w.gang = g) ∧ s.routes s.plaza e.1 = false
    ∃ t, exec .commitComplete s = .next t ∧
      t.waiting = [] ∧ (∀ p ∈ s.waiting, ⟨.packetInject, .packetInject p⟩ ∈ t.agenda) ∧
      ((∀ l ∈ s.launches, l.status.isSome = true ∨ l.ending.isSome = true ∨ (l.again = [] ∧ ∀ g, ¬struck l g)) → nothingHeld s →
        t.agenda = s.waiting.map (fun p => (⟨.packetInject, .packetInject p⟩ : Pending)) ++ s.agenda ∧ t.rt = { s.rt with state := 0, err := 0, swapped := false } ∧
        (∀ b, b ∈ t.emptying ↔ b ∈ s.emptying ∨ (s.bgood b = true ∧ s.routes s.plaza b = false)) ∧
        (∀ b, s.bgood b = true → s.routes s.plaza b = false → b ∉ s.emptying → .bank b ∈ t.marks) ∧
        (∀ e ∈ t.background, ∀ p, e.2 = .mark p → partGood s.street p = true) ∧
        (∀ e ∈ s.background, ∀ p, e.2 = .mark p → partGood s.street p = false → ⟨e.1, 0xC005, .success, []⟩ ∈ t.answers) ∧
        { t with rt := s.rt, emptying := s.emptying, marks := s.marks, background := s.background, answers := s.answers
                 waiting := s.waiting, agenda := s.agenda } = s) ∧
      (∀ l, s.launches = [l] → l.status = none → l.ending = none → (∃ g, struck l g) →
        (∀ g, struck l g → (∀ m w, (t.tile m).wg = some w → w.gang ≠ g) ∧ ∀ h ∈ t.gangs, h.key ≠ g) ∧
        (s.faultWard l.ward = none → ∃ r ∈ t.eventLog, r.num = Trap.linkLoss ∧ r.src = 4 ∧ r.ward = l.ward ∧
          r.qid = l.key.qid ∧ r.lseq = l.key.seq) ∧
        (l.replay = true → s.grounds l.shape ≠ [] → ∃ l', t.launches = [l'] ∧ l'.key = l.key ∧ l'.status = none ∧
          ∀ n, n ∈ l'.again ↔ n ∈ l.again ∨ ∃ g, struck l g ∧ g.gang = n) ∧
        (l.replay = false ∨ s.grounds l.shape = [] → (∀ m w, (s.tile m).wg = some w → w.gang.launch = l.key → w.jobs = []) →
          offWafer t l.key ∧
          ∃ l', t.launches = [l'] ∧ l'.key = l.key ∧ l'.status = some (3, Trap.linkLoss))))

/-! ## Launch queues and host memory -/

/-- R67-R76, R106: the watched tail, the reading of packets in order, the launch check, the launches that end with a packet they wait
for when it is rejected, and the head, which is written once packets have been read. -/
def Obligations.QueueEvents : Prop :=
  (∀ (s : State) (qid : Nat) (bs : List (Nat × Byte)) (q : LaunchQueue), s.input = .tailSnoop qid bs →
    tabFind qid s.queues = some q →
      ∃ t, exec .tailSnoop s = .next t ∧ tabFind qid t.queues = some { q with watching := false } ∧
        { t with queues := s.queues, mem := s.mem } = s ∧ (bs = [] → t.mem = s.mem)) ∧
  (∀ (s : State) (qid : Nat) (poison : Bool) (q : LaunchQueue), s.input = .tailReread qid poison →
    tabFind qid s.queues = some q → q.enabled = true → q.watching = false → q.qerr = 0 → s.hostPort q.port = true →
    let n := s.num (hostKey q.port q.tailA) 4
    ∃ t r, exec .tailReread s = .next t ∧ tabFind qid t.queues = some r ∧
      (poison = true → r.enabled = false ∧ r.qerr = 2) ∧
      (poison = false → q.size < (n + 2 ^ 32 - q.head) % 2 ^ 32 → r.enabled = false ∧ r.qerr = 1) ∧
      (poison = false → (n + 2 ^ 32 - q.head) % 2 ^ 32 ≤ q.size →
        r = { q with watching := true, tail := n } ∧ { t with queues := s.queues } = s)) ∧
  (∀ (s : State) (qid : Nat) (poison : Bool) (q : LaunchQueue), s.input = .launchPacketRead qid poison →
    tabFind qid s.queues = some q → s.packetDue qid q = true →
    let b := s.peekN (hostKey q.port (q.ring + 64 * (q.head % q.size))) 64
    ∃ t r, exec .launchPacketRead s = .next t ∧ tabFind qid t.queues = some r ∧ r.head = (q.head + 1) % 2 ^ 32 ∧
      r.headDirty = true ∧
      (poison = false → (∀ l ∈ s.launches, l.key = ⟨qid, q.head⟩ → l.status.isSome = true) →
        ∀ h, (packetState s qid q b).checkPacket q b false = .accept h →
        ∃ l, t.launch? ⟨qid, q.head⟩ = some l ∧ l.ward = q.ward ∧ l.header = h ∧ l.shape = packetBits b 0 15 12 ∧
          l.squads = packetBits b 0 20 16 ∧ l.gangs = packetBits b 0 63 32 ∧ l.order = s.nextOrder ∧ l.nextGang = 0 ∧ l.ending = none) ∧
      (poison = false → q.head < 2 ^ 32 → ∀ code, (packetState s qid q b).checkPacket q b false = .reject code →
        ∀ l ∈ s.launches, l.dep = some ⟨qid, q.head⟩ → l.status = none → l.ending = none → l.nextGang = 0 →
          (∀ y ∈ s.launches, y.key = l.key → y = l) → (t.launch? l.key).bind (·.status) = some (4, 0)) ∧
      (poison = false → Inv s → nothingHeld s → (∀ l ∈ s.launches, l.dep = none) → ∀ code, (packetState s qid q b).checkPacket q b false = .reject code →
        ∀ k < 32, byteAt t (hostKey q.port (q.cring + 32 * (q.head % 2 ^ q.logn)) + k) =
          nth (recordBytes qid q.head 1 0 code s.devclk (BitVec.ofNat 64 (packetBits b 0x30 63 0))) k)) ∧
  (∀ (s : State) (qid : Nat) (q : LaunchQueue), s.input = .headWrite qid false → tabFind qid s.queues = some q →
    q.enabled = true → q.qerr = 0 → s.hostPort q.port = true → Inv s →
      (q.headDirty = false → exec .headWrite s = .next s) ∧
      (q.headDirty = true → ∃ t, exec .headWrite s = .next t ∧ { t with mem := s.mem, queues := s.queues } = s ∧
        tabFind qid t.queues = some { q with headDirty := false } ∧ (∀ k, k ≠ qid → tabFind k t.queues = tabFind k s.queues) ∧
        ∀ x, byteAt t x = written s (hostKey q.port q.headA) (leBytes 4 q.head ++ List.replicate 60 0) x))

/-- R74, R75, with what a budget is compared with as the model's choice (LOG 28): the launch check rejects a packet with the first
reason of its table: a wrong SEQ, poison, a reserved field, too many tiles, squads, gangs, scratchpad, parameters, a dependence on
a queue of another tenant, or its code object. -/
def Obligations.LaunchCheck : Prop :=
  ∀ (s : State) (q : LaunchQueue) (b : List Byte),
    let p := packetBits b
    let tiles := shapeTiles (p 0 15 12)
    let spad := p 0x20 31 0
    let c := s.checkPacket q b false
    (p 0x38 31 0 ≠ q.head → c = .reject 1 ∧ s.checkPacket q b true = .reject 1) ∧
    (p 0x38 31 0 = q.head → s.checkPacket q b true = .reject 2) ∧
    (p 0x38 31 0 = q.head → p 0 7 0 = 0 → c = .nop) ∧
    (p 0x38 31 0 = q.head → p 0 7 0 ≠ 0 →
      (packetReserved b = true → c = .reject 3) ∧
      (packetReserved b = false →
        (s.effTiles q.ward < tiles → c = .reject 4) ∧
        (tiles ≤ s.effTiles q.ward →
          ((p 0 20 16 = 0 ∨ 16 < p 0 20 16) → c = .reject 5) ∧
          (1 ≤ p 0 20 16 → p 0 20 16 ≤ 16 →
            (p 0 63 32 = 0 → c = .reject 6) ∧
            (p 0 63 32 ≠ 0 →
              ((spad % 1024 ≠ 0 ∨ Config.spadMax < spad ∨ 1024 * s.effSpadb q.ward < spad) → c = .reject 7) ∧
              (spad % 1024 = 0 → spad ≤ Config.spadMax → spad ≤ 1024 * s.effSpadb q.ward →
                (65536 < p 0x18 31 0 → c = .reject 8) ∧
                (p 0x18 31 0 ≤ 65536 →
                  let depOk := ∃ d w, tabFind (p 0x28 11 0) s.queues = some d ∧ d.enabled = true ∧ s.ward? d.ward = some w ∧
                    w.tenant = ((s.ward? q.ward).map (·.tenant)).getD 0
                  (bitOf (p 0 63 0) 11 = true → ¬ depOk → c = .reject 9) ∧
                  (bitOf (p 0 63 0) 11 = false ∨ depOk →
                    let code := s.checkCode (((s.ward? q.ward).map (·.tenant)).getD 0) (p 8 63 0) (p 0x18 47 32) (p 0 20 16)
                      (p 0 15 12) spad
                    (code = none → c = .reject 10) ∧ ∀ h, code = some h → c = .accept h))))))))

/-- R19, R29, R47, R61, R78-R84, R167, R171, R183, R184, R383: what hosts, other hosts of the pool and errors do to memory and to
the lines that the device holds. R179: a bank that can be read is emptied, and leaves the map. What a host gives back of a line and
when, a snoop that a flip has overtaken, the bytes that come with BISNP_INV, the steps of a host's write in one event, the list in which requests are
held at an anchor, and what becomes of an access or a write-back that the fabric does not carry are the model's choices (LOG 18, LOG 35, LOG
46, LOG 86, LOG 94, LOG 111). -/
def Obligations.HostMemoryEvents : Prop :=
  (∀ (s : State) (p a n : Nat), s.input = .hostMemRead p a n →
    let req : Held := ⟨a / 128, .hostRead p a n⟩
    (s.hostPort p = false ∨ s.offersMem = false → exec .hostMemRead s = .next s) ∧
    (s.hostPort p = true → s.offersMem = true →
      (s.hbmLimit < a + n ∨ s.lineBad a = true → exec .hostMemRead s = .next { s with
        held := s.held.erase req, hostAnswers := s.hostAnswers ++ [⟨p, a, none⟩] }) ∧
      (a + n ≤ s.hbmLimit → s.lineBad a = false → s.inHostBias a = false →
        (s.readWaits a = true → ∃ t, exec .hostMemRead s = .next t ∧ { t with held := s.held } = s ∧ req ∈ t.held) ∧
        (s.readWaits a = false → s.hostCarries p a = true → ∃ t, exec .hostMemRead s = .next t ∧
          { t with regions := s.regions } = { s with
            held := s.held.erase req, hostAnswers := s.hostAnswers ++ [⟨p, a, some (s.peekN a n)⟩] } ∧
          t.regions.map (·.key) = s.regions.map (·.key) ∧
          ∀ e ∈ t.regions, e ∈ s.regions ∨ ∃ x ∈ s.regions, e = x.count (portReticle p))) ∧
      (a + n ≤ s.hbmLimit → s.lineBad a = false → s.readWaits a = false → s.hostCarries p a = false →
        exec .hostMemRead s = .next { s with held := s.held.erase req, hostAnswers := s.hostAnswers ++ [⟨p, a, none⟩] }) ∧
      (a + n ≤ s.hbmLimit → s.lineBad a = false → s.inHostBias a = true → s.hostCarries p a = true → ∀ l, s.wcLine? (a / 128) = some l →
        l.modified = true →
        exec .hostMemRead s = .next { s with hostAnswers := s.hostAnswers ++ [⟨p, a, some ((l.home.drop (a % 128)).take n)⟩] }))) ∧
  (∀ (s : State) (p a : Nat) (bs : List Byte), s.input = .hostMemWrite p a bs →
    let req : Held := ⟨a / 128, .hostWrite p a bs⟩
    (s.hostPort p = false ∨ s.offersMem = false → exec .hostMemWrite s = .next s) ∧
    (s.hostPort p = true → s.offersMem = true → Inv s →
      (s.hbmLimit < a + bs.length →
        exec .hostMemWrite s = .next { s with hostAnswers := s.hostAnswers ++ [⟨p, a, none⟩] }) ∧
      (a + bs.length ≤ s.hbmLimit → s.hostCarries p a = false →
        exec .hostMemWrite s = .next { s with held := s.held.erase req, hostAnswers := s.hostAnswers ++ [⟨p, a, none⟩] }) ∧
      (a + bs.length ≤ s.hbmLimit → s.hostCarries p a = true → s.inHostBias a = true → a / 4096 ∉ s.flipping →
        ∃ t, exec .hostMemWrite s = .next t ∧ t.held = s.held.erase req ∧ (∀ h ∈ t.hostLines, h.1 / 2 ≠ a / 128) ∧
          (s.modified (a / 128) = false → ∀ x, byteAt t x = written (gathered s [a / 128]) a bs x) ∧
          ∀ l, s.wcLine? (a / 128) = some l → l.modified = true → (∀ x, byteAt t x = byteAt (gathered s [a / 128]) x) ∧
            (t.wcLine? (a / 128)).map (·.home) = some (l.home.take (a % 128) ++ bs ++ l.home.drop (a % 128 + bs.length))) ∧
      (a + bs.length ≤ s.hbmLimit → s.hostCarries p a = true → s.inHostBias a = false → s.mustWait a = false →
        (s.regionFor a).acks = [] → (s.regionFor a).covered = [] →
        ∃ t, exec .hostMemWrite s = .next t ∧ t.held = s.held.erase req ∧ (∀ x, orLost s x (byteAt t x) (written s a bs x)) ∧
          (t.wcLine? (a / 128)).any (·.modified) = true) ∧
      (a + bs.length ≤ s.hbmLimit → s.hostCarries p a = true → s.inHostBias a = false → s.mustWait a = true →
        ∃ t, exec .hostMemWrite s = .next t ∧ { t with held := s.held } = s ∧ req ∈ t.held))) ∧
  (∀ (s : State) (a : Nat) (inv : Bool) (bs : Option (List Byte)), s.input = .hostSnoop a inv bs →
    let req : Held := ⟨a / 128, .snoop a true inv bs⟩
    let answer : SnoopAnswer := ⟨a / 128, true, inv,
      if s.modified (a / 128) then some (s.peekN (s.memKey (128 * (a / 128))) 128) else none⟩
    (s.mustWait a = true → ∃ t, exec .hostSnoop s = .next t ∧ { t with held := s.held } = s ∧ req ∈ t.held) ∧
    (s.mustWait a = false → s.inHostBias a = false →
      exec .hostSnoop s = .next { s with held := s.held.erase req, snoopAnswers := s.snoopAnswers ++ [answer] }) ∧
    (s.mustWait a = false → s.inHostBias a = true → ∃ t, exec .hostSnoop s = .next t ∧ t.mem = s.mem ∧ t.held = s.held.erase req ∧
      t.snoopAnswers = s.snoopAnswers ++ [answer] ∧
      (inv = true → t.wcLine? (a / 128) = none) ∧
      (∀ x ∈ t.wc, x.line = a / 128 → x.modified = false ∧ x.owned = false) ∧
      ∀ d, bs = some d → inv = true → tabFind (a / 64) t.hostLines = some (d.take 64))) ∧
  (∀ (s : State) (i : Instr) (a : Nat) (inv : Bool) (bs : Option (List Byte)),
    (i = .bisnpInv ∧ s.input = .bisnpInv a bs ∧ inv = true) ∨ (i = .bisnpData ∧ s.input = .bisnpData a ∧ inv = false ∧ bs = none) →
    let line := a / 128
    let req : Held := ⟨line, .snoop a false inv bs⟩
    (s.mustWait a = true → ∃ t, exec i s = .next t ∧ { t with held := s.held } = s ∧ req ∈ t.held) ∧
    (s.mustWait a = false →
      ∃ t, exec i s = .next t ∧ t.held = s.held.erase req ∧
        t.snoopAnswers = s.snoopAnswers ++ [⟨line, false, inv, none⟩] ∧
        (inv = true → t.wcLine? line = none ∧ ∀ r ∈ t.replicas, r.line ≠ line) ∧
        (bs = none → s.banksReached a = true → s.modified line = false ∨ s.lineReached line = true → t.mem = s.mem ∧
          (s.modified line = true → s.farLine line = true → line ∈ t.deviceWrites) ∧ t.modified line = false) ∧
        (s.banksReached a = false ∨ s.lineReached line = false → s.modified line = true → line ∈ t.inError) ∧
        (∀ d, bs = some d → isPool (128 * line) = true → d.length = 128 → Inv s →
          s.banksReached a = true → ∀ x, byteAt t x = written s (128 * line) d x))) ∧
  (∀ (s : State) (n : Nat), s.input = .memoryDeviceCompletion n →
    exec .memoryDeviceCompletion s = .next { s with deviceWrites := s.deviceWrites.eraseIdx n }) ∧
  (∀ (s : State) (a : Nat) (home : Bool), s.input = .uncorrectableError a home →
    (home = false → s.modified (a / 128) = false → exec .uncorrectableError s = .next s) ∧
    (home = true ∨ s.modified (a / 128) = true → Inv s →
      ∃ t, exec .uncorrectableError s = .next t ∧ a / 128 ∈ t.inError ∧ t.wcLine? (a / 128) = none ∧
        ∀ x, orLost s x (byteAt t x) (written s (s.memKey (128 * (a / 128))) (List.replicate 128 0) x))) ∧
  (∀ (s : State) (b : Nat), s.input = .bankEmptyDone b → b ∈ s.emptying → s.routes s.plaza b = true →
    ∃ t, exec .bankEmptyDone s = .next t ∧ b ∉ t.emptying ∧ t.rt = { s.rt with want := true } ∧
      streetBit t.streetNext b 1 = false ∧ streetBit t.harvestMap b 1 = false ∧ (∀ x, orLost s x (byteAt t x) (byteAt s x)) ∧ t.street = s.street ∧
      ((∃ x, s.takesBank x = true) → ∀ k, tabFind k t.redealt ≠ some b))

/-! ## Launches, gangs and their ends -/

/-- R75, R76, R92-R98: an abort ends a launch with FAULT, a tenant reset ends every launch of its tenant with CANCEL, frees its
locks and makes a record of SRC 6; each writes the completion record of what it ends, with the status, the code and the count of
retired gangs; a fault record is written to the ring of its ward, or counted there as lost when it is full. That the end of a launch
waits for its engine commands that wait for a page, and that a record is kept while the port is down, are the model's choices (LOG 106, LOG
113). -/
def Obligations.LaunchEndings : Prop :=
  (∀ (s : State) (k : LaunchKey) (n : Nat) (l : Launch), s.input = .launchAbort k n → s.launch? k = some l → l.status = none →
    let idle := ∀ m w, (s.tile m).wg = some w → w.gang.launch = k → w.jobs = []
    (l.ending = none → ∃ t l', exec .launchAbort s = .next t ∧ t.launch? k = some l' ∧
      (l'.status = some (2, n) ∨ (l'.status = none ∧ l'.ending = some (2, n)))) ∧
    (l.ending = none → idle → ∃ t, exec .launchAbort s = .next t ∧ (t.launch? k).bind (·.status) = some (2, n) ∧ offWafer t k) ∧
    (∀ e, l.ending = some e → idle → l.tenant ∉ s.resets →
      ∃ t, exec .launchAbort s = .next t ∧ (t.launch? k).bind (·.status) = some e ∧ offWafer t k)) ∧
  (∀ (s : State) (x : Nat), s.input = .tenantReset x → x ∈ s.resets → s.checkpoint = none →
    ∃ t, exec .tenantReset s = .next t ∧ (x ∉ t.resets ∨ ∀ l ∈ t.launches, l.tenant = x → l.status = none → l.ending.isSome = true)) ∧
  (∀ (s : State) (x : Nat), s.input = .tenantReset x → x ∈ s.resets → s.checkpoint = none →
    (∀ m w, (s.tile m).wg = some w → w.jobs = []) →
    ∃ t, exec .tenantReset s = .next t ∧ x ∉ t.resets ∧ (∀ e ∈ t.locks, e.id.tenant ≠ x) ∧
      (∀ w ∈ t.walks, w.tenant ≠ x) ∧
      (s.faultWard (s.tenantRoot x) = none → ∃ r ∈ t.eventLog, r.src = 6 ∧ r.ward = s.tenantRoot x ∧ r.time = s.devclk) ∧
      ∀ k l, s.launch? k = some l → (∀ y ∈ s.launches, y.key = k → y = l) → l.tenant = x → l.status = none →
        l.ending = none → l.nextGang ≠ 0 →
        (t.launch? k).bind (·.status) = some (4, 0) ∧ offWafer t k) ∧
  (∀ (s : State) (i : Instr) (l : Launch) (q : LaunchQueue) (status code : Nat), s.launches = [l] → l.status = none →
    l.ending = none → (l.dep = none ∨ l.nextGang ≠ 0) →
    tabFind l.key.qid s.queues = some q → s.hostPort q.port = true → nothingHeld s → Inv s → s.agenda = [] →
    (∀ e ∈ s.tiles, ∀ w, e.2.wg = some w → w.jobs = []) →
    (i = .launchAbort ∧ s.input = .launchAbort l.key code ∧ status = 2) ∨
      (i = .tenantReset ∧ s.input = .tenantReset l.tenant ∧ l.tenant ∈ s.resets ∧ s.checkpoint = none ∧
        s.faultWard (s.tenantRoot l.tenant) = none ∧ status = 4 ∧ code = 0) →
      ∃ t, exec i s = .next t ∧ ∀ k < 32, byteAt t (hostKey q.port (q.cring + 32 * (l.key.seq % 2 ^ q.logn)) + k) =
        nth (recordBytes l.key.qid l.key.seq status l.retired.length code s.devclk l.tag) k) ∧
  (∀ (s : State) (r : FaultRecord), s.faults = [r] → (∀ e ∈ s.queues, e.2.held = []) →
    (r.queue = none → exec .faultRecordWrite s = .next { s with faults := [], eventLog := s.eventLog ++ [r] }) ∧
    ∀ w b, r.queue = some w → s.ward? w = some b →
      (s.hostPort b.fqPort = false → exec .faultRecordWrite s = .next s) ∧
      (s.hostPort b.fqPort = true → (b.written + 2 ^ 32 - b.consumed) % 2 ^ 32 ≤ 2 ^ b.fqLogn → Inv s →
        ∃ t u, exec .faultRecordWrite s = .next t ∧ t.faults = [] ∧ t.ward? w = some u ∧ u.lost = 0 ∧
          u.written = (if b.written + 1 = 2 ^ 32 then 1 else b.written + 1) ∧ t.msix = s.msix ++ [(b.fqPort, b.fqMsix)] ∧
          { t with faults := s.faults, wards := s.wards, msix := s.msix, mem := s.mem } = s ∧
          ∀ a, byteAt t a =
            written s (hostKey b.fqPort (b.fqRing + 64 * (b.written % 2 ^ b.fqLogn))) (r.bytes b.written b.lost) a) ∧
      (s.hostPort b.fqPort = true → 2 ^ b.fqLogn < (b.written + 2 ^ 32 - b.consumed) % 2 ^ 32 →
        2 ^ b.fqLogn < (b.written + 2 ^ 32 - s.num (hostKey b.fqPort b.fqHead) 4) % 2 ^ 32 →
        ∃ t, exec .faultRecordWrite s = .next t ∧ t.faults = [] ∧ t.mem = s.mem ∧ (t.ward? w).map (·.lost) = some (b.lost + 1)))

/-- R102, R104, R105, R109, R116, R120, R122, R127, R152, R299: a gang is placed on a rectangle with every member at its start and its
scratchpad zero but for its lock-grant objects, or restored; gangs are asked to stop, stop at a restart point, and leave the wafer once
their save slot is written. A squad that is restored from the record that was saved of it stands at SPANPC with the threads of EMASK live,
its live-ins as they were, every other register dead, and its pending traps; the scratchpad of its member is as saved. The slot and the
rectangle that are chosen, the victims and their claims, what the device keeps beside the slot, the fault of a restore, the release of a
save and the copies that a placement drops are the model's choices (LOG 37, LOG 38, LOG 41, LOG 42, LOG 85, LOG 115). -/
def Obligations.GangEvents : Prop :=
  (∀ (s : State) (n id k : Nat) (l : Launch) (os : List Nat), s.input = .placementDecision n → Inv s →
    (∀ x ∈ s.launches, x.status = none → x.ending = none → x.nextGang = 0 → s.depState x ≠ .cancel) → s.toPlace = some (l, os) →
    s.nextGang l = some (.first id) → s.freeSlot l = some k →
      let o := os.getD (n % os.length) 0
      ∃ t, exec .placementDecision s = .next t ∧
        t.gangs = s.gangs ++ [⟨⟨l.key, id⟩, o, k, s.devclk.toNat, .running, [], [], []⟩] ∧
        t.claims = s.claims.filter (fun c => c.1 ≠ l.key) ∧
        ∀ m, m < shapeTiles l.shape →
          let x := o + m % shapeW l.shape + 56 * (m / shapeW l.shape)
          (t.tile x).wg = some (l.startWorkgroup ⟨l.key, id⟩ m k s.coreCycles) ∧ (t.tile x).l1 = [] ∧
            ∀ a, a < 2 ^ 22 → byteAt t (spadKey x a) = if a < 512 ∧ a % 32 = 0x18 then 0x0A else 0) ∧
  (∀ (l : Launch) (g : GangKey) (m k now : Nat) (q : Squad), q ∈ (l.startWorkgroup g m k now).squads →
    q.live = fullMask ∧ q.slot < l.squads ∧ (∃ h, q.groups = [h] ∧ h.threads = fullMask ∧
      h.pc = BitVec.ofNat 64 l.header.entryPc ∧ h.blocked = none) ∧
    q.reg 0 = .uniform (l.param.setWidth 32) ∧ q.reg 1 = .uniform (l.param.extractLsb' 32 32) ∧ q.reg 2 = .uniform l.plen ∧
    (∀ r, 3 ≤ r → r < 112 → r ≠ 110 → q.reg r = .dead) ∧ q.outstanding = [] ∧ q.intrap = false ∧ q.drtrap = false ∧
    q.cmdSeq = 1 ∧ q.span = none ∧ q.wound = false ∧ (∀ n, (q.ocSlot n).valid = 0) ∧ ∀ n, (q.latch n).valid = 0) ∧
  (∀ (l : Launch) (k i now free : Nat) (q : Squad) (p : SpanState), q.ended = false → q.span = some p → p.number < 2 ^ 16 →
    (∀ e, q.engine = some e → e.number < 256) →
    let u := l.restoreSquad k i now free q.saved p.liveIn
    u.slot = i ∧ u.live = p.entryMask ∧ u.span = some p ∧ u.inSpan = true ∧ u.spanned = false ∧
    (p.entryMask ≠ 0 → ∃ h, u.groups = [h] ∧ h.threads = p.entryMask ∧ h.pc = p.pc ∧ h.blocked = none ∧ h.hints = none) ∧
    (∀ n, n < 112 → u.reg n = if p.liveIn.getLsbD n then q.reg n else .dead) ∧
    (∀ n, (u.ocSlot n).valid = 0) ∧ (∀ n, (u.latch n).valid = 0) ∧ u.outstanding = [] ∧ u.intrap = false ∧ u.ended = false ∧
    u.cmdSeq = q.cmdSeq ∧ u.deadrd = q.deadrd ∧ u.wound = q.wound ∧
    u.engine.map (fun e => (e.number, e.seq)) = q.engine.map (fun e => (e.number, e.seq)) ∧
    ∀ j < 8, j ≠ SegName.sseg.num → j ≠ SegName.vseg.num → u.segs[j]? = q.segs[j]?) ∧
  (∀ (l : Launch) (k i now free : Nat) (q : Squad) (m : BitVec 112), q.ended = true →
    (l.restoreSquad k i now free q.saved m).ended = true ∧ (l.restoreSquad k i now free q.saved m).live = 0) ∧
  (∀ (s : State) (l : Launch) (g : Gang) (m : Nat) (b : List Byte) (k : KeptMember) (p : KeptSquad),
    (g.kept.find? fun k => k.member = m) = some k → p.slot < l.squads → (k.squads.find? fun e => e.slot = p.slot) = some p →
      let r := (b.drop (0x1000 + 16384 * p.slot)).take 16384
      let q := l.restoreSquad g.slot p.slot s.coreCycles (s.freeCtr + 8 * p.slot) r p.liveIn
      (s.restoredMember l g m b).squads[p.slot]? = some { q with
        poolWrites := p.poolWrites, late := p.late, trap := p.trap, groups := q.groups.map fun h => { h with fences := p.fences } }) ∧
  (∀ (s : State) (l : Launch) (g : Gang) (m x : Nat) (b : List Byte), Inv s → b.length = l.memberBytes →
    let e := s.restoreMember l g m x b
    (e.tile x).l1 = [] ∧ (∀ a, a < 1024 → byteAt e (spadKey x a) = nth b (0x400 + a)) ∧
    (∀ a, a < l.spad → byteAt e (spadKey x (1024 + a)) = nth b (0x1000 + l.squads * 16384 + a)) ∧
    ∀ a, a < spadKey x 0 ∨ (spadKey x (2 ^ 22) ≤ a ∧ spadKey x (1024 + l.spad) ≤ a) → byteAt e a = byteAt s a) ∧
  (∀ (s : State) (n : Nat) (l : Launch) (os : List Nat) (g : Gang), s.input = .placementDecision n →
    (∀ x ∈ s.launches, x.status = none → x.ending = none → x.nextGang = 0 → s.depState x ≠ .cancel) → s.toPlace = some (l, os) →
    s.nextGang l = some (.again g) →
      exec .placementDecision s = .next (match s.placeAgain l g (os.getD (n % os.length) 0) with
        | some e => { e.updLaunch l.key (fun x => { x with waitSince := e.devclk.toNat }) with
            claims := e.claims.filter fun c => c.1 ≠ l.key }
        | none => s.saveFault l g Trap.page 0 (l.slotVa g.slot))) ∧
  (∀ (s : State) (gs : List GangKey) (l : Launch) (o : Nat), s.input = .preemptRequest gs → gs ≠ [] → s.placing = true →
    s.claimant gs = some (l, o) →
      exec .preemptRequest s = .next { s with
        claims := s.claims.filter s.claimStands ++ [(l.key, o)]
        gangs := s.gangs.map fun g => if g.key ∈ gs then { g with stage := .requested } else g }) ∧
  (∀ (s : State) (k : GangKey) (g : Gang), s.input = .preemptStop k → s.gang? k = some g → g.stage = .requested →
    s.goesOn k.launch = true → s.atRestart k = true → s.gangOver g = false →
      ∃ t, exec .preemptStop s = .next t ∧ (t.gang? k).map (·.stage) = some .stopped ∧
        { t with gangs := s.gangs, tiles := s.tiles } = s ∧
        ∀ m w, (t.tile m).wg = some w → w.gang = k → ∀ q ∈ w.squads, q.stopped = true) ∧
  (∀ (s : State) (k : GangKey) (g : Gang) (l : Launch), s.input = .preemptSave k → s.gang? k = some g →
    s.launch? k.launch = some l → l.status = none → l.ending = none → g.stage = .stopped → s.mayLeave k = true →
      ∃ t, exec .preemptSave s = .next t ∧
        match s.vaWrite g.origin l.tenant (l.slotVa g.slot) (s.savedGang l g) with
        | (e, .ok ()) => (e.vaQuiet l.tenant (l.slotVa g.slot) l.slotBytes = false → t = e) ∧
            (e.vaQuiet l.tenant (l.slotVa g.slot) l.slotBytes = true →
              (t.gang? k).map (·.stage) = some .saved ∧ (∀ m w, (t.tile m).wg = some w → w.gang ≠ k) ∧
              t.locks = e.locks ∧ (∀ a, byteAt t a = byteAt e a) ∧
              ∀ m w q, (e.tile m).wg = some w → w.gang = k → q ∈ w.squads →
                e.lockBusy (squadKey w q) = false → (t.lockSquad (squadKey w q)).age = none)
        | (e, .wait _) => t = e
        | (e, .fault f _) => t = e.saveFault l g f.num f.detail f.addr) ∧
  (∀ (s : State) (x : Nat) (w : Workgroup), s.input = .workgroupEnd x → (s.tile x).wg = some w → w.finished = true →
    ∃ t u, exec .workgroupEnd s = .next t ∧ (t.tile x).wg = some u ∧ (∀ a ∈ u.accs, a = AccTile.empty) ∧ u.latch = none ∧
      { u with accs := w.accs, latch := w.latch } = w ∧ { t with tiles := s.tiles } = s) ∧
  (∀ (s : State) (k : GangKey) (g : Gang) (l : Launch), s.input = .gangRetire k → s.gang? k = some g → s.gangOver g = true →
    (s.releaseGang k).gangReleased k = true → s.launch? k.launch = some l → l.status = none → l.ending = none →
      ∃ t, exec .gangRetire s = .next t ∧ t.gang? k = none ∧ (∀ m w, (t.tile m).wg = some w → w.gang ≠ k) ∧
        (t.launch? k.launch).map (·.retired) = some (l.retired ++ [k.gang]) ∧
        (l.retired.length + 1 = l.gangs → (t.launch? k.launch).bind (·.status) = some (0, 0)) ∧
        (l.retired.length + 1 ≠ l.gangs → (t.launch? k.launch).bind (·.status) = none))

/-! ## Squads between instructions -/

/-- R98, R131, R135, R140, R304, R316-R318, R330, R335: a result arrives, in one register or a pair, a uniform one whole; a held trap is
taken at a boundary, by the handler or, for WOUND without one, by its default action; an engine trap reaches its squad, or is recorded;
a pool entry is reclaimed, a skew hold ends, a sleep ends. When a skew hold is taken, that a uniform result arrives whole, and that the
default action performs its releases in the step, are the model's choices (LOG 48, LOG 58, LOG 99). -/
def Obligations.SquadEvents : Prop :=
  (∀ (s : State) (x slot n : Nat) (m : Mask) (q : Squad) (o : Outstanding) (r : Fin 112), s.input = .resultWriteback x slot n m →
    s.squad? x slot = some q → q.outstanding[n]? = some o → o.uniform = false → o.width = 1 → o.dst = .v r →
      ∃ t u, exec .resultWriteback s = .next t ∧ t.squad? x slot = some u ∧ { t with tiles := s.tiles } = s ∧
        (∀ j ∈ lanesOf (o.lanes &&& m), laneVal u o.dst j = (RegVal.general o.lo).lane j) ∧
        (∀ k : Fin 112, k ≠ r → u.reg k.val = q.reg k.val) ∧
        { u with regs := q.regs, outstanding := q.outstanding } = q ∧
        u.outstanding = (if o.lanes &&& ~~~m = 0 then q.outstanding.eraseIdx n
          else q.outstanding.set n { o with lanes := o.lanes &&& ~~~m })) ∧
  (∀ (s : State) (x slot n : Nat) (m : Mask) (q : Squad) (o : Outstanding) (r p : Fin 112), s.input = .resultWriteback x slot n m →
    s.squad? x slot = some q → q.outstanding[n]? = some o → o.uniform = false → o.width = 2 → o.dst = .v r → p.val = r.val + 1 →
      ∃ t u, exec .resultWriteback s = .next t ∧ t.squad? x slot = some u ∧ { t with tiles := s.tiles } = s ∧
        (∀ j ∈ lanesOf (o.lanes &&& m), laneVal u (.v r) j = (RegVal.general o.lo).lane j ∧
          laneVal u (.v p) j = (RegVal.general o.hi).lane j) ∧
        (∀ k : Fin 112, k ≠ r → k ≠ p → u.reg k.val = q.reg k.val) ∧
        { u with regs := q.regs, outstanding := q.outstanding } = q) ∧
  (∀ (s : State) (x slot n : Nat) (m : Mask) (q : Squad) (o : Outstanding) (r : Fin 112), s.input = .resultWriteback x slot n m →
    s.squad? x slot = some q → q.outstanding[n]? = some o → o.uniform = true → o.width = 1 → o.dst = .v r →
      ∃ t u, exec .resultWriteback s = .next t ∧ t.squad? x slot = some u ∧ { t with tiles := s.tiles } = s ∧
        u.reg r.val = .uniform ((RegVal.general o.lo).lane 0) ∧ (∀ k : Fin 112, k ≠ r → u.reg k.val = q.reg k.val) ∧
        { u with regs := q.regs } = { q with outstanding := q.outstanding.eraseIdx n }) ∧
  (∀ (s : State) (x slot : Nat) (q : Squad), s.input = .sleepTimer x slot → s.squad? x slot = some q →
    ∃ (t : State) (gs : List Group), exec .sleepTimer s = .next t ∧ t.squad? x slot = some { q with groups := gs } ∧ { t with tiles := s.tiles } = s ∧
      gs.length = q.groups.length ∧ ∀ (i : Nat) (g : Group), q.groups[i]? = some g →
        (∀ a, g.blocked = some (.sleep a false) → a ≤ s.devclk.toNat →
          gs[i]? = some { g with blocked := some (.sleep a true) }) ∧
        ((∀ a, g.blocked = some (.sleep a false) → s.devclk.toNat < a) → gs[i]? = some g)) ∧
  (∀ (s : State) (x slot : Nat) (w : Workgroup) (q : Squad), s.input = .woundTrap x slot → (s.tile x).wg = some w →
    w.squad? slot = some q → q.wound = true → q.intrap = false → q.ended = false →
      (s.lockBusy (squadKey w q) = false → s.locate (squadKey w q) = some (x, slot) →
        ∃ t u, exec .woundTrap s = .next t ∧ t.squad? x slot = some u ∧ u = { q with wound := false } ∧
          (t.lockSquad (squadKey w q)).woundLeft = none) ∧
      (s.lockBusy (squadKey w q) = true → ∀ g pc, s.taker x w q = some g → q.group? g.pc = some g →
        handlerPc (s.launch? w.gang.launch) q 6 = some pc →
        ∃ t u h, exec .woundTrap s = .next t ∧ t.squad? x slot = some u ∧ u.intrap = true ∧ u.wound = false ∧
          u.handler = g.threads ∧ u.trap.num = 6 ∧ u.trap.pc = g.site ∧ u.trap.async = true ∧
          (g.threads ≠ 0 → h ∈ u.groups ∧ h.pc = pc ∧ g.threads &&& h.threads = g.threads)) ∧
      (s.lockBusy (squadKey w q) = true → Inv s → q.live ≠ 0 → s.locate (squadKey w q) = some (x, slot) →
        ∀ g, s.taker x w q = some g → q.group? g.pc = some g → handlerPc (s.launch? w.gang.launch) q 6 = none →
        ∃ t u h, exec .woundTrap s = .next t ∧ t.squad? x slot = some u ∧ u.intrap = false ∧ u.wound = false ∧ u.groups = [h] ∧
          h.threads = q.live ∧ h.pc = (if q.spanned then (q.span.map (·.pc)).getD q.entryPc else q.entryPc) ∧
          h.blocked = none ∧ h.hints = none ∧ u.outstanding = [] ∧ (∀ n, (u.ocSlot n).valid = 0) ∧ (∀ n, (u.latch n).valid = 0) ∧
          t.lockBusy (squadKey w q) = false ∧ (t.lockSquad (squadKey w q)).wounded = true ∧
          (t.lockSquad (squadKey w q)).age = (s.lockSquad (squadKey w q)).age)) ∧
  (∀ (s : State) (x slot : Nat) (w : Workgroup) (q : Squad) (g : Group) (e : EngineTrap) (pc : DWord),
    s.input = .asyncTrapEntry x slot → (s.tile x).wg = some w → w.squad? slot = some q → q.wound = false →
    q.intrap = false → s.taker x w q = some g → q.group? g.pc = some g →
    (q.engine = some e ∨ (q.engine = none ∧ q.late = some e)) → e.number < 256 →
    handlerPc (s.launch? w.gang.launch) q e.number = some pc →
      ∃ t u h, exec .asyncTrapEntry s = .next t ∧ t.squad? x slot = some u ∧ u.intrap = true ∧ u.handler = g.threads ∧
        u.engine = none ∧ u.trap = ⟨g.site, BitVec.ofNat 8 e.number, true, false, false, e.detail, e.address, e.seq, 0, e.site⟩ ∧
        (g.threads ≠ 0 → h ∈ u.groups ∧ h.pc = pc ∧ g.threads &&& h.threads = g.threads)) ∧
  (∀ (s : State) (k : SquadKey) (e : EngineTrap) (x slot : Nat) (w : Workgroup) (q : Squad),
    s.input = .engineTrapArrival k e → s.locate k = some (x, slot) → (s.tile x).wg = some w → w.squad? slot = some q →
      s.goesOn w.gang.launch = true →
      (q.engine = none → q.ended = false →
        exec .engineTrapArrival s = .next (s.updSquad x slot fun q => { q with engine := some e })) ∧
      (∀ h, q.engine = some h → exec .engineTrapArrival s = .next (s.updSquad x slot fun q =>
        { q with engine := some { h with detail := h.detail ||| 0x80000000#32 } }))) ∧
  (∀ (s : State) (k : SquadKey) (e : EngineTrap), s.input = .engineTrapArrival k e → s.locate k = none → e.seq ≠ 0 →
    s.faultWard (((s.launch? k.gang.launch).map (·.ward)).getD 0) = none →
      ∃ t, exec .engineTrapArrival s = .next t ∧ ∃ r ∈ t.eventLog, r.num = e.number ∧ r.src = 1 ∧ r.squad = k.squad ∧
        r.cmdSeq = e.seq ∧ r.pc = e.site ∧ r.detail = e.detail ∧ r.addr = e.address ∧ r.time = s.devclk ∧
        (s.goesOn k.gang.launch = false ∨ s.launch? k.gang.launch = none → r.abort = true)) ∧
  (∀ (s : State) (x : Nat) (w : Workgroup) (q : Squad) (g : Group), s.input = .poolEntryReclaim x → (s.tile x).wg = some w →
    s.yielder x w = some (q, g) →
      ∃ t u, exec .poolEntryReclaim s = .next t ∧ t.squad? x q.slot = some u ∧ { t with tiles := s.tiles } = s ∧
        (g.site ≠ g.pc → ∀ h ∈ u.groups, h.pc ≠ g.pc) ∧
        ∀ j ∈ lanesOf g.threads, ∃ h ∈ u.groups, h.threads.getLsbD j = true ∧ h.pc = g.site) ∧
  (∀ (s : State) (x slot t0 : Nat), s.input = .skewHoldTimeout x → (s.tile x).skew = some (slot, t0) →
    t0 + 2048 ≤ s.coreCycles →
      exec .skewHoldTimeout s = .next (s.updTile x fun tl => { tl with
        skew := none, wg := tl.wg.map fun w => { w with skewQuiet := s.coreCycles + 2048 } }))

/-- R162-R166, R19, R47, R79: a walk that is made again ends or waits on, and one that the fabric does not carry ends. One that is not
resolved in 10^9 ticks is abandoned: its jobs stop with PAGE and bit 1 of DETAIL clear, and a squad that waits for its page takes the
fault as a trap at its instruction; which of its groups takes it is the model's inference (LOG 44). A probe of a
peer's L1, where the requester's missed, fills it; that it also leaves an entry in the predictor is the model's choice (LOG 75). -/
def Obligations.WalkEvents : Prop :=
  (∀ (s : State) (n : Nat) (k : Walk), s.input = .pageWalkDone n → s.walks[n]? = some k → k.retry = true →
    let o := s.walkFor k.record.tile k.tenant k.mode k.va
    let e := o.1
    memoryAs s e ∧
    (s.hostBias = [] → o = (s, if s.walkCarried k.record.tile k.tenant k.va then s.walk k.tenant k.mode k.va
      else .error ⟨Trap.fabricLoss, 0, k.va, none⟩)) ∧
    (∀ p, o.2 = .ok p → ∃ t, exec .pageWalkDone s = .next t ∧ t.walks = s.walks.erase k ∧
      (∃ y ∈ (t.tile k.record.tile).tlb, y.tenant = k.tenant ∧ y.va = p.va ∧ y.pa = p.pa) ∧ t.mem = e.mem) ∧
    (∀ f, o.2 = .error f → f.replay = none → exec .pageWalkDone s = .next { e with walks := s.walks.erase k }) ∧
    (∀ f, o.2 = .error f → f.replay = some k.level →
      exec .pageWalkDone s = .next { e with walks := s.walks.erase k ++ [{ k with retry := false }] }) ∧
    (∀ f v, o.2 = .error f → f.replay = some v → v ≠ k.level →
      ∃ t r, exec .pageWalkDone s = .next t ∧ t.faults = e.faults ++ [r] ∧ r.detail = BitVec.ofNat 32 f.detail ∧
        { t with faults := e.faults, walks := e.walks } = e)) ∧
  (∀ (s : State) (n : Nat) (k : Walk), s.input = .replayableFaultTimeout n → s.walks[n]? = some k →
    k.raised + 10 ^ 9 ≤ s.devclk.toNat →
    let mine (w : Workgroup) : Prop := (s.launch? w.gang.launch).map (·.tenant) = some k.tenant
    let waits (x : Nat) (q : Squad) : Prop := (∃ w, (s.tile x).wg = some w ∧ mine w ∧ q ∈ w.squads) ∧
      ∃ g ∈ q.groups, ∃ r, g.blocked = some (.page (k.va / 4096) r)
    let stops (w0 w : Workgroup) : Prop := w.jobs = w0.jobs.map fun j => if j.stage = .paused (k.va / 4096)
      then { j with stage := .faulted Trap.page (k.record.detail.toNat - 2) k.va } else j
    ((∀ x q, ¬ waits x q) → ∃ t, exec .replayableFaultTimeout s = .next t ∧ { t with walks := s.walks, tiles := s.tiles } = s ∧
      t.walks = s.walks.erase k ∧ ∀ x w, (t.tile x).wg = some w → mine w → ∃ w0, (s.tile x).wg = some w0 ∧ stops w0 w ∧
        { w with jobs := w0.jobs } = w0) ∧
    (∀ x w q g r pc, (s.tile x).wg = some w → mine w → w.squad? q.slot = some q → q.stopped = false →
      (∀ y p, waits y p → y = x ∧ p.slot = q.slot) →
      (q.groups.findSome? fun h => if q.runs h then (h.pageTrap (k.va / 4096)).map fun r => (h, r) else none) = some (g, r) →
      q.group? g.pc = some g → handlerPc (s.launch? w.gang.launch) q r.num.toNat = some pc →
        ∃ t w1 u h, exec .replayableFaultTimeout s = .next t ∧ t.walks = s.walks.erase k ∧ (t.tile x).wg = some w1 ∧ stops w w1 ∧
          w1.squad? q.slot = some u ∧ u.intrap = true ∧ u.handler = g.threads ∧ u.trap = r ∧
          (g.threads ≠ 0 → h ∈ u.groups ∧ h.pc = pc ∧ g.threads &&& h.threads = g.threads))) ∧
  (∀ (s : State) (x a peer : Nat) (kseg : Bool) (w : Workgroup), s.input = .peerProbe x a peer kseg → (s.tile x).wg = some w →
    ((s.l1Copy x (s.tenantOf w) a kseg).isSome = true → exec .peerProbe s = .next s) ∧
    (s.l1Copy x (s.tenantOf w) a kseg = none →
      ∃ t, exec .peerProbe s = .next t ∧ memoryAs s t ∧
        ∀ l, s.peerLine peer (s.tenantOf w) (a / 128) = some l → t.mem = s.mem ∧
          (∃ y ∈ (t.tile x).l1, y.line = a / 128 ∧ y.bytes = l.bytes ∧ y.tenant = s.tenantOf w ∧ y.kseg = kseg) ∧
          (a / 128, peer) ∈ (t.tile x).predictor))

/-! ## The wafer cache -/

/-- R167, R170-R177, R209, R383: an access at its anchor is performed or held; an evaluation halves the counts, and replicates,
splits or moves, and two siblings without change merge into one; and the moves and replicas of regions, with the STATE that they
leave. The model's choices: the halves of a split have their counts halved once (LOG 23); a pinned or streaming entry keeps its STATE
when a move or a collapse ends (LOG 24); the replicas of a region that moves (LOG 74); the order of held requests (LOG 86); and a
modified line that leaves its set, while its bank does not reach its home, is lost (LOG 111). -/
def Obligations.RegionEvents : Prop :=
  (∀ (s : State) (a : Access), s.input = .anchorRequest a →
    let req : Held := ⟨a.address / 128, .access a⟩
    (∀ l, s.verdict a.tile a.address false = .wait l → ∃ t, exec .anchorRequest s = .next t ∧ { t with held := s.held } = s ∧
      ⟨l, .access a⟩ ∈ t.held) ∧
    (s.verdict a.tile a.address false = .ok → Inv s →
      (a.kind = .load → ∃ t, exec .anchorRequest s = .next t ∧ t.held = s.held.erase req ∧
        ∀ x, orLost s x (byteAt t x) (byteAt s x) ∨ byteAt t x = byteAt (gathered s [a.address / 128]) x) ∧
      ∀ bs, a.kind = .store bs → ∃ t, exec .anchorRequest s = .next t ∧ t.held = s.held.erase req ∧
        (∀ x, orLost s x (byteAt t x) (written (gathered s [a.address / 128]) (s.memKey a.address) bs x)) ∧
        (t.wcLine? (a.address / 128)).any (·.modified) = true ∧ a.address / 128 ∉ t.inError)) ∧
  (∀ (s : State) (k : RegionKey) (e : RegionEntry), s.input = .regionEvaluation k → s.regionOf? k = some e →
    e.evaluated + 2 ^ 16 ≤ s.fabricCycles → (∀ r ∈ s.regions, r.key ≠ k → r.quiet ≠ 15) → 2 * s.regions.length ≤ 32768 →
      let replicates : Prop := e.wlo = false ∧ e.whi = false ∧ (2 ≤ e.readers.length ∨ (e.rhint = true ∧ e.readers ≠ []))
      let splits : Prop := e.wlo ≠ e.whi ∧ 2 ≤ e.readers.length ∧ e.key.level < 9
      let fixed : Prop := e.state = .pinned ∨ e.state = .streaming ∨ e.hold = true
      let gets (q : Nat) : Prop := q ∈ e.readers ∧ q ≠ reticleOf e.loc ∧ (s.targetBank q e.loc).isSome = true
      let halved (r : RegionEntry) : Prop := r.key = k ∧ r.loc = e.loc ∧ r.cnt = e.cnt.map (· / 2) ∧ r.other = e.other / 2 ∧
        r.wlo = false ∧ r.whi = false
      ∃ t, exec .regionEvaluation s = .next t ∧ t.mem = s.mem ∧ t.tiles = s.tiles ∧
        (fixed → t.agenda = s.agenda ∧ ∃ r ∈ t.regions, halved r ∧ r.state = e.state ∧ r.hold = e.hold) ∧
        (¬fixed → replicates → e.rptr.length = 4 → (∀ q ∈ e.readers, q < 42) → t.agenda = s.agenda ∧
          ∃ r ∈ t.regions, halved r ∧ (∀ q, gets q → r.covers q = true) ∧ (∀ q, e.covers q = true → q < 42 → r.covers q = true) ∧
            ((∃ q, gets q ∧ e.covers q = false) → r.state = .replicated) ∧
            ((∀ q, gets q → e.covers q = true) → r.state = e.state)) ∧
        (¬fixed → ¬replicates → splits → t.agenda = s.agenda ∧ (∀ r ∈ t.regions, r.key ≠ k) ∧
          ∀ b, b = k.base ∨ b = k.base + k.size / 2 →
            (∃ l ∈ s.wc, (⟨b, k.level + 1⟩ : RegionKey).has (128 * l.line) = true) →
              ∃ r ∈ t.regions, r.key = ⟨b, k.level + 1⟩ ∧ r.state = e.state ∧ r.loc = e.loc ∧ r.rptr = e.rptr ∧
                r.coarse = e.coarse ∧ r.cnt = e.cnt.map (· / 2) ∧ r.other = e.other / 2 ∧ r.wlo = false ∧ r.whi = false) ∧
        (¬fixed → ¬replicates → ¬splits →
          (∀ b, s.moveTarget e = some b → t.agenda = s.agenda ++ [⟨.moveOrder, .moveOrder k⟩] ∧
            ∃ r ∈ t.regions, halved r ∧ r.state = e.state ∧ r.hold = true ∧ r.moveTo = some b) ∧
          (s.moveTarget e = none → t.agenda = s.agenda ∧ ∃ r ∈ t.regions, halved r ∧ r.state = e.state ∧ r.hold = false))) ∧
  (∀ (s : State) (k : RegionKey) (e o : RegionEntry), s.input = .regionEvaluation k → s.regionOf? k = some e →
    e.evaluated + 2 ^ 16 ≤ s.fabricCycles → s.evaluate e = s.setRegion (e.endEval false s.fabricCycles) →
    (s.regions.map (·.key)).Nodup → 14 ≤ e.quiet → o ∈ s.regions → o.quiet = 15 → e.hold = false → o.hold = false →
    k.level ≠ 0 → o.key.level = k.level → o.key.base ≠ k.base → o.key.base / (2 * k.size) = k.base / (2 * k.size) →
    (∀ r ∈ s.regions, r.key.level = k.level → r.key.base / (2 * k.size) = k.base / (2 * k.size) → r = e ∨ r = o) →
    o.state = e.state → o.loc = e.loc → o.rptr = e.rptr → o.coarse = e.coarse → o.rhint = e.rhint → o.owner = e.owner →
      let counter (d : RegionEntry) (q : Nat) : Nat := match (List.range 4).find? fun i => d.cret.getD i 63 = q with
        | some i => d.cnt.getD i 0
        | none => 0
      let counted (q : Nat) : Prop := q ≠ 63 ∧ (q ∈ e.cret ∨ q ∈ o.cret)
      let sum (q : Nat) : Nat := min 4095 (counter e q / 2 + counter o q)
      ∃ t m, exec .regionEvaluation s = .next t ∧ { t with regions := s.regions } = s ∧
        (∀ r, r ∈ t.regions ↔ r = m ∨ (r ∈ s.regions ∧ r.key ≠ k ∧ r.key ≠ o.key)) ∧
        m.key = ⟨min k.base o.key.base, k.level - 1⟩ ∧ m.state = e.state ∧ m.loc = e.loc ∧ m.rptr = e.rptr ∧
        m.coarse = e.coarse ∧ m.rhint = e.rhint ∧ m.owner = e.owner ∧ m.hold = false ∧
        (∀ i, i < 4 → m.cret.getD i 63 ≠ 63 → m.cnt.getD i 0 = sum (m.cret.getD i 63)) ∧
        (∀ q, counted q → q ∈ m.cret ∨ ∀ i, i < 4 → sum q ≤ m.cnt.getD i 0) ∧
        ((∀ q, counted q → q ∈ m.cret) → m.other = min 4095 (e.other / 2 + o.other))) ∧
  (∀ (s : State) (k : RegionKey) (e : RegionEntry) (b : Nat), s.input = .moveOrder k → e ∈ s.regions → e.key = k → 0 < k.size →
    e.moveTo = some b →
      exec .moveOrder s = .next { s with agenda := s.agenda ++ [⟨.migrationTransfer, .migrationTransfer k⟩] }) ∧
  (∀ (s : State) (k : RegionKey) (e : RegionEntry) (b : Nat), s.input = .migrationTransfer k → e ∈ s.regions → e.key = k →
    0 < k.size → e.moveTo = some b →
      exec .migrationTransfer s = .next { s with agenda := s.agenda ++ [⟨.moveAck, .moveAck k⟩] }) ∧
  (∀ (s : State) (k : RegionKey), s.input = .moveAck k →
    ∃ t, exec .moveAck s = .next t ∧ t.held = s.held ∧
      (∀ a, byteAt t a = byteAt s a ∨
        (byteAt t a = 0 ∧ ∃ l ∈ t.inError, s.memKey (128 * l) ≤ a ∧ a < s.memKey (128 * l) + 128)) ∧
      (∀ r ∈ t.regions, ∃ e ∈ s.regions, r.key = e.key ∧ (e.key.meets k = false → r = e) ∧
        ∀ b, e.key.meets k = true → e.moveTo = some b →
          r.loc = b ∧ r.moveTo = none ∧ r.moved = s.fabricCycles ∧ r.hold = decide (e.acks ≠ []) ∧
          r.state = (if e.state = .pinned ∨ e.state = .streaming then e.state
            else if b = s.anchor e.key.base then .resident else .migrated)) ∧
      (s.wc.length + s.replicas.length ≤ 16 → { t with regions := s.regions } = s ∧
        ∀ e ∈ s.regions, (∃ l, e.key.has (128 * l) = true ∧ ((∃ x ∈ s.wc, x.line = l) ∨ l ∈ s.inError)) →
          e.key ∈ t.regions.map (·.key))) ∧
  (∀ (s : State) (k : RegionKey) (r : Nat), s.input = .replicaInvalidate k r →
    exec .replicaInvalidate s = .next { s with
      replicas := s.replicas.filter fun x => !(x.reticle = r && k.has (128 * x.line))
      agenda := s.agenda ++ [⟨.invalidationAck, .invalidationAck k r⟩] }) ∧
  (∀ (s : State) (k : RegionKey) (r : Nat), s.input = .invalidationAck k r →
    ∃ t, exec .invalidationAck s = .next t ∧ { t with regions := s.regions, tiles := s.tiles } = s ∧
      ∀ (i : Nat) (e : RegionEntry), s.regions[i]? = some e → ∃ d : RegionEntry, t.regions[i]? = some d ∧
        (e.key.meets k = false ∨ r ∉ e.acks → d = e) ∧
        (e.key.meets k = true → r ∈ e.acks → d.acks = e.acks.filter (fun q => q ≠ r) ∧
          (d.acks = [] → d.rptr = [63, 63, 63, 63] ∧ d.coarse = 0 ∧ d.hold = e.moveTo.isSome ∧
            d.state = (if e.state = .pinned ∨ e.state = .streaming then e.state
              else if e.loc = s.anchor e.key.base then .resident else .migrated)))) ∧
  (∀ (s : State) (k : RegionKey) (r line : Nat) (e : RegionEntry), s.input = .replicaFillArrival k r line →
    s.region? (128 * line) = some e →
    (e.state = .replicated → e.hold = false → e.covers r = true → s.lineBad (128 * line) = false →
      s.inHostBias (128 * line) = false →
        ∃ t x, exec .replicaFillArrival s = .next t ∧ x ∈ t.replicas ∧ x.reticle = r ∧ x.line = line ∧
          x.bytes = s.peekN (s.memKey (128 * line)) 128 ∧ (∀ a, orLost s a (byteAt t a) (byteAt s a)) ∧
          (s.wc.length + s.replicas.length < 16 → { t with replicas := s.replicas, useCtr := s.useCtr } = s)) ∧
    (e.state ≠ .replicated ∨ e.hold = true ∨ e.covers r = false ∨ s.lineBad (128 * line) = true ∨
      s.inHostBias (128 * line) = true → exec .replicaFillArrival s = .next s))

/-! ## Engines -/

/-- R164, R205, R335, R341, R345-R352: a copy job starts with the writes of its plan, lands them in order and counts their bytes,
completes with its event record, or stops with an engine trap; what PLANE and SELECT compute. The model's choices: all of a job's
reads come before its writes (LOG 72); a block that the job has read is answered from what it keeps of it and is not read again,
whatever the job's type (LOG 77; R348 says it of MCAST's lines); the copies of an MCAST job land once they have come (LOG 112). -/
def Obligations.JobEvents : Prop :=
  (∀ (s e : State) (x id : Nat) (w : Workgroup) (j : Job) (c : BitVec 1024), s.input = .jobStart x id →
    s.job? x id = some (w, j) → j.kind = .copy c → s.mayStart w j = true →
    (∀ ws, (⟨x, w, j, s.tenantOf w⟩ : JobCtx).plan s c = (e, .ok ws) →
      ∃ t u, exec .jobStart s = .next t ∧ t.job? x id = some (u, { j with stage := .started, writes := ws, read := [], fills := [] }) ∧
        t.mem = e.mem) ∧
    (∀ f p, (⟨x, w, j, s.tenantOf w⟩ : JobCtx).plan s c = (e, .fault f p) → f.replay = none →
      ∃ t u r g, exec .jobStart s = .next t ∧
        t.job? x id = some (u, { j with stage := .faulted f.num f.detail f.addr, read := r, fills := g }))) ∧
  (∀ (s : State) (k : JobCtx) (w : Workgroup) (j : Job) (sp : Nat) (e : Int) (bs : List Byte),
    s.job? k.tile k.job.id = some (w, j) →
    (j.read.find? fun x => x.1 = sp ∧ x.2.1 = engineStart k.job.segs sp e / (if 2 ≤ sp then 64 else 128)) =
      some (sp, engineStart k.job.segs sp e / (if 2 ≤ sp then 64 else 128), bs) →
      k.block s sp e = (s, .ok bs)) ∧
  (∀ (s e : State) (x id : Nat) (w : Workgroup) (j : Job) (i : Instr) (y : JobWrite) (r : List JobWrite),
    ((i = .jobWriteLand ∧ s.input = .jobWriteLand x id ∧ ∃ c, j.kind = .copy c) ∨
      (i = .collectiveChunkLand ∧ s.input = .collectiveChunkLand x id ∧ ∃ c, j.kind = .collective c)) →
    s.job? x id = some (w, j) → j.stage = .started → j.writes = y :: r → y.copy = none → y.bytes ≠ [] →
    s.engineWrite (s.writeSource x w y) w j.segs (s.tenantOf w) y.space j.swz y.member y.offset y.bytes = (e, .ok []) →
      exec i s = .next (((match e.cardBarrier w j.card y.member with
        | some k => if y.count = 0 then e else e.setBarrier k ((e.barrier k).land y.count)
        | none => e).unholdJob x id).updJob x id fun _ => { j with writes := r, stage := .started })) ∧
  (∀ (s : State) (x id : Nat) (w : Workgroup) (j : Job) (c : BitVec 1024), s.input = .jobComplete x id → Inv s →
    s.job? x id = some (w, j) → j.stage = .started → j.writes = [] → j.kind = .copy c →
      ∃ t u, exec .jobComplete s = .next t ∧ (t.tile x).wg = some u ∧ t.job? x id = none ∧
        (cardEvt c = false → { t with tiles := s.tiles } = s ∧ u.q3 = w.q3) ∧
        (cardEvt c = true → w.q3.count < 64 → w.q3.bind = none →
          u.q3 = { w.q3 with count := w.q3.count + 1, lost := 0, phase := w.q3.phase + 1 } ∧
          ∀ a, byteAt t a = written s (spadKey x (0x200 + 8 * ((w.q3.head + w.q3.count) % 64)))
            (leBytes 8 (cardCode c % 2 ^ 16 + 2 ^ 16 * j.slot + 2 ^ 20 + 2 ^ 24 * w.q3.lost + 2 ^ 32 * j.seq.toNat)) a) ∧
        (cardEvt c = true → 64 ≤ w.q3.count → u.q3 = { w.q3 with lost := min 255 (w.q3.lost + 1) })) ∧
  (∀ (s : State) (x id : Nat) (w : Workgroup) (j : Job) (c : BitVec 1024), s.input = .jobComplete x id →
    s.job? x id = some (w, j) → j.stage = .started → j.writes = [] → j.kind = .collective c → s.reducedJob x id = true →
      ∃ t, exec .jobComplete s = .next t ∧ t.job? x id = none ∧
        ∀ e ∈ t.junctions, ∀ m ∈ e.2.members, ¬ (m.tile = x ∧ m.job = id)) ∧
  (∀ (s : State) (x id num detail addr : Nat) (w : Workgroup) (j : Job), s.input = .jobStop x id →
    s.job? x id = some (w, j) → j.stage = .faulted num detail addr →
      ∃ t, exec .jobStop s = .next t ∧ t.job? x id = none ∧ t.mem = s.mem ∧
        t.agenda = s.agenda ++ [⟨.engineTrapArrival, .engineTrapArrival ⟨w.gang, w.member, j.slot⟩
          ⟨num, BitVec.ofNat 32 detail, BitVec.ofNat 64 addr, j.site, j.seq⟩⟩]) ∧
  (∀ (s : State) (x id n : Nat) (w : Workgroup) (j : Job) (c : MatrixCmd), s.input = .followOnIssue x id →
    (s.tile x).wg = some w → w.nextCommand = some (j, c, some n) → j.id = id → (∀ k ∈ w.jobs, k.id ≠ n) →
      ∃ t u, exec .followOnIssue s = .next t ∧ (t.tile x).wg = some u ∧
        u.nextCommand = some ({ j with kind := .matrix c none }, c, none)) ∧
  (∀ (bs : List Byte) (k i : Nat), bs.length = 128 → k < 32 → i < 32 →
    (leValue (((planeBytes bs).drop (4 * k)).take 4)).testBit i = (leValue ((bs.drop (4 * i)).take 4)).testBit k) ∧
  (∀ (aux : Nat) (keys : List Nat),
    let rs := selectRanks aux keys
    let key (n : Nat) : Int := selectKey (aux.testBit 13) (keys.getD n 0)
    rs.length = min (aux % 2 ^ 13) keys.length ∧ (∀ r ∈ rs, r < keys.length) ∧
    ∀ i k, i < k → k < rs.length →
      (if aux.testBit 14 then key (rs.getD i 0) < key (rs.getD k 0) else key (rs.getD k 0) < key (rs.getD i 0)) ∨
        (key (rs.getD i 0) = key (rs.getD k 0) ∧ rs.getD i 0 < rs.getD k 0))

/-- R229, R232, R235, R236, R357-R364: the array acts on its next command, by the state table of its accumulator tile: a block is
checked in order and latched; a stream uses the block in force if it is its chain's, under the chain's code, and else latches that
block again; rows past the end change nothing, the block in force included; a stream adds its rows, a drain writes the tile that it has
checked; and the sums of a stream arrive with its checksums. -/
def Obligations.MatrixEvents : Prop :=
  (∀ (s e : State) (x : Nat) (w : Workgroup) (j : Job) (c : MatrixCmd) (r : Option MatrixFault), s.input = .matrixCommandAct x →
    (s.tile x).wg = some w → w.mayAct = some (j, c) → s.matrixAct x w c = (e, r) →
      ∃ t, exec .matrixCommandAct s = .next t ∧ t.mem = e.mem ∧ t.job? x j.id = none ∧
        (r = none → t.agenda = e.agenda) ∧
        ∀ f, r = some f → t.agenda = e.agenda ++ [⟨.engineTrapArrival, .engineTrapArrival ⟨w.gang, w.member, j.slot⟩
          ⟨f.num, BitVec.ofNat 32 f.detail, BitVec.ofNat 64 f.addr, j.site, j.seq⟩⟩]) ∧
  (∀ (s : State) (x : Nat) (w : Workgroup) (c : MatrixCmd),
    let a := w.acc c.tile
    let put (b : AccTile) : State × Option MatrixFault := (s.setAcc x c.tile b, none)
    let fail (n : Nat) : State × Option MatrixFault := (s, some (matrixFault n 0))
    (c.op = .config → s.matrixAct x w c = put AccTile.idle) ∧
    (c.op = .release → s.matrixAct x w c = put AccTile.empty) ∧
    (c.op ≠ .config → c.op ≠ .release → a.st = .uncfg → s.matrixAct x w c = fail MatrixCode.notcfg) ∧
    (a.st = .idle → c.op = .loadWeights ∨ c.op = .stream ∨ c.op = .closeChain → s.matrixAct x w c = fail MatrixCode.nochain) ∧
    (c.op = .stream → a.st = .openChain → s.matrixAct x w c = fail MatrixCode.nowt) ∧
    (a.st = .openChain ∨ a.st = .loaded →
      (c.op = .openChain → s.matrixAct x w c = fail MatrixCode.opened) ∧
      (c.op = .closeChain → s.matrixAct x w c = put { a with st := .idle })) ∧
    (c.op = .openChain → a.st = .idle → -1024 ≤ c.av.toInt → c.av.toInt ≤ 1023 → c.bv.toNat % 256 < 6 →
      s.matrixAct x w c = put { a with st := .openChain, anchor := c.av.toInt, format := c.bv.setWidth 8 }) ∧
    (c.op = .openChain → a.st = .idle → c.av.toInt < -1024 ∨ 1023 < c.av.toInt →
      s.matrixAct x w c = fail MatrixCode.anchor) ∧
    (c.op = .openChain → a.st = .idle → -1024 ≤ c.av.toInt → c.av.toInt ≤ 1023 → 6 ≤ c.bv.toNat % 256 →
      s.matrixAct x w c = fail MatrixCode.fmt) ∧
    (c.op = .zero → a.st ≠ .uncfg → s.matrixAct x w c = put { a with a := [], cr := [], cc := [] }) ∧
    (c.op = .drain → a.st ≠ .uncfg →
      (bitsOf c.bv.toNat 12 7 = 0 ∨ 32 < bitsOf c.bv.toNat 12 7 ∨ 32 < bitsOf c.bv.toNat 6 2 + bitsOf c.bv.toNat 12 7) →
        s.matrixAct x w c = fail MatrixCode.geom) ∧
    (c.op = .stream → a.st = .loaded →
      (c.bv.toNat % 256 ≠ a.format.toNat → s.matrixAct x w c = fail MatrixCode.fmt) ∧
      (c.bv.toNat % 256 = a.format.toNat → (bitsOf c.bv.toNat 13 8 = 0 ∨ 32 < bitsOf c.bv.toNat 13 8 ∨
        32 < bitsOf c.bv.toNat 18 14 + bitsOf c.bv.toNat 13 8) → s.matrixAct x w c = fail MatrixCode.geom))) ∧
  (∀ (s : State) (w : Workgroup) (off : Nat) (format : BitVec 8),
    let head := s.ownBytes w off 32
    let n := leValue (head.take 2)
    let kb := (nth head 2).toNat
    let f := (nth head 3).toNat
    (6 ≤ f ∨ f ≠ format.toNat → s.readBlock w off format = .error (matrixFault MatrixCode.fmt 0)) ∧
    (f < 6 → f = format.toNat →
      (n = 0 ∨ 256 < n ∨ kb = 0 ∨ 8 < kb ∨ (∃ k, 4 ≤ k ∧ k < 32 ∧ nth head k ≠ 0) →
        s.readBlock w off format = .error (matrixFault MatrixCode.geom 0)) ∧
      ∀ bs, s.readBlock w off format = .ok bs → (∀ k, 4 ≤ k → k < 32 → nth head k = 0) ∧ 1 ≤ n ∧ n ≤ 256 ∧ 1 ≤ kb ∧ kb ≤ 8 ∧
        w.pastEnd off (blockShape head).size = false ∧ bs = s.ownBytes w off (blockShape head).size)) ∧
  (∀ (s : State) (x : Nat) (w : Workgroup) (c : MatrixCmd), (s.tile x).wg = some w → c.tile < w.accs.length →
    let a := w.acc c.tile
    let b := c.bv.toNat
    (c.op = .loadWeights → a.st = .openChain ∨ a.st = .loaded →
      (∀ f, s.readBlock w c.av.toNat a.format = .error f → s.matrixAct x w c = (s, some f)) ∧
      ∀ bs, s.readBlock w c.av.toNat a.format = .ok bs → ∃ t u, s.matrixAct x w c = (t, none) ∧ (t.tile x).wg = some u ∧
        u.latch = some ⟨c.av.toNat, bs, a.format⟩ ∧ u.acc c.tile = { a with st := .loaded, waddr := c.av.toNat } ∧
        (∀ k, k ≠ c.tile → u.acc k = w.acc k) ∧ { t with tiles := s.tiles } = s) ∧
    (c.op = .stream → a.st = .loaded → b % 256 = a.format.toNat → 1 ≤ bitsOf b 13 8 → bitsOf b 13 8 ≤ 32 →
      bitsOf b 18 14 + bitsOf b 13 8 ≤ 32 → ∀ l, w.latch = some l → l.offset = a.waddr → l.format = a.format →
      let shape := blockShape l.bytes
      let rows := s.ownBytes w c.av.toNat (bitsOf b 13 8 * shape.rb)
      w.pastEnd c.av.toNat (bitsOf b 13 8 * shape.rb) = false →
      (∀ i, i < bitsOf b 13 8 → (streamRow shape rows i).badScale = false ∧ (streamRow shape rows i).badValue = false) →
        ∃ t u, s.matrixAct x w c = (t, none) ∧ (t.tile x).wg = some u ∧ { t with tiles := s.tiles } = s ∧
          { u.acc c.tile with sums := a.sums } = a ∧ (∀ k, k ≠ c.tile → u.acc k = w.acc k) ∧
          ∀ e, (tabFind e (u.acc c.tile).sums).getD 0 = (tabFind e a.sums).getD 0 +
            ((List.range (bitsOf b 13 8)).flatMap fun i =>
              ((List.range shape.n).filter fun j => 256 * (bitsOf b 18 14 + i) + j = e).map fun j =>
                contribution a.anchor (streamRow shape rows i) (column shape l.bytes j)).sum) ∧
    (c.op = .stream → a.st = .loaded → b % 256 = a.format.toNat → 1 ≤ bitsOf b 13 8 → bitsOf b 13 8 ≤ 32 →
      bitsOf b 18 14 + bitsOf b 13 8 ≤ 32 →
      (∀ f, s.latched w a = .error f → s.matrixAct x w c = (s, some f)) ∧
      ∀ l, s.latched w a = .ok l → w.pastEnd c.av.toNat (bitsOf b 13 8 * (blockShape l.bytes).rb) = true →
        s.matrixAct x w c = (s, some ⟨Trap.segment, 0, c.av.toNat⟩)) ∧
    ((∀ l, w.latch = some l → l.offset = a.waddr → l.format = a.format → s.latched w a = .ok l) ∧
      ((∀ l, w.latch = some l → l.offset ≠ a.waddr ∨ l.format ≠ a.format) → ∀ r, s.readBlock w a.waddr a.format = r →
        (∀ bs, r = .ok bs → s.latched w a = .ok ⟨a.waddr, bs, a.format⟩) ∧ ∀ f, r = .error f → s.latched w a = .error f)) ∧
    (c.op = .drain → a.st ≠ .uncfg → 1 ≤ bitsOf b 12 7 → bitsOf b 12 7 ≤ 32 → bitsOf b 6 2 + bitsOf b 12 7 ≤ 32 →
      w.pastEnd c.av.toNat (bitsOf b 12 7 * 256 * drainSize (b % 4)) = false →
      (bitOf b 14 = false ∨ (s.drainObject w b).isSome = true) → Inv s →
      (a.check = none → ∃ t, s.matrixAct x w c = (t, some ⟨Trap.accsum, 0, 0⟩) ∧ { t with tiles := s.tiles } = s ∧
        (t.tile x).accFail = min 255 ((s.tile x).accFail + 1) ∧ (t.tile x).wg = some w) ∧
      ∀ d corrected, a.check = some (d, corrected) → ∃ t e, s.matrixAct x w c = (t, none) ∧
        (∀ y, byteAt e y = written s (s.gangKeyAt w c.av.toNat) ((List.range (256 * bitsOf b 12 7)).flatMap fun k =>
          drainElement (b % 4) d.anchor ((tabFind (256 * bitsOf b 6 2 + k) d.a).getD 0)) y) ∧
        t = (if bitOf b 14 then e.countBytes (s.gangKeyAt w (w.member * w.spad + 32 * (b / 2 ^ 15)))
          (bitsOf b 12 7 * 256 * drainSize (b % 4)) else e) ∧
        (corrected = false → { e with mem := s.mem } = s) ∧
        (corrected = true → { e with mem := s.mem, tiles := s.tiles } = s ∧
          (e.tile x).accCorr = min 0xFFFFFF ((s.tile x).accCorr + 1) ∧ ((e.tile x).wg.map fun u => u.acc c.tile) = some d))) ∧
  (∀ (s : State) (x k : Nat) (w : Workgroup), s.input = .mxstSumsArrive x → (s.tile x).wg = some w →
    k < 8 → (w.acc k).sums ≠ [] → (∀ i, i < k → (w.acc i).sums = []) →
      ∃ t u, exec .mxstSumsArrive s = .next t ∧ (t.tile x).wg = some u ∧ (u.acc k).sums = [] ∧
        { t with tiles := s.tiles } = s ∧
        (∀ e, (tabFind e (u.acc k).a).getD 0 = (tabFind e (w.acc k).a).getD 0
          + (((w.acc k).sums.filter fun y => y.1 = e).map (·.2)).sum) ∧
        (∀ e, (tabFind e (u.acc k).cr).getD 0 = (tabFind e (w.acc k).cr).getD 0
          + (((w.acc k).sums.filter fun y => y.1 % 256 = e).map (·.2)).sum) ∧
        (∀ e, (tabFind e (u.acc k).cc).getD 0 = (tabFind e (w.acc k).cc).getD 0
          + (((w.acc k).sums.filter fun y => y.1 / 256 = e).map (·.2)).sum))

/-- R85, R353-R356: a job claims a free entry, joins a group that its card matches, or meets a mismatch in any claimed field, or
waits; a group that loses a member fails; what peers bring; and a complete group gives every member the whole result in chunks. The model's choices: a
member's contribution is read when it joins (LOG 72); the form of a peer's chunk (LOG 34); a tree that is not seen (LOG 73). -/
def Obligations.CollectiveEvents : Prop :=
  (∀ (s : State) (x id : Nat) (w : Workgroup) (j : Job) (c : BitVec 1024), s.input = .collectiveJoin x id →
    s.job? x id = some (w, j) → j.kind = .collective c → s.mayStart w j = true →
    let key := BitVec.ofNat 64 (cardField c 0x08 63 0)
    let agrees (g : Junction) : Prop := g.op = cardField c 0 3 0 ∧ g.len = collLen c ∧ g.chunk = collChunk c ∧
      g.nlocal = collLocal c ∧ g.npeer = collPeers c ∧ g.peers = BitVec.ofNat 64 (collPeerSet c)
    (tabFind (collEntry c) s.junctions = none →
      ∀ e bs, (⟨x, w, j, s.tenantOf w⟩ : JobCtx).read s (collSsp c) (cardField c 0x20 63 0 : Int) (collLen c) = (e, .ok bs) →
        ∃ t g, exec .collectiveJoin s = .next t ∧ tabFind (collEntry c) t.junctions = some g ∧ g.tenant = s.tenantOf w ∧
          g.key = key ∧ agrees g ∧ g.members = [⟨collRank c, x, id, bs⟩] ∧ t.mem = e.mem ∧
          (t.job? x id).map (·.2.stage) = some .started ∧
          ∀ y, y ∈ g.contributions ↔ y ∈ s.peerHeld ∧ y.tenant = s.tenantOf w ∧ y.key = key ∧ g.peers.getLsbD y.peer = true) ∧
    (∀ d, tabFind (collEntry c) s.junctions = some d → d.tenant = s.tenantOf w → d.key = key → d.reduced = false → agrees d →
      (∀ m ∈ d.members, m.rank ≠ collRank c) →
      ∀ e bs, (⟨x, w, j, s.tenantOf w⟩ : JobCtx).read s (collSsp c) (cardField c 0x20 63 0 : Int) (collLen c) = (e, .ok bs) →
        ∃ t g, exec .collectiveJoin s = .next t ∧ tabFind (collEntry c) t.junctions = some g ∧
          g.members = d.members ++ [⟨collRank c, x, id, bs⟩] ∧ { g with members := d.members, reduced := false } = d ∧
          t.mem = e.mem ∧ (t.job? x id).map (·.2.stage) = some .started) ∧
    (∀ g, tabFind (collEntry c) s.junctions = some g → (g.tenant ≠ s.tenantOf w ∨ g.key ≠ key) →
      exec .collectiveJoin s = .next (s.updJob x id fun j => { j with waitSince := some (j.waitSince.getD s.fabricCycles) })) ∧
    (∀ g, tabFind (collEntry c) s.junctions = some g → g.tenant = s.tenantOf w → g.key = key →
      (g.reduced = true ∨ ¬agrees g ∨ ∃ m ∈ g.members, m.rank = collRank c) →
        exec .collectiveJoin s = .next (s.updJob x id fun j => { j with stage := .faulted Trap.collective 2 0 }))) ∧
  (∀ (s : State) (x id t0 : Nat) (w : Workgroup) (j : Job), s.input = .collectiveJoinTimeout x id →
    s.job? x id = some (w, j) → j.stage = .queued → j.waitSince = some t0 → t0 + 2 ^ 20 ≤ s.fabricCycles →
      exec .collectiveJoinTimeout s = .next (s.updJob x id fun j => { j with stage := .faulted Trap.collective 1 0 })) ∧
  (∀ (s : State) (n : Nat) (g : Junction), s.input = .collectiveGroupFail n → tabFind n s.junctions = some g →
    (g.failed = true ∨ ∃ m ∈ g.members, s.job? m.tile m.job = none) →
      ∃ t, exec .collectiveGroupFail s = .next t ∧ tabFind n t.junctions = none ∧
        ∀ m ∈ g.members, ∀ w j, t.job? m.tile m.job = some (w, j) → j.stage = .faulted Trap.collective 3 0) ∧
  (∀ (s : State) (p : Nat → Bool) (n : Nat) (g : Junction), (s.junctions.map (·.1)).Nodup → tabFind n s.junctions = some g →
    (∃ m ∈ g.members, p m.tile = true) →
      ((∀ m ∈ g.members, p m.tile = true) → tabFind n (s.failGroups p).junctions = none) ∧
      ((∃ m ∈ g.members, p m.tile = false) → tabFind n (s.failGroups p).junctions =
        some { g with members := g.members.filter fun m => !p m.tile, failed := true })) ∧
  (∀ (s : State) (n : Nat), s.input = .collectiveTreeRebuild n →
    exec .collectiveTreeRebuild s = .next { s with
      junctions := tabUpd n (fun g => { g with rebuilds := g.rebuilds + 1 }) s.junctions }) ∧
  (∀ (s : State) (x : PeerChunk), s.input = .peerChunkArrival x →
    (s.peerUp x.peer = false → exec .peerChunkArrival s = .next s) ∧
    (s.peerUp x.peer = true → s.checkpoint ≠ none →
      exec .peerChunkArrival s = .next { s with peerRefused := s.peerRefused ++ [x] }) ∧
    (s.peerUp x.peer = true → s.checkpoint = none → s.groupOf x = none →
      exec .peerChunkArrival s = .next { s with peerHeld := s.peerHeld ++ [x] }) ∧
    (s.peerUp x.peer = true → s.checkpoint = none → ∀ n g, s.groupOf x = some (n, g) →
      ∃ t d, exec .peerChunkArrival s = .next t ∧ tabFind n t.junctions = some d ∧ x ∈ d.contributions)) ∧
  (∀ (s : State) (n : Nat) (g : Junction), tabFind n s.junctions = some g → g.reduced = false → g.failed = false →
    g.members.length = g.nlocal → g.peersIn = true →
      (tabFind n (s.reduceGroup n).junctions).map (·.reduced) = some true ∧
      ∀ m ∈ g.members, ∀ w j, (s.reduceGroup n).job? m.tile m.job = some (w, j) → j.writes = chunkWrites j.card g.result) ∧
  (∀ (c : BitVec 1024) (bs : List Byte), 0 < collChunk c → (chunkWrites c bs).flatMap (·.bytes) = bs)

/-- R339, R340: the oldest accepted message goes out before its count; OUTHEAD is read again; INTAIL is read, its messages
are taken, and a count of more than 16 drops the binding.
R377: the record of a sample is written to the next place of the ring while its port is up, and counted. -/
def Obligations.MessageAndSampleEvents : Prop :=
  ((∀ (s s1 s2 : State) (x : Nat) (w : Workgroup) (y : DWord) (ys : List DWord) (r1 r2 : List RegionKey),
     s.input = .hostMsgWrite x → (s.tile x).wg = some w → w.area.bound = true → w.q4.items = y :: ys →
     s.areaWrite x w (0x100 + 8 * (w.area.outTail.toNat % 16)) (leBytes 8 y.toNat) = (s1, .ok r1) →
     s1.areaWrite x w 0 (leBytes 4 (w.area.outTail + 1).toNat ++ List.replicate 60 0) = (s2, .ok r2) →
       exec .hostMsgWrite s = .next (s2.updWg x fun w =>
         { w with q4 := { w.q4 with items := w.q4.items.tail }, area := { w.area with outTail := w.area.outTail + 1 } })) ∧
   (∀ (s s1 : State) (x : Nat) (bs : List (Nat × Byte)) (w : Workgroup) (v : List Byte), s.input = .outheadReread x bs →
     (s.tile x).wg = some w → w.area.bound = true → w.outRoom = 0 → (s.windowStores bs).areaBytes x w 0x40 4 = (s1, .ok v) →
       exec .outheadReread s = .next (s1.updWg x fun w =>
         { w with area := { w.area with outHead := BitVec.ofNat 32 (leValue v) } })) ∧
   (∀ (s s1 : State) (x : Nat) (bs : List (Nat × Byte)) (w : Workgroup) (v : List Byte), s.input = .intailPoll x bs →
     (s.tile x).wg = some w → w.area.bound = true → (w.box 5).items.length < 16 →
     (s.windowStores bs).areaBytes x w 0x80 4 = (s1, .ok v) →
     let n := (BitVec.ofNat 32 (leValue v) - w.area.inHead).toNat
     (n = 0 → exec .intailPoll s = .next (s1.acquire x 6)) ∧
     (16 < n → ∃ t, exec .intailPoll s = .next t ∧ ∀ u, (t.tile x).wg = some u → u.area.bound = false ∧ u.q4.items = []) ∧
     (1 ≤ n → n ≤ 16 → exec .intailPoll s =
       .next ((State.takeMessages x (min n (16 - (w.box 5).items.length)) (s1.acquire x 6)).writeInHead x))) ∧
   (∀ (s s1 : State) (x : Nat) (w : Workgroup) (v : List Byte), (s.tile x).wg = some w → w.boxes.length = 9 →
     s.areaBytes x w (0x180 + 8 * (w.area.inHead.toNat % 16)) 8 = (s1, .ok v) →
       ∃ u, ((State.takeMessages x 1 s).tile x).wg = some u ∧ u.area.inHead = w.area.inHead + 1 ∧
         (u.box 5).items = (w.box 5).items ++ [BitVec.ofNat 64 (leValue v)] ∧ (u.box 5).phase = (w.box 5).phase + 1)) ∧
  (∀ (s : State) (x : Nat) (y : Issued), s.input = .sample x → (s.sampler.taken.find? fun z => z.tile = x) = some y → Inv s →
     let z := s.sampler
     ∃ t, exec .sample s = .next t ∧ t.sampler = { z with seq := (z.seq + 1) % 2 ^ 32, taken := z.taken.erase y } ∧
       { t with sampler := s.sampler, mem := s.mem, freeCtr := s.freeCtr } = s ∧
       (s.hostPort z.setting.port = false → t.mem = s.mem) ∧
       (s.hostPort z.setting.port = true → ∀ a, byteAt t a =
         written s (hostKey z.setting.port (z.setting.ring + 64 * ((z.seq + 1) % 2 ^ z.setting.logn)))
           (y.bytes (z.seq + 1) s.freeCtr) a))

/-! ## Lock events and samples -/

/-- R300, R301, R306, R309: requests and releases arrive, a grant is counted once, one that is not acknowledged is sent
again three times, and a squad that does not give way is revoked with a record. -/
def Obligations.LockEvents : Prop :=
  (∀ (s : State) (r : LockRequest), s.input = .lockRequestArrival r →
    exec .lockRequestArrival s = .next (if s.requestCheck r = none then s.acceptRequest r else s)) ∧
  (∀ (s : State) (r : LockRelease), s.input = .lockReleaseArrival r →
    exec .lockReleaseArrival s = .next (if s.releaseCheck r = none then s.acceptRelease r else s)) ∧
  (∀ (s : State) (g : Grant), s.input = .lockGrant g →
    ((∀ y ∈ s.sentGrants, y.grant ≠ g) → exec .lockGrant s = .next s) ∧
    (∀ x slot, (∃ y ∈ s.sentGrants, y.grant = g) → s.locate g.squad = some (x, slot) → Inv s →
      ∃ t, exec .lockGrant s = .next t ∧ t.sentGrants = s.sentGrants.filter (fun y => y.grant ≠ g) ∧
        (∀ a, byteAt t a = written s (spadKey x (32 * slot)) (leBytes 4 ((s.num (spadKey x (32 * slot)) 4 + 1) % 2 ^ 32)) a) ∧
        (t.lockSquad g.squad).scopes =
          (s.lockSquad g.squad).scopes ++ [((s.num (spadKey x (32 * slot)) 4 + 1) % 2 ^ 32, g.scope)] ∧
        { t with mem := s.mem, lockSquads := s.lockSquads, sentGrants := s.sentGrants } = s) ∧
    ((∃ y ∈ s.sentGrants, y.grant = g) → s.locate g.squad = none →
      exec .lockGrant s = .next { s.updGang g.squad.gang (fun d => { d with grants := d.grants ++ [g] }) with
        sentGrants := s.sentGrants.filter fun y => y.grant ≠ g })) ∧
  (∀ (s : State) (n : Nat) (g : SentGrant), s.input = .grantResendTimeout n → s.sentGrants[n]? = some g →
    g.sent + 2 ^ 16 ≤ s.fabricCycles → g.resends < 3 →
      exec .grantResendTimeout s = .next { s with
        sentGrants := s.sentGrants.set n { g with sent := s.fabricCycles, resends := g.resends + 1 }
        agenda := s.agenda ++ [⟨.lockGrant, .lockGrant g.grant⟩] }) ∧
  (∀ (s : State) (i : Instr) (k : SquadKey),
    ((∃ n g, i = .grantResendTimeout ∧ s.input = .grantResendTimeout n ∧ s.sentGrants[n]? = some g ∧
        g.sent + 2 ^ 16 ≤ s.fabricCycles ∧ 3 ≤ g.resends ∧ g.grant.squad = k) ∨
      (i = .revocation ∧ s.input = .revocation k ∧ (s.lockSquad k).woundLeft = some 0)) →
      ∃ t r, exec i s = .next t ∧ (t.lockSquad k).revoked = true ∧ t.lockBusy k = false ∧
        (∀ g ∈ t.sentGrants, g.grant.squad ≠ k) ∧ t.faults = s.faults ++ [r] ∧ r.num = 24 ∧ r.src = 2 ∧
        r.gang = k.gang.gang ∧ r.squad = k.squad ∧ r.qid = k.gang.launch.qid ∧ r.lseq = k.gang.launch.seq ∧ t.mem = s.mem)
end

