-- ==== Sys2Proof/Laws/Exec.lean ====
section
/-! SUPPORT. The meaning of each constructor, as one equation of `exec`. -/

namespace Sys2Proof.Laws

open Sys2Proof.Machine

theorem exec_iadd (f : RForm) (s : State) : exec (.iadd f) s = execIadd f s := rfl
theorem exec_iadds (f : RForm) (s : State) : exec (.iadds f) s = execIadds f s := rfl
theorem exec_isub (f : RForm) (s : State) : exec (.isub f) s = execIsub f s := rfl
theorem exec_isubs (f : RForm) (s : State) : exec (.isubs f) s = execIsubs f s := rfl
theorem exec_imul (f : RForm) (s : State) : exec (.imul f) s = execImul f s := rfl
theorem exec_imulh (f : RForm) (s : State) : exec (.imulh f) s = execImulh f s := rfl
theorem exec_imad (f : RForm) (s : State) : exec (.imad f) s = execImad f s := rfl
theorem exec_imadh (f : RForm) (s : State) : exec (.imadh f) s = execImadh f s := rfl
theorem exec_imin (f : RForm) (s : State) : exec (.imin f) s = execImin f s := rfl
theorem exec_iminn (f : RForm) (s : State) : exec (.iminn f) s = execIminn f s := rfl
theorem exec_imax (f : RForm) (s : State) : exec (.imax f) s = execImax f s := rfl
theorem exec_imaxn (f : RForm) (s : State) : exec (.imaxn f) s = execImaxn f s := rfl
theorem exec_andB (f : RForm) (s : State) : exec (.andB f) s = execAndB f s := rfl
theorem exec_andn (f : RForm) (s : State) : exec (.andn f) s = execAndn f s := rfl
theorem exec_orB (f : RForm) (s : State) : exec (.orB f) s = execOrB f s := rfl
theorem exec_orn (f : RForm) (s : State) : exec (.orn f) s = execOrn f s := rfl
theorem exec_xorB (f : RForm) (s : State) : exec (.xorB f) s = execXorB f s := rfl
theorem exec_xnor (f : RForm) (s : State) : exec (.xnor f) s = execXnor f s := rfl
theorem exec_shl (f : RForm) (s : State) : exec (.shl f) s = execShl f s := rfl
theorem exec_rol (f : RForm) (s : State) : exec (.rol f) s = execRol f s := rfl
theorem exec_shr (f : RForm) (s : State) : exec (.shr f) s = execShr f s := rfl
theorem exec_sar (f : RForm) (s : State) : exec (.sar f) s = execSar f s := rfl
theorem exec_cseq (f : RForm) (s : State) : exec (.cseq f) s = execCseq f s := rfl
theorem exec_csne (f : RForm) (s : State) : exec (.csne f) s = execCsne f s := rfl
theorem exec_cslt (f : RForm) (s : State) : exec (.cslt f) s = execCslt f s := rfl
theorem exec_csltn (f : RForm) (s : State) : exec (.csltn f) s = execCsltn f s := rfl
theorem exec_csle (f : RForm) (s : State) : exec (.csle f) s = execCsle f s := rfl
theorem exec_cslen (f : RForm) (s : State) : exec (.cslen f) s = execCslen f s := rfl
theorem exec_sel (f : RForm) (s : State) : exec (.sel f) s = execSel f s := rfl
theorem exec_popc (f : RForm) (s : State) : exec (.popc f) s = execPopc f s := rfl
theorem exec_clz (f : RForm) (s : State) : exec (.clz f) s = execClz f s := rfl
theorem exec_brev (f : RForm) (s : State) : exec (.brev f) s = execBrev f s := rfl
theorem exec_ffs (f : RForm) (s : State) : exec (.ffs f) s = execFfs f s := rfl
theorem exec_bfx (f : RForm) (s : State) : exec (.bfx f) s = execBfx f s := rfl
theorem exec_bfxs (f : RForm) (s : State) : exec (.bfxs f) s = execBfxs f s := rfl
theorem exec_bfi (f : RForm) (s : State) : exec (.bfi f) s = execBfi f s := rfl
theorem exec_wadd (f : RForm) (s : State) : exec (.wadd f) s = execWadd f s := rfl
theorem exec_wsub (f : RForm) (s : State) : exec (.wsub f) s = execWsub f s := rfl
theorem exec_wmul (f : RForm) (s : State) : exec (.wmul f) s = execWmul f s := rfl
theorem exec_wmulh (f : RForm) (s : State) : exec (.wmulh f) s = execWmulh f s := rfl
theorem exec_wshl (f : RForm) (s : State) : exec (.wshl f) s = execWshl f s := rfl
theorem exec_wshr (f : RForm) (s : State) : exec (.wshr f) s = execWshr f s := rfl
theorem exec_mov (f : RForm) (s : State) : exec (.mov f) s = execMov f s := rfl
theorem exec_movg (f : RForm) (s : State) : exec (.movg f) s = execMovg f s := rfl
theorem exec_iabs (f : RForm) (s : State) : exec (.iabs f) s = execIabs f s := rfl
theorem exec_ineg (f : RForm) (s : State) : exec (.ineg f) s = execIneg f s := rfl
theorem exec_iaddi (f : IForm) (s : State) : exec (.iaddi f) s = execIaddi f s := rfl
theorem exec_imuli (f : IForm) (s : State) : exec (.imuli f) s = execImuli f s := rfl
theorem exec_andi (f : IForm) (s : State) : exec (.andi f) s = execAndi f s := rfl
theorem exec_ori (f : IForm) (s : State) : exec (.ori f) s = execOri f s := rfl
theorem exec_xori (f : IForm) (s : State) : exec (.xori f) s = execXori f s := rfl
theorem exec_shli (f : IForm) (s : State) : exec (.shli f) s = execShli f s := rfl
theorem exec_shri (f : IForm) (s : State) : exec (.shri f) s = execShri f s := rfl
theorem exec_movi (f : IForm) (s : State) : exec (.movi f) s = execMovi f s := rfl
theorem exec_fadd (f : RForm) (s : State) : exec (.fadd f) s = execFadd f s := rfl
theorem exec_fsub (f : RForm) (s : State) : exec (.fsub f) s = execFsub f s := rfl
theorem exec_fmul (f : RForm) (s : State) : exec (.fmul f) s = execFmul f s := rfl
theorem exec_fscl (f : RForm) (s : State) : exec (.fscl f) s = execFscl f s := rfl
theorem exec_ffma (f : RForm) (s : State) : exec (.ffma f) s = execFfma f s := rfl
theorem exec_ffms (f : RForm) (s : State) : exec (.ffms f) s = execFfms f s := rfl
theorem exec_fmin (f : RForm) (s : State) : exec (.fmin f) s = execFmin f s := rfl
theorem exec_fmax (f : RForm) (s : State) : exec (.fmax f) s = execFmax f s := rfl
theorem exec_fcseq (f : RForm) (s : State) : exec (.fcseq f) s = execFcseq f s := rfl
theorem exec_fcsne (f : RForm) (s : State) : exec (.fcsne f) s = execFcsne f s := rfl
theorem exec_fcslt (f : RForm) (s : State) : exec (.fcslt f) s = execFcslt f s := rfl
theorem exec_fcsle (f : RForm) (s : State) : exec (.fcsle f) s = execFcsle f s := rfl
theorem exec_fcsun (f : RForm) (s : State) : exec (.fcsun f) s = execFcsun f s := rfl
theorem exec_fcsor (f : RForm) (s : State) : exec (.fcsor f) s = execFcsor f s := rfl
theorem exec_fabs (f : RForm) (s : State) : exec (.fabs f) s = execFabs f s := rfl
theorem exec_fneg (f : RForm) (s : State) : exec (.fneg f) s = execFneg f s := rfl
theorem exec_frcp (f : RForm) (s : State) : exec (.frcp f) s = execFrcp f s := rfl
theorem exec_frsq (f : RForm) (s : State) : exec (.frsq f) s = execFrsq f s := rfl
theorem exec_fex2 (f : RForm) (s : State) : exec (.fex2 f) s = execFex2 f s := rfl
theorem exec_flg2 (f : RForm) (s : State) : exec (.flg2 f) s = execFlg2 f s := rfl
theorem exec_fsin (f : RForm) (s : State) : exec (.fsin f) s = execFsin f s := rfl
theorem exec_fcos (f : RForm) (s : State) : exec (.fcos f) s = execFcos f s := rfl
theorem exec_hadd2 (f : RForm) (s : State) : exec (.hadd2 f) s = execHadd2 f s := rfl
theorem exec_badd2 (f : RForm) (s : State) : exec (.badd2 f) s = execBadd2 f s := rfl
theorem exec_hmul2 (f : RForm) (s : State) : exec (.hmul2 f) s = execHmul2 f s := rfl
theorem exec_bmul2 (f : RForm) (s : State) : exec (.bmul2 f) s = execBmul2 f s := rfl
theorem exec_hfma2 (f : RForm) (s : State) : exec (.hfma2 f) s = execHfma2 f s := rfl
theorem exec_bfma2 (f : RForm) (s : State) : exec (.bfma2 f) s = execBfma2 f s := rfl
theorem exec_dadd (f : RForm) (s : State) : exec (.dadd f) s = execDadd f s := rfl
theorem exec_dsub (f : RForm) (s : State) : exec (.dsub f) s = execDsub f s := rfl
theorem exec_dmul (f : RForm) (s : State) : exec (.dmul f) s = execDmul f s := rfl
theorem exec_dfma (f : RForm) (s : State) : exec (.dfma f) s = execDfma f s := rfl
theorem exec_cvtfi (f : RForm) (s : State) : exec (.cvtfi f) s = execCvtfi f s := rfl
theorem exec_cvtfn (f : RForm) (s : State) : exec (.cvtfn f) s = execCvtfn f s := rfl
theorem exec_cvtif (f : RForm) (s : State) : exec (.cvtif f) s = execCvtif f s := rfl
theorem exec_cvtnf (f : RForm) (s : State) : exec (.cvtnf f) s = execCvtnf f s := rfl
theorem exec_narh (f : RForm) (s : State) : exec (.narh f) s = execNarh f s := rfl
theorem exec_narb (f : RForm) (s : State) : exec (.narb f) s = execNarb f s := rfl
theorem exec_widh (f : RForm) (s : State) : exec (.widh f) s = execWidh f s := rfl
theorem exec_widb (f : RForm) (s : State) : exec (.widb f) s = execWidb f s := rfl
theorem exec_e4pk (f : RForm) (s : State) : exec (.e4pk f) s = execE4pk f s := rfl
theorem exec_e5pk (f : RForm) (s : State) : exec (.e5pk f) s = execE5pk f s := rfl
theorem exec_e4up (f : RForm) (s : State) : exec (.e4up f) s = execE4up f s := rfl
theorem exec_e5up (f : RForm) (s : State) : exec (.e5up f) s = execE5up f s := rfl
theorem exec_q4pk (f : RForm) (s : State) : exec (.q4pk f) s = execQ4pk f s := rfl
theorem exec_q4up (f : RForm) (s : State) : exec (.q4up f) s = execQ4up f s := rfl
theorem exec_shfl (f : RForm) (s : State) : exec (.shfl f) s = execShfl f s := rfl
theorem exec_shfx (f : RForm) (s : State) : exec (.shfx f) s = execShfx f s := rfl
theorem exec_bcst (f : RForm) (s : State) : exec (.bcst f) s = execBcst f s := rfl
theorem exec_sqrd (f : RForm) (s : State) : exec (.sqrd f) s = execSqrd f s := rfl
theorem exec_sqrf (f : RForm) (s : State) : exec (.sqrf f) s = execSqrf f s := rfl
theorem exec_sqmx (f : RForm) (s : State) : exec (.sqmx f) s = execSqmx f s := rfl
theorem exec_sqmf (f : RForm) (s : State) : exec (.sqmf f) s = execSqmf f s := rfl
theorem exec_scan (f : RForm) (s : State) : exec (.scan f) s = execScan f s := rfl
theorem exec_scnx (f : RForm) (s : State) : exec (.scnx f) s = execScnx f s := rfl
theorem exec_balt (f : RForm) (s : State) : exec (.balt f) s = execBalt f s := rfl
theorem exec_bcnt (f : RForm) (s : State) : exec (.bcnt f) s = execBcnt f s := rfl
theorem exec_rank (f : RForm) (s : State) : exec (.rank f) s = execRank f s := rfl
theorem exec_ranka (f : RForm) (s : State) : exec (.ranka f) s = execRanka f s := rfl
theorem exec_iota (f : RForm) (s : State) : exec (.iota f) s = execIota f s := rfl
theorem exec_ldg (f : MForm) (s : State) : exec (.ldg f) s = execLdg f s := rfl
theorem exec_stg (f : MForm) (s : State) : exec (.stg f) s = execStg f s := rfl
theorem exec_lds (f : MForm) (s : State) : exec (.lds f) s = execLds f s := rfl
theorem exec_sts (f : MForm) (s : State) : exec (.sts f) s = execSts f s := rfl
theorem exec_ldk (f : MForm) (s : State) : exec (.ldk f) s = execLdk f s := rfl
theorem exec_ldp (f : MForm) (s : State) : exec (.ldp f) s = execLdp f s := rfl
theorem exec_stp (f : MForm) (s : State) : exec (.stp f) s = execStp f s := rfl
theorem exec_ldx (f : MForm) (s : State) : exec (.ldx f) s = execLdx f s := rfl
theorem exec_stx (f : MForm) (s : State) : exec (.stx f) s = execStx f s := rfl
theorem exec_ldaq (f : MForm) (s : State) : exec (.ldaq f) s = execLdaq f s := rfl
theorem exec_strl (f : MForm) (s : State) : exec (.strl f) s = execStrl f s := rfl
theorem exec_pref (f : MForm) (s : State) : exec (.pref f) s = execPref f s := rfl
theorem exec_flsh (f : MForm) (s : State) : exec (.flsh f) s = execFlsh f s := rfl
theorem exec_flshd (f : MForm) (s : State) : exec (.flshd f) s = execFlshd f s := rfl
theorem exec_place (f : MForm) (s : State) : exec (.place f) s = execPlace f s := rfl
theorem exec_psts (f : MForm) (s : State) : exec (.psts f) s = execPsts f s := rfl
theorem exec_plds (f : MForm) (s : State) : exec (.plds f) s = execPlds f s := rfl
theorem exec_aadd (f : AForm) (s : State) : exec (.aadd f) s = execAadd f s := rfl
theorem exec_amin (f : AForm) (s : State) : exec (.amin f) s = execAmin f s := rfl
theorem exec_amax (f : AForm) (s : State) : exec (.amax f) s = execAmax f s := rfl
theorem exec_aand (f : AForm) (s : State) : exec (.aand f) s = execAand f s := rfl
theorem exec_aor (f : AForm) (s : State) : exec (.aor f) s = execAor f s := rfl
theorem exec_afadd (f : AForm) (s : State) : exec (.afadd f) s = execAfadd f s := rfl
theorem exec_axch (f : AForm) (s : State) : exec (.axch f) s = execAxch f s := rfl
theorem exec_acas (f : AForm) (s : State) : exec (.acas f) s = execAcas f s := rfl
theorem exec_fence (f : SForm) (s : State) : exec (.fence f) s = execFence f s := rfl
theorem exec_binit (f : RForm) (s : State) : exec (.binit f) s = execBinit f s := rfl
theorem exec_arrv (f : RForm) (s : State) : exec (.arrv f) s = execArrv f s := rfl
theorem exec_arrx (f : RForm) (s : State) : exec (.arrx f) s = execArrx f s := rfl
theorem exec_waitp (f : RForm) (s : State) : exec (.waitp f) s = execWaitp f s := rfl
theorem exec_tstp (f : RForm) (s : State) : exec (.tstp f) s = execTstp f s := rfl
theorem exec_bxpb (f : RForm) (s : State) : exec (.bxpb f) s = execBxpb f s := rfl
theorem exec_yield (f : RForm) (s : State) : exec (.yield f) s = execYield f s := rfl
theorem exec_binv (f : RForm) (s : State) : exec (.binv f) s = execBinv f s := rfl
theorem exec_lock (f : LForm) (s : State) : exec (.lock f) s = execLock f s := rfl
theorem exec_unlk (f : LForm) (s : State) : exec (.unlk f) s = execUnlk f s := rfl
theorem exec_lkup (f : LForm) (s : State) : exec (.lkup f) s = execLkup f s := rfl
theorem exec_lkdn (f : LForm) (s : State) : exec (.lkdn f) s = execLkdn f s := rfl
theorem exec_lkra (f : LForm) (s : State) : exec (.lkra f) s = execLkra f s := rfl
theorem exec_lkqy (f : LForm) (s : State) : exec (.lkqy f) s = execLkqy f s := rfl
theorem exec_lkag (f : LForm) (s : State) : exec (.lkag f) s = execLkag f s := rfl
theorem exec_lkmx (f : LForm) (s : State) : exec (.lkmx f) s = execLkmx f s := rfl
theorem exec_qpsh (f : QForm) (s : State) : exec (.qpsh f) s = execQpsh f s := rfl
theorem exec_qpop (f : QForm) (s : State) : exec (.qpop f) s = execQpop f s := rfl
theorem exec_qcnt (f : QForm) (s : State) : exec (.qcnt f) s = execQcnt f s := rfl
theorem exec_cpyj (f : QForm) (s : State) : exec (.cpyj f) s = execCpyj f s := rfl
theorem exec_colj (f : QForm) (s : State) : exec (.colj f) s = execColj f s := rfl
theorem exec_qbnd (f : QForm) (s : State) : exec (.qbnd f) s = execQbnd f s := rfl
theorem exec_mxcfConfig (f : XForm) (s : State) : exec (.mxcfConfig f) s = execMxcfConfig f s := rfl
theorem exec_mxcfRelease (f : XForm) (s : State) : exec (.mxcfRelease f) s = execMxcfRelease f s := rfl
theorem exec_mxlw (f : XForm) (s : State) : exec (.mxlw f) s = execMxlw f s := rfl
theorem exec_mxst (f : XForm) (s : State) : exec (.mxst f) s = execMxst f s := rfl
theorem exec_mxchBegin (f : XForm) (s : State) : exec (.mxchBegin f) s = execMxchBegin f s := rfl
theorem exec_mxchEnd (f : XForm) (s : State) : exec (.mxchEnd f) s = execMxchEnd f s := rfl
theorem exec_mxchDrain (f : XForm) (s : State) : exec (.mxchDrain f) s = execMxchDrain f s := rfl
theorem exec_mxchZero (f : XForm) (s : State) : exec (.mxchZero f) s = execMxchZero f s := rfl
theorem exec_bra (f : BitVec 25) (s : State) : exec (.bra f) s = execBra f s := rfl
theorem exec_bz (f : BForm) (s : State) : exec (.bz f) s = execBz f s := rfl
theorem exec_bnz (f : BForm) (s : State) : exec (.bnz f) s = execBnz f s := rfl
theorem exec_call (f : BitVec 25) (s : State) : exec (.call f) s = execCall f s := rfl
theorem exec_jmpr (f : RForm) (s : State) : exec (.jmpr f) s = execJmpr f s := rfl
theorem exec_callr (f : RForm) (s : State) : exec (.callr f) s = execCallr f s := rfl
theorem exec_exit (f : BitVec 25) (s : State) : exec (.exit f) s = execExit f s := rfl
theorem exec_span (f : BitVec 25) (s : State) : exec (.span f) s = execSpan f s := rfl
theorem exec_trapc (f : SForm) (s : State) : exec (.trapc f) s = execTrapc f s := rfl
theorem exec_trap (f : SForm) (s : State) : exec (.trap f) s = execTrap f s := rfl
theorem exec_brk (f : SForm) (s : State) : exec (.brk f) s = execBrk f s := rfl
theorem exec_sysMfs (f : SForm) (s : State) : exec (.sysMfs f) s = execSysMfs f s := rfl
theorem exec_sysMts (f : SForm) (s : State) : exec (.sysMts f) s = execSysMts f s := rfl
theorem exec_sysClkr (f : SForm) (s : State) : exec (.sysClkr f) s = execSysClkr f s := rfl
theorem exec_sysCycr (f : SForm) (s : State) : exec (.sysCycr f) s = execSysCycr f s := rfl
theorem exec_sysSqid (f : SForm) (s : State) : exec (.sysSqid f) s = execSysSqid f s := rfl
theorem exec_sysWgid (f : SForm) (s : State) : exec (.sysWgid f) s = execSysWgid f s := rfl
theorem exec_sysGngid (f : SForm) (s : State) : exec (.sysGngid f) s = execSysGngid f s := rfl
theorem exec_sysLnch (f : SForm) (s : State) : exec (.sysLnch f) s = execSysLnch f s := rfl
theorem exec_sysWardCreate (f : SForm) (s : State) : exec (.sysWardCreate f) s = execSysWardCreate f s := rfl
theorem exec_sysWardModify (f : SForm) (s : State) : exec (.sysWardModify f) s = execSysWardModify f s := rfl
theorem exec_sysWardDelete (f : SForm) (s : State) : exec (.sysWardDelete f) s = execSysWardDelete f s := rfl
theorem exec_sysWardRead (f : SForm) (s : State) : exec (.sysWardRead f) s = execSysWardRead f s := rfl
theorem exec_sysWardReset (f : SForm) (s : State) : exec (.sysWardReset f) s = execSysWardReset f s := rfl
theorem exec_sysWardClear (f : SForm) (s : State) : exec (.sysWardClear f) s = execSysWardClear f s := rfl
theorem exec_sysAmskRead (f : SForm) (s : State) : exec (.sysAmskRead f) s = execSysAmskRead f s := rfl
theorem exec_sysAmskSwap (f : SForm) (s : State) : exec (.sysAmskSwap f) s = execSysAmskSwap f s := rfl
theorem exec_sysXmsk (f : SForm) (s : State) : exec (.sysXmsk f) s = execSysXmsk f s := rfl
theorem exec_sysSegrd (f : SForm) (s : State) : exec (.sysSegrd f) s = execSysSegrd f s := rfl
theorem exec_sysSegld (f : SForm) (s : State) : exec (.sysSegld f) s = execSysSegld f s := rfl
theorem exec_sysSavep (f : SForm) (s : State) : exec (.sysSavep f) s = execSysSavep f s := rfl
theorem exec_sysPrio (f : SForm) (s : State) : exec (.sysPrio f) s = execSysPrio f s := rfl
theorem exec_sysIbinv (f : SForm) (s : State) : exec (.sysIbinv f) s = execSysIbinv f s := rfl
theorem exec_sysL1inv (f : SForm) (s : State) : exec (.sysL1inv f) s = execSysL1inv f s := rfl
theorem exec_sysTlbi (f : SForm) (s : State) : exec (.sysTlbi f) s = execSysTlbi f s := rfl
theorem exec_sysCapr (f : SForm) (s : State) : exec (.sysCapr f) s = execSysCapr f s := rfl
theorem exec_sysFtst (f : SForm) (s : State) : exec (.sysFtst f) s = execSysFtst f s := rfl
theorem exec_sysFclr (f : SForm) (s : State) : exec (.sysFclr f) s = execSysFclr f s := rfl
theorem exec_sysPstat (f : SForm) (s : State) : exec (.sysPstat f) s = execSysPstat f s := rfl
theorem exec_sysTags (f : SForm) (s : State) : exec (.sysTags f) s = execSysTags f s := rfl
theorem exec_sysTagc (f : SForm) (s : State) : exec (.sysTagc f) s = execSysTagc f s := rfl
theorem exec_sysSnap (f : SForm) (s : State) : exec (.sysSnap f) s = execSysSnap f s := rfl
theorem exec_sysCsum (f : SForm) (s : State) : exec (.sysCsum f) s = execSysCsum f s := rfl
theorem exec_sysRtbl (f : SForm) (s : State) : exec (.sysRtbl f) s = execSysRtbl f s := rfl
theorem exec_sysWtbl (f : SForm) (s : State) : exec (.sysWtbl f) s = execSysWtbl f s := rfl
theorem exec_sysDmap (f : SForm) (s : State) : exec (.sysDmap f) s = execSysDmap f s := rfl
theorem exec_sysPmap (f : SForm) (s : State) : exec (.sysPmap f) s = execSysPmap f s := rfl
theorem exec_sysHalt (f : SForm) (s : State) : exec (.sysHalt f) s = execSysHalt f s := rfl
theorem exec_sysResm (f : SForm) (s : State) : exec (.sysResm f) s = execSysResm f s := rfl
theorem exec_sysResmHalted (f : SForm) (s : State) : exec (.sysResmHalted f) s = execSysResmHalted f s := rfl
theorem exec_sysResmDefault (f : SForm) (s : State) : exec (.sysResmDefault f) s = execSysResmDefault f s := rfl
theorem exec_sysEvpst (f : SForm) (s : State) : exec (.sysEvpst f) s = execSysEvpst f s := rfl
theorem exec_sysSleep (f : SForm) (s : State) : exec (.sysSleep f) s = execSysSleep f s := rfl
theorem exec_sysShpr (f : SForm) (s : State) : exec (.sysShpr f) s = execSysShpr f s := rfl
theorem exec_sysDead (f : SForm) (s : State) : exec (.sysDead f) s = execSysDead f s := rfl
theorem exec_hintNop (f : BitVec 22) (s : State) : exec (.hintNop f) s = execHintNop f s := rfl
theorem exec_hintImm (f : BitVec 22) (s : State) : exec (.hintImm f) s = execHintImm f s := rfl
theorem exec_hintMem (f : BitVec 22) (s : State) : exec (.hintMem f) s = execHintMem f s := rfl
theorem exec_hintArith (f : BitVec 22) (s : State) : exec (.hintArith f) s = execHintArith f s := rfl
theorem exec_hintSched (f : BitVec 22) (s : State) : exec (.hintSched f) s = execHintSched f s := rfl
theorem exec_hintKill (f : BitVec 22) (s : State) : exec (.hintKill f) s = execHintKill f s := rfl
theorem exec_hintProf (f : BitVec 22) (s : State) : exec (.hintProf f) s = execHintProf f s := rfl
theorem exec_reservedEncoding (f : Word) (s : State) : exec (.reservedEncoding f) s = execReservedEncoding f s := rfl
theorem exec_powerOnReset (s : State) : exec .powerOnReset s = execPowerOnReset s := rfl
theorem exec_deviceReset (s : State) : exec .deviceReset s = execDeviceReset s := rfl
theorem exec_hostPortReset (s : State) : exec .hostPortReset s = execHostPortReset s := rfl
theorem exec_powerSample (s : State) : exec .powerSample s = execPowerSample s := rfl
theorem exec_powerAlarmClear (s : State) : exec .powerAlarmClear s = execPowerAlarmClear s := rfl
theorem exec_waferPowerRemoval (s : State) : exec .waferPowerRemoval s = execWaferPowerRemoval s := rfl
theorem exec_romCheck (s : State) : exec .romCheck s = execRomCheck s := rfl
theorem exec_harvest (s : State) : exec .harvest s = execHarvest s := rfl
theorem exec_treeBuild (s : State) : exec .treeBuild s = execTreeBuild s := rfl
theorem exec_hbmTraining (s : State) : exec .hbmTraining s = execHbmTraining s := rfl
theorem exec_memoryClear (s : State) : exec .memoryClear s = execMemoryClear s := rfl
theorem exec_fullServiceBegin (s : State) : exec .fullServiceBegin s = execFullServiceBegin s := rfl
theorem exec_standardCommand (s : State) : exec .standardCommand s = execStandardCommand s := rfl
theorem exec_setroles (s : State) : exec .setroles s = execSetroles s := rfl
theorem exec_imgchunk (s : State) : exec .imgchunk s = execImgchunk s := rfl
theorem exec_imgcommit (s : State) : exec .imgcommit s = execImgcommit s := rfl
theorem exec_imgcommitComplete (s : State) : exec .imgcommitComplete s = execImgcommitComplete s := rfl
theorem exec_idreport (s : State) : exec .idreport s = execIdreport s := rfl
theorem exec_certread (s : State) : exec .certread s = execCertread s := rfl
theorem exec_mark (s : State) : exec .mark s = execMark s := rfl
theorem exec_bankEmptyDone (s : State) : exec .bankEmptyDone s = execBankEmptyDone s := rfl
theorem exec_chkpt (s : State) : exec .chkpt s = execChkpt s := rfl
theorem exec_checkpointComplete (s : State) : exec .checkpointComplete s = execCheckpointComplete s := rfl
theorem exec_biasflip (s : State) : exec .biasflip s = execBiasflip s := rfl
theorem exec_biasflipComplete (s : State) : exec .biasflipComplete s = execBiasflipComplete s := rfl
theorem exec_biasread (s : State) : exec .biasread s = execBiasread s := rfl
theorem exec_qctlEnable (s : State) : exec .qctlEnable s = execQctlEnable s := rfl
theorem exec_qctlDisable (s : State) : exec .qctlDisable s = execQctlDisable s := rfl
theorem exec_qctlRead (s : State) : exec .qctlRead s = execQctlRead s := rfl
theorem exec_poolbind (s : State) : exec .poolbind s = execPoolbind s := rfl
theorem exec_peerset (s : State) : exec .peerset s = execPeerset s := rfl
theorem exec_sampctl (s : State) : exec .sampctl s = execSampctl s := rfl
theorem exec_snapctl (s : State) : exec .snapctl s = execSnapctl s := rfl
theorem exec_cxlLinkTraining (s : State) : exec .cxlLinkTraining s = execCxlLinkTraining s := rfl
theorem exec_portLinkDown (s : State) : exec .portLinkDown s = execPortLinkDown s := rfl
theorem exec_flitCrcFail (s : State) : exec .flitCrcFail s = execFlitCrcFail s := rfl
theorem exec_replayRequest (s : State) : exec .replayRequest s = execReplayRequest s := rfl
theorem exec_flitAcknowledge (s : State) : exec .flitAcknowledge s = execFlitAcknowledge s := rfl
theorem exec_replayWindowEnd (s : State) : exec .replayWindowEnd s = execReplayWindowEnd s := rfl
theorem exec_linkRetrainDone (s : State) : exec .linkRetrainDone s = execLinkRetrainDone s := rfl
theorem exec_packetInject (s : State) : exec .packetInject s = execPacketInject s := rfl
theorem exec_packetDeliver (s : State) : exec .packetDeliver s = execPacketDeliver s := rfl
theorem exec_headerUeDiscard (s : State) : exec .headerUeDiscard s = execHeaderUeDiscard s := rfl
theorem exec_resendTimeout (s : State) : exec .resendTimeout s = execResendTimeout s := rfl
theorem exec_requestTimeout (s : State) : exec .requestTimeout s = execRequestTimeout s := rfl
theorem exec_commitRequest (s : State) : exec .commitRequest s = execCommitRequest s := rfl
theorem exec_firmwareCommit (s : State) : exec .firmwareCommit s = execFirmwareCommit s := rfl
theorem exec_commitDrainDone (s : State) : exec .commitDrainDone s = execCommitDrainDone s := rfl
theorem exec_commitComplete (s : State) : exec .commitComplete s = execCommitComplete s := rfl
theorem exec_tailSnoop (s : State) : exec .tailSnoop s = execTailSnoop s := rfl
theorem exec_tailReread (s : State) : exec .tailReread s = execTailReread s := rfl
theorem exec_launchPacketRead (s : State) : exec .launchPacketRead s = execLaunchPacketRead s := rfl
theorem exec_headWrite (s : State) : exec .headWrite s = execHeadWrite s := rfl
theorem exec_hostMemRead (s : State) : exec .hostMemRead s = execHostMemRead s := rfl
theorem exec_hostMemWrite (s : State) : exec .hostMemWrite s = execHostMemWrite s := rfl
theorem exec_hostSnoop (s : State) : exec .hostSnoop s = execHostSnoop s := rfl
theorem exec_bisnpInv (s : State) : exec .bisnpInv s = execBisnpInv s := rfl
theorem exec_bisnpData (s : State) : exec .bisnpData s = execBisnpData s := rfl
theorem exec_poolGroupLost (s : State) : exec .poolGroupLost s = execPoolGroupLost s := rfl
theorem exec_faultRecordWrite (s : State) : exec .faultRecordWrite s = execFaultRecordWrite s := rfl
theorem exec_launchAbort (s : State) : exec .launchAbort s = execLaunchAbort s := rfl
theorem exec_tenantReset (s : State) : exec .tenantReset s = execTenantReset s := rfl
theorem exec_placementDecision (s : State) : exec .placementDecision s = execPlacementDecision s := rfl
theorem exec_preemptRequest (s : State) : exec .preemptRequest s = execPreemptRequest s := rfl
theorem exec_preemptStop (s : State) : exec .preemptStop s = execPreemptStop s := rfl
theorem exec_preemptSave (s : State) : exec .preemptSave s = execPreemptSave s := rfl
theorem exec_workgroupEnd (s : State) : exec .workgroupEnd s = execWorkgroupEnd s := rfl
theorem exec_gangRetire (s : State) : exec .gangRetire s = execGangRetire s := rfl
theorem exec_poolEntryReclaim (s : State) : exec .poolEntryReclaim s = execPoolEntryReclaim s := rfl
theorem exec_skewHoldTimeout (s : State) : exec .skewHoldTimeout s = execSkewHoldTimeout s := rfl
theorem exec_resultWriteback (s : State) : exec .resultWriteback s = execResultWriteback s := rfl
theorem exec_asyncTrapEntry (s : State) : exec .asyncTrapEntry s = execAsyncTrapEntry s := rfl
theorem exec_engineTrapArrival (s : State) : exec .engineTrapArrival s = execEngineTrapArrival s := rfl
theorem exec_pageWalkDone (s : State) : exec .pageWalkDone s = execPageWalkDone s := rfl
theorem exec_replayableFaultTimeout (s : State) : exec .replayableFaultTimeout s = execReplayableFaultTimeout s := rfl
theorem exec_peerProbe (s : State) : exec .peerProbe s = execPeerProbe s := rfl
theorem exec_anchorRequest (s : State) : exec .anchorRequest s = execAnchorRequest s := rfl
theorem exec_regionEvaluation (s : State) : exec .regionEvaluation s = execRegionEvaluation s := rfl
theorem exec_moveOrder (s : State) : exec .moveOrder s = execMoveOrder s := rfl
theorem exec_migrationTransfer (s : State) : exec .migrationTransfer s = execMigrationTransfer s := rfl
theorem exec_moveAck (s : State) : exec .moveAck s = execMoveAck s := rfl
theorem exec_replicaInvalidate (s : State) : exec .replicaInvalidate s = execReplicaInvalidate s := rfl
theorem exec_invalidationAck (s : State) : exec .invalidationAck s = execInvalidationAck s := rfl
theorem exec_replicaFillArrival (s : State) : exec .replicaFillArrival s = execReplicaFillArrival s := rfl
theorem exec_uncorrectableError (s : State) : exec .uncorrectableError s = execUncorrectableError s := rfl
theorem exec_jobStart (s : State) : exec .jobStart s = execJobStart s := rfl
theorem exec_jobWriteLand (s : State) : exec .jobWriteLand s = execJobWriteLand s := rfl
theorem exec_jobComplete (s : State) : exec .jobComplete s = execJobComplete s := rfl
theorem exec_jobStop (s : State) : exec .jobStop s = execJobStop s := rfl
theorem exec_followOnIssue (s : State) : exec .followOnIssue s = execFollowOnIssue s := rfl
theorem exec_matrixCommandAct (s : State) : exec .matrixCommandAct s = execMatrixCommandAct s := rfl
theorem exec_mxstSumsArrive (s : State) : exec .mxstSumsArrive s = execMxstSumsArrive s := rfl
theorem exec_collectiveJoin (s : State) : exec .collectiveJoin s = execCollectiveJoin s := rfl
theorem exec_collectiveJoinTimeout (s : State) : exec .collectiveJoinTimeout s = execCollectiveJoinTimeout s := rfl
theorem exec_collectiveChunkLand (s : State) : exec .collectiveChunkLand s = execCollectiveChunkLand s := rfl
theorem exec_collectiveGroupFail (s : State) : exec .collectiveGroupFail s = execCollectiveGroupFail s := rfl
theorem exec_collectiveTreeRebuild (s : State) : exec .collectiveTreeRebuild s = execCollectiveTreeRebuild s := rfl
theorem exec_hostMsgWrite (s : State) : exec .hostMsgWrite s = execHostMsgWrite s := rfl
theorem exec_outheadReread (s : State) : exec .outheadReread s = execOutheadReread s := rfl
theorem exec_intailPoll (s : State) : exec .intailPoll s = execIntailPoll s := rfl
theorem exec_lockRequestArrival (s : State) : exec .lockRequestArrival s = execLockRequestArrival s := rfl
theorem exec_lockReleaseArrival (s : State) : exec .lockReleaseArrival s = execLockReleaseArrival s := rfl
theorem exec_lockGrant (s : State) : exec .lockGrant s = execLockGrant s := rfl
theorem exec_grantResendTimeout (s : State) : exec .grantResendTimeout s = execGrantResendTimeout s := rfl
theorem exec_woundTrap (s : State) : exec .woundTrap s = execWoundTrap s := rfl
theorem exec_revocation (s : State) : exec .revocation s = execRevocation s := rfl
theorem exec_sleepTimer (s : State) : exec .sleepTimer s = execSleepTimer s := rfl
theorem exec_sample (s : State) : exec .sample s = execSample s := rfl
theorem exec_instructionFetchFault (s : State) : exec .instructionFetchFault s = execInstructionFetchFault s := rfl
theorem exec_modulePowerLoss (s : State) : exec .modulePowerLoss s = execModulePowerLoss s := rfl
theorem exec_memoryDeviceCompletion (s : State) : exec .memoryDeviceCompletion s = execMemoryDeviceCompletion s := rfl
theorem exec_peerChunkArrival (s : State) : exec .peerChunkArrival s = execPeerChunkArrival s := rfl
theorem exec_poolbindComplete (s : State) : exec .poolbindComplete s = execPoolbindComplete s := rfl

end Sys2Proof.Laws
end

