-- ==== Sys2Proof/Laws/Tables.lean ====
section
/-! SUPPORT. What reading a table gives after it has been changed, and the same for lists of squads. -/

namespace Sys2Proof.Laws

open Sys2Proof.Machine

@[simp] theorem tabFind_tabSet_same {α : Type} (k : Nat) (v : α) (t : List (Nat × α)) : tabFind k (tabSet k v t) = some v := by
  induction t with
  | nil => simp [tabSet, tabFind]
  | cons e r ih =>
    simp only [tabSet]
    split
    · simp [tabFind]
    · split
      · simp [tabFind]
      · rename_i h; simp [tabFind, Ne.symm h, ih]

theorem tabFind_tabSet_other {α : Type} {k j : Nat} (h : j ≠ k) (v : α) (t : List (Nat × α)) :
    tabFind j (tabSet k v t) = tabFind j t := by
  induction t with
  | nil => simp [tabSet, tabFind, h.symm]
  | cons e r ih =>
    simp only [tabSet]
    split
    · simp [tabFind, h.symm]
    · split
      · rename_i e1; subst e1; simp [tabFind, h.symm]
      · simp [tabFind, ih]

theorem tabFind_tabSet {α : Type} (k j : Nat) (v : α) (t : List (Nat × α)) :
    tabFind j (tabSet k v t) = if j = k then some v else tabFind j t := by
  by_cases h : j = k
  · simp [h]
  · simp [h, tabFind_tabSet_other h]

/-! ### Tiles, workgroups and squads -/

theorem tabSet_tabSet {α : Type} (k : Nat) (v w : α) (t : List (Nat × α)) : tabSet k v (tabSet k w t) = tabSet k v t := by
  induction t with
  | nil => simp [tabSet]
  | cons e r ih =>
    obtain ⟨j, x⟩ := e
    simp only [tabSet]
    split
    · simp [tabSet]
    · split
      · simp [tabSet]
      · rename_i h1 h2; simp [tabSet, h1, h2, ih]

@[simp] theorem tile_setTile_same (s : State) (t : Nat) (tl : Tile) : (s.setTile t tl).tile t = tl := by
  simp [State.setTile, State.tile]

theorem tile_setTile_other {t u : Nat} (h : u ≠ t) (s : State) (tl : Tile) : (s.setTile t tl).tile u = s.tile u := by
  simp [State.setTile, State.tile, tabFind_tabSet_other h]

@[simp] theorem tile_updTile_same (s : State) (t : Nat) (f : Tile → Tile) : (s.updTile t f).tile t = f (s.tile t) := by
  simp [State.updTile]

theorem tile_updTile_other {t u : Nat} (h : u ≠ t) (s : State) (f : Tile → Tile) : (s.updTile t f).tile u = s.tile u :=
  tile_setTile_other h s _

@[simp] theorem tile_updSquad_wg (s : State) (t n : Nat) (f : Squad → Squad) :
    ((s.updSquad t n f).tile t).wg = (s.tile t).wg.map fun w => w.updSquad n f := by
  simp [State.updSquad, State.updWg, Tile.updWg]

theorem find_mapIf_slot (l : List Squad) (n k : Nat) (f : Squad → Squad) (hf : ∀ q, q.slot = n → (f q).slot = n) :
    (mapIf (fun q => q.slot = n) f l).find? (fun q => q.slot = k) =
      if k = n then (l.find? fun q => q.slot = k).map f else l.find? fun q => q.slot = k := by
  induction l with
  | nil => simp [mapIf]
  | cons q r ih =>
    simp only [mapIf, List.map_cons, List.find?_cons] at ih ⊢
    by_cases hq : q.slot = n
    · simp only [hq, decide_true, if_true, hf q hq]
      by_cases hk : k = n
      · simp [hk]
      · have hn : ¬ n = k := fun e => hk e.symm
        simpa [hn, hk] using ih
    · simp only [hq, decide_false, Bool.false_eq_true, if_false]
      by_cases hk : q.slot = k
      · have hn : ¬ k = n := fun e => hq (hk.trans e)
        simp [hk, hn]
      · simpa [hk] using ih

theorem squad_updSquad (w : Workgroup) (n k : Nat) (f : Squad → Squad) (hf : ∀ q, q.slot = n → (f q).slot = n) :
    (w.updSquad n f).squad? k = if k = n then (w.squad? k).map f else w.squad? k :=
  find_mapIf_slot w.squads n k f hf

theorem squad_slot {w : Workgroup} {n : Nat} {q : Squad} (h : w.squad? n = some q) : q.slot = n := by
  have := List.find?_some h
  simpa using this

end Sys2Proof.Laws
end

