-- ==== Sys2Proof/Laws/Groups.lean ====
section
/-! SUPPORT. The groups of a squad: what adding, splitting and settling them keeps (R128-R131). -/

namespace Sys2Proof.Laws

open Sys2Proof.Machine Sys2Proof.Safety

/-- Every lane of a group stands in some group at a PC. -/
def Stands (gs : List Group) (m : Mask) (pc : DWord) : Prop :=
  ∀ j, m.getLsbD j = true → ∃ g ∈ gs, g.threads.getLsbD j = true ∧ g.pc = pc

theorem addGroup_stands (g : Group) (gs : List Group) : Stands (addGroup g gs) g.threads g.pc := by
  intro j hj
  have hz : ¬ g.threads = 0#32 := by rintro h; simp [h] at hj
  induction gs with
  | nil => simp [addGroup, hz, hj]
  | cons h r ih =>
    simp only [addGroup]
    split
    · rename_i hc
      simp at hc
      exact ⟨mergeGroups h g, by simp, by simp [mergeGroups, hj], by simp [mergeGroups, hc.2]⟩
    · obtain ⟨x, hx, h1, h2⟩ := ih
      exact ⟨x, by simp [hx], h1, h2⟩

theorem addGroup_keeps (g : Group) (gs : List Group) {m : Mask} {pc : DWord} (h : Stands gs m pc) :
    Stands (addGroup g gs) m pc := by
  intro j hj
  obtain ⟨x, hx, h1, h2⟩ := h j hj
  clear h
  induction gs with
  | nil => simp at hx
  | cons y r ih =>
    simp only [addGroup]
    split
    · rename_i hc
      simp at hc
      rcases List.mem_cons.1 hx with rfl | hx
      · exact ⟨mergeGroups x g, by simp, by simp [mergeGroups, h1], by simp [mergeGroups, h2]⟩
      · exact ⟨x, by simp [hx], h1, h2⟩
    · rcases List.mem_cons.1 hx with rfl | hx
      · exact ⟨x, by simp, h1, h2⟩
      · obtain ⟨z, hz, h3, h4⟩ := ih hx
        exact ⟨z, by simp [hz], h3, h4⟩

theorem foldl_addGroup_keeps (l : List Group) (gs : List Group) {m : Mask} {pc : DWord} (h : Stands gs m pc) :
    Stands (l.foldl (fun gs g => addGroup g gs) gs) m pc := by
  induction l generalizing gs with
  | nil => exact h
  | cons g r ih => exact ih _ (addGroup_keeps g gs h)

theorem foldl_addGroup_stands (l : List Group) (gs : List Group) {g : Group} (h : g ∈ l) :
    Stands (l.foldl (fun gs g => addGroup g gs) gs) g.threads g.pc := by
  induction l generalizing gs with
  | nil => simp at h
  | cons x r ih =>
    rcases List.mem_cons.1 h with rfl | h
    · exact foldl_addGroup_keeps r _ (addGroup_stands g gs)
    · exact ih _ h

/-! ### Sorting and de-duplication keep membership -/

theorem mem_insertBy {α : Type} (p : α → α → Bool) (x y : α) (l : List α) : y ∈ insertBy p x l ↔ y = x ∨ y ∈ l := by
  induction l with
  | nil => simp [insertBy]
  | cons z r ih => simp only [insertBy]; split <;> simp [ih]; tauto

theorem mem_sortBy {α : Type} (p : α → α → Bool) (y : α) (l : List α) : y ∈ sortBy p l ↔ y ∈ l := by
  have : ∀ acc : List α, y ∈ l.foldl (fun acc x => insertBy p x acc) acc ↔ y ∈ acc ∨ y ∈ l := by
    induction l with
    | nil => simp
    | cons x r ih => intro acc; simp [ih, mem_insertBy]; tauto
  simpa [sortBy] using this []

theorem mem_dedup {α : Type} [DecidableEq α] (y : α) (l : List α) : y ∈ dedup l ↔ y ∈ l := by
  have : ∀ acc : List α, y ∈ l.foldl (fun acc x => if acc.contains x then acc else acc ++ [x]) acc ↔ y ∈ acc ∨ y ∈ l := by
    induction l with
    | nil => simp
    | cons x r ih =>
      intro acc
      simp only [List.foldl_cons, ih]
      by_cases hx : acc.contains x
      · simp only [hx, if_true, List.mem_cons]
        constructor
        · tauto
        · rintro (h | rfl | h)
          · exact .inl h
          · exact .inl (by simpa using hx)
          · exact .inr h
      · simp only [hx, List.mem_cons]
        simp
        tauto
  simpa [dedup] using this []

theorem mem_lanesOf {m : Mask} {j : Nat} : j ∈ lanesOf m ↔ j < 32 ∧ m.getLsbD j = true := by simp [lanesOf]

theorem mem_nextPcs {m : Mask} {next : Nat → Option DWord} {pc : DWord} :
    pc ∈ nextPcs m next ↔ ∃ j ∈ lanesOf m, next j = some pc := by
  simp [nextPcs, mem_sortBy, mem_dedup]

theorem lanesTo_bit {m : Mask} {next : Nat → Option DWord} {pc : DWord} {j : Nat} (h : j ∈ lanesOf m) (hn : next j = some pc) :
    (lanesTo m next pc).getLsbD j = true := by
  have hj := (mem_lanesOf.1 h).1
  have key : ∀ (l : List Nat) (acc : Mask), (j ∈ l ∨ acc.getLsbD j = true) →
      (l.foldl (fun acc k => if next k = some pc then acc ||| (1#32 <<< k) else acc) acc).getLsbD j = true := by
    intro l
    induction l with
    | nil => simp
    | cons k r ih =>
      intro acc hm
      apply ih
      rcases hm with hm | hm
      · rcases List.mem_cons.1 hm with rfl | hm
        · right; simp [hn, hj]
        · exact .inl hm
      · right; dsimp only; split <;> simp [hm]
  exact key _ _ (.inl h)

theorem splitGroup_mem {g : Group} {next : Nat → Option DWord} {order now after j : Nat} {pc : DWord}
    (h : j ∈ lanesOf g.threads) (hn : next j = some pc) :
    ∃ x ∈ splitGroup g next order now after, x.threads.getLsbD j = true ∧ x.pc = pc := by
  let part (pc : DWord) : Group :=
    { g with threads := lanesTo g.threads next pc, pc := pc, hints := none, blocked := none, since := now
             issued := now, notBefore := after, cause := if g.inWait then 6 else 0, read := none }
  have hm : part pc ∈ sortBy Group.before ((nextPcs g.threads next).map part) :=
    (mem_sortBy _ _ _).2 (List.mem_map.2 ⟨pc, mem_nextPcs.2 ⟨j, h, hn⟩, rfl⟩)
  have hb : (part pc).threads.getLsbD j = true := lanesTo_bit h hn
  unfold splitGroup
  change ∃ x ∈ (match sortBy Group.before ((nextPcs g.threads next).map part) with
    | [] => []
    | h :: r => h :: (r.zipIdx.map fun (e : Group × Nat) => { e.1 with entry := .parked (order + e.2) })),
      x.threads.getLsbD j = true ∧ x.pc = pc
  cases hs : sortBy Group.before ((nextPcs g.threads next).map part) with
  | nil => simp [hs] at hm
  | cons y r =>
    rw [hs] at hm
    rcases List.mem_cons.1 hm with he | hm
    · exact ⟨y, by simp, by rw [← he]; exact hb, by rw [← he]⟩
    · obtain ⟨n, hn, hr⟩ := List.mem_iff_getElem.1 hm
      refine ⟨{ part pc with entry := .parked (order + n) }, ?_, hb, rfl⟩
      refine List.mem_cons.2 (.inr (List.mem_map.2 ⟨(part pc, n), ?_, rfl⟩))
      exact List.mem_iff_getElem.2 ⟨n, by simpa using hn, by simp [hr]⟩

/-! ### Settling the groups of a tile -/

theorem bare_passHome (q : Squad) : bare { q with groups := passHome q.groups } = bare q := by
  simp only [bare, Squad.mk.injEq, true_and, and_true]
  unfold passHome
  split
  · rfl
  · split
    · rfl
    · simp only [mapIf, List.map_map]
      apply List.map_congr_left
      intro g _
      simp only [Function.comp]
      split <;> rfl

theorem bare_setEntry (q : Squad) (p : Group → Bool) (e : Entry) (k : Nat) :
    bare { q with groups := mapIf p (fun g => { g with entry := e, cause := k }) q.groups } = bare q := by
  simp only [bare, Squad.mk.injEq, true_and, and_true]
  simp only [mapIf, List.map_map]
  apply List.map_congr_left
  intro g _
  simp only [Function.comp]
  split <;> rfl

theorem fillPool_squads (n : Nat) (w : Workgroup) :
    { fillPool n w with squads := [] } = { w with squads := [] } ∧
    ∀ k, ((fillPool n w).squad? k).map bare = (w.squad? k).map bare := by
  induction n generalizing w with
  | zero => simp [fillPool]
  | succ n ih =>
    unfold fillPool
    split
    · obtain ⟨h1, h2⟩ := ih (w.updSquad _ _)
      refine ⟨h1, fun k => (h2 k).trans ?_⟩
      rw [squad_updSquad]
      · split
        · cases w.squad? k <;> simp [bare_setEntry]
        · rfl
      · intro q hq; exact hq
    · simp

end Sys2Proof.Laws
end

