-- ==== Sys2Proof/Laws/Retire.lean ====
section
/-! SUPPORT. What completing an instruction does (Machine/Ops.lean): `putSquad`, `advance`, `retireTo`, and issue. -/

namespace Sys2Proof.Laws

open Sys2Proof.Machine Sys2Proof.Safety

/-! ### Putting a squad back -/

theorem squad?_eq {s : State} {t n : Nat} {q : Squad} (h : s.squad? t n = some q) :
    ∃ w, (s.tile t).wg = some w ∧ w.squad? n = some q := by
  unfold State.squad? at h
  cases hw : (s.tile t).wg with
  | none => simp [hw] at h
  | some w => exact ⟨w, rfl, by simpa [hw] using h⟩

/-- Putting back a squad keeps every other squad, and everything outside the tile. -/
theorem putSquad_spec {s : State} {t : Nat} {old q : Squad} (n : Nat) (h : s.squad? t q.slot = some old) :
    ∃ r, (s.putSquad t q n).squad? t q.slot = some r ∧ bare r = bare q ∧
      tileKept s (s.putSquad t q n) t q.slot ∧ outsideKept s (s.putSquad t q n) t := by
  obtain ⟨w, hw, hq⟩ := squad?_eq h
  have htile : (s.putSquad t q n).tile t = (s.tile t).settle q n := by simp [State.putSquad]
  have hset : (s.tile t).settle q n = { s.tile t with
      wg := some (fillPool 512 (w.updSquad q.slot fun _ => { q with groups := passHome q.groups }))
      parkSeq := (s.tile t).parkSeq + n } := by simp [Tile.settle, hw]
  obtain ⟨f1, f2⟩ := fillPool_squads 512 (w.updSquad q.slot fun _ => { q with groups := passHome q.groups })
  have hs : ∀ k, ((s.putSquad t q n).squad? t k).map bare =
      if k = q.slot then some (bare q) else (w.squad? k).map bare := by
    intro k
    have e : (s.putSquad t q n).squad? t k =
        (fillPool 512 (w.updSquad q.slot fun _ => { q with groups := passHome q.groups })).squad? k := by
      simp [State.squad?, htile, hset]
    rw [e, f2 k, squad_updSquad]
    · split
      · rename_i hk; subst hk; rw [hq]; simp [bare_passHome]
      · rfl
    · intro _ _; rfl
  have hown := hs q.slot
  simp only [if_true] at hown
  obtain ⟨r, hr, hb⟩ := Option.map_eq_some_iff.1 hown
  refine ⟨r, hr, hb, ⟨?_, ?_, ?_⟩, ?_, ?_⟩
  · rw [htile, hset]
  · rw [htile, hset, hw]
    simp only [Option.map_some, Option.some.injEq]
    exact f1
  · intro k hk
    rw [hs k]
    simp [hk, State.squad?, hw]
  · rfl
  · intro m hm
    exact tile_setTile_other hm s _

/-! ### Advancing -/

theorem advance_moved {c : Ctx} {q : Squad} {next : Nat → Option DWord} {pcs : Nat → DWord} {order now after : Nat}
    (h : ∀ j ∈ lanesOf c.g.threads, next j = some (pcs j)) : moved c pcs (q.advance c.g next order now after) := by
  intro j hj
  obtain ⟨x, hx, h1, h2⟩ := splitGroup_mem (order := order) (now := now) (after := after) hj (h j hj)
  obtain ⟨y, hy, h3, h4⟩ := foldl_addGroup_stands (splitGroup c.g next order now after)
    (q.groups.filter fun k => k.pc ≠ c.g.pc) hx j h1
  exact ⟨y, hy, h3, h4.trans h2⟩

theorem moved_of_bare {c : Ctx} {pcs : Nat → DWord} {q r : Squad} (h : bare r = bare q) (hq : moved c pcs q) : moved c pcs r := by
  intro j hj
  obtain ⟨g, hg, h1, h2⟩ := hq j hj
  have hm : ({ g with entry := .home, cause := 0 } : Group) ∈ (bare q).groups := List.mem_map.2 ⟨g, hg, rfl⟩
  rw [← h] at hm
  obtain ⟨x, hx, he⟩ := List.mem_map.1 hm
  have e1 : x.threads = g.threads := (congrArg Group.threads he :)
  have e2 : x.pc = g.pc := (congrArg Group.pc he :)
  exact ⟨x, hx, by rw [e1]; exact h1, by rw [e2]; exact h2⟩

/-! ### Dead marks -/

theorem setReg_reg (q : Squad) (n m : Nat) (v : RegVal) (hm : m < 112) :
    (q.setReg n v).reg m = if m = n then v else q.reg m := by
  simp only [Squad.setReg, Squad.reg, Vector.toList_setIfInBounds, List.getD_eq_getElem?_getD, List.getElem?_set]
  by_cases h : n = m
  · subst h; simp [hm]
  · simp [h, Ne.symm h]

theorem setOc_slot (q : Squad) (n m : Nat) (v : LaneEntry) (hm : m < 8) :
    ({ q with oc := q.oc.setIfInBounds n v } : Squad).ocSlot m = if m = n then v else q.ocSlot m := by
  simp only [Squad.ocSlot, Vector.toList_setIfInBounds, List.getD_eq_getElem?_getD, List.getElem?_set]
  by_cases h : n = m
  · subst h; simp [hm]
  · simp [h, Ne.symm h]

theorem setLt_latch (q : Squad) (n m : Nat) (v : LaneEntry) (hm : m < 4) :
    ({ q with lt := q.lt.setIfInBounds n v } : Squad).latch m = if m = n then v else q.latch m := by
  simp only [Squad.latch, Vector.toList_setIfInBounds, List.getD_eq_getElem?_getD, List.getElem?_set]
  by_cases h : n = m
  · subst h; simp [hm]
  · simp [h, Ne.symm h]

/-- Two squads that agree but for registers, slots and latches. -/
def SameRest (p q : Squad) : Prop := { p with regs := q.regs, oc := q.oc, lt := q.lt } = q

theorem SameRest.rfl' (q : Squad) : SameRest q q := rfl

theorem SameRest.trans {p q r : Squad} (h : SameRest p q) (k : SameRest q r) : SameRest p r := by
  unfold SameRest at *
  rw [← k, ← h]

theorem kill_rest (q : Squad) (o : Operand) : SameRest (q.kill o) q := by cases o <;> rfl

theorem kills_rest (os : List Operand) (q : Squad) : SameRest (os.foldl Squad.kill q) q := by
  induction os generalizing q with
  | nil => rfl
  | cons o r ih => exact (ih _).trans (kill_rest q o)

theorem kill_reg (q : Squad) (o : Operand) (n : Fin 112) :
    (q.kill o).reg n.val = if o = .v n then .dead else q.reg n.val := by
  cases o with
  | v m =>
    simp only [Squad.kill, setReg_reg _ _ _ _ n.isLt, Operand.v.injEq]
    by_cases h : m = n
    · simp [h]
    · have : ¬ n.val = m.val := fun e => h (Fin.ext e.symm)
      simp [h, this]
  | oc _ | lt _ | zero | lane | himm | bad => simp [Squad.kill, Squad.reg]

theorem kill_oc (q : Squad) (o : Operand) (n : Fin 8) :
    (q.kill o).ocSlot n.val = if o = .oc n then { q.ocSlot n.val with valid := 0 } else q.ocSlot n.val := by
  cases o with
  | oc m =>
    simp only [Squad.kill, setOc_slot _ _ _ _ n.isLt, Operand.oc.injEq]
    by_cases h : m = n
    · simp [h]
    · have : ¬ n.val = m.val := fun e => h (Fin.ext e.symm)
      simp [h, this]
  | v _ | lt _ | zero | lane | himm | bad => simp [Squad.kill, Squad.ocSlot, Squad.setReg]

theorem kill_lt (q : Squad) (o : Operand) (n : Fin 4) :
    (q.kill o).latch n.val = if o = .lt n then { q.latch n.val with valid := 0 } else q.latch n.val := by
  cases o with
  | lt m =>
    simp only [Squad.kill, setLt_latch _ _ _ _ n.isLt, Operand.lt.injEq]
    by_cases h : m = n
    · simp [h]
    · have : ¬ n.val = m.val := fun e => h (Fin.ext e.symm)
      simp [h, this]
  | v _ | oc _ | zero | lane | himm | bad => simp [Squad.kill, Squad.latch, Squad.setReg]

theorem kills_reg (os : List Operand) (q : Squad) (n : Fin 112) :
    (os.foldl Squad.kill q).reg n.val = if os.contains (.v n) then .dead else q.reg n.val := by
  induction os generalizing q with
  | nil => simp
  | cons o r ih =>
    rw [List.foldl_cons, ih, kill_reg]
    by_cases h1 : Operand.v n ∈ r <;> by_cases h2 : o = .v n <;> simp [h1, h2, Ne.symm]

theorem kills_oc (os : List Operand) (q : Squad) (n : Fin 8) :
    (os.foldl Squad.kill q).ocSlot n.val = if os.contains (.oc n) then { q.ocSlot n.val with valid := 0 } else q.ocSlot n.val := by
  induction os generalizing q with
  | nil => simp
  | cons o r ih =>
    rw [List.foldl_cons, ih, kill_oc]
    by_cases h1 : Operand.oc n ∈ r <;> by_cases h2 : o = .oc n <;> simp [h1, h2, Ne.symm]

theorem kills_lt (os : List Operand) (q : Squad) (n : Fin 4) :
    (os.foldl Squad.kill q).latch n.val = if os.contains (.lt n) then { q.latch n.val with valid := 0 } else q.latch n.val := by
  induction os generalizing q with
  | nil => simp
  | cons o r ih =>
    rw [List.foldl_cons, ih, kill_lt]
    by_cases h1 : Operand.lt n ∈ r <;> by_cases h2 : o = .lt n <;> simp [h1, h2, Ne.symm]

/-- The dead marks of an instruction, and nothing else, change storage. -/
theorem mark_spec (i : Instr) (c : Ctx) (b : Squad) :
    storageFrom i c b [] (c.mark i b) ∧ SameRest (c.mark i b) b := by
  by_cases hw : c.whole = true
  · refine ⟨⟨?_, ?_, ?_⟩, ?_⟩
    · intro n _; simp only [Ctx.mark, hw, if_true, Bool.true_and]; exact kills_reg _ _ n
    · intro n _; simp only [Ctx.mark, hw, if_true, Bool.true_and]; exact kills_oc _ _ n
    · intro n _; simp only [Ctx.mark, hw, if_true, Bool.true_and]; exact kills_lt _ _ n
    · simp only [Ctx.mark, hw, if_true]; exact kills_rest _ b
  · simp only [Bool.not_eq_true] at hw
    refine ⟨⟨?_, ?_, ?_⟩, ?_⟩ <;> simp [Ctx.mark, hw, SameRest]

/-! ### Results -/

theorem put_rest (q : Squad) (o : Operand) (m : Mask) (whole : Bool) (r : RegVal) : SameRest (q.put o m whole r) q := by
  cases o <;> rfl

theorem put_reg_other (q : Squad) (o : Operand) (m : Mask) (whole : Bool) (r : RegVal) (n : Fin 112) (h : .v n ≠ o) :
    (q.put o m whole r).reg n.val = q.reg n.val := by
  cases o with
  | v k =>
    have : ¬ n.val = k.val := fun e => h (by rw [Fin.ext e])
    simp [Squad.put, setReg_reg _ _ _ _ n.isLt, this]
  | oc _ | lt _ | zero | lane | himm | bad => simp [Squad.put, Squad.reg]

theorem put_oc_other (q : Squad) (o : Operand) (m : Mask) (whole : Bool) (r : RegVal) (n : Fin 8) (h : .oc n ≠ o) :
    (q.put o m whole r).ocSlot n.val = q.ocSlot n.val := by
  cases o with
  | oc k =>
    have : ¬ n.val = k.val := fun e => h (by rw [Fin.ext e])
    simp [Squad.put, setOc_slot _ _ _ _ n.isLt, this]
  | v _ | lt _ | zero | lane | himm | bad => simp [Squad.put, Squad.ocSlot, Squad.setReg]

theorem put_lt_other (q : Squad) (o : Operand) (m : Mask) (whole : Bool) (r : RegVal) (n : Fin 4) (h : .lt n ≠ o) :
    (q.put o m whole r).latch n.val = q.latch n.val := by
  cases o with
  | lt k =>
    have : ¬ n.val = k.val := fun e => h (by rw [Fin.ext e])
    simp [Squad.put, setLt_latch _ _ _ _ n.isLt, this]
  | v _ | oc _ | zero | lane | himm | bad => simp [Squad.put, Squad.latch, Squad.setReg]

/-- A result leaves every other storage alone. -/
theorem put_kept {i : Instr} {c : Ctx} {b : Squad} {os : List Operand} {q : Squad} (o : Operand) (m : Mask) (whole : Bool)
    (r : RegVal) (h : storageFrom i c b os q) : storageFrom i c b (o :: os) (q.put o m whole r) := by
  obtain ⟨h1, h2, h3⟩ := h
  refine ⟨fun n hn => ?_, fun n hn => ?_, fun n hn => ?_⟩ <;> simp only [List.mem_cons, not_or] at hn
  · rw [put_reg_other _ _ _ _ _ _ hn.1]; exact h1 n hn.2
  · rw [put_oc_other _ _ _ _ _ _ hn.1]; exact h2 n hn.2
  · rw [put_lt_other _ _ _ _ _ _ hn.1]; exact h3 n hn.2

/-! ### Completing -/

/-- Two squads that agree but for storage and groups. -/
def Alike (p q : Squad) : Prop :=
  { p with regs := q.regs, oc := q.oc, lt := q.lt, groups := q.groups } = q

theorem SameRest.alike {p q r : Squad} (h : SameRest p q) (k : Alike q r) : Alike p r := by
  unfold Alike SameRest at *
  have := (congrArg (fun x : Squad => { x with regs := r.regs, oc := r.oc, lt := r.lt, groups := r.groups }) h :)
  exact Eq.trans this k

theorem mark_alike (i : Instr) (c : Ctx) (b : Squad) : Alike (c.mark i b) b := by
  have := (mark_spec i c b).2
  exact (congrArg (fun x : Squad => { x with groups := b.groups }) this :)

/-- Completing an instruction: m is the squad before its lanes move, b what the squad is but for them and its results. -/
theorem retireTo_spec {s : State} {i : Instr} {c : Ctx} {old b : Squad} {f : Squad → Squad} {next : Nat → Option DWord}
    {pcs : Nat → DWord} {dst : List Operand} {after : Nat} (hs : s.squad? c.tile c.sq.slot = some old) (hb0 : b.slot = c.sq.slot)
    (hd : (c.readsDead i && c.sq.drtrap) = false) (hf : storageFrom i c b dst (f (c.mark i old)))
    (hr : Alike (f (c.mark i old)) b)
    (hn : ∀ j ∈ lanesOf c.g.threads, next j = some (pcs j)) :
    ∃ q, SquadOnly s c (s.retireTo i c f next after) q ∧ PassedFrom i c b dst pcs q ∧
      (∀ o j, laneVal q o j = laneVal (f (c.mark i old)) o j ∧ laneValid q o j = laneValid (f (c.mark i old)) o j) := by
  generalize hm : f (c.mark i old) = mq at *
  let q0 := if i.isTerminator then { mq with inSpan := false } else mq
  let q1 := q0.advance c.g next (s.tile c.tile).parkSeq s.coreCycles after
  have hslot : q1.slot = c.sq.slot := by
    have e1 : mq.slot = b.slot := (congrArg Squad.slot hr :)
    show q0.slot = _
    simp only [q0]; split <;> simp [e1, hb0]
  have hs' : s.squad? c.tile q1.slot = some old := by rw [hslot]; exact hs
  obtain ⟨q, hq, hb, ht, ho⟩ := putSquad_spec (nextPcs c.g.threads next).length hs'
  have e : s.retireTo i c f next after = s.putSquad c.tile q1 (nextPcs c.g.threads next).length := by
    simp only [State.retireTo, hs, hm, State.deadTrap, hd]
    simp [q1, q0]
  rw [e]
  rw [hslot] at hq ht
  have reg : ∀ n, q.reg n = mq.reg n := by
    intro n
    have : q.regs = q1.regs := (congrArg Squad.regs hb :)
    show q.regs.toList.getD n .dead = _
    rw [this]; simp only [q1, q0, Squad.advance]; split <;> rfl
  have oc : ∀ n, q.ocSlot n = mq.ocSlot n := by
    intro n
    have : q.oc = q1.oc := (congrArg Squad.oc hb :)
    show q.oc.toList.getD n _ = _
    rw [this]; simp only [q1, q0, Squad.advance]; split <;> rfl
  have lt : ∀ n, q.latch n = mq.latch n := by
    intro n
    have : q.lt = q1.lt := (congrArg Squad.lt hb :)
    show q.lt.toList.getD n _ = _
    rw [this]; simp only [q1, q0, Squad.advance]; split <;> rfl
  refine ⟨q, ⟨hq, ht, ho⟩, ⟨⟨?_, ?_, ?_⟩, ?_, ?_, ?_⟩, ?_⟩
  · intro n hn; rw [reg]; exact hf.1 n hn
  · intro n hn; rw [oc]; exact hf.2.1 n hn
  · intro n hn; rw [lt]; exact hf.2.2 n hn
  · exact moved_of_bare hb (advance_moved hn)
  · have h1 : q.inSpan = q1.inSpan := (congrArg Squad.inSpan hb :)
    have h2 : mq.inSpan = b.inSpan := (congrArg Squad.inSpan hr :)
    rw [h1]; simp only [q1, q0, Squad.advance]; split <;> simp_all
  · have h1 : { q with regs := b.regs, oc := b.oc, lt := b.lt, groups := b.groups, inSpan := b.inSpan }
        = { mq with regs := b.regs, oc := b.oc, lt := b.lt, groups := b.groups, inSpan := b.inSpan } := by
      have := (congrArg (fun x : Squad => { x with regs := b.regs, oc := b.oc, lt := b.lt, groups := b.groups, inSpan := b.inSpan }) hb :)
      refine Eq.trans this ?_
      simp only [bare, q1, q0, Squad.advance]; split <;> rfl
    have h3 := (congrArg (fun x : Squad => { x with inSpan := b.inSpan }) hr :)
    exact h1.trans h3
  · intro o j
    cases o <;> simp [laneVal, laneValid, Squad.peek, reg, oc, lt]

/-- One that changes only registers, slots and latches of a squad that is as it issued. -/
theorem retireTo_only {s : State} {i : Instr} {c : Ctx} {f : Squad → Squad} {next : Nat → Option DWord} {pcs : Nat → DWord}
    {dst : List Operand} {after : Nat} (hs : s.squad? c.tile c.sq.slot = some c.sq)
    (hd : (c.readsDead i && c.sq.drtrap) = false) (hf : storageFrom i c c.sq dst (f (c.mark i c.sq)))
    (hr : SameRest (f (c.mark i c.sq)) (c.mark i c.sq)) (hn : ∀ j ∈ lanesOf c.g.threads, next j = some (pcs j)) :
    ∃ q, SquadOnly s c (s.retireTo i c f next after) q ∧ PassedFrom i c c.sq dst pcs q ∧
      (∀ o j, laneVal q o j = laneVal (f (c.mark i c.sq)) o j ∧ laneValid q o j = laneValid (f (c.mark i c.sq)) o j) :=
  retireTo_spec hs rfl hd hf (SameRest.alike hr (mark_alike i c c.sq)) hn

end Sys2Proof.Laws
end

