-- ==== Sys2Proof/Laws/Issue.lean ====
section
/-! SUPPORT. What issuing an instruction does (R148), and instructions that complete with no effect but on their own squad. -/

namespace Sys2Proof.Laws

open Sys2Proof.Machine Sys2Proof.Safety

/-! ### Writing due results keeps everything but storage -/

/-- Two squads that agree but for storage and the results on their way. -/
def SameBut (p q : Squad) : Prop := { p with regs := q.regs, oc := q.oc, lt := q.lt, outstanding := q.outstanding } = q

theorem SameBut.refl (q : Squad) : SameBut q q := rfl

theorem SameBut.trans {p q r : Squad} (h : SameBut p q) (k : SameBut q r) : SameBut p r := by
  unfold SameBut at *
  rw [← k, ← h]

theorem SameRest.but {p q : Squad} (h : SameRest p q) : SameBut p q := by
  have := (congrArg (fun x : Squad => { x with outstanding := q.outstanding }) h :)
  exact this

theorem deliver_rest (q : Squad) (o : Outstanding) (m : Mask) : SameRest (q.deliver o m) q := by
  unfold Squad.deliver
  dsimp only
  split
  · exact (put_rest _ _ _ _ _).trans (put_rest _ _ _ _ _)
  · exact put_rest _ _ _ _ _

theorem delivers_rest (l : List Outstanding) (p : Outstanding → Bool) (q : Squad) :
    SameRest (l.foldl (fun q o => if p o then q.deliver o o.lanes else q) q) q := by
  induction l generalizing q with
  | nil => rfl
  | cons o r ih =>
    refine (ih _).trans ?_
    dsimp only
    split
    · exact deliver_rest _ _ _
    · rfl

theorem setOutstanding_but (q : Squad) (l : List Outstanding) : SameBut { q with outstanding := l } q := rfl

theorem deliverAll_but (q : Squad) (p : Outstanding → Bool) : SameBut (q.deliverAll p) q :=
  (setOutstanding_but _ _).trans (delivers_rest _ _ _).but

theorem drainTo_but (q : Squad) (n : Nat) : SameBut (q.drainTo n) q := by
  refine (setOutstanding_but _ _).trans (SameRest.but ?_)
  simpa using delivers_rest (q.outstanding.take (q.outstanding.length - n)) (fun _ => true) q

theorem settle_but (q : Squad) (i : Instr) (g : Group) : SameBut (q.settle i g) q := by
  unfold Squad.settle
  dsimp only
  split
  · exact (drainTo_but _ _).trans (deliverAll_but _ _)
  · exact (setOutstanding_but _ _).trans ((drainTo_but _ _).trans (deliverAll_but _ _))

theorem settle_slot (q : Squad) (i : Instr) (g : Group) : (q.settle i g).slot = q.slot :=
  (congrArg Squad.slot (settle_but q i g) :)

theorem settle_live (q : Squad) (i : Instr) (g : Group) : (q.settle i g).live = q.live :=
  (congrArg Squad.live (settle_but q i g) :)

theorem settle_groups (q : Squad) (i : Instr) (g : Group) : (q.settle i g).groups = q.groups :=
  (congrArg Squad.groups (settle_but q i g) :)

/-- A squad that is replaced twice is replaced by the second. -/
theorem updSquad_twice (s : State) (t n : Nat) (a b : Squad) (h : a.slot = n) :
    (s.updSquad t n fun _ => a).updSquad t n (fun _ => b) = s.updSquad t n fun _ => b := by
  have e : ∀ l : List Squad, mapIf (fun q => q.slot = n) (fun _ => b) (mapIf (fun q => q.slot = n) (fun _ => a) l) =
      mapIf (fun q => q.slot = n) (fun _ => b) l := by
    intro l
    simp only [mapIf, List.map_map]
    refine List.map_congr_left fun q _ => ?_
    by_cases hq : q.slot = n <;> simp [hq, h]
  have f : ∀ tl : Tile, (tl.updWg fun w => w.updSquad n fun _ => a).updWg (fun w => w.updSquad n fun _ => b) =
      tl.updWg fun w => w.updSquad n fun _ => b := by
    intro tl
    simp only [Tile.updWg, Option.map_map]
    congr 1
    cases tl.wg with
    | none => rfl
    | some w => simp [Workgroup.updSquad, e]
  have g : ∀ x y : Tile, (s.setTile t x).setTile t y = s.setTile t y := fun x y => by
    simp only [State.setTile, tabSet_tabSet]
  unfold State.updSquad State.updWg State.updTile
  rw [tile_setTile_same, g]
  exact congrArg (s.setTile t) (f _)

/-! ### The group that issues -/

theorem ctx_squad {s : State} {x : Ctx} (h : s.ctx = some x) :
    ∃ cu, s.cur = some cu ∧ cu.tile = x.tile ∧ (s.tile x.tile).wg = some x.wg ∧ x.wg.squad? x.sq.slot = some x.sq ∧
      x.sq.group? cu.pc = some x.g ∧ x.tl = s.tile x.tile ∧ cu.slot = x.sq.slot := by
  unfold State.ctx at h
  cases hc : s.cur with
  | none => simp [hc] at h
  | some cu =>
    simp only [hc, Option.bind_some, State.at?] at h
    split at h
    · simp at h
    · rename_i tl ht
      split at h
      · simp at h
      · rename_i w hw
        split at h
        · simp at h
        · rename_i q hq
          obtain ⟨g, hg, rfl⟩ := Option.map_eq_some_iff.1 h
          have hs := squad_slot hq
          refine ⟨cu, rfl, rfl, ?_, ?_, hg, ?_, hs.symm⟩
          · simp [State.tile, ht, hw]
          · simpa [hs] using hq
          · simp [State.tile, ht]

theorem ready_squad {i : Instr} {s : State} {c : Ctx} (h : Issuing i s c) : (ready s c).squad? c.tile c.sq.slot = some c.sq := by
  obtain ⟨x, hx, _, rfl⟩ := h
  obtain ⟨cu, _, _, hw, hq, _⟩ := ctx_squad hx
  have hl := settle_slot x.sq i x.g
  unfold ready State.squad?
  rw [tile_updSquad_wg]
  simp only [hw, Option.map_some, Option.bind_some]
  rw [squad_updSquad]
  · simp [hl, hq]
  · intro _ _; exact rfl

theorem squad_before {i : Instr} {s : State} {c : Ctx} (h : Issuing i s c) : ∃ q, s.squad? c.tile c.sq.slot = some q := by
  obtain ⟨x, hx, _, rfl⟩ := h
  obtain ⟨cu, _, _, hw, hq, _⟩ := ctx_squad hx
  refine ⟨x.sq, ?_⟩
  simp only [settle_slot]
  unfold State.squad?
  rw [hw]
  exact hq

/-- Replacing one squad keeps everything but it. -/
theorem updSquad_kept (s : State) (t n : Nat) (f : Squad → Squad) (hf : ∀ q, q.slot = n → (f q).slot = n) :
    tileKept s (s.updSquad t n f) t n ∧ outsideKept s (s.updSquad t n f) t := by
  refine ⟨⟨?_, ?_, ?_⟩, rfl, ?_⟩
  · simp only [State.updSquad, State.updWg, tile_updTile_same, Tile.updWg]
  · rw [tile_updSquad_wg]; cases (s.tile t).wg <;> simp [Workgroup.updSquad]
  · intro k hk
    unfold State.squad?
    rw [tile_updSquad_wg]
    cases (s.tile t).wg with
    | none => rfl
    | some w => simp only [Option.map_some, Option.bind_some]; rw [squad_updSquad _ _ _ _ hf]; simp [hk]
  · intro m hm; exact tile_updTile_other hm s _

theorem tileKept_trans {r s t : State} {n k : Nat} (h : tileKept r s n k) (g : tileKept s t n k) : tileKept r t n k := by
  obtain ⟨h1, h2, h3⟩ := h
  obtain ⟨g1, g2, g3⟩ := g
  refine ⟨?_, g2.trans h2, fun m hm => (g3 m hm).trans (h3 m hm)⟩
  rw [← h1, ← g1]

theorem outsideKept_trans {r s t : State} {n : Nat} (h : outsideKept r s n) (g : outsideKept s t n) : outsideKept r t n := by
  obtain ⟨h1, h2⟩ := h
  obtain ⟨g1, g2⟩ := g
  refine ⟨?_, fun m hm => (g2 m hm).trans (h2 m hm)⟩
  have := (congrArg (fun x : State => { x with tiles := r.tiles, freeCtr := r.freeCtr }) g1 :)
  rw [← h1]; exact this

theorem ready_kept (s : State) (c : Ctx) : tileKept s (ready s c) c.tile c.sq.slot ∧ outsideKept s (ready s c) c.tile :=
  updSquad_kept s c.tile c.sq.slot _ fun _ _ => rfl

theorem squadOnly_of_ready {s : State} {c : Ctx} {t : State} {q : Squad} (h : SquadOnly (ready s c) c t q) : SquadOnly s c t q :=
  ⟨h.1, tileKept_trans (ready_kept s c).1 h.2.1, outsideKept_trans (ready_kept s c).2 h.2.2⟩

/-! ### Issue -/

@[simp] theorem reading_tile (c : Ctx) (i : Instr) : (c.reading i).tile = c.tile := by unfold Ctx.reading; split <;> rfl
@[simp] theorem reading_group (c : Ctx) (i : Instr) : (c.reading i).g = c.g := by unfold Ctx.reading; split <;> rfl
@[simp] theorem reading_slot (c : Ctx) (i : Instr) : (c.reading i).sq.slot = c.sq.slot := by unfold Ctx.reading; split <;> rfl
@[simp] theorem reading_drtrap (c : Ctx) (i : Instr) : (c.reading i).sq.drtrap = c.sq.drtrap := by unfold Ctx.reading; split <;> rfl
@[simp] theorem reading_seen (c : Ctx) (i : Instr) (n : Nat) : (c.reading i).seen.reg n = c.seen.reg n := by
  unfold Ctx.seen
  rw [reading_group]
  unfold Ctx.reading
  cases c.g.read <;> dsimp only <;> split <;> rfl

@[simp] theorem reading_src (c : Ctx) (i : Instr) (o : Operand) : (c.reading i).src o = c.src o := by
  unfold Ctx.src Ctx.seen
  rw [reading_group]
  unfold Ctx.reading
  cases c.g.read <;> dsimp only <;> split <;> rfl

/-- Reading its sources changes nothing of a context that its reading looks at. -/
@[simp] theorem readsDead_reading (c : Ctx) (i : Instr) : (c.reading i).readsDead i = c.readsDead i := by simp [Ctx.readsDead]

/-- An instruction that issues, or that waits and is tried again, acts on the state in which its squad's due results are
written and a dead read is noted. -/
theorem issueIf_acts {i : Instr} {s : State} {y : Ctx} {wrong need : Ctx → Bool} {body : State → Ctx → State} (h : Issuing i s y)
    (ht : y.g.inWait = true ∨ (wrong y = false ∧
      issueTrap i y (s.flash.stepping = 0) (y.priv s) (i.isPrivileged || need y) = none)) :
    issueIf i wrong need s body = .next (body (ready s (y.reading i)) (y.reading i)) := by
  obtain ⟨x, hx, hf, rfl⟩ := h
  have hp : s.passFences x = (s, x) := by simp [State.passFences, hf]
  have hg : ¬ ((decide (x.g.fences ≠ []) && fencedRow i) = true) := by simp [hf]
  have e2 : (s.updSquad x.tile (x.sq.settle i x.g).slot fun _ => x.sq.settle i x.g).flash = s.flash := rfl
  have e3 : ∀ y : Ctx, y.priv (s.updSquad x.tile (x.sq.settle i x.g).slot fun _ => x.sq.settle i x.g) = y.priv s := fun _ => rfl
  have ht' : ({ x with sq := x.sq.settle i x.g } : Ctx).trap i wrong need
      (s.updSquad x.tile (x.sq.settle i x.g).slot fun _ => x.sq.settle i x.g) = none := by
    unfold Ctx.trap
    rw [e2, e3]
    rcases ht with ht | ⟨hw, ht⟩
    · have hi : x.g.inWait = true := ht
      simp [hi]
    · rw [hw, ht]; simp
  unfold issueIf
  rw [hx]
  dsimp only
  rw [hp]
  dsimp only
  rw [if_neg hg, ht']
  dsimp only
  have e := updSquad_twice s x.tile (x.sq.settle i x.g).slot (x.sq.settle i x.g)
    (({ x with sq := x.sq.settle i x.g } : Ctx).reading i).sq rfl
  unfold ready
  simp only [reading_tile, reading_slot]
  exact congrArg (fun z => Host.Outcome.next (body z _)) e

/-- An instruction that issues without a trap. -/
theorem issue_acts {i : Instr} {s : State} {c : Ctx} {body : State → Ctx → State} (h : Issues i s c) :
    issue i s body = .next (body (ready s c) c) := by
  obtain ⟨y, hy, ht, _, rfl⟩ := h
  exact issueIf_acts hy (.inr ⟨rfl, by simpa using ht⟩)

/-- One that waits and is tried again. -/
theorem issue_resumes {i : Instr} {s : State} {c : Ctx} {body : State → Ctx → State} (h : Resumes i s c) :
    issue i s body = .next (body (ready s c) c) := by
  obtain ⟨y, hy, hw, _, rfl⟩ := h
  exact issueIf_acts hy (.inl hw)

/-- After a dead read is noted, the squad stands in its tile. -/
theorem reading_squad {i : Instr} {s : State} {y : Ctx} (h : Issuing i s y) :
    (ready s (y.reading i)).squad? (y.reading i).tile (y.reading i).sq.slot = some (y.reading i).sq := by
  have e : ready s (y.reading i) = (ready s y).updSquad y.tile y.sq.slot fun _ => (y.reading i).sq := by
    have := updSquad_twice s y.tile y.sq.slot y.sq (y.reading i).sq rfl
    unfold ready
    simp only [reading_tile, reading_slot]
    exact this.symm
  rw [e]
  simp only [reading_tile, reading_slot]
  have hr := ready_squad h
  unfold State.squad? at *
  rw [tile_updSquad_wg]
  cases hw : ((ready s y).tile y.tile).wg with
  | none => rw [hw] at hr; simp at hr
  | some w =>
    rw [hw] at hr
    simp only [Option.map_some, Option.bind_some] at hr ⊢
    rw [squad_updSquad]
    · simp [hr]
    · intro _ _; exact reading_slot y i

theorem issues_squad {i : Instr} {s : State} {c : Ctx} (h : Issues i s c) : (ready s c).squad? c.tile c.sq.slot = some c.sq := by
  obtain ⟨y, hy, _, _, rfl⟩ := h
  exact reading_squad hy

theorem issues_quiet {i : Instr} {s : State} {c : Ctx} (h : Issues i s c) : (c.readsDead i && c.sq.drtrap) = false := by
  obtain ⟨y, _, _, hd, rfl⟩ := h
  simpa using hd

/-- An instruction whose body completes with a change of its squad's storage. -/
theorem completes {i : Instr} {s : State} {c : Ctx} {f : Squad → Squad} {next : Nat → Option DWord} {pcs : Nat → DWord}
    {dst : List Operand} {after : Nat} (h : Issues i s c)
    (he : exec i s = .next ((ready s c).retireTo i c f next after))
    (hf : storageFrom i c c.sq dst (f (c.mark i c.sq))) (hr : SameRest (f (c.mark i c.sq)) (c.mark i c.sq))
    (hn : ∀ j ∈ lanesOf c.g.threads, next j = some (pcs j)) :
    ∃ t q, Completes i s c dst pcs t q ∧
      (∀ o j, laneVal q o j = laneVal (f (c.mark i c.sq)) o j ∧ laneValid q o j = laneValid (f (c.mark i c.sq)) o j) := by
  obtain ⟨q, h1, h2, h3⟩ := retireTo_only (issues_squad h) (issues_quiet h) hf hr hn
  exact ⟨_, q, ⟨he, squadOnly_of_ready h1, h2⟩, h3⟩

/-- One that falls through. -/
theorem completes_fall {i : Instr} {s : State} {c : Ctx} {f : Squad → Squad} {dst : List Operand} (h : Issues i s c)
    (he : exec i s = .next ((ready s c).retire i c f))
    (hf : storageFrom i c c.sq dst (f (c.mark i c.sq))) (hr : SameRest (f (c.mark i c.sq)) (c.mark i c.sq)) :
    ∃ t q, Completes i s c dst (fallsThrough c) t q ∧
      (∀ o j, laneVal q o j = laneVal (f (c.mark i c.sq)) o j ∧ laneValid q o j = laneValid (f (c.mark i c.sq)) o j) :=
  completes h he hf hr fun _ _ => rfl

end Sys2Proof.Laws
end

