-- ==== Sys2Proof/Laws/Lanes.lean ====
section
/-! SUPPORT. Results in lanes (R143): what writing one leaves in the destination, uniform sources, and instructions that
write one result and fall through. -/

namespace Sys2Proof.Laws

open Sys2Proof.Machine Sys2Proof.Safety

/-! ### Operands -/

theorem ofBits_toBits (o : Operand) : Operand.ofBits o.toBits = o := by
  cases o with
  | v n => revert n; decide +kernel
  | oc n => revert n; decide +kernel
  | lt n => revert n; decide +kernel
  | zero | lane | himm | bad => decide +kernel

@[simp] theorem plus_zero (o : Operand) : Operand.plus o 0 = o := by
  cases o with
  | v n => exact ofBits_toBits (.v n)
  | oc _ | lt _ | zero | lane | himm | bad => rfl

theorem plus_one_even {o : Operand} (h : o.isGroup 2 2 = true) : ∃ n : Fin 112, ∃ m : Fin 112, o = .v n ∧ Operand.plus o 1 = .v m ∧
    m.val = n.val + 1 := by
  cases o with
  | v n =>
    simp only [Operand.isGroup, Bool.and_eq_true, decide_eq_true_eq, beq_iff_eq] at h
    have hn : n.val + 1 < 112 := by omega
    refine ⟨n, ⟨n.val + 1, hn⟩, rfl, ?_, rfl⟩
    exact ofBits_toBits (.v ⟨n.val + 1, hn⟩)
  | oc _ | lt _ | zero | lane | himm | bad => simp [Operand.isGroup] at h

@[simp] theorem useList_one (o : Operand) : useList ⟨o, 1⟩ = [o] := by simp [useList]

/-! ### Values -/

theorem lane_uniform {r : RegVal} (h : r.isUniform = true) (j : Nat) : r.lane j = r.lane 0 := by
  cases r <;> simp_all [RegVal.isUniform, RegVal.lane]

@[simp] theorem lanesFn_lane (f : Nat → Word) {j : Nat} (h : j < 32) : (lanesFn f).toList.getD j 0 = f j := by
  simp [lanesFn, List.getD_eq_getElem?_getD, h]

theorem put_lane {old r : RegVal} {m : Mask} {whole : Bool} {j : Nat} (hj : j < 32) (hm : m.getLsbD j = true) :
    (old.put r m whole).lane j = r.lane j := by
  unfold RegVal.put
  split
  · rfl
  · simp only [RegVal.merge, RegVal.lane]; rw [lanesFn_lane _ hj]; simp [hm]

theorem put_lane_other {old r : RegVal} {m : Mask} {j : Nat} (hj : j < 32) (hm : m.getLsbD j = false) :
    (old.put r m false).lane j = old.lane j := by
  simp only [RegVal.put, Bool.false_and, Bool.false_eq_true, if_false, RegVal.merge, RegVal.lane]
  rw [lanesFn_lane _ hj]; simp [hm]

theorem put_laneVal {q : Squad} {o : Operand} {m : Mask} {whole : Bool} {r : RegVal} {j : Nat} (ho : o.isDest = true)
    (hz : o ≠ .zero) (hj : j < 32) (hm : m.getLsbD j = true) :
    laneVal (q.put o m whole r) o j = r.lane j ∧ laneValid (q.put o m whole r) o j = true := by
  cases o with
  | v n => simp [laneVal, laneValid, Squad.peek, Squad.put, setReg_reg _ _ _ _ n.isLt, put_lane hj hm]
  | oc n => simp [laneVal, laneValid, Squad.peek, Squad.put, setOc_slot _ _ _ _ n.isLt, LaneEntry.put, put_lane hj hm, hm]
  | lt n => simp [laneVal, laneValid, Squad.peek, Squad.put, setLt_latch _ _ _ _ n.isLt, LaneEntry.put, put_lane hj hm, hm]
  | zero => exact absurd rfl hz
  | lane | himm | bad => simp [Operand.isDest] at ho

theorem put_laneVal_other {q : Squad} {o : Operand} {m : Mask} {r : RegVal} {j : Nat} (hj : j < 32) (hm : m.getLsbD j = false) :
    laneVal (q.put o m false r) o j = laneVal q o j := by
  cases o with
  | v n => simp [laneVal, Squad.peek, Squad.put, setReg_reg _ _ _ _ n.isLt, put_lane_other hj hm]
  | oc n => simp [laneVal, Squad.peek, Squad.put, setOc_slot _ _ _ _ n.isLt, LaneEntry.put, put_lane_other hj hm]
  | lt n => simp [laneVal, Squad.peek, Squad.put, setLt_latch _ _ _ _ n.isLt, LaneEntry.put, put_lane_other hj hm]
  | zero | lane | himm | bad => rfl

/-- Without the whole live set no dead mark takes effect. -/
theorem mark_part {i : Instr} {c : Ctx} (h : c.whole = false) (o : Operand) (j : Nat) :
    laneVal (c.mark i c.sq) o j = laneVal c.sq o j := by
  cases o <;> simp [laneVal, Squad.peek, Ctx.mark, h, Squad.reg, Squad.ocSlot, Squad.latch]

/-! ### What a legal instruction gives -/

theorem issues_wf {i : Instr} {s : State} {c : Ctx} (h : Issues i s c) : i.wf = true := by
  obtain ⟨y, _, this, _, rfl⟩ := h
  unfold issueTrap at this
  split at this
  · simp at this
  · rename_i hi
    unfold isIllegal at hi
    simp only [Bool.or_eq_true, not_or, Bool.not_eq_true'] at hi
    simpa using hi.1.1.1.1

/-- Noting a dead read changes no shape. -/
theorem misshapen_reading (i : Instr) (c : Ctx) : isMisshapen i (c.reading i) = isMisshapen i c := by
  have e : (c.reading i).uniformUse = c.uniformUse := by
    funext u
    simp [Ctx.uniformUse]
  simp [isMisshapen, e]

theorem issues_shaped {i : Instr} {s : State} {c : Ctx} (h : Issues i s c) : isMisshapen i c = false := by
  obtain ⟨y, _, this, _, rfl⟩ := h
  rw [misshapen_reading]
  unfold issueTrap at this
  by_contra hm
  simp only [Bool.not_eq_false] at hm
  simp only [hm, if_true] at this
  split at this <;> try simp at this
  split at this <;> try simp at this
  split at this <;> try simp at this
  split at this <;> try simp at this

theorem wf_dst {i : Instr} (h : i.wf = true) {u : Use} (hu : i.sig.dst = some u) : u.ok = true ∧ u.op.isDest = true := by
  simp only [Instr.wf, hu, Option.all_some, Bool.and_eq_true, Use.okDst] at h
  exact h.1.1.1.1.2

theorem uniform_first {i : Instr} {s : State} {c : Ctx} (h : Issues i s c) (hu : i.sig.uFirst = true) {o : Operand}
    (ho : i.sig.first = some ⟨o, 1⟩) (j : Nat) : c.val o j = c.val o 0 := by
  have := issues_shaped h
  simp only [isMisshapen, hu, ho, Bool.or_eq_false_iff, Bool.true_and, Option.any_some, Bool.not_eq_false', Ctx.uniformUse,
    useList_one, List.all_cons, List.all_nil, Bool.and_true] at this
  exact lane_uniform this.1.1.1 j

theorem uniform_second {i : Instr} {s : State} {c : Ctx} (h : Issues i s c) (hu : i.sig.uSecond = true) {o : Operand}
    (ho : i.sig.second = some ⟨o, 1⟩) (j : Nat) : c.val o j = c.val o 0 := by
  have := issues_shaped h
  simp only [isMisshapen, hu, ho, Bool.or_eq_false_iff, Bool.true_and, Option.any_some, Bool.not_eq_false', Ctx.uniformUse,
    useList_one, List.all_cons, List.all_nil, Bool.and_true] at this
  exact lane_uniform this.1.1.2 j

theorem uniform_extra {i : Instr} {s : State} {c : Ctx} (h : Issues i s c) (hu : i.sig.uExtra = true) {o : Operand}
    (ho : i.sig.extra = [⟨o, 1⟩]) (j : Nat) : c.val o j = c.val o 0 := by
  have := issues_shaped h
  simp only [isMisshapen, hu, ho, Bool.or_eq_false_iff, Bool.true_and, List.any_cons, List.any_nil, Bool.or_false,
    Bool.not_eq_false', Ctx.uniformUse, useList_one, List.all_cons, List.all_nil, Bool.and_true] at this
  exact lane_uniform this.1.2 j

/-! ### One result -/

/-- An instruction that writes one result and falls through. -/
theorem writes_one {i : Instr} {s : State} {c : Ctx} {d : Operand} {r : RegVal} (h : Issues i s c)
    (he : exec i s = .next ((ready s c).retire i c fun q => c.write q d r)) (hd : d.isDest = true) :
    ∃ t q, Completes i s c [d] (fallsThrough c) t q ∧ Holds c q d r.lane ∧ OthersKeep c q d := by
  obtain ⟨t, q, h1, h2⟩ := completes_fall (dst := [d]) h he
    (put_kept d c.g.threads c.whole r (mark_spec i c c.sq).1) (put_rest _ _ _ _ _)
  refine ⟨t, q, h1, ?_, ?_⟩
  · intro hz j hj
    obtain ⟨hj, hm⟩ := mem_lanesOf.1 hj
    obtain ⟨e1, e2⟩ := h2 d j
    have := put_laneVal (q := c.mark i c.sq) (whole := c.whole) (r := r) hd hz hj hm
    exact ⟨e1.trans this.1, e2.trans this.2⟩
  · intro hw j hj hm
    refine (h2 d j).1.trans ?_
    have := put_laneVal_other (q := c.mark i c.sq) (o := d) (r := r) hj hm
    rw [show c.write (c.mark i c.sq) d r = (c.mark i c.sq).put d c.g.threads false r by simp [Ctx.write, hw]]
    exact this.trans (mark_part hw d j)

end Sys2Proof.Laws
end

