-- ==== Sys2Proof/Laws/Memory.lean ====
section
/-! SUPPORT. The laws of the memory list: reads after writes, and the canonical form that every operation keeps. -/

namespace Sys2Proof.Laws

open Sys2Proof.Machine

/-! ### The canonical form -/

theorem wfFrom_cons {lo : Nat} {c : Host.Cell} {r : List Host.Cell} : Memory.wfFrom lo (c :: r) = true ↔
    lo ≤ c.1 ∧ c.2 ≠ Memory.unlisted ∧ Memory.wfFrom (c.1 + 1) r = true := by
  simp [Memory.wfFrom, and_assoc]

theorem wfFrom_mono {lo hi : Nat} {m : List Host.Cell} (h : lo ≤ hi) (hm : Memory.wfFrom hi m = true) :
    Memory.wfFrom lo m = true := by
  cases m with
  | nil => rfl
  | cons c r =>
    rw [wfFrom_cons] at hm ⊢
    exact ⟨h.trans hm.1, hm.2⟩

theorem read_below {lo a : Nat} {m : List Host.Cell} (h : Memory.wfFrom lo m = true) (ha : a < lo) :
    Memory.read m a = Memory.unlisted := by
  cases m with
  | nil => rfl
  | cons c r =>
    rw [wfFrom_cons] at h
    simp [Memory.read, show ¬ c.1 = a by omega, show a < c.1 by omega]

theorem wfFrom_write {lo a : Nat} {m : List Host.Cell} (v : Byte) (h : Memory.wfFrom lo m = true) (ha : lo ≤ a) :
    Memory.wfFrom lo (Memory.write m a v) = true := by
  induction m generalizing lo with
  | nil => by_cases hv : v = Memory.unlisted <;> simp [Memory.write, hv, Memory.wfFrom, ha]
  | cons c r ih =>
    obtain ⟨h1, h2, h3⟩ := wfFrom_cons.1 h
    rcases lt_trichotomy a c.1 with hac | hac | hac
    · by_cases hv : v = Memory.unlisted
      · simpa [Memory.write, hac, hv] using h
      · simpa [Memory.write, hac, hv, wfFrom_cons, ha, show a + 1 ≤ c.1 from hac, h2] using h3
    · subst hac
      by_cases hv : v = Memory.unlisted
      · simpa [Memory.write, hv] using wfFrom_mono (show lo ≤ c.1 + 1 by omega) h3
      · simpa [Memory.write, hv, wfFrom_cons, ha] using h3
    · simpa [Memory.write, show ¬ a < c.1 by omega, show a ≠ c.1 by omega, wfFrom_cons, h1, h2] using ih h3 hac

/-- Writing a byte keeps the canonical form. -/
theorem wf_write {m : List Host.Cell} (a : Nat) (v : Byte) (h : Memory.wf m = true) : Memory.wf (Memory.write m a v) = true :=
  wfFrom_write v h (Nat.zero_le a)

/-- Writing bytes keeps it. -/
theorem wf_writeN {m : List Host.Cell} (a : Nat) (bs : List Byte) (h : Memory.wf m = true) :
    Memory.wf (Memory.writeN m a bs) = true := by
  induction bs generalizing m a with
  | nil => exact h
  | cons b r ih => exact ih (a + 1) (wf_write a b h)

theorem wfFrom_clear {lo : Nat} {m : List Host.Cell} (a b : Nat) (h : Memory.wfFrom lo m = true) :
    Memory.wfFrom lo (Memory.clear m a b) = true := by
  induction m generalizing lo with
  | nil => rfl
  | cons c r ih =>
    obtain ⟨h1, h2, h3⟩ := wfFrom_cons.1 h
    by_cases hc : c.1 < a ∨ b ≤ c.1
    · simpa [Memory.clear, List.filter_cons, hc, wfFrom_cons, h1, h2] using ih h3
    · simpa [Memory.clear, List.filter_cons, hc] using ih (wfFrom_mono (show lo ≤ c.1 + 1 by omega) h3)

/-- Clearing a range keeps it. -/
theorem wf_clear {m : List Host.Cell} (a b : Nat) (h : Memory.wf m = true) : Memory.wf (Memory.clear m a b) = true :=
  wfFrom_clear a b h

/-- Writing cells one after the other keeps it. -/
theorem wf_writes {α : Type} (l : List α) (key : α → Nat) (val : α → Byte) {m : List Host.Cell} (h : Memory.wf m = true) :
    Memory.wf (l.foldl (fun m c => Memory.write m (key c) (val c)) m) = true := by
  induction l generalizing m with
  | nil => exact h
  | cons c r ih => exact ih (wf_write _ _ h)

/-! ### Reading after a write -/

theorem read_write_from {lo a : Nat} {m : List Host.Cell} (v : Byte) (h : Memory.wfFrom lo m = true) (ha : lo ≤ a) (x : Nat) :
    Memory.read (Memory.write m a v) x = if x = a then v else Memory.read m x := by
  induction m generalizing lo with
  | nil =>
    by_cases hx : x = a
    · by_cases hv : v = Memory.unlisted <;> simp [Memory.write, Memory.read, hv, hx]
    · by_cases hv : v = Memory.unlisted <;> simp [Memory.write, Memory.read, hv, hx, Ne.symm hx]
  | cons c r ih =>
    obtain ⟨h1, h2, h3⟩ := wfFrom_cons.1 h
    rcases lt_trichotomy a c.1 with hac | hac | hac
    · by_cases hv : v = Memory.unlisted
      · by_cases hx : x = a
        · subst hx; simp [Memory.write, hac, hv, Memory.read, show ¬ c.1 = x by omega]
        · simp [Memory.write, hac, hv, hx]
      · by_cases hx : x = a
        · subst hx; simp [Memory.write, hac, hv, Memory.read]
        · simp only [Memory.write, hac, hv, Memory.read, hx, if_true, if_false, Ne.symm hx]
          by_cases hl : x < a
          · simp [hl, show ¬ c.1 = x by omega, show x < c.1 by omega]
          · simp [hl]
    · subst hac
      by_cases hv : v = Memory.unlisted
      · by_cases hx : x = c.1
        · subst hx; simp [Memory.write, hv, read_below h3 (Nat.lt_succ_self _)]
        · simp only [Memory.write, hv, Memory.read, hx, lt_irrefl, if_true, if_false, Ne.symm hx]
          by_cases hl : x < c.1
          · simp [hl, read_below h3 (show x < c.1 + 1 by omega)]
          · simp [hl]
      · by_cases hx : x = c.1
        · subst hx; simp [Memory.write, hv, Memory.read]
        · simp [Memory.write, hv, Memory.read, hx, Ne.symm hx]
    · have hne : ¬ a < c.1 := by omega
      have hne' : a ≠ c.1 := by omega
      simp only [Memory.write, hne, hne', if_false, Memory.read]
      by_cases hx : c.1 = x
      · simp [hx, show ¬ x = a by omega]
      · by_cases hl : x < c.1
        · simp [hx, hl, show ¬ x = a by omega]
        · simp only [hx, hl, if_false]
          exact ih h3 hac

/-- A byte that has been written reads as written, and every other as before. -/
theorem read_write {m : List Host.Cell} (h : Memory.wf m = true) (a : Nat) (v : Byte) (x : Nat) :
    Memory.read (Memory.write m a v) x = if x = a then v else Memory.read m x :=
  read_write_from v h (Nat.zero_le a) x

/-- Bytes that have been written read as written, and every other as before. -/
theorem read_writeN {m : List Host.Cell} (h : Memory.wf m = true) (a : Nat) (bs : List Byte) (x : Nat) :
    Memory.read (Memory.writeN m a bs) x = if a ≤ x ∧ x < a + bs.length then bs.getD (x - a) 0 else Memory.read m x := by
  induction bs generalizing m a with
  | nil => simp [Memory.writeN, show ¬ (a ≤ x ∧ x < a) by omega]
  | cons b r ih =>
    rw [Memory.writeN, ih (wf_write a b h), read_write h]
    simp only [List.length_cons]
    by_cases h1 : x = a
    · subst h1; simp
    · by_cases h2 : a + 1 ≤ x ∧ x < a + 1 + r.length
      · obtain ⟨k, rfl⟩ : ∃ k, x = a + 1 + k := ⟨x - (a + 1), by omega⟩
        simp [h2, show a ≤ a + 1 + k ∧ a + 1 + k < a + (r.length + 1) by omega, show a + 1 + k - a = k + 1 by omega]
      · rw [if_neg h2, if_neg h1, if_neg (by omega)]

theorem read_clear_from {lo : Nat} {m : List Host.Cell} (h : Memory.wfFrom lo m = true) (a b x : Nat) :
    Memory.read (Memory.clear m a b) x = if a ≤ x ∧ x < b then Memory.unlisted else Memory.read m x := by
  induction m generalizing lo with
  | nil => simp [Memory.clear, Memory.read]
  | cons c r ih =>
    obtain ⟨h1, h2, h3⟩ := wfFrom_cons.1 h
    have ih := ih h3
    by_cases hc : c.1 < a ∨ b ≤ c.1
    · simp only [Memory.clear, List.filter_cons, hc, Bool.or_eq_true, decide_eq_true_eq, if_true, Memory.read]
      by_cases hx : c.1 = x
      · subst hx; simp [show ¬ (a ≤ c.1 ∧ c.1 < b) by omega]
      · by_cases hl : x < c.1
        · simp [hx, hl]
        · simp only [hx, hl, if_false]; exact ih
    · have hf : Memory.clear (c :: r) a b = Memory.clear r a b := by
        simp [Memory.clear, hc]
      rw [hf, ih]
      by_cases hx : a ≤ x ∧ x < b
      · simp [hx]
      · simp only [hx, if_false, Memory.read, show ¬ c.1 = x by omega]
        by_cases hl : x < c.1
        · simp [hl, read_below h3 (show x < c.1 + 1 by omega)]
        · simp [hl]

/-- What clearing a range leaves. -/
theorem read_clear {m : List Host.Cell} (h : Memory.wf m = true) (a b x : Nat) :
    Memory.read (Memory.clear m a b) x = if a ≤ x ∧ x < b then Memory.unlisted else Memory.read m x :=
  read_clear_from h a b x

@[simp] theorem length_readN (m : List Host.Cell) (a n : Nat) : (Memory.readN m a n).length = n := by
  induction n generalizing a with
  | zero => rfl
  | succ n ih => simp [Memory.readN, ih]

theorem getD_readN (m : List Host.Cell) (a n i : Nat) (h : i < n) : (Memory.readN m a n).getD i 0 = Memory.read m (a + i) := by
  induction n generalizing a i with
  | zero => omega
  | succ n ih =>
    cases i with
    | zero => simp [Memory.readN]
    | succ i =>
      have := ih (a + 1) i (by omega)
      simpa [Memory.readN, Nat.add_assoc, Nat.add_comm 1 i] using this

/-! ### Equal memories are equal lists -/

theorem ext_from {lo : Nat} {m n : List Host.Cell} (hm : Memory.wfFrom lo m = true) (hn : Memory.wfFrom lo n = true)
    (h : ∀ a, Memory.read m a = Memory.read n a) : m = n := by
  induction m generalizing lo n with
  | nil =>
    cases n with
    | nil => rfl
    | cons c r =>
      have := h c.1
      simp [Memory.read] at this
      exact absurd this.symm (wfFrom_cons.1 hn).2.1
  | cons c r ih =>
    obtain ⟨h1, h2, h3⟩ := wfFrom_cons.1 hm
    cases n with
    | nil =>
      have := h c.1
      simp [Memory.read] at this
      exact absurd this h2
    | cons d q =>
      obtain ⟨g1, g2, g3⟩ := wfFrom_cons.1 hn
      have hcd : c.1 = d.1 := by
        rcases lt_trichotomy c.1 d.1 with e | e | e
        · have := h c.1
          simp [Memory.read, e, show ¬ d.1 = c.1 by omega] at this
          exact absurd this h2
        · exact e
        · have := h d.1
          simp [Memory.read, e, show ¬ c.1 = d.1 by omega] at this
          exact absurd this.symm g2
      have hv : c.2 = d.2 := by have := h c.1; simpa [Memory.read, hcd] using this
      have hr : r = q := by
        refine ih h3 (hcd ▸ g3) fun a => ?_
        by_cases ha : c.1 < a
        · have := h a
          simpa [Memory.read, show ¬ c.1 = a by omega, show ¬ a < c.1 by omega, ← hcd] using this
        · rw [read_below h3 (show a < c.1 + 1 by omega), read_below (hcd ▸ g3) (show a < c.1 + 1 by omega)]
      exact List.cons_eq_cons.2 ⟨Prod.ext hcd hv, hr⟩

/-- Canonical memories that read alike everywhere are the same list. -/
theorem memory_ext {m n : List Host.Cell} (hm : Memory.wf m = true) (hn : Memory.wf n = true)
    (h : ∀ a, Memory.read m a = Memory.read n a) : m = n := ext_from hm hn h

/-! ### Named operations on the state -/

@[simp] theorem pokeN_mem (s : State) (a : Nat) (bs : List Byte) : (s.pokeN a bs).mem = Memory.writeN s.mem a bs := rfl
@[simp] theorem pokeNum_mem (s : State) (a n v : Nat) : (s.pokeNum a n v).mem = Memory.writeN s.mem a (leBytes n v) := rfl

theorem wf_pokeN {s : State} (a : Nat) (bs : List Byte) (h : Memory.wf s.mem = true) : Memory.wf (s.pokeN a bs).mem = true :=
  wf_writeN a bs h

theorem wf_pokeNum {s : State} (a n v : Nat) (h : Memory.wf s.mem = true) : Memory.wf (s.pokeNum a n v).mem = true :=
  wf_writeN a _ h

/-- Memory after reset is in canonical form. -/
theorem wf_reset : Memory.wf State.reset.mem = true := rfl

end Sys2Proof.Laws
end

