-- ==== Sys2Proof/Laws/State.lean ====
section
/-! SUPPORT. What each named update of the state does to each of its fields. -/

namespace Sys2Proof.Laws

open Sys2Proof.Machine

/-! ### setTile -/

@[simp] theorem setTile_devclk (s : State) (t : Nat) (tl : Tile) : (s.setTile t tl).devclk = s.devclk := rfl
@[simp] theorem setTile_coreCycles (s : State) (t : Nat) (tl : Tile) : (s.setTile t tl).coreCycles = s.coreCycles := rfl
@[simp] theorem setTile_fabricCycles (s : State) (t : Nat) (tl : Tile) : (s.setTile t tl).fabricCycles = s.fabricCycles := rfl
@[simp] theorem setTile_pace (s : State) (t : Nat) (tl : Tile) : (s.setTile t tl).pace = s.pace := rfl
@[simp] theorem setTile_power (s : State) (t : Nat) (tl : Tile) : (s.setTile t tl).power = s.power := rfl
@[simp] theorem setTile_flash (s : State) (t : Nat) (tl : Tile) : (s.setTile t tl).flash = s.flash := rfl
@[simp] theorem setTile_flashWrite (s : State) (t : Nat) (tl : Tile) : (s.setTile t tl).flashWrite = s.flashWrite := rfl
@[simp] theorem setTile_staged (s : State) (t : Nat) (tl : Tile) : (s.setTile t tl).staged = s.staged := rfl
@[simp] theorem setTile_bringUp (s : State) (t : Nat) (tl : Tile) : (s.setTile t tl).bringUp = s.bringUp := rfl
@[simp] theorem setTile_links (s : State) (t : Nat) (tl : Tile) : (s.setTile t tl).links = s.links := rfl
@[simp] theorem setTile_flights (s : State) (t : Nat) (tl : Tile) : (s.setTile t tl).flights = s.flights := rfl
@[simp] theorem setTile_awaited (s : State) (t : Nat) (tl : Tile) : (s.setTile t tl).awaited = s.awaited := rfl
@[simp] theorem setTile_nextPacket (s : State) (t : Nat) (tl : Tile) : (s.setTile t tl).nextPacket = s.nextPacket := rfl
@[simp] theorem setTile_waiting (s : State) (t : Nat) (tl : Tile) : (s.setTile t tl).waiting = s.waiting := rfl
@[simp] theorem setTile_fkey (s : State) (t : Nat) (tl : Tile) : (s.setTile t tl).fkey = s.fkey := rfl
@[simp] theorem setTile_street (s : State) (t : Nat) (tl : Tile) : (s.setTile t tl).street = s.street := rfl
@[simp] theorem setTile_streetNext (s : State) (t : Nat) (tl : Tile) : (s.setTile t tl).streetNext = s.streetNext := rfl
@[simp] theorem setTile_streetCommit (s : State) (t : Nat) (tl : Tile) : (s.setTile t tl).streetCommit = s.streetCommit := rfl
@[simp] theorem setTile_harvestMap (s : State) (t : Nat) (tl : Tile) : (s.setTile t tl).harvestMap = s.harvestMap := rfl
@[simp] theorem setTile_marks (s : State) (t : Nat) (tl : Tile) : (s.setTile t tl).marks = s.marks := rfl
@[simp] theorem setTile_active (s : State) (t : Nat) (tl : Tile) : (s.setTile t tl).active = s.active := rfl
@[simp] theorem setTile_staging (s : State) (t : Nat) (tl : Tile) : (s.setTile t tl).staging = s.staging := rfl
@[simp] theorem setTile_rt (s : State) (t : Nat) (tl : Tile) : (s.setTile t tl).rt = s.rt := rfl
@[simp] theorem setTile_ports (s : State) (t : Nat) (tl : Tile) : (s.setTile t tl).ports = s.ports := rfl
@[simp] theorem setTile_linkFail (s : State) (t : Nat) (tl : Tile) : (s.setTile t tl).linkFail = s.linkFail := rfl
@[simp] theorem setTile_background (s : State) (t : Nat) (tl : Tile) : (s.setTile t tl).background = s.background := rfl
@[simp] theorem setTile_answers (s : State) (t : Nat) (tl : Tile) : (s.setTile t tl).answers = s.answers := rfl
@[simp] theorem setTile_hostAnswers (s : State) (t : Nat) (tl : Tile) : (s.setTile t tl).hostAnswers = s.hostAnswers := rfl
@[simp] theorem setTile_snoopAnswers (s : State) (t : Nat) (tl : Tile) : (s.setTile t tl).snoopAnswers = s.snoopAnswers := rfl
@[simp] theorem setTile_eventLog (s : State) (t : Nat) (tl : Tile) : (s.setTile t tl).eventLog = s.eventLog := rfl
@[simp] theorem setTile_queues (s : State) (t : Nat) (tl : Tile) : (s.setTile t tl).queues = s.queues := rfl
@[simp] theorem setTile_msix (s : State) (t : Nat) (tl : Tile) : (s.setTile t tl).msix = s.msix := rfl
@[simp] theorem setTile_hostBias (s : State) (t : Nat) (tl : Tile) : (s.setTile t tl).hostBias = s.hostBias := rfl
@[simp] theorem setTile_hostLines (s : State) (t : Nat) (tl : Tile) : (s.setTile t tl).hostLines = s.hostLines := rfl
@[simp] theorem setTile_flipping (s : State) (t : Nat) (tl : Tile) : (s.setTile t tl).flipping = s.flipping := rfl
@[simp] theorem setTile_granules (s : State) (t : Nat) (tl : Tile) : (s.setTile t tl).granules = s.granules := rfl
@[simp] theorem setTile_linkGroups (s : State) (t : Nat) (tl : Tile) : (s.setTile t tl).linkGroups = s.linkGroups := rfl
@[simp] theorem setTile_deviceWrites (s : State) (t : Nat) (tl : Tile) : (s.setTile t tl).deviceWrites = s.deviceWrites := rfl
@[simp] theorem setTile_peers (s : State) (t : Nat) (tl : Tile) : (s.setTile t tl).peers = s.peers := rfl
@[simp] theorem setTile_wards (s : State) (t : Nat) (tl : Tile) : (s.setTile t tl).wards = s.wards := rfl
@[simp] theorem setTile_faults (s : State) (t : Nat) (tl : Tile) : (s.setTile t tl).faults = s.faults := rfl
@[simp] theorem setTile_resets (s : State) (t : Nat) (tl : Tile) : (s.setTile t tl).resets = s.resets := rfl
@[simp] theorem setTile_checkpoint (s : State) (t : Nat) (tl : Tile) : (s.setTile t tl).checkpoint = s.checkpoint := rfl
@[simp] theorem setTile_launches (s : State) (t : Nat) (tl : Tile) : (s.setTile t tl).launches = s.launches := rfl
@[simp] theorem setTile_gangs (s : State) (t : Nat) (tl : Tile) : (s.setTile t tl).gangs = s.gangs := rfl
@[simp] theorem setTile_claims (s : State) (t : Nat) (tl : Tile) : (s.setTile t tl).claims = s.claims := rfl
@[simp] theorem setTile_nextOrder (s : State) (t : Nat) (tl : Tile) : (s.setTile t tl).nextOrder = s.nextOrder := rfl
@[simp] theorem setTile_ptbase (s : State) (t : Nat) (tl : Tile) : (s.setTile t tl).ptbase = s.ptbase := rfl
@[simp] theorem setTile_ptbaseLow (s : State) (t : Nat) (tl : Tile) : (s.setTile t tl).ptbaseLow = s.ptbaseLow := rfl
@[simp] theorem setTile_reticleTlb (s : State) (t : Nat) (tl : Tile) : (s.setTile t tl).reticleTlb = s.reticleTlb := rfl
@[simp] theorem setTile_walks (s : State) (t : Nat) (tl : Tile) : (s.setTile t tl).walks = s.walks := rfl
@[simp] theorem setTile_tiles (s : State) (t : Nat) (tl : Tile) : (s.setTile t tl).tiles = tabSet t tl s.tiles := rfl
@[simp] theorem setTile_mem (s : State) (t : Nat) (tl : Tile) : (s.setTile t tl).mem = s.mem := rfl
@[simp] theorem setTile_wc (s : State) (t : Nat) (tl : Tile) : (s.setTile t tl).wc = s.wc := rfl
@[simp] theorem setTile_useCtr (s : State) (t : Nat) (tl : Tile) : (s.setTile t tl).useCtr = s.useCtr := rfl
@[simp] theorem setTile_held (s : State) (t : Nat) (tl : Tile) : (s.setTile t tl).held = s.held := rfl
@[simp] theorem setTile_inError (s : State) (t : Nat) (tl : Tile) : (s.setTile t tl).inError = s.inError := rfl
@[simp] theorem setTile_regions (s : State) (t : Nat) (tl : Tile) : (s.setTile t tl).regions = s.regions := rfl
@[simp] theorem setTile_replicas (s : State) (t : Nat) (tl : Tile) : (s.setTile t tl).replicas = s.replicas := rfl
@[simp] theorem setTile_placement (s : State) (t : Nat) (tl : Tile) : (s.setTile t tl).placement = s.placement := rfl
@[simp] theorem setTile_redealt (s : State) (t : Nat) (tl : Tile) : (s.setTile t tl).redealt = s.redealt := rfl
@[simp] theorem setTile_emptying (s : State) (t : Nat) (tl : Tile) : (s.setTile t tl).emptying = s.emptying := rfl
@[simp] theorem setTile_lastAtomic (s : State) (t : Nat) (tl : Tile) : (s.setTile t tl).lastAtomic = s.lastAtomic := rfl
@[simp] theorem setTile_locks (s : State) (t : Nat) (tl : Tile) : (s.setTile t tl).locks = s.locks := rfl
@[simp] theorem setTile_lockSquads (s : State) (t : Nat) (tl : Tile) : (s.setTile t tl).lockSquads = s.lockSquads := rfl
@[simp] theorem setTile_matrices (s : State) (t : Nat) (tl : Tile) : (s.setTile t tl).matrices = s.matrices := rfl
@[simp] theorem setTile_sentGrants (s : State) (t : Nat) (tl : Tile) : (s.setTile t tl).sentGrants = s.sentGrants := rfl
@[simp] theorem setTile_nextGrant (s : State) (t : Nat) (tl : Tile) : (s.setTile t tl).nextGrant = s.nextGrant := rfl
@[simp] theorem setTile_junctions (s : State) (t : Nat) (tl : Tile) : (s.setTile t tl).junctions = s.junctions := rfl
@[simp] theorem setTile_peerHeld (s : State) (t : Nat) (tl : Tile) : (s.setTile t tl).peerHeld = s.peerHeld := rfl
@[simp] theorem setTile_peerRefused (s : State) (t : Nat) (tl : Tile) : (s.setTile t tl).peerRefused = s.peerRefused := rfl
@[simp] theorem setTile_sampler (s : State) (t : Nat) (tl : Tile) : (s.setTile t tl).sampler = s.sampler := rfl
@[simp] theorem setTile_snap (s : State) (t : Nat) (tl : Tile) : (s.setTile t tl).snap = s.snap := rfl
@[simp] theorem setTile_snaps (s : State) (t : Nat) (tl : Tile) : (s.setTile t tl).snaps = s.snaps := rfl
@[simp] theorem setTile_agenda (s : State) (t : Nat) (tl : Tile) : (s.setTile t tl).agenda = s.agenda := rfl
@[simp] theorem setTile_sched (s : State) (t : Nat) (tl : Tile) : (s.setTile t tl).sched = s.sched := rfl
@[simp] theorem setTile_rr (s : State) (t : Nat) (tl : Tile) : (s.setTile t tl).rr = s.rr := rfl
@[simp] theorem setTile_cur (s : State) (t : Nat) (tl : Tile) : (s.setTile t tl).cur = s.cur := rfl
@[simp] theorem setTile_input (s : State) (t : Nat) (tl : Tile) : (s.setTile t tl).input = s.input := rfl
@[simp] theorem setTile_loss (s : State) (t : Nat) (tl : Tile) : (s.setTile t tl).loss = s.loss := rfl
@[simp] theorem setTile_freeCtr (s : State) (t : Nat) (tl : Tile) : (s.setTile t tl).freeCtr = s.freeCtr := rfl

/-! ### updTile -/

@[simp] theorem updTile_devclk (s : State) (t : Nat) (f : Tile → Tile) : (s.updTile t f).devclk = s.devclk := rfl
@[simp] theorem updTile_coreCycles (s : State) (t : Nat) (f : Tile → Tile) : (s.updTile t f).coreCycles = s.coreCycles := rfl
@[simp] theorem updTile_fabricCycles (s : State) (t : Nat) (f : Tile → Tile) : (s.updTile t f).fabricCycles = s.fabricCycles := rfl
@[simp] theorem updTile_pace (s : State) (t : Nat) (f : Tile → Tile) : (s.updTile t f).pace = s.pace := rfl
@[simp] theorem updTile_power (s : State) (t : Nat) (f : Tile → Tile) : (s.updTile t f).power = s.power := rfl
@[simp] theorem updTile_flash (s : State) (t : Nat) (f : Tile → Tile) : (s.updTile t f).flash = s.flash := rfl
@[simp] theorem updTile_flashWrite (s : State) (t : Nat) (f : Tile → Tile) : (s.updTile t f).flashWrite = s.flashWrite := rfl
@[simp] theorem updTile_staged (s : State) (t : Nat) (f : Tile → Tile) : (s.updTile t f).staged = s.staged := rfl
@[simp] theorem updTile_bringUp (s : State) (t : Nat) (f : Tile → Tile) : (s.updTile t f).bringUp = s.bringUp := rfl
@[simp] theorem updTile_links (s : State) (t : Nat) (f : Tile → Tile) : (s.updTile t f).links = s.links := rfl
@[simp] theorem updTile_flights (s : State) (t : Nat) (f : Tile → Tile) : (s.updTile t f).flights = s.flights := rfl
@[simp] theorem updTile_awaited (s : State) (t : Nat) (f : Tile → Tile) : (s.updTile t f).awaited = s.awaited := rfl
@[simp] theorem updTile_nextPacket (s : State) (t : Nat) (f : Tile → Tile) : (s.updTile t f).nextPacket = s.nextPacket := rfl
@[simp] theorem updTile_waiting (s : State) (t : Nat) (f : Tile → Tile) : (s.updTile t f).waiting = s.waiting := rfl
@[simp] theorem updTile_fkey (s : State) (t : Nat) (f : Tile → Tile) : (s.updTile t f).fkey = s.fkey := rfl
@[simp] theorem updTile_street (s : State) (t : Nat) (f : Tile → Tile) : (s.updTile t f).street = s.street := rfl
@[simp] theorem updTile_streetNext (s : State) (t : Nat) (f : Tile → Tile) : (s.updTile t f).streetNext = s.streetNext := rfl
@[simp] theorem updTile_streetCommit (s : State) (t : Nat) (f : Tile → Tile) : (s.updTile t f).streetCommit = s.streetCommit := rfl
@[simp] theorem updTile_harvestMap (s : State) (t : Nat) (f : Tile → Tile) : (s.updTile t f).harvestMap = s.harvestMap := rfl
@[simp] theorem updTile_marks (s : State) (t : Nat) (f : Tile → Tile) : (s.updTile t f).marks = s.marks := rfl
@[simp] theorem updTile_active (s : State) (t : Nat) (f : Tile → Tile) : (s.updTile t f).active = s.active := rfl
@[simp] theorem updTile_staging (s : State) (t : Nat) (f : Tile → Tile) : (s.updTile t f).staging = s.staging := rfl
@[simp] theorem updTile_rt (s : State) (t : Nat) (f : Tile → Tile) : (s.updTile t f).rt = s.rt := rfl
@[simp] theorem updTile_ports (s : State) (t : Nat) (f : Tile → Tile) : (s.updTile t f).ports = s.ports := rfl
@[simp] theorem updTile_linkFail (s : State) (t : Nat) (f : Tile → Tile) : (s.updTile t f).linkFail = s.linkFail := rfl
@[simp] theorem updTile_background (s : State) (t : Nat) (f : Tile → Tile) : (s.updTile t f).background = s.background := rfl
@[simp] theorem updTile_answers (s : State) (t : Nat) (f : Tile → Tile) : (s.updTile t f).answers = s.answers := rfl
@[simp] theorem updTile_hostAnswers (s : State) (t : Nat) (f : Tile → Tile) : (s.updTile t f).hostAnswers = s.hostAnswers := rfl
@[simp] theorem updTile_snoopAnswers (s : State) (t : Nat) (f : Tile → Tile) : (s.updTile t f).snoopAnswers = s.snoopAnswers := rfl
@[simp] theorem updTile_eventLog (s : State) (t : Nat) (f : Tile → Tile) : (s.updTile t f).eventLog = s.eventLog := rfl
@[simp] theorem updTile_queues (s : State) (t : Nat) (f : Tile → Tile) : (s.updTile t f).queues = s.queues := rfl
@[simp] theorem updTile_msix (s : State) (t : Nat) (f : Tile → Tile) : (s.updTile t f).msix = s.msix := rfl
@[simp] theorem updTile_hostBias (s : State) (t : Nat) (f : Tile → Tile) : (s.updTile t f).hostBias = s.hostBias := rfl
@[simp] theorem updTile_hostLines (s : State) (t : Nat) (f : Tile → Tile) : (s.updTile t f).hostLines = s.hostLines := rfl
@[simp] theorem updTile_flipping (s : State) (t : Nat) (f : Tile → Tile) : (s.updTile t f).flipping = s.flipping := rfl
@[simp] theorem updTile_granules (s : State) (t : Nat) (f : Tile → Tile) : (s.updTile t f).granules = s.granules := rfl
@[simp] theorem updTile_linkGroups (s : State) (t : Nat) (f : Tile → Tile) : (s.updTile t f).linkGroups = s.linkGroups := rfl
@[simp] theorem updTile_deviceWrites (s : State) (t : Nat) (f : Tile → Tile) : (s.updTile t f).deviceWrites = s.deviceWrites := rfl
@[simp] theorem updTile_peers (s : State) (t : Nat) (f : Tile → Tile) : (s.updTile t f).peers = s.peers := rfl
@[simp] theorem updTile_wards (s : State) (t : Nat) (f : Tile → Tile) : (s.updTile t f).wards = s.wards := rfl
@[simp] theorem updTile_faults (s : State) (t : Nat) (f : Tile → Tile) : (s.updTile t f).faults = s.faults := rfl
@[simp] theorem updTile_resets (s : State) (t : Nat) (f : Tile → Tile) : (s.updTile t f).resets = s.resets := rfl
@[simp] theorem updTile_checkpoint (s : State) (t : Nat) (f : Tile → Tile) : (s.updTile t f).checkpoint = s.checkpoint := rfl
@[simp] theorem updTile_launches (s : State) (t : Nat) (f : Tile → Tile) : (s.updTile t f).launches = s.launches := rfl
@[simp] theorem updTile_gangs (s : State) (t : Nat) (f : Tile → Tile) : (s.updTile t f).gangs = s.gangs := rfl
@[simp] theorem updTile_claims (s : State) (t : Nat) (f : Tile → Tile) : (s.updTile t f).claims = s.claims := rfl
@[simp] theorem updTile_nextOrder (s : State) (t : Nat) (f : Tile → Tile) : (s.updTile t f).nextOrder = s.nextOrder := rfl
@[simp] theorem updTile_ptbase (s : State) (t : Nat) (f : Tile → Tile) : (s.updTile t f).ptbase = s.ptbase := rfl
@[simp] theorem updTile_ptbaseLow (s : State) (t : Nat) (f : Tile → Tile) : (s.updTile t f).ptbaseLow = s.ptbaseLow := rfl
@[simp] theorem updTile_reticleTlb (s : State) (t : Nat) (f : Tile → Tile) : (s.updTile t f).reticleTlb = s.reticleTlb := rfl
@[simp] theorem updTile_walks (s : State) (t : Nat) (f : Tile → Tile) : (s.updTile t f).walks = s.walks := rfl
@[simp] theorem updTile_tiles (s : State) (t : Nat) (f : Tile → Tile) : (s.updTile t f).tiles = tabSet t (f (s.tile t)) s.tiles := rfl
@[simp] theorem updTile_mem (s : State) (t : Nat) (f : Tile → Tile) : (s.updTile t f).mem = s.mem := rfl
@[simp] theorem updTile_wc (s : State) (t : Nat) (f : Tile → Tile) : (s.updTile t f).wc = s.wc := rfl
@[simp] theorem updTile_useCtr (s : State) (t : Nat) (f : Tile → Tile) : (s.updTile t f).useCtr = s.useCtr := rfl
@[simp] theorem updTile_held (s : State) (t : Nat) (f : Tile → Tile) : (s.updTile t f).held = s.held := rfl
@[simp] theorem updTile_inError (s : State) (t : Nat) (f : Tile → Tile) : (s.updTile t f).inError = s.inError := rfl
@[simp] theorem updTile_regions (s : State) (t : Nat) (f : Tile → Tile) : (s.updTile t f).regions = s.regions := rfl
@[simp] theorem updTile_replicas (s : State) (t : Nat) (f : Tile → Tile) : (s.updTile t f).replicas = s.replicas := rfl
@[simp] theorem updTile_placement (s : State) (t : Nat) (f : Tile → Tile) : (s.updTile t f).placement = s.placement := rfl
@[simp] theorem updTile_redealt (s : State) (t : Nat) (f : Tile → Tile) : (s.updTile t f).redealt = s.redealt := rfl
@[simp] theorem updTile_emptying (s : State) (t : Nat) (f : Tile → Tile) : (s.updTile t f).emptying = s.emptying := rfl
@[simp] theorem updTile_lastAtomic (s : State) (t : Nat) (f : Tile → Tile) : (s.updTile t f).lastAtomic = s.lastAtomic := rfl
@[simp] theorem updTile_locks (s : State) (t : Nat) (f : Tile → Tile) : (s.updTile t f).locks = s.locks := rfl
@[simp] theorem updTile_lockSquads (s : State) (t : Nat) (f : Tile → Tile) : (s.updTile t f).lockSquads = s.lockSquads := rfl
@[simp] theorem updTile_matrices (s : State) (t : Nat) (f : Tile → Tile) : (s.updTile t f).matrices = s.matrices := rfl
@[simp] theorem updTile_sentGrants (s : State) (t : Nat) (f : Tile → Tile) : (s.updTile t f).sentGrants = s.sentGrants := rfl
@[simp] theorem updTile_nextGrant (s : State) (t : Nat) (f : Tile → Tile) : (s.updTile t f).nextGrant = s.nextGrant := rfl
@[simp] theorem updTile_junctions (s : State) (t : Nat) (f : Tile → Tile) : (s.updTile t f).junctions = s.junctions := rfl
@[simp] theorem updTile_peerHeld (s : State) (t : Nat) (f : Tile → Tile) : (s.updTile t f).peerHeld = s.peerHeld := rfl
@[simp] theorem updTile_peerRefused (s : State) (t : Nat) (f : Tile → Tile) : (s.updTile t f).peerRefused = s.peerRefused := rfl
@[simp] theorem updTile_sampler (s : State) (t : Nat) (f : Tile → Tile) : (s.updTile t f).sampler = s.sampler := rfl
@[simp] theorem updTile_snap (s : State) (t : Nat) (f : Tile → Tile) : (s.updTile t f).snap = s.snap := rfl
@[simp] theorem updTile_snaps (s : State) (t : Nat) (f : Tile → Tile) : (s.updTile t f).snaps = s.snaps := rfl
@[simp] theorem updTile_agenda (s : State) (t : Nat) (f : Tile → Tile) : (s.updTile t f).agenda = s.agenda := rfl
@[simp] theorem updTile_sched (s : State) (t : Nat) (f : Tile → Tile) : (s.updTile t f).sched = s.sched := rfl
@[simp] theorem updTile_rr (s : State) (t : Nat) (f : Tile → Tile) : (s.updTile t f).rr = s.rr := rfl
@[simp] theorem updTile_cur (s : State) (t : Nat) (f : Tile → Tile) : (s.updTile t f).cur = s.cur := rfl
@[simp] theorem updTile_input (s : State) (t : Nat) (f : Tile → Tile) : (s.updTile t f).input = s.input := rfl
@[simp] theorem updTile_loss (s : State) (t : Nat) (f : Tile → Tile) : (s.updTile t f).loss = s.loss := rfl
@[simp] theorem updTile_freeCtr (s : State) (t : Nat) (f : Tile → Tile) : (s.updTile t f).freeCtr = s.freeCtr := rfl

/-! ### updWg -/

@[simp] theorem updWg_devclk (s : State) (t : Nat) (f : Workgroup → Workgroup) : (s.updWg t f).devclk = s.devclk := rfl
@[simp] theorem updWg_coreCycles (s : State) (t : Nat) (f : Workgroup → Workgroup) : (s.updWg t f).coreCycles = s.coreCycles := rfl
@[simp] theorem updWg_fabricCycles (s : State) (t : Nat) (f : Workgroup → Workgroup) : (s.updWg t f).fabricCycles = s.fabricCycles := rfl
@[simp] theorem updWg_pace (s : State) (t : Nat) (f : Workgroup → Workgroup) : (s.updWg t f).pace = s.pace := rfl
@[simp] theorem updWg_power (s : State) (t : Nat) (f : Workgroup → Workgroup) : (s.updWg t f).power = s.power := rfl
@[simp] theorem updWg_flash (s : State) (t : Nat) (f : Workgroup → Workgroup) : (s.updWg t f).flash = s.flash := rfl
@[simp] theorem updWg_flashWrite (s : State) (t : Nat) (f : Workgroup → Workgroup) : (s.updWg t f).flashWrite = s.flashWrite := rfl
@[simp] theorem updWg_staged (s : State) (t : Nat) (f : Workgroup → Workgroup) : (s.updWg t f).staged = s.staged := rfl
@[simp] theorem updWg_bringUp (s : State) (t : Nat) (f : Workgroup → Workgroup) : (s.updWg t f).bringUp = s.bringUp := rfl
@[simp] theorem updWg_links (s : State) (t : Nat) (f : Workgroup → Workgroup) : (s.updWg t f).links = s.links := rfl
@[simp] theorem updWg_flights (s : State) (t : Nat) (f : Workgroup → Workgroup) : (s.updWg t f).flights = s.flights := rfl
@[simp] theorem updWg_awaited (s : State) (t : Nat) (f : Workgroup → Workgroup) : (s.updWg t f).awaited = s.awaited := rfl
@[simp] theorem updWg_nextPacket (s : State) (t : Nat) (f : Workgroup → Workgroup) : (s.updWg t f).nextPacket = s.nextPacket := rfl
@[simp] theorem updWg_waiting (s : State) (t : Nat) (f : Workgroup → Workgroup) : (s.updWg t f).waiting = s.waiting := rfl
@[simp] theorem updWg_fkey (s : State) (t : Nat) (f : Workgroup → Workgroup) : (s.updWg t f).fkey = s.fkey := rfl
@[simp] theorem updWg_street (s : State) (t : Nat) (f : Workgroup → Workgroup) : (s.updWg t f).street = s.street := rfl
@[simp] theorem updWg_streetNext (s : State) (t : Nat) (f : Workgroup → Workgroup) : (s.updWg t f).streetNext = s.streetNext := rfl
@[simp] theorem updWg_streetCommit (s : State) (t : Nat) (f : Workgroup → Workgroup) : (s.updWg t f).streetCommit = s.streetCommit := rfl
@[simp] theorem updWg_harvestMap (s : State) (t : Nat) (f : Workgroup → Workgroup) : (s.updWg t f).harvestMap = s.harvestMap := rfl
@[simp] theorem updWg_marks (s : State) (t : Nat) (f : Workgroup → Workgroup) : (s.updWg t f).marks = s.marks := rfl
@[simp] theorem updWg_active (s : State) (t : Nat) (f : Workgroup → Workgroup) : (s.updWg t f).active = s.active := rfl
@[simp] theorem updWg_staging (s : State) (t : Nat) (f : Workgroup → Workgroup) : (s.updWg t f).staging = s.staging := rfl
@[simp] theorem updWg_rt (s : State) (t : Nat) (f : Workgroup → Workgroup) : (s.updWg t f).rt = s.rt := rfl
@[simp] theorem updWg_ports (s : State) (t : Nat) (f : Workgroup → Workgroup) : (s.updWg t f).ports = s.ports := rfl
@[simp] theorem updWg_linkFail (s : State) (t : Nat) (f : Workgroup → Workgroup) : (s.updWg t f).linkFail = s.linkFail := rfl
@[simp] theorem updWg_background (s : State) (t : Nat) (f : Workgroup → Workgroup) : (s.updWg t f).background = s.background := rfl
@[simp] theorem updWg_answers (s : State) (t : Nat) (f : Workgroup → Workgroup) : (s.updWg t f).answers = s.answers := rfl
@[simp] theorem updWg_hostAnswers (s : State) (t : Nat) (f : Workgroup → Workgroup) : (s.updWg t f).hostAnswers = s.hostAnswers := rfl
@[simp] theorem updWg_snoopAnswers (s : State) (t : Nat) (f : Workgroup → Workgroup) : (s.updWg t f).snoopAnswers = s.snoopAnswers := rfl
@[simp] theorem updWg_eventLog (s : State) (t : Nat) (f : Workgroup → Workgroup) : (s.updWg t f).eventLog = s.eventLog := rfl
@[simp] theorem updWg_queues (s : State) (t : Nat) (f : Workgroup → Workgroup) : (s.updWg t f).queues = s.queues := rfl
@[simp] theorem updWg_msix (s : State) (t : Nat) (f : Workgroup → Workgroup) : (s.updWg t f).msix = s.msix := rfl
@[simp] theorem updWg_hostBias (s : State) (t : Nat) (f : Workgroup → Workgroup) : (s.updWg t f).hostBias = s.hostBias := rfl
@[simp] theorem updWg_hostLines (s : State) (t : Nat) (f : Workgroup → Workgroup) : (s.updWg t f).hostLines = s.hostLines := rfl
@[simp] theorem updWg_flipping (s : State) (t : Nat) (f : Workgroup → Workgroup) : (s.updWg t f).flipping = s.flipping := rfl
@[simp] theorem updWg_granules (s : State) (t : Nat) (f : Workgroup → Workgroup) : (s.updWg t f).granules = s.granules := rfl
@[simp] theorem updWg_linkGroups (s : State) (t : Nat) (f : Workgroup → Workgroup) : (s.updWg t f).linkGroups = s.linkGroups := rfl
@[simp] theorem updWg_deviceWrites (s : State) (t : Nat) (f : Workgroup → Workgroup) : (s.updWg t f).deviceWrites = s.deviceWrites := rfl
@[simp] theorem updWg_peers (s : State) (t : Nat) (f : Workgroup → Workgroup) : (s.updWg t f).peers = s.peers := rfl
@[simp] theorem updWg_wards (s : State) (t : Nat) (f : Workgroup → Workgroup) : (s.updWg t f).wards = s.wards := rfl
@[simp] theorem updWg_faults (s : State) (t : Nat) (f : Workgroup → Workgroup) : (s.updWg t f).faults = s.faults := rfl
@[simp] theorem updWg_resets (s : State) (t : Nat) (f : Workgroup → Workgroup) : (s.updWg t f).resets = s.resets := rfl
@[simp] theorem updWg_checkpoint (s : State) (t : Nat) (f : Workgroup → Workgroup) : (s.updWg t f).checkpoint = s.checkpoint := rfl
@[simp] theorem updWg_launches (s : State) (t : Nat) (f : Workgroup → Workgroup) : (s.updWg t f).launches = s.launches := rfl
@[simp] theorem updWg_gangs (s : State) (t : Nat) (f : Workgroup → Workgroup) : (s.updWg t f).gangs = s.gangs := rfl
@[simp] theorem updWg_claims (s : State) (t : Nat) (f : Workgroup → Workgroup) : (s.updWg t f).claims = s.claims := rfl
@[simp] theorem updWg_nextOrder (s : State) (t : Nat) (f : Workgroup → Workgroup) : (s.updWg t f).nextOrder = s.nextOrder := rfl
@[simp] theorem updWg_ptbase (s : State) (t : Nat) (f : Workgroup → Workgroup) : (s.updWg t f).ptbase = s.ptbase := rfl
@[simp] theorem updWg_ptbaseLow (s : State) (t : Nat) (f : Workgroup → Workgroup) : (s.updWg t f).ptbaseLow = s.ptbaseLow := rfl
@[simp] theorem updWg_reticleTlb (s : State) (t : Nat) (f : Workgroup → Workgroup) : (s.updWg t f).reticleTlb = s.reticleTlb := rfl
@[simp] theorem updWg_walks (s : State) (t : Nat) (f : Workgroup → Workgroup) : (s.updWg t f).walks = s.walks := rfl
@[simp] theorem updWg_mem (s : State) (t : Nat) (f : Workgroup → Workgroup) : (s.updWg t f).mem = s.mem := rfl
@[simp] theorem updWg_wc (s : State) (t : Nat) (f : Workgroup → Workgroup) : (s.updWg t f).wc = s.wc := rfl
@[simp] theorem updWg_useCtr (s : State) (t : Nat) (f : Workgroup → Workgroup) : (s.updWg t f).useCtr = s.useCtr := rfl
@[simp] theorem updWg_held (s : State) (t : Nat) (f : Workgroup → Workgroup) : (s.updWg t f).held = s.held := rfl
@[simp] theorem updWg_inError (s : State) (t : Nat) (f : Workgroup → Workgroup) : (s.updWg t f).inError = s.inError := rfl
@[simp] theorem updWg_regions (s : State) (t : Nat) (f : Workgroup → Workgroup) : (s.updWg t f).regions = s.regions := rfl
@[simp] theorem updWg_replicas (s : State) (t : Nat) (f : Workgroup → Workgroup) : (s.updWg t f).replicas = s.replicas := rfl
@[simp] theorem updWg_placement (s : State) (t : Nat) (f : Workgroup → Workgroup) : (s.updWg t f).placement = s.placement := rfl
@[simp] theorem updWg_redealt (s : State) (t : Nat) (f : Workgroup → Workgroup) : (s.updWg t f).redealt = s.redealt := rfl
@[simp] theorem updWg_emptying (s : State) (t : Nat) (f : Workgroup → Workgroup) : (s.updWg t f).emptying = s.emptying := rfl
@[simp] theorem updWg_lastAtomic (s : State) (t : Nat) (f : Workgroup → Workgroup) : (s.updWg t f).lastAtomic = s.lastAtomic := rfl
@[simp] theorem updWg_locks (s : State) (t : Nat) (f : Workgroup → Workgroup) : (s.updWg t f).locks = s.locks := rfl
@[simp] theorem updWg_lockSquads (s : State) (t : Nat) (f : Workgroup → Workgroup) : (s.updWg t f).lockSquads = s.lockSquads := rfl
@[simp] theorem updWg_matrices (s : State) (t : Nat) (f : Workgroup → Workgroup) : (s.updWg t f).matrices = s.matrices := rfl
@[simp] theorem updWg_sentGrants (s : State) (t : Nat) (f : Workgroup → Workgroup) : (s.updWg t f).sentGrants = s.sentGrants := rfl
@[simp] theorem updWg_nextGrant (s : State) (t : Nat) (f : Workgroup → Workgroup) : (s.updWg t f).nextGrant = s.nextGrant := rfl
@[simp] theorem updWg_junctions (s : State) (t : Nat) (f : Workgroup → Workgroup) : (s.updWg t f).junctions = s.junctions := rfl
@[simp] theorem updWg_peerHeld (s : State) (t : Nat) (f : Workgroup → Workgroup) : (s.updWg t f).peerHeld = s.peerHeld := rfl
@[simp] theorem updWg_peerRefused (s : State) (t : Nat) (f : Workgroup → Workgroup) : (s.updWg t f).peerRefused = s.peerRefused := rfl
@[simp] theorem updWg_sampler (s : State) (t : Nat) (f : Workgroup → Workgroup) : (s.updWg t f).sampler = s.sampler := rfl
@[simp] theorem updWg_snap (s : State) (t : Nat) (f : Workgroup → Workgroup) : (s.updWg t f).snap = s.snap := rfl
@[simp] theorem updWg_snaps (s : State) (t : Nat) (f : Workgroup → Workgroup) : (s.updWg t f).snaps = s.snaps := rfl
@[simp] theorem updWg_agenda (s : State) (t : Nat) (f : Workgroup → Workgroup) : (s.updWg t f).agenda = s.agenda := rfl
@[simp] theorem updWg_sched (s : State) (t : Nat) (f : Workgroup → Workgroup) : (s.updWg t f).sched = s.sched := rfl
@[simp] theorem updWg_rr (s : State) (t : Nat) (f : Workgroup → Workgroup) : (s.updWg t f).rr = s.rr := rfl
@[simp] theorem updWg_cur (s : State) (t : Nat) (f : Workgroup → Workgroup) : (s.updWg t f).cur = s.cur := rfl
@[simp] theorem updWg_input (s : State) (t : Nat) (f : Workgroup → Workgroup) : (s.updWg t f).input = s.input := rfl
@[simp] theorem updWg_loss (s : State) (t : Nat) (f : Workgroup → Workgroup) : (s.updWg t f).loss = s.loss := rfl
@[simp] theorem updWg_freeCtr (s : State) (t : Nat) (f : Workgroup → Workgroup) : (s.updWg t f).freeCtr = s.freeCtr := rfl

/-! ### updSquad -/

@[simp] theorem updSquad_devclk (s : State) (t n : Nat) (f : Squad → Squad) : (s.updSquad t n f).devclk = s.devclk := rfl
@[simp] theorem updSquad_coreCycles (s : State) (t n : Nat) (f : Squad → Squad) : (s.updSquad t n f).coreCycles = s.coreCycles := rfl
@[simp] theorem updSquad_fabricCycles (s : State) (t n : Nat) (f : Squad → Squad) : (s.updSquad t n f).fabricCycles = s.fabricCycles := rfl
@[simp] theorem updSquad_pace (s : State) (t n : Nat) (f : Squad → Squad) : (s.updSquad t n f).pace = s.pace := rfl
@[simp] theorem updSquad_power (s : State) (t n : Nat) (f : Squad → Squad) : (s.updSquad t n f).power = s.power := rfl
@[simp] theorem updSquad_flash (s : State) (t n : Nat) (f : Squad → Squad) : (s.updSquad t n f).flash = s.flash := rfl
@[simp] theorem updSquad_flashWrite (s : State) (t n : Nat) (f : Squad → Squad) : (s.updSquad t n f).flashWrite = s.flashWrite := rfl
@[simp] theorem updSquad_staged (s : State) (t n : Nat) (f : Squad → Squad) : (s.updSquad t n f).staged = s.staged := rfl
@[simp] theorem updSquad_bringUp (s : State) (t n : Nat) (f : Squad → Squad) : (s.updSquad t n f).bringUp = s.bringUp := rfl
@[simp] theorem updSquad_links (s : State) (t n : Nat) (f : Squad → Squad) : (s.updSquad t n f).links = s.links := rfl
@[simp] theorem updSquad_flights (s : State) (t n : Nat) (f : Squad → Squad) : (s.updSquad t n f).flights = s.flights := rfl
@[simp] theorem updSquad_awaited (s : State) (t n : Nat) (f : Squad → Squad) : (s.updSquad t n f).awaited = s.awaited := rfl
@[simp] theorem updSquad_nextPacket (s : State) (t n : Nat) (f : Squad → Squad) : (s.updSquad t n f).nextPacket = s.nextPacket := rfl
@[simp] theorem updSquad_waiting (s : State) (t n : Nat) (f : Squad → Squad) : (s.updSquad t n f).waiting = s.waiting := rfl
@[simp] theorem updSquad_fkey (s : State) (t n : Nat) (f : Squad → Squad) : (s.updSquad t n f).fkey = s.fkey := rfl
@[simp] theorem updSquad_street (s : State) (t n : Nat) (f : Squad → Squad) : (s.updSquad t n f).street = s.street := rfl
@[simp] theorem updSquad_streetNext (s : State) (t n : Nat) (f : Squad → Squad) : (s.updSquad t n f).streetNext = s.streetNext := rfl
@[simp] theorem updSquad_streetCommit (s : State) (t n : Nat) (f : Squad → Squad) : (s.updSquad t n f).streetCommit = s.streetCommit := rfl
@[simp] theorem updSquad_harvestMap (s : State) (t n : Nat) (f : Squad → Squad) : (s.updSquad t n f).harvestMap = s.harvestMap := rfl
@[simp] theorem updSquad_marks (s : State) (t n : Nat) (f : Squad → Squad) : (s.updSquad t n f).marks = s.marks := rfl
@[simp] theorem updSquad_active (s : State) (t n : Nat) (f : Squad → Squad) : (s.updSquad t n f).active = s.active := rfl
@[simp] theorem updSquad_staging (s : State) (t n : Nat) (f : Squad → Squad) : (s.updSquad t n f).staging = s.staging := rfl
@[simp] theorem updSquad_rt (s : State) (t n : Nat) (f : Squad → Squad) : (s.updSquad t n f).rt = s.rt := rfl
@[simp] theorem updSquad_ports (s : State) (t n : Nat) (f : Squad → Squad) : (s.updSquad t n f).ports = s.ports := rfl
@[simp] theorem updSquad_linkFail (s : State) (t n : Nat) (f : Squad → Squad) : (s.updSquad t n f).linkFail = s.linkFail := rfl
@[simp] theorem updSquad_background (s : State) (t n : Nat) (f : Squad → Squad) : (s.updSquad t n f).background = s.background := rfl
@[simp] theorem updSquad_answers (s : State) (t n : Nat) (f : Squad → Squad) : (s.updSquad t n f).answers = s.answers := rfl
@[simp] theorem updSquad_hostAnswers (s : State) (t n : Nat) (f : Squad → Squad) : (s.updSquad t n f).hostAnswers = s.hostAnswers := rfl
@[simp] theorem updSquad_snoopAnswers (s : State) (t n : Nat) (f : Squad → Squad) : (s.updSquad t n f).snoopAnswers = s.snoopAnswers := rfl
@[simp] theorem updSquad_eventLog (s : State) (t n : Nat) (f : Squad → Squad) : (s.updSquad t n f).eventLog = s.eventLog := rfl
@[simp] theorem updSquad_queues (s : State) (t n : Nat) (f : Squad → Squad) : (s.updSquad t n f).queues = s.queues := rfl
@[simp] theorem updSquad_msix (s : State) (t n : Nat) (f : Squad → Squad) : (s.updSquad t n f).msix = s.msix := rfl
@[simp] theorem updSquad_hostBias (s : State) (t n : Nat) (f : Squad → Squad) : (s.updSquad t n f).hostBias = s.hostBias := rfl
@[simp] theorem updSquad_hostLines (s : State) (t n : Nat) (f : Squad → Squad) : (s.updSquad t n f).hostLines = s.hostLines := rfl
@[simp] theorem updSquad_flipping (s : State) (t n : Nat) (f : Squad → Squad) : (s.updSquad t n f).flipping = s.flipping := rfl
@[simp] theorem updSquad_granules (s : State) (t n : Nat) (f : Squad → Squad) : (s.updSquad t n f).granules = s.granules := rfl
@[simp] theorem updSquad_linkGroups (s : State) (t n : Nat) (f : Squad → Squad) : (s.updSquad t n f).linkGroups = s.linkGroups := rfl
@[simp] theorem updSquad_deviceWrites (s : State) (t n : Nat) (f : Squad → Squad) : (s.updSquad t n f).deviceWrites = s.deviceWrites := rfl
@[simp] theorem updSquad_peers (s : State) (t n : Nat) (f : Squad → Squad) : (s.updSquad t n f).peers = s.peers := rfl
@[simp] theorem updSquad_wards (s : State) (t n : Nat) (f : Squad → Squad) : (s.updSquad t n f).wards = s.wards := rfl
@[simp] theorem updSquad_faults (s : State) (t n : Nat) (f : Squad → Squad) : (s.updSquad t n f).faults = s.faults := rfl
@[simp] theorem updSquad_resets (s : State) (t n : Nat) (f : Squad → Squad) : (s.updSquad t n f).resets = s.resets := rfl
@[simp] theorem updSquad_checkpoint (s : State) (t n : Nat) (f : Squad → Squad) : (s.updSquad t n f).checkpoint = s.checkpoint := rfl
@[simp] theorem updSquad_launches (s : State) (t n : Nat) (f : Squad → Squad) : (s.updSquad t n f).launches = s.launches := rfl
@[simp] theorem updSquad_gangs (s : State) (t n : Nat) (f : Squad → Squad) : (s.updSquad t n f).gangs = s.gangs := rfl
@[simp] theorem updSquad_claims (s : State) (t n : Nat) (f : Squad → Squad) : (s.updSquad t n f).claims = s.claims := rfl
@[simp] theorem updSquad_nextOrder (s : State) (t n : Nat) (f : Squad → Squad) : (s.updSquad t n f).nextOrder = s.nextOrder := rfl
@[simp] theorem updSquad_ptbase (s : State) (t n : Nat) (f : Squad → Squad) : (s.updSquad t n f).ptbase = s.ptbase := rfl
@[simp] theorem updSquad_ptbaseLow (s : State) (t n : Nat) (f : Squad → Squad) : (s.updSquad t n f).ptbaseLow = s.ptbaseLow := rfl
@[simp] theorem updSquad_reticleTlb (s : State) (t n : Nat) (f : Squad → Squad) : (s.updSquad t n f).reticleTlb = s.reticleTlb := rfl
@[simp] theorem updSquad_walks (s : State) (t n : Nat) (f : Squad → Squad) : (s.updSquad t n f).walks = s.walks := rfl
@[simp] theorem updSquad_mem (s : State) (t n : Nat) (f : Squad → Squad) : (s.updSquad t n f).mem = s.mem := rfl
@[simp] theorem updSquad_wc (s : State) (t n : Nat) (f : Squad → Squad) : (s.updSquad t n f).wc = s.wc := rfl
@[simp] theorem updSquad_useCtr (s : State) (t n : Nat) (f : Squad → Squad) : (s.updSquad t n f).useCtr = s.useCtr := rfl
@[simp] theorem updSquad_held (s : State) (t n : Nat) (f : Squad → Squad) : (s.updSquad t n f).held = s.held := rfl
@[simp] theorem updSquad_inError (s : State) (t n : Nat) (f : Squad → Squad) : (s.updSquad t n f).inError = s.inError := rfl
@[simp] theorem updSquad_regions (s : State) (t n : Nat) (f : Squad → Squad) : (s.updSquad t n f).regions = s.regions := rfl
@[simp] theorem updSquad_replicas (s : State) (t n : Nat) (f : Squad → Squad) : (s.updSquad t n f).replicas = s.replicas := rfl
@[simp] theorem updSquad_placement (s : State) (t n : Nat) (f : Squad → Squad) : (s.updSquad t n f).placement = s.placement := rfl
@[simp] theorem updSquad_redealt (s : State) (t n : Nat) (f : Squad → Squad) : (s.updSquad t n f).redealt = s.redealt := rfl
@[simp] theorem updSquad_emptying (s : State) (t n : Nat) (f : Squad → Squad) : (s.updSquad t n f).emptying = s.emptying := rfl
@[simp] theorem updSquad_lastAtomic (s : State) (t n : Nat) (f : Squad → Squad) : (s.updSquad t n f).lastAtomic = s.lastAtomic := rfl
@[simp] theorem updSquad_locks (s : State) (t n : Nat) (f : Squad → Squad) : (s.updSquad t n f).locks = s.locks := rfl
@[simp] theorem updSquad_lockSquads (s : State) (t n : Nat) (f : Squad → Squad) : (s.updSquad t n f).lockSquads = s.lockSquads := rfl
@[simp] theorem updSquad_matrices (s : State) (t n : Nat) (f : Squad → Squad) : (s.updSquad t n f).matrices = s.matrices := rfl
@[simp] theorem updSquad_sentGrants (s : State) (t n : Nat) (f : Squad → Squad) : (s.updSquad t n f).sentGrants = s.sentGrants := rfl
@[simp] theorem updSquad_nextGrant (s : State) (t n : Nat) (f : Squad → Squad) : (s.updSquad t n f).nextGrant = s.nextGrant := rfl
@[simp] theorem updSquad_junctions (s : State) (t n : Nat) (f : Squad → Squad) : (s.updSquad t n f).junctions = s.junctions := rfl
@[simp] theorem updSquad_peerHeld (s : State) (t n : Nat) (f : Squad → Squad) : (s.updSquad t n f).peerHeld = s.peerHeld := rfl
@[simp] theorem updSquad_peerRefused (s : State) (t n : Nat) (f : Squad → Squad) : (s.updSquad t n f).peerRefused = s.peerRefused := rfl
@[simp] theorem updSquad_sampler (s : State) (t n : Nat) (f : Squad → Squad) : (s.updSquad t n f).sampler = s.sampler := rfl
@[simp] theorem updSquad_snap (s : State) (t n : Nat) (f : Squad → Squad) : (s.updSquad t n f).snap = s.snap := rfl
@[simp] theorem updSquad_snaps (s : State) (t n : Nat) (f : Squad → Squad) : (s.updSquad t n f).snaps = s.snaps := rfl
@[simp] theorem updSquad_agenda (s : State) (t n : Nat) (f : Squad → Squad) : (s.updSquad t n f).agenda = s.agenda := rfl
@[simp] theorem updSquad_sched (s : State) (t n : Nat) (f : Squad → Squad) : (s.updSquad t n f).sched = s.sched := rfl
@[simp] theorem updSquad_rr (s : State) (t n : Nat) (f : Squad → Squad) : (s.updSquad t n f).rr = s.rr := rfl
@[simp] theorem updSquad_cur (s : State) (t n : Nat) (f : Squad → Squad) : (s.updSquad t n f).cur = s.cur := rfl
@[simp] theorem updSquad_input (s : State) (t n : Nat) (f : Squad → Squad) : (s.updSquad t n f).input = s.input := rfl
@[simp] theorem updSquad_loss (s : State) (t n : Nat) (f : Squad → Squad) : (s.updSquad t n f).loss = s.loss := rfl
@[simp] theorem updSquad_freeCtr (s : State) (t n : Nat) (f : Squad → Squad) : (s.updSquad t n f).freeCtr = s.freeCtr := rfl

/-! ### pokeN -/

@[simp] theorem pokeN_devclk (s : State) (a : Nat) (bs : List Byte) : (s.pokeN a bs).devclk = s.devclk := rfl
@[simp] theorem pokeN_coreCycles (s : State) (a : Nat) (bs : List Byte) : (s.pokeN a bs).coreCycles = s.coreCycles := rfl
@[simp] theorem pokeN_fabricCycles (s : State) (a : Nat) (bs : List Byte) : (s.pokeN a bs).fabricCycles = s.fabricCycles := rfl
@[simp] theorem pokeN_pace (s : State) (a : Nat) (bs : List Byte) : (s.pokeN a bs).pace = s.pace := rfl
@[simp] theorem pokeN_power (s : State) (a : Nat) (bs : List Byte) : (s.pokeN a bs).power = s.power := rfl
@[simp] theorem pokeN_flash (s : State) (a : Nat) (bs : List Byte) : (s.pokeN a bs).flash = s.flash := rfl
@[simp] theorem pokeN_flashWrite (s : State) (a : Nat) (bs : List Byte) : (s.pokeN a bs).flashWrite = s.flashWrite := rfl
@[simp] theorem pokeN_staged (s : State) (a : Nat) (bs : List Byte) : (s.pokeN a bs).staged = s.staged := rfl
@[simp] theorem pokeN_bringUp (s : State) (a : Nat) (bs : List Byte) : (s.pokeN a bs).bringUp = s.bringUp := rfl
@[simp] theorem pokeN_links (s : State) (a : Nat) (bs : List Byte) : (s.pokeN a bs).links = s.links := rfl
@[simp] theorem pokeN_flights (s : State) (a : Nat) (bs : List Byte) : (s.pokeN a bs).flights = s.flights := rfl
@[simp] theorem pokeN_awaited (s : State) (a : Nat) (bs : List Byte) : (s.pokeN a bs).awaited = s.awaited := rfl
@[simp] theorem pokeN_nextPacket (s : State) (a : Nat) (bs : List Byte) : (s.pokeN a bs).nextPacket = s.nextPacket := rfl
@[simp] theorem pokeN_waiting (s : State) (a : Nat) (bs : List Byte) : (s.pokeN a bs).waiting = s.waiting := rfl
@[simp] theorem pokeN_fkey (s : State) (a : Nat) (bs : List Byte) : (s.pokeN a bs).fkey = s.fkey := rfl
@[simp] theorem pokeN_street (s : State) (a : Nat) (bs : List Byte) : (s.pokeN a bs).street = s.street := rfl
@[simp] theorem pokeN_streetNext (s : State) (a : Nat) (bs : List Byte) : (s.pokeN a bs).streetNext = s.streetNext := rfl
@[simp] theorem pokeN_streetCommit (s : State) (a : Nat) (bs : List Byte) : (s.pokeN a bs).streetCommit = s.streetCommit := rfl
@[simp] theorem pokeN_harvestMap (s : State) (a : Nat) (bs : List Byte) : (s.pokeN a bs).harvestMap = s.harvestMap := rfl
@[simp] theorem pokeN_marks (s : State) (a : Nat) (bs : List Byte) : (s.pokeN a bs).marks = s.marks := rfl
@[simp] theorem pokeN_active (s : State) (a : Nat) (bs : List Byte) : (s.pokeN a bs).active = s.active := rfl
@[simp] theorem pokeN_staging (s : State) (a : Nat) (bs : List Byte) : (s.pokeN a bs).staging = s.staging := rfl
@[simp] theorem pokeN_rt (s : State) (a : Nat) (bs : List Byte) : (s.pokeN a bs).rt = s.rt := rfl
@[simp] theorem pokeN_ports (s : State) (a : Nat) (bs : List Byte) : (s.pokeN a bs).ports = s.ports := rfl
@[simp] theorem pokeN_linkFail (s : State) (a : Nat) (bs : List Byte) : (s.pokeN a bs).linkFail = s.linkFail := rfl
@[simp] theorem pokeN_background (s : State) (a : Nat) (bs : List Byte) : (s.pokeN a bs).background = s.background := rfl
@[simp] theorem pokeN_answers (s : State) (a : Nat) (bs : List Byte) : (s.pokeN a bs).answers = s.answers := rfl
@[simp] theorem pokeN_hostAnswers (s : State) (a : Nat) (bs : List Byte) : (s.pokeN a bs).hostAnswers = s.hostAnswers := rfl
@[simp] theorem pokeN_snoopAnswers (s : State) (a : Nat) (bs : List Byte) : (s.pokeN a bs).snoopAnswers = s.snoopAnswers := rfl
@[simp] theorem pokeN_eventLog (s : State) (a : Nat) (bs : List Byte) : (s.pokeN a bs).eventLog = s.eventLog := rfl
@[simp] theorem pokeN_queues (s : State) (a : Nat) (bs : List Byte) : (s.pokeN a bs).queues = s.queues := rfl
@[simp] theorem pokeN_msix (s : State) (a : Nat) (bs : List Byte) : (s.pokeN a bs).msix = s.msix := rfl
@[simp] theorem pokeN_hostBias (s : State) (a : Nat) (bs : List Byte) : (s.pokeN a bs).hostBias = s.hostBias := rfl
@[simp] theorem pokeN_hostLines (s : State) (a : Nat) (bs : List Byte) : (s.pokeN a bs).hostLines = s.hostLines := rfl
@[simp] theorem pokeN_flipping (s : State) (a : Nat) (bs : List Byte) : (s.pokeN a bs).flipping = s.flipping := rfl
@[simp] theorem pokeN_granules (s : State) (a : Nat) (bs : List Byte) : (s.pokeN a bs).granules = s.granules := rfl
@[simp] theorem pokeN_linkGroups (s : State) (a : Nat) (bs : List Byte) : (s.pokeN a bs).linkGroups = s.linkGroups := rfl
@[simp] theorem pokeN_deviceWrites (s : State) (a : Nat) (bs : List Byte) : (s.pokeN a bs).deviceWrites = s.deviceWrites := rfl
@[simp] theorem pokeN_peers (s : State) (a : Nat) (bs : List Byte) : (s.pokeN a bs).peers = s.peers := rfl
@[simp] theorem pokeN_wards (s : State) (a : Nat) (bs : List Byte) : (s.pokeN a bs).wards = s.wards := rfl
@[simp] theorem pokeN_faults (s : State) (a : Nat) (bs : List Byte) : (s.pokeN a bs).faults = s.faults := rfl
@[simp] theorem pokeN_resets (s : State) (a : Nat) (bs : List Byte) : (s.pokeN a bs).resets = s.resets := rfl
@[simp] theorem pokeN_checkpoint (s : State) (a : Nat) (bs : List Byte) : (s.pokeN a bs).checkpoint = s.checkpoint := rfl
@[simp] theorem pokeN_launches (s : State) (a : Nat) (bs : List Byte) : (s.pokeN a bs).launches = s.launches := rfl
@[simp] theorem pokeN_gangs (s : State) (a : Nat) (bs : List Byte) : (s.pokeN a bs).gangs = s.gangs := rfl
@[simp] theorem pokeN_claims (s : State) (a : Nat) (bs : List Byte) : (s.pokeN a bs).claims = s.claims := rfl
@[simp] theorem pokeN_nextOrder (s : State) (a : Nat) (bs : List Byte) : (s.pokeN a bs).nextOrder = s.nextOrder := rfl
@[simp] theorem pokeN_ptbase (s : State) (a : Nat) (bs : List Byte) : (s.pokeN a bs).ptbase = s.ptbase := rfl
@[simp] theorem pokeN_ptbaseLow (s : State) (a : Nat) (bs : List Byte) : (s.pokeN a bs).ptbaseLow = s.ptbaseLow := rfl
@[simp] theorem pokeN_reticleTlb (s : State) (a : Nat) (bs : List Byte) : (s.pokeN a bs).reticleTlb = s.reticleTlb := rfl
@[simp] theorem pokeN_walks (s : State) (a : Nat) (bs : List Byte) : (s.pokeN a bs).walks = s.walks := rfl
@[simp] theorem pokeN_tiles (s : State) (a : Nat) (bs : List Byte) : (s.pokeN a bs).tiles = s.tiles := rfl
@[simp] theorem pokeN_wc (s : State) (a : Nat) (bs : List Byte) : (s.pokeN a bs).wc = s.wc := rfl
@[simp] theorem pokeN_useCtr (s : State) (a : Nat) (bs : List Byte) : (s.pokeN a bs).useCtr = s.useCtr := rfl
@[simp] theorem pokeN_held (s : State) (a : Nat) (bs : List Byte) : (s.pokeN a bs).held = s.held := rfl
@[simp] theorem pokeN_inError (s : State) (a : Nat) (bs : List Byte) : (s.pokeN a bs).inError = s.inError := rfl
@[simp] theorem pokeN_regions (s : State) (a : Nat) (bs : List Byte) : (s.pokeN a bs).regions = s.regions := rfl
@[simp] theorem pokeN_replicas (s : State) (a : Nat) (bs : List Byte) : (s.pokeN a bs).replicas = s.replicas := rfl
@[simp] theorem pokeN_placement (s : State) (a : Nat) (bs : List Byte) : (s.pokeN a bs).placement = s.placement := rfl
@[simp] theorem pokeN_redealt (s : State) (a : Nat) (bs : List Byte) : (s.pokeN a bs).redealt = s.redealt := rfl
@[simp] theorem pokeN_emptying (s : State) (a : Nat) (bs : List Byte) : (s.pokeN a bs).emptying = s.emptying := rfl
@[simp] theorem pokeN_lastAtomic (s : State) (a : Nat) (bs : List Byte) : (s.pokeN a bs).lastAtomic = s.lastAtomic := rfl
@[simp] theorem pokeN_locks (s : State) (a : Nat) (bs : List Byte) : (s.pokeN a bs).locks = s.locks := rfl
@[simp] theorem pokeN_lockSquads (s : State) (a : Nat) (bs : List Byte) : (s.pokeN a bs).lockSquads = s.lockSquads := rfl
@[simp] theorem pokeN_matrices (s : State) (a : Nat) (bs : List Byte) : (s.pokeN a bs).matrices = s.matrices := rfl
@[simp] theorem pokeN_sentGrants (s : State) (a : Nat) (bs : List Byte) : (s.pokeN a bs).sentGrants = s.sentGrants := rfl
@[simp] theorem pokeN_nextGrant (s : State) (a : Nat) (bs : List Byte) : (s.pokeN a bs).nextGrant = s.nextGrant := rfl
@[simp] theorem pokeN_junctions (s : State) (a : Nat) (bs : List Byte) : (s.pokeN a bs).junctions = s.junctions := rfl
@[simp] theorem pokeN_peerHeld (s : State) (a : Nat) (bs : List Byte) : (s.pokeN a bs).peerHeld = s.peerHeld := rfl
@[simp] theorem pokeN_peerRefused (s : State) (a : Nat) (bs : List Byte) : (s.pokeN a bs).peerRefused = s.peerRefused := rfl
@[simp] theorem pokeN_sampler (s : State) (a : Nat) (bs : List Byte) : (s.pokeN a bs).sampler = s.sampler := rfl
@[simp] theorem pokeN_snap (s : State) (a : Nat) (bs : List Byte) : (s.pokeN a bs).snap = s.snap := rfl
@[simp] theorem pokeN_snaps (s : State) (a : Nat) (bs : List Byte) : (s.pokeN a bs).snaps = s.snaps := rfl
@[simp] theorem pokeN_agenda (s : State) (a : Nat) (bs : List Byte) : (s.pokeN a bs).agenda = s.agenda := rfl
@[simp] theorem pokeN_sched (s : State) (a : Nat) (bs : List Byte) : (s.pokeN a bs).sched = s.sched := rfl
@[simp] theorem pokeN_rr (s : State) (a : Nat) (bs : List Byte) : (s.pokeN a bs).rr = s.rr := rfl
@[simp] theorem pokeN_cur (s : State) (a : Nat) (bs : List Byte) : (s.pokeN a bs).cur = s.cur := rfl
@[simp] theorem pokeN_input (s : State) (a : Nat) (bs : List Byte) : (s.pokeN a bs).input = s.input := rfl
@[simp] theorem pokeN_loss (s : State) (a : Nat) (bs : List Byte) : (s.pokeN a bs).loss = s.loss := rfl
@[simp] theorem pokeN_freeCtr (s : State) (a : Nat) (bs : List Byte) : (s.pokeN a bs).freeCtr = s.freeCtr := rfl

/-! ### pokeNum -/

@[simp] theorem pokeNum_devclk (s : State) (a n v : Nat) : (s.pokeNum a n v).devclk = s.devclk := rfl
@[simp] theorem pokeNum_coreCycles (s : State) (a n v : Nat) : (s.pokeNum a n v).coreCycles = s.coreCycles := rfl
@[simp] theorem pokeNum_fabricCycles (s : State) (a n v : Nat) : (s.pokeNum a n v).fabricCycles = s.fabricCycles := rfl
@[simp] theorem pokeNum_pace (s : State) (a n v : Nat) : (s.pokeNum a n v).pace = s.pace := rfl
@[simp] theorem pokeNum_power (s : State) (a n v : Nat) : (s.pokeNum a n v).power = s.power := rfl
@[simp] theorem pokeNum_flash (s : State) (a n v : Nat) : (s.pokeNum a n v).flash = s.flash := rfl
@[simp] theorem pokeNum_flashWrite (s : State) (a n v : Nat) : (s.pokeNum a n v).flashWrite = s.flashWrite := rfl
@[simp] theorem pokeNum_staged (s : State) (a n v : Nat) : (s.pokeNum a n v).staged = s.staged := rfl
@[simp] theorem pokeNum_bringUp (s : State) (a n v : Nat) : (s.pokeNum a n v).bringUp = s.bringUp := rfl
@[simp] theorem pokeNum_links (s : State) (a n v : Nat) : (s.pokeNum a n v).links = s.links := rfl
@[simp] theorem pokeNum_flights (s : State) (a n v : Nat) : (s.pokeNum a n v).flights = s.flights := rfl
@[simp] theorem pokeNum_awaited (s : State) (a n v : Nat) : (s.pokeNum a n v).awaited = s.awaited := rfl
@[simp] theorem pokeNum_nextPacket (s : State) (a n v : Nat) : (s.pokeNum a n v).nextPacket = s.nextPacket := rfl
@[simp] theorem pokeNum_waiting (s : State) (a n v : Nat) : (s.pokeNum a n v).waiting = s.waiting := rfl
@[simp] theorem pokeNum_fkey (s : State) (a n v : Nat) : (s.pokeNum a n v).fkey = s.fkey := rfl
@[simp] theorem pokeNum_street (s : State) (a n v : Nat) : (s.pokeNum a n v).street = s.street := rfl
@[simp] theorem pokeNum_streetNext (s : State) (a n v : Nat) : (s.pokeNum a n v).streetNext = s.streetNext := rfl
@[simp] theorem pokeNum_streetCommit (s : State) (a n v : Nat) : (s.pokeNum a n v).streetCommit = s.streetCommit := rfl
@[simp] theorem pokeNum_harvestMap (s : State) (a n v : Nat) : (s.pokeNum a n v).harvestMap = s.harvestMap := rfl
@[simp] theorem pokeNum_marks (s : State) (a n v : Nat) : (s.pokeNum a n v).marks = s.marks := rfl
@[simp] theorem pokeNum_active (s : State) (a n v : Nat) : (s.pokeNum a n v).active = s.active := rfl
@[simp] theorem pokeNum_staging (s : State) (a n v : Nat) : (s.pokeNum a n v).staging = s.staging := rfl
@[simp] theorem pokeNum_rt (s : State) (a n v : Nat) : (s.pokeNum a n v).rt = s.rt := rfl
@[simp] theorem pokeNum_ports (s : State) (a n v : Nat) : (s.pokeNum a n v).ports = s.ports := rfl
@[simp] theorem pokeNum_linkFail (s : State) (a n v : Nat) : (s.pokeNum a n v).linkFail = s.linkFail := rfl
@[simp] theorem pokeNum_background (s : State) (a n v : Nat) : (s.pokeNum a n v).background = s.background := rfl
@[simp] theorem pokeNum_answers (s : State) (a n v : Nat) : (s.pokeNum a n v).answers = s.answers := rfl
@[simp] theorem pokeNum_hostAnswers (s : State) (a n v : Nat) : (s.pokeNum a n v).hostAnswers = s.hostAnswers := rfl
@[simp] theorem pokeNum_snoopAnswers (s : State) (a n v : Nat) : (s.pokeNum a n v).snoopAnswers = s.snoopAnswers := rfl
@[simp] theorem pokeNum_eventLog (s : State) (a n v : Nat) : (s.pokeNum a n v).eventLog = s.eventLog := rfl
@[simp] theorem pokeNum_queues (s : State) (a n v : Nat) : (s.pokeNum a n v).queues = s.queues := rfl
@[simp] theorem pokeNum_msix (s : State) (a n v : Nat) : (s.pokeNum a n v).msix = s.msix := rfl
@[simp] theorem pokeNum_hostBias (s : State) (a n v : Nat) : (s.pokeNum a n v).hostBias = s.hostBias := rfl
@[simp] theorem pokeNum_hostLines (s : State) (a n v : Nat) : (s.pokeNum a n v).hostLines = s.hostLines := rfl
@[simp] theorem pokeNum_flipping (s : State) (a n v : Nat) : (s.pokeNum a n v).flipping = s.flipping := rfl
@[simp] theorem pokeNum_granules (s : State) (a n v : Nat) : (s.pokeNum a n v).granules = s.granules := rfl
@[simp] theorem pokeNum_linkGroups (s : State) (a n v : Nat) : (s.pokeNum a n v).linkGroups = s.linkGroups := rfl
@[simp] theorem pokeNum_deviceWrites (s : State) (a n v : Nat) : (s.pokeNum a n v).deviceWrites = s.deviceWrites := rfl
@[simp] theorem pokeNum_peers (s : State) (a n v : Nat) : (s.pokeNum a n v).peers = s.peers := rfl
@[simp] theorem pokeNum_wards (s : State) (a n v : Nat) : (s.pokeNum a n v).wards = s.wards := rfl
@[simp] theorem pokeNum_faults (s : State) (a n v : Nat) : (s.pokeNum a n v).faults = s.faults := rfl
@[simp] theorem pokeNum_resets (s : State) (a n v : Nat) : (s.pokeNum a n v).resets = s.resets := rfl
@[simp] theorem pokeNum_checkpoint (s : State) (a n v : Nat) : (s.pokeNum a n v).checkpoint = s.checkpoint := rfl
@[simp] theorem pokeNum_launches (s : State) (a n v : Nat) : (s.pokeNum a n v).launches = s.launches := rfl
@[simp] theorem pokeNum_gangs (s : State) (a n v : Nat) : (s.pokeNum a n v).gangs = s.gangs := rfl
@[simp] theorem pokeNum_claims (s : State) (a n v : Nat) : (s.pokeNum a n v).claims = s.claims := rfl
@[simp] theorem pokeNum_nextOrder (s : State) (a n v : Nat) : (s.pokeNum a n v).nextOrder = s.nextOrder := rfl
@[simp] theorem pokeNum_ptbase (s : State) (a n v : Nat) : (s.pokeNum a n v).ptbase = s.ptbase := rfl
@[simp] theorem pokeNum_ptbaseLow (s : State) (a n v : Nat) : (s.pokeNum a n v).ptbaseLow = s.ptbaseLow := rfl
@[simp] theorem pokeNum_reticleTlb (s : State) (a n v : Nat) : (s.pokeNum a n v).reticleTlb = s.reticleTlb := rfl
@[simp] theorem pokeNum_walks (s : State) (a n v : Nat) : (s.pokeNum a n v).walks = s.walks := rfl
@[simp] theorem pokeNum_tiles (s : State) (a n v : Nat) : (s.pokeNum a n v).tiles = s.tiles := rfl
@[simp] theorem pokeNum_wc (s : State) (a n v : Nat) : (s.pokeNum a n v).wc = s.wc := rfl
@[simp] theorem pokeNum_useCtr (s : State) (a n v : Nat) : (s.pokeNum a n v).useCtr = s.useCtr := rfl
@[simp] theorem pokeNum_held (s : State) (a n v : Nat) : (s.pokeNum a n v).held = s.held := rfl
@[simp] theorem pokeNum_inError (s : State) (a n v : Nat) : (s.pokeNum a n v).inError = s.inError := rfl
@[simp] theorem pokeNum_regions (s : State) (a n v : Nat) : (s.pokeNum a n v).regions = s.regions := rfl
@[simp] theorem pokeNum_replicas (s : State) (a n v : Nat) : (s.pokeNum a n v).replicas = s.replicas := rfl
@[simp] theorem pokeNum_placement (s : State) (a n v : Nat) : (s.pokeNum a n v).placement = s.placement := rfl
@[simp] theorem pokeNum_redealt (s : State) (a n v : Nat) : (s.pokeNum a n v).redealt = s.redealt := rfl
@[simp] theorem pokeNum_emptying (s : State) (a n v : Nat) : (s.pokeNum a n v).emptying = s.emptying := rfl
@[simp] theorem pokeNum_lastAtomic (s : State) (a n v : Nat) : (s.pokeNum a n v).lastAtomic = s.lastAtomic := rfl
@[simp] theorem pokeNum_locks (s : State) (a n v : Nat) : (s.pokeNum a n v).locks = s.locks := rfl
@[simp] theorem pokeNum_lockSquads (s : State) (a n v : Nat) : (s.pokeNum a n v).lockSquads = s.lockSquads := rfl
@[simp] theorem pokeNum_matrices (s : State) (a n v : Nat) : (s.pokeNum a n v).matrices = s.matrices := rfl
@[simp] theorem pokeNum_sentGrants (s : State) (a n v : Nat) : (s.pokeNum a n v).sentGrants = s.sentGrants := rfl
@[simp] theorem pokeNum_nextGrant (s : State) (a n v : Nat) : (s.pokeNum a n v).nextGrant = s.nextGrant := rfl
@[simp] theorem pokeNum_junctions (s : State) (a n v : Nat) : (s.pokeNum a n v).junctions = s.junctions := rfl
@[simp] theorem pokeNum_peerHeld (s : State) (a n v : Nat) : (s.pokeNum a n v).peerHeld = s.peerHeld := rfl
@[simp] theorem pokeNum_peerRefused (s : State) (a n v : Nat) : (s.pokeNum a n v).peerRefused = s.peerRefused := rfl
@[simp] theorem pokeNum_sampler (s : State) (a n v : Nat) : (s.pokeNum a n v).sampler = s.sampler := rfl
@[simp] theorem pokeNum_snap (s : State) (a n v : Nat) : (s.pokeNum a n v).snap = s.snap := rfl
@[simp] theorem pokeNum_snaps (s : State) (a n v : Nat) : (s.pokeNum a n v).snaps = s.snaps := rfl
@[simp] theorem pokeNum_agenda (s : State) (a n v : Nat) : (s.pokeNum a n v).agenda = s.agenda := rfl
@[simp] theorem pokeNum_sched (s : State) (a n v : Nat) : (s.pokeNum a n v).sched = s.sched := rfl
@[simp] theorem pokeNum_rr (s : State) (a n v : Nat) : (s.pokeNum a n v).rr = s.rr := rfl
@[simp] theorem pokeNum_cur (s : State) (a n v : Nat) : (s.pokeNum a n v).cur = s.cur := rfl
@[simp] theorem pokeNum_input (s : State) (a n v : Nat) : (s.pokeNum a n v).input = s.input := rfl
@[simp] theorem pokeNum_loss (s : State) (a n v : Nat) : (s.pokeNum a n v).loss = s.loss := rfl
@[simp] theorem pokeNum_freeCtr (s : State) (a n v : Nat) : (s.pokeNum a n v).freeCtr = s.freeCtr := rfl

/-! ### updLaunch -/

@[simp] theorem updLaunch_devclk (s : State) (k : LaunchKey) (f : Launch → Launch) : (s.updLaunch k f).devclk = s.devclk := rfl
@[simp] theorem updLaunch_coreCycles (s : State) (k : LaunchKey) (f : Launch → Launch) : (s.updLaunch k f).coreCycles = s.coreCycles := rfl
@[simp] theorem updLaunch_fabricCycles (s : State) (k : LaunchKey) (f : Launch → Launch) : (s.updLaunch k f).fabricCycles = s.fabricCycles := rfl
@[simp] theorem updLaunch_pace (s : State) (k : LaunchKey) (f : Launch → Launch) : (s.updLaunch k f).pace = s.pace := rfl
@[simp] theorem updLaunch_power (s : State) (k : LaunchKey) (f : Launch → Launch) : (s.updLaunch k f).power = s.power := rfl
@[simp] theorem updLaunch_flash (s : State) (k : LaunchKey) (f : Launch → Launch) : (s.updLaunch k f).flash = s.flash := rfl
@[simp] theorem updLaunch_flashWrite (s : State) (k : LaunchKey) (f : Launch → Launch) : (s.updLaunch k f).flashWrite = s.flashWrite := rfl
@[simp] theorem updLaunch_staged (s : State) (k : LaunchKey) (f : Launch → Launch) : (s.updLaunch k f).staged = s.staged := rfl
@[simp] theorem updLaunch_bringUp (s : State) (k : LaunchKey) (f : Launch → Launch) : (s.updLaunch k f).bringUp = s.bringUp := rfl
@[simp] theorem updLaunch_links (s : State) (k : LaunchKey) (f : Launch → Launch) : (s.updLaunch k f).links = s.links := rfl
@[simp] theorem updLaunch_flights (s : State) (k : LaunchKey) (f : Launch → Launch) : (s.updLaunch k f).flights = s.flights := rfl
@[simp] theorem updLaunch_awaited (s : State) (k : LaunchKey) (f : Launch → Launch) : (s.updLaunch k f).awaited = s.awaited := rfl
@[simp] theorem updLaunch_nextPacket (s : State) (k : LaunchKey) (f : Launch → Launch) : (s.updLaunch k f).nextPacket = s.nextPacket := rfl
@[simp] theorem updLaunch_waiting (s : State) (k : LaunchKey) (f : Launch → Launch) : (s.updLaunch k f).waiting = s.waiting := rfl
@[simp] theorem updLaunch_fkey (s : State) (k : LaunchKey) (f : Launch → Launch) : (s.updLaunch k f).fkey = s.fkey := rfl
@[simp] theorem updLaunch_street (s : State) (k : LaunchKey) (f : Launch → Launch) : (s.updLaunch k f).street = s.street := rfl
@[simp] theorem updLaunch_streetNext (s : State) (k : LaunchKey) (f : Launch → Launch) : (s.updLaunch k f).streetNext = s.streetNext := rfl
@[simp] theorem updLaunch_streetCommit (s : State) (k : LaunchKey) (f : Launch → Launch) : (s.updLaunch k f).streetCommit = s.streetCommit := rfl
@[simp] theorem updLaunch_harvestMap (s : State) (k : LaunchKey) (f : Launch → Launch) : (s.updLaunch k f).harvestMap = s.harvestMap := rfl
@[simp] theorem updLaunch_marks (s : State) (k : LaunchKey) (f : Launch → Launch) : (s.updLaunch k f).marks = s.marks := rfl
@[simp] theorem updLaunch_active (s : State) (k : LaunchKey) (f : Launch → Launch) : (s.updLaunch k f).active = s.active := rfl
@[simp] theorem updLaunch_staging (s : State) (k : LaunchKey) (f : Launch → Launch) : (s.updLaunch k f).staging = s.staging := rfl
@[simp] theorem updLaunch_rt (s : State) (k : LaunchKey) (f : Launch → Launch) : (s.updLaunch k f).rt = s.rt := rfl
@[simp] theorem updLaunch_ports (s : State) (k : LaunchKey) (f : Launch → Launch) : (s.updLaunch k f).ports = s.ports := rfl
@[simp] theorem updLaunch_linkFail (s : State) (k : LaunchKey) (f : Launch → Launch) : (s.updLaunch k f).linkFail = s.linkFail := rfl
@[simp] theorem updLaunch_background (s : State) (k : LaunchKey) (f : Launch → Launch) : (s.updLaunch k f).background = s.background := rfl
@[simp] theorem updLaunch_answers (s : State) (k : LaunchKey) (f : Launch → Launch) : (s.updLaunch k f).answers = s.answers := rfl
@[simp] theorem updLaunch_hostAnswers (s : State) (k : LaunchKey) (f : Launch → Launch) : (s.updLaunch k f).hostAnswers = s.hostAnswers := rfl
@[simp] theorem updLaunch_snoopAnswers (s : State) (k : LaunchKey) (f : Launch → Launch) : (s.updLaunch k f).snoopAnswers = s.snoopAnswers := rfl
@[simp] theorem updLaunch_eventLog (s : State) (k : LaunchKey) (f : Launch → Launch) : (s.updLaunch k f).eventLog = s.eventLog := rfl
@[simp] theorem updLaunch_queues (s : State) (k : LaunchKey) (f : Launch → Launch) : (s.updLaunch k f).queues = s.queues := rfl
@[simp] theorem updLaunch_msix (s : State) (k : LaunchKey) (f : Launch → Launch) : (s.updLaunch k f).msix = s.msix := rfl
@[simp] theorem updLaunch_hostBias (s : State) (k : LaunchKey) (f : Launch → Launch) : (s.updLaunch k f).hostBias = s.hostBias := rfl
@[simp] theorem updLaunch_hostLines (s : State) (k : LaunchKey) (f : Launch → Launch) : (s.updLaunch k f).hostLines = s.hostLines := rfl
@[simp] theorem updLaunch_flipping (s : State) (k : LaunchKey) (f : Launch → Launch) : (s.updLaunch k f).flipping = s.flipping := rfl
@[simp] theorem updLaunch_granules (s : State) (k : LaunchKey) (f : Launch → Launch) : (s.updLaunch k f).granules = s.granules := rfl
@[simp] theorem updLaunch_linkGroups (s : State) (k : LaunchKey) (f : Launch → Launch) : (s.updLaunch k f).linkGroups = s.linkGroups := rfl
@[simp] theorem updLaunch_deviceWrites (s : State) (k : LaunchKey) (f : Launch → Launch) : (s.updLaunch k f).deviceWrites = s.deviceWrites := rfl
@[simp] theorem updLaunch_peers (s : State) (k : LaunchKey) (f : Launch → Launch) : (s.updLaunch k f).peers = s.peers := rfl
@[simp] theorem updLaunch_wards (s : State) (k : LaunchKey) (f : Launch → Launch) : (s.updLaunch k f).wards = s.wards := rfl
@[simp] theorem updLaunch_faults (s : State) (k : LaunchKey) (f : Launch → Launch) : (s.updLaunch k f).faults = s.faults := rfl
@[simp] theorem updLaunch_resets (s : State) (k : LaunchKey) (f : Launch → Launch) : (s.updLaunch k f).resets = s.resets := rfl
@[simp] theorem updLaunch_checkpoint (s : State) (k : LaunchKey) (f : Launch → Launch) : (s.updLaunch k f).checkpoint = s.checkpoint := rfl
@[simp] theorem updLaunch_launches (s : State) (k : LaunchKey) (f : Launch → Launch) : (s.updLaunch k f).launches = mapIf (fun l => l.key = k) f s.launches := rfl
@[simp] theorem updLaunch_gangs (s : State) (k : LaunchKey) (f : Launch → Launch) : (s.updLaunch k f).gangs = s.gangs := rfl
@[simp] theorem updLaunch_claims (s : State) (k : LaunchKey) (f : Launch → Launch) : (s.updLaunch k f).claims = s.claims := rfl
@[simp] theorem updLaunch_nextOrder (s : State) (k : LaunchKey) (f : Launch → Launch) : (s.updLaunch k f).nextOrder = s.nextOrder := rfl
@[simp] theorem updLaunch_ptbase (s : State) (k : LaunchKey) (f : Launch → Launch) : (s.updLaunch k f).ptbase = s.ptbase := rfl
@[simp] theorem updLaunch_ptbaseLow (s : State) (k : LaunchKey) (f : Launch → Launch) : (s.updLaunch k f).ptbaseLow = s.ptbaseLow := rfl
@[simp] theorem updLaunch_reticleTlb (s : State) (k : LaunchKey) (f : Launch → Launch) : (s.updLaunch k f).reticleTlb = s.reticleTlb := rfl
@[simp] theorem updLaunch_walks (s : State) (k : LaunchKey) (f : Launch → Launch) : (s.updLaunch k f).walks = s.walks := rfl
@[simp] theorem updLaunch_tiles (s : State) (k : LaunchKey) (f : Launch → Launch) : (s.updLaunch k f).tiles = s.tiles := rfl
@[simp] theorem updLaunch_mem (s : State) (k : LaunchKey) (f : Launch → Launch) : (s.updLaunch k f).mem = s.mem := rfl
@[simp] theorem updLaunch_wc (s : State) (k : LaunchKey) (f : Launch → Launch) : (s.updLaunch k f).wc = s.wc := rfl
@[simp] theorem updLaunch_useCtr (s : State) (k : LaunchKey) (f : Launch → Launch) : (s.updLaunch k f).useCtr = s.useCtr := rfl
@[simp] theorem updLaunch_held (s : State) (k : LaunchKey) (f : Launch → Launch) : (s.updLaunch k f).held = s.held := rfl
@[simp] theorem updLaunch_inError (s : State) (k : LaunchKey) (f : Launch → Launch) : (s.updLaunch k f).inError = s.inError := rfl
@[simp] theorem updLaunch_regions (s : State) (k : LaunchKey) (f : Launch → Launch) : (s.updLaunch k f).regions = s.regions := rfl
@[simp] theorem updLaunch_replicas (s : State) (k : LaunchKey) (f : Launch → Launch) : (s.updLaunch k f).replicas = s.replicas := rfl
@[simp] theorem updLaunch_placement (s : State) (k : LaunchKey) (f : Launch → Launch) : (s.updLaunch k f).placement = s.placement := rfl
@[simp] theorem updLaunch_redealt (s : State) (k : LaunchKey) (f : Launch → Launch) : (s.updLaunch k f).redealt = s.redealt := rfl
@[simp] theorem updLaunch_emptying (s : State) (k : LaunchKey) (f : Launch → Launch) : (s.updLaunch k f).emptying = s.emptying := rfl
@[simp] theorem updLaunch_lastAtomic (s : State) (k : LaunchKey) (f : Launch → Launch) : (s.updLaunch k f).lastAtomic = s.lastAtomic := rfl
@[simp] theorem updLaunch_locks (s : State) (k : LaunchKey) (f : Launch → Launch) : (s.updLaunch k f).locks = s.locks := rfl
@[simp] theorem updLaunch_lockSquads (s : State) (k : LaunchKey) (f : Launch → Launch) : (s.updLaunch k f).lockSquads = s.lockSquads := rfl
@[simp] theorem updLaunch_matrices (s : State) (k : LaunchKey) (f : Launch → Launch) : (s.updLaunch k f).matrices = s.matrices := rfl
@[simp] theorem updLaunch_sentGrants (s : State) (k : LaunchKey) (f : Launch → Launch) : (s.updLaunch k f).sentGrants = s.sentGrants := rfl
@[simp] theorem updLaunch_nextGrant (s : State) (k : LaunchKey) (f : Launch → Launch) : (s.updLaunch k f).nextGrant = s.nextGrant := rfl
@[simp] theorem updLaunch_junctions (s : State) (k : LaunchKey) (f : Launch → Launch) : (s.updLaunch k f).junctions = s.junctions := rfl
@[simp] theorem updLaunch_peerHeld (s : State) (k : LaunchKey) (f : Launch → Launch) : (s.updLaunch k f).peerHeld = s.peerHeld := rfl
@[simp] theorem updLaunch_peerRefused (s : State) (k : LaunchKey) (f : Launch → Launch) : (s.updLaunch k f).peerRefused = s.peerRefused := rfl
@[simp] theorem updLaunch_sampler (s : State) (k : LaunchKey) (f : Launch → Launch) : (s.updLaunch k f).sampler = s.sampler := rfl
@[simp] theorem updLaunch_snap (s : State) (k : LaunchKey) (f : Launch → Launch) : (s.updLaunch k f).snap = s.snap := rfl
@[simp] theorem updLaunch_snaps (s : State) (k : LaunchKey) (f : Launch → Launch) : (s.updLaunch k f).snaps = s.snaps := rfl
@[simp] theorem updLaunch_agenda (s : State) (k : LaunchKey) (f : Launch → Launch) : (s.updLaunch k f).agenda = s.agenda := rfl
@[simp] theorem updLaunch_sched (s : State) (k : LaunchKey) (f : Launch → Launch) : (s.updLaunch k f).sched = s.sched := rfl
@[simp] theorem updLaunch_rr (s : State) (k : LaunchKey) (f : Launch → Launch) : (s.updLaunch k f).rr = s.rr := rfl
@[simp] theorem updLaunch_cur (s : State) (k : LaunchKey) (f : Launch → Launch) : (s.updLaunch k f).cur = s.cur := rfl
@[simp] theorem updLaunch_input (s : State) (k : LaunchKey) (f : Launch → Launch) : (s.updLaunch k f).input = s.input := rfl
@[simp] theorem updLaunch_loss (s : State) (k : LaunchKey) (f : Launch → Launch) : (s.updLaunch k f).loss = s.loss := rfl
@[simp] theorem updLaunch_freeCtr (s : State) (k : LaunchKey) (f : Launch → Launch) : (s.updLaunch k f).freeCtr = s.freeCtr := rfl

/-! ### updGang -/

@[simp] theorem updGang_devclk (s : State) (k : GangKey) (f : Gang → Gang) : (s.updGang k f).devclk = s.devclk := rfl
@[simp] theorem updGang_coreCycles (s : State) (k : GangKey) (f : Gang → Gang) : (s.updGang k f).coreCycles = s.coreCycles := rfl
@[simp] theorem updGang_fabricCycles (s : State) (k : GangKey) (f : Gang → Gang) : (s.updGang k f).fabricCycles = s.fabricCycles := rfl
@[simp] theorem updGang_pace (s : State) (k : GangKey) (f : Gang → Gang) : (s.updGang k f).pace = s.pace := rfl
@[simp] theorem updGang_power (s : State) (k : GangKey) (f : Gang → Gang) : (s.updGang k f).power = s.power := rfl
@[simp] theorem updGang_flash (s : State) (k : GangKey) (f : Gang → Gang) : (s.updGang k f).flash = s.flash := rfl
@[simp] theorem updGang_flashWrite (s : State) (k : GangKey) (f : Gang → Gang) : (s.updGang k f).flashWrite = s.flashWrite := rfl
@[simp] theorem updGang_staged (s : State) (k : GangKey) (f : Gang → Gang) : (s.updGang k f).staged = s.staged := rfl
@[simp] theorem updGang_bringUp (s : State) (k : GangKey) (f : Gang → Gang) : (s.updGang k f).bringUp = s.bringUp := rfl
@[simp] theorem updGang_links (s : State) (k : GangKey) (f : Gang → Gang) : (s.updGang k f).links = s.links := rfl
@[simp] theorem updGang_flights (s : State) (k : GangKey) (f : Gang → Gang) : (s.updGang k f).flights = s.flights := rfl
@[simp] theorem updGang_awaited (s : State) (k : GangKey) (f : Gang → Gang) : (s.updGang k f).awaited = s.awaited := rfl
@[simp] theorem updGang_nextPacket (s : State) (k : GangKey) (f : Gang → Gang) : (s.updGang k f).nextPacket = s.nextPacket := rfl
@[simp] theorem updGang_waiting (s : State) (k : GangKey) (f : Gang → Gang) : (s.updGang k f).waiting = s.waiting := rfl
@[simp] theorem updGang_fkey (s : State) (k : GangKey) (f : Gang → Gang) : (s.updGang k f).fkey = s.fkey := rfl
@[simp] theorem updGang_street (s : State) (k : GangKey) (f : Gang → Gang) : (s.updGang k f).street = s.street := rfl
@[simp] theorem updGang_streetNext (s : State) (k : GangKey) (f : Gang → Gang) : (s.updGang k f).streetNext = s.streetNext := rfl
@[simp] theorem updGang_streetCommit (s : State) (k : GangKey) (f : Gang → Gang) : (s.updGang k f).streetCommit = s.streetCommit := rfl
@[simp] theorem updGang_harvestMap (s : State) (k : GangKey) (f : Gang → Gang) : (s.updGang k f).harvestMap = s.harvestMap := rfl
@[simp] theorem updGang_marks (s : State) (k : GangKey) (f : Gang → Gang) : (s.updGang k f).marks = s.marks := rfl
@[simp] theorem updGang_active (s : State) (k : GangKey) (f : Gang → Gang) : (s.updGang k f).active = s.active := rfl
@[simp] theorem updGang_staging (s : State) (k : GangKey) (f : Gang → Gang) : (s.updGang k f).staging = s.staging := rfl
@[simp] theorem updGang_rt (s : State) (k : GangKey) (f : Gang → Gang) : (s.updGang k f).rt = s.rt := rfl
@[simp] theorem updGang_ports (s : State) (k : GangKey) (f : Gang → Gang) : (s.updGang k f).ports = s.ports := rfl
@[simp] theorem updGang_linkFail (s : State) (k : GangKey) (f : Gang → Gang) : (s.updGang k f).linkFail = s.linkFail := rfl
@[simp] theorem updGang_background (s : State) (k : GangKey) (f : Gang → Gang) : (s.updGang k f).background = s.background := rfl
@[simp] theorem updGang_answers (s : State) (k : GangKey) (f : Gang → Gang) : (s.updGang k f).answers = s.answers := rfl
@[simp] theorem updGang_hostAnswers (s : State) (k : GangKey) (f : Gang → Gang) : (s.updGang k f).hostAnswers = s.hostAnswers := rfl
@[simp] theorem updGang_snoopAnswers (s : State) (k : GangKey) (f : Gang → Gang) : (s.updGang k f).snoopAnswers = s.snoopAnswers := rfl
@[simp] theorem updGang_eventLog (s : State) (k : GangKey) (f : Gang → Gang) : (s.updGang k f).eventLog = s.eventLog := rfl
@[simp] theorem updGang_queues (s : State) (k : GangKey) (f : Gang → Gang) : (s.updGang k f).queues = s.queues := rfl
@[simp] theorem updGang_msix (s : State) (k : GangKey) (f : Gang → Gang) : (s.updGang k f).msix = s.msix := rfl
@[simp] theorem updGang_hostBias (s : State) (k : GangKey) (f : Gang → Gang) : (s.updGang k f).hostBias = s.hostBias := rfl
@[simp] theorem updGang_hostLines (s : State) (k : GangKey) (f : Gang → Gang) : (s.updGang k f).hostLines = s.hostLines := rfl
@[simp] theorem updGang_flipping (s : State) (k : GangKey) (f : Gang → Gang) : (s.updGang k f).flipping = s.flipping := rfl
@[simp] theorem updGang_granules (s : State) (k : GangKey) (f : Gang → Gang) : (s.updGang k f).granules = s.granules := rfl
@[simp] theorem updGang_linkGroups (s : State) (k : GangKey) (f : Gang → Gang) : (s.updGang k f).linkGroups = s.linkGroups := rfl
@[simp] theorem updGang_deviceWrites (s : State) (k : GangKey) (f : Gang → Gang) : (s.updGang k f).deviceWrites = s.deviceWrites := rfl
@[simp] theorem updGang_peers (s : State) (k : GangKey) (f : Gang → Gang) : (s.updGang k f).peers = s.peers := rfl
@[simp] theorem updGang_wards (s : State) (k : GangKey) (f : Gang → Gang) : (s.updGang k f).wards = s.wards := rfl
@[simp] theorem updGang_faults (s : State) (k : GangKey) (f : Gang → Gang) : (s.updGang k f).faults = s.faults := rfl
@[simp] theorem updGang_resets (s : State) (k : GangKey) (f : Gang → Gang) : (s.updGang k f).resets = s.resets := rfl
@[simp] theorem updGang_checkpoint (s : State) (k : GangKey) (f : Gang → Gang) : (s.updGang k f).checkpoint = s.checkpoint := rfl
@[simp] theorem updGang_launches (s : State) (k : GangKey) (f : Gang → Gang) : (s.updGang k f).launches = s.launches := rfl
@[simp] theorem updGang_gangs (s : State) (k : GangKey) (f : Gang → Gang) : (s.updGang k f).gangs = mapIf (fun g => g.key = k) f s.gangs := rfl
@[simp] theorem updGang_claims (s : State) (k : GangKey) (f : Gang → Gang) : (s.updGang k f).claims = s.claims := rfl
@[simp] theorem updGang_nextOrder (s : State) (k : GangKey) (f : Gang → Gang) : (s.updGang k f).nextOrder = s.nextOrder := rfl
@[simp] theorem updGang_ptbase (s : State) (k : GangKey) (f : Gang → Gang) : (s.updGang k f).ptbase = s.ptbase := rfl
@[simp] theorem updGang_ptbaseLow (s : State) (k : GangKey) (f : Gang → Gang) : (s.updGang k f).ptbaseLow = s.ptbaseLow := rfl
@[simp] theorem updGang_reticleTlb (s : State) (k : GangKey) (f : Gang → Gang) : (s.updGang k f).reticleTlb = s.reticleTlb := rfl
@[simp] theorem updGang_walks (s : State) (k : GangKey) (f : Gang → Gang) : (s.updGang k f).walks = s.walks := rfl
@[simp] theorem updGang_tiles (s : State) (k : GangKey) (f : Gang → Gang) : (s.updGang k f).tiles = s.tiles := rfl
@[simp] theorem updGang_mem (s : State) (k : GangKey) (f : Gang → Gang) : (s.updGang k f).mem = s.mem := rfl
@[simp] theorem updGang_wc (s : State) (k : GangKey) (f : Gang → Gang) : (s.updGang k f).wc = s.wc := rfl
@[simp] theorem updGang_useCtr (s : State) (k : GangKey) (f : Gang → Gang) : (s.updGang k f).useCtr = s.useCtr := rfl
@[simp] theorem updGang_held (s : State) (k : GangKey) (f : Gang → Gang) : (s.updGang k f).held = s.held := rfl
@[simp] theorem updGang_inError (s : State) (k : GangKey) (f : Gang → Gang) : (s.updGang k f).inError = s.inError := rfl
@[simp] theorem updGang_regions (s : State) (k : GangKey) (f : Gang → Gang) : (s.updGang k f).regions = s.regions := rfl
@[simp] theorem updGang_replicas (s : State) (k : GangKey) (f : Gang → Gang) : (s.updGang k f).replicas = s.replicas := rfl
@[simp] theorem updGang_placement (s : State) (k : GangKey) (f : Gang → Gang) : (s.updGang k f).placement = s.placement := rfl
@[simp] theorem updGang_redealt (s : State) (k : GangKey) (f : Gang → Gang) : (s.updGang k f).redealt = s.redealt := rfl
@[simp] theorem updGang_emptying (s : State) (k : GangKey) (f : Gang → Gang) : (s.updGang k f).emptying = s.emptying := rfl
@[simp] theorem updGang_lastAtomic (s : State) (k : GangKey) (f : Gang → Gang) : (s.updGang k f).lastAtomic = s.lastAtomic := rfl
@[simp] theorem updGang_locks (s : State) (k : GangKey) (f : Gang → Gang) : (s.updGang k f).locks = s.locks := rfl
@[simp] theorem updGang_lockSquads (s : State) (k : GangKey) (f : Gang → Gang) : (s.updGang k f).lockSquads = s.lockSquads := rfl
@[simp] theorem updGang_matrices (s : State) (k : GangKey) (f : Gang → Gang) : (s.updGang k f).matrices = s.matrices := rfl
@[simp] theorem updGang_sentGrants (s : State) (k : GangKey) (f : Gang → Gang) : (s.updGang k f).sentGrants = s.sentGrants := rfl
@[simp] theorem updGang_nextGrant (s : State) (k : GangKey) (f : Gang → Gang) : (s.updGang k f).nextGrant = s.nextGrant := rfl
@[simp] theorem updGang_junctions (s : State) (k : GangKey) (f : Gang → Gang) : (s.updGang k f).junctions = s.junctions := rfl
@[simp] theorem updGang_peerHeld (s : State) (k : GangKey) (f : Gang → Gang) : (s.updGang k f).peerHeld = s.peerHeld := rfl
@[simp] theorem updGang_peerRefused (s : State) (k : GangKey) (f : Gang → Gang) : (s.updGang k f).peerRefused = s.peerRefused := rfl
@[simp] theorem updGang_sampler (s : State) (k : GangKey) (f : Gang → Gang) : (s.updGang k f).sampler = s.sampler := rfl
@[simp] theorem updGang_snap (s : State) (k : GangKey) (f : Gang → Gang) : (s.updGang k f).snap = s.snap := rfl
@[simp] theorem updGang_snaps (s : State) (k : GangKey) (f : Gang → Gang) : (s.updGang k f).snaps = s.snaps := rfl
@[simp] theorem updGang_agenda (s : State) (k : GangKey) (f : Gang → Gang) : (s.updGang k f).agenda = s.agenda := rfl
@[simp] theorem updGang_sched (s : State) (k : GangKey) (f : Gang → Gang) : (s.updGang k f).sched = s.sched := rfl
@[simp] theorem updGang_rr (s : State) (k : GangKey) (f : Gang → Gang) : (s.updGang k f).rr = s.rr := rfl
@[simp] theorem updGang_cur (s : State) (k : GangKey) (f : Gang → Gang) : (s.updGang k f).cur = s.cur := rfl
@[simp] theorem updGang_input (s : State) (k : GangKey) (f : Gang → Gang) : (s.updGang k f).input = s.input := rfl
@[simp] theorem updGang_loss (s : State) (k : GangKey) (f : Gang → Gang) : (s.updGang k f).loss = s.loss := rfl
@[simp] theorem updGang_freeCtr (s : State) (k : GangKey) (f : Gang → Gang) : (s.updGang k f).freeCtr = s.freeCtr := rfl

/-! ### setLockSquad -/

@[simp] theorem setLockSquad_devclk (s : State) (l : LockSquad) : (s.setLockSquad l).devclk = s.devclk := rfl
@[simp] theorem setLockSquad_coreCycles (s : State) (l : LockSquad) : (s.setLockSquad l).coreCycles = s.coreCycles := rfl
@[simp] theorem setLockSquad_fabricCycles (s : State) (l : LockSquad) : (s.setLockSquad l).fabricCycles = s.fabricCycles := rfl
@[simp] theorem setLockSquad_pace (s : State) (l : LockSquad) : (s.setLockSquad l).pace = s.pace := rfl
@[simp] theorem setLockSquad_power (s : State) (l : LockSquad) : (s.setLockSquad l).power = s.power := rfl
@[simp] theorem setLockSquad_flash (s : State) (l : LockSquad) : (s.setLockSquad l).flash = s.flash := rfl
@[simp] theorem setLockSquad_flashWrite (s : State) (l : LockSquad) : (s.setLockSquad l).flashWrite = s.flashWrite := rfl
@[simp] theorem setLockSquad_staged (s : State) (l : LockSquad) : (s.setLockSquad l).staged = s.staged := rfl
@[simp] theorem setLockSquad_bringUp (s : State) (l : LockSquad) : (s.setLockSquad l).bringUp = s.bringUp := rfl
@[simp] theorem setLockSquad_links (s : State) (l : LockSquad) : (s.setLockSquad l).links = s.links := rfl
@[simp] theorem setLockSquad_flights (s : State) (l : LockSquad) : (s.setLockSquad l).flights = s.flights := rfl
@[simp] theorem setLockSquad_awaited (s : State) (l : LockSquad) : (s.setLockSquad l).awaited = s.awaited := rfl
@[simp] theorem setLockSquad_nextPacket (s : State) (l : LockSquad) : (s.setLockSquad l).nextPacket = s.nextPacket := rfl
@[simp] theorem setLockSquad_waiting (s : State) (l : LockSquad) : (s.setLockSquad l).waiting = s.waiting := rfl
@[simp] theorem setLockSquad_fkey (s : State) (l : LockSquad) : (s.setLockSquad l).fkey = s.fkey := rfl
@[simp] theorem setLockSquad_street (s : State) (l : LockSquad) : (s.setLockSquad l).street = s.street := rfl
@[simp] theorem setLockSquad_streetNext (s : State) (l : LockSquad) : (s.setLockSquad l).streetNext = s.streetNext := rfl
@[simp] theorem setLockSquad_streetCommit (s : State) (l : LockSquad) : (s.setLockSquad l).streetCommit = s.streetCommit := rfl
@[simp] theorem setLockSquad_harvestMap (s : State) (l : LockSquad) : (s.setLockSquad l).harvestMap = s.harvestMap := rfl
@[simp] theorem setLockSquad_marks (s : State) (l : LockSquad) : (s.setLockSquad l).marks = s.marks := rfl
@[simp] theorem setLockSquad_active (s : State) (l : LockSquad) : (s.setLockSquad l).active = s.active := rfl
@[simp] theorem setLockSquad_staging (s : State) (l : LockSquad) : (s.setLockSquad l).staging = s.staging := rfl
@[simp] theorem setLockSquad_rt (s : State) (l : LockSquad) : (s.setLockSquad l).rt = s.rt := rfl
@[simp] theorem setLockSquad_ports (s : State) (l : LockSquad) : (s.setLockSquad l).ports = s.ports := rfl
@[simp] theorem setLockSquad_linkFail (s : State) (l : LockSquad) : (s.setLockSquad l).linkFail = s.linkFail := rfl
@[simp] theorem setLockSquad_background (s : State) (l : LockSquad) : (s.setLockSquad l).background = s.background := rfl
@[simp] theorem setLockSquad_answers (s : State) (l : LockSquad) : (s.setLockSquad l).answers = s.answers := rfl
@[simp] theorem setLockSquad_hostAnswers (s : State) (l : LockSquad) : (s.setLockSquad l).hostAnswers = s.hostAnswers := rfl
@[simp] theorem setLockSquad_snoopAnswers (s : State) (l : LockSquad) : (s.setLockSquad l).snoopAnswers = s.snoopAnswers := rfl
@[simp] theorem setLockSquad_eventLog (s : State) (l : LockSquad) : (s.setLockSquad l).eventLog = s.eventLog := rfl
@[simp] theorem setLockSquad_queues (s : State) (l : LockSquad) : (s.setLockSquad l).queues = s.queues := rfl
@[simp] theorem setLockSquad_msix (s : State) (l : LockSquad) : (s.setLockSquad l).msix = s.msix := rfl
@[simp] theorem setLockSquad_hostBias (s : State) (l : LockSquad) : (s.setLockSquad l).hostBias = s.hostBias := rfl
@[simp] theorem setLockSquad_hostLines (s : State) (l : LockSquad) : (s.setLockSquad l).hostLines = s.hostLines := rfl
@[simp] theorem setLockSquad_flipping (s : State) (l : LockSquad) : (s.setLockSquad l).flipping = s.flipping := rfl
@[simp] theorem setLockSquad_granules (s : State) (l : LockSquad) : (s.setLockSquad l).granules = s.granules := rfl
@[simp] theorem setLockSquad_linkGroups (s : State) (l : LockSquad) : (s.setLockSquad l).linkGroups = s.linkGroups := rfl
@[simp] theorem setLockSquad_deviceWrites (s : State) (l : LockSquad) : (s.setLockSquad l).deviceWrites = s.deviceWrites := rfl
@[simp] theorem setLockSquad_peers (s : State) (l : LockSquad) : (s.setLockSquad l).peers = s.peers := rfl
@[simp] theorem setLockSquad_wards (s : State) (l : LockSquad) : (s.setLockSquad l).wards = s.wards := rfl
@[simp] theorem setLockSquad_faults (s : State) (l : LockSquad) : (s.setLockSquad l).faults = s.faults := rfl
@[simp] theorem setLockSquad_resets (s : State) (l : LockSquad) : (s.setLockSquad l).resets = s.resets := rfl
@[simp] theorem setLockSquad_checkpoint (s : State) (l : LockSquad) : (s.setLockSquad l).checkpoint = s.checkpoint := rfl
@[simp] theorem setLockSquad_launches (s : State) (l : LockSquad) : (s.setLockSquad l).launches = s.launches := rfl
@[simp] theorem setLockSquad_gangs (s : State) (l : LockSquad) : (s.setLockSquad l).gangs = s.gangs := rfl
@[simp] theorem setLockSquad_claims (s : State) (l : LockSquad) : (s.setLockSquad l).claims = s.claims := rfl
@[simp] theorem setLockSquad_nextOrder (s : State) (l : LockSquad) : (s.setLockSquad l).nextOrder = s.nextOrder := rfl
@[simp] theorem setLockSquad_ptbase (s : State) (l : LockSquad) : (s.setLockSquad l).ptbase = s.ptbase := rfl
@[simp] theorem setLockSquad_ptbaseLow (s : State) (l : LockSquad) : (s.setLockSquad l).ptbaseLow = s.ptbaseLow := rfl
@[simp] theorem setLockSquad_reticleTlb (s : State) (l : LockSquad) : (s.setLockSquad l).reticleTlb = s.reticleTlb := rfl
@[simp] theorem setLockSquad_walks (s : State) (l : LockSquad) : (s.setLockSquad l).walks = s.walks := rfl
@[simp] theorem setLockSquad_tiles (s : State) (l : LockSquad) : (s.setLockSquad l).tiles = s.tiles := rfl
@[simp] theorem setLockSquad_mem (s : State) (l : LockSquad) : (s.setLockSquad l).mem = s.mem := rfl
@[simp] theorem setLockSquad_wc (s : State) (l : LockSquad) : (s.setLockSquad l).wc = s.wc := rfl
@[simp] theorem setLockSquad_useCtr (s : State) (l : LockSquad) : (s.setLockSquad l).useCtr = s.useCtr := rfl
@[simp] theorem setLockSquad_held (s : State) (l : LockSquad) : (s.setLockSquad l).held = s.held := rfl
@[simp] theorem setLockSquad_inError (s : State) (l : LockSquad) : (s.setLockSquad l).inError = s.inError := rfl
@[simp] theorem setLockSquad_regions (s : State) (l : LockSquad) : (s.setLockSquad l).regions = s.regions := rfl
@[simp] theorem setLockSquad_replicas (s : State) (l : LockSquad) : (s.setLockSquad l).replicas = s.replicas := rfl
@[simp] theorem setLockSquad_placement (s : State) (l : LockSquad) : (s.setLockSquad l).placement = s.placement := rfl
@[simp] theorem setLockSquad_redealt (s : State) (l : LockSquad) : (s.setLockSquad l).redealt = s.redealt := rfl
@[simp] theorem setLockSquad_emptying (s : State) (l : LockSquad) : (s.setLockSquad l).emptying = s.emptying := rfl
@[simp] theorem setLockSquad_lastAtomic (s : State) (l : LockSquad) : (s.setLockSquad l).lastAtomic = s.lastAtomic := rfl
@[simp] theorem setLockSquad_locks (s : State) (l : LockSquad) : (s.setLockSquad l).locks = s.locks := rfl
@[simp] theorem setLockSquad_lockSquads (s : State) (l : LockSquad) : (s.setLockSquad l).lockSquads = l :: s.lockSquads.filter fun m => m.squad ≠ l.squad := rfl
@[simp] theorem setLockSquad_matrices (s : State) (l : LockSquad) : (s.setLockSquad l).matrices = s.matrices := rfl
@[simp] theorem setLockSquad_sentGrants (s : State) (l : LockSquad) : (s.setLockSquad l).sentGrants = s.sentGrants := rfl
@[simp] theorem setLockSquad_nextGrant (s : State) (l : LockSquad) : (s.setLockSquad l).nextGrant = s.nextGrant := rfl
@[simp] theorem setLockSquad_junctions (s : State) (l : LockSquad) : (s.setLockSquad l).junctions = s.junctions := rfl
@[simp] theorem setLockSquad_peerHeld (s : State) (l : LockSquad) : (s.setLockSquad l).peerHeld = s.peerHeld := rfl
@[simp] theorem setLockSquad_peerRefused (s : State) (l : LockSquad) : (s.setLockSquad l).peerRefused = s.peerRefused := rfl
@[simp] theorem setLockSquad_sampler (s : State) (l : LockSquad) : (s.setLockSquad l).sampler = s.sampler := rfl
@[simp] theorem setLockSquad_snap (s : State) (l : LockSquad) : (s.setLockSquad l).snap = s.snap := rfl
@[simp] theorem setLockSquad_snaps (s : State) (l : LockSquad) : (s.setLockSquad l).snaps = s.snaps := rfl
@[simp] theorem setLockSquad_agenda (s : State) (l : LockSquad) : (s.setLockSquad l).agenda = s.agenda := rfl
@[simp] theorem setLockSquad_sched (s : State) (l : LockSquad) : (s.setLockSquad l).sched = s.sched := rfl
@[simp] theorem setLockSquad_rr (s : State) (l : LockSquad) : (s.setLockSquad l).rr = s.rr := rfl
@[simp] theorem setLockSquad_cur (s : State) (l : LockSquad) : (s.setLockSquad l).cur = s.cur := rfl
@[simp] theorem setLockSquad_input (s : State) (l : LockSquad) : (s.setLockSquad l).input = s.input := rfl
@[simp] theorem setLockSquad_loss (s : State) (l : LockSquad) : (s.setLockSquad l).loss = s.loss := rfl
@[simp] theorem setLockSquad_freeCtr (s : State) (l : LockSquad) : (s.setLockSquad l).freeCtr = s.freeCtr := rfl

/-! ### raise -/

@[simp] theorem raise_devclk (s : State) (r : FaultRecord) : (s.raise r).devclk = s.devclk := rfl
@[simp] theorem raise_coreCycles (s : State) (r : FaultRecord) : (s.raise r).coreCycles = s.coreCycles := rfl
@[simp] theorem raise_fabricCycles (s : State) (r : FaultRecord) : (s.raise r).fabricCycles = s.fabricCycles := rfl
@[simp] theorem raise_pace (s : State) (r : FaultRecord) : (s.raise r).pace = s.pace := rfl
@[simp] theorem raise_power (s : State) (r : FaultRecord) : (s.raise r).power = s.power := rfl
@[simp] theorem raise_flash (s : State) (r : FaultRecord) : (s.raise r).flash = s.flash := rfl
@[simp] theorem raise_flashWrite (s : State) (r : FaultRecord) : (s.raise r).flashWrite = s.flashWrite := rfl
@[simp] theorem raise_staged (s : State) (r : FaultRecord) : (s.raise r).staged = s.staged := rfl
@[simp] theorem raise_bringUp (s : State) (r : FaultRecord) : (s.raise r).bringUp = s.bringUp := rfl
@[simp] theorem raise_links (s : State) (r : FaultRecord) : (s.raise r).links = s.links := rfl
@[simp] theorem raise_flights (s : State) (r : FaultRecord) : (s.raise r).flights = s.flights := rfl
@[simp] theorem raise_awaited (s : State) (r : FaultRecord) : (s.raise r).awaited = s.awaited := rfl
@[simp] theorem raise_nextPacket (s : State) (r : FaultRecord) : (s.raise r).nextPacket = s.nextPacket := rfl
@[simp] theorem raise_waiting (s : State) (r : FaultRecord) : (s.raise r).waiting = s.waiting := rfl
@[simp] theorem raise_fkey (s : State) (r : FaultRecord) : (s.raise r).fkey = s.fkey := rfl
@[simp] theorem raise_street (s : State) (r : FaultRecord) : (s.raise r).street = s.street := rfl
@[simp] theorem raise_streetNext (s : State) (r : FaultRecord) : (s.raise r).streetNext = s.streetNext := rfl
@[simp] theorem raise_streetCommit (s : State) (r : FaultRecord) : (s.raise r).streetCommit = s.streetCommit := rfl
@[simp] theorem raise_harvestMap (s : State) (r : FaultRecord) : (s.raise r).harvestMap = s.harvestMap := rfl
@[simp] theorem raise_marks (s : State) (r : FaultRecord) : (s.raise r).marks = s.marks := rfl
@[simp] theorem raise_active (s : State) (r : FaultRecord) : (s.raise r).active = s.active := rfl
@[simp] theorem raise_staging (s : State) (r : FaultRecord) : (s.raise r).staging = s.staging := rfl
@[simp] theorem raise_rt (s : State) (r : FaultRecord) : (s.raise r).rt = s.rt := rfl
@[simp] theorem raise_ports (s : State) (r : FaultRecord) : (s.raise r).ports = s.ports := rfl
@[simp] theorem raise_linkFail (s : State) (r : FaultRecord) : (s.raise r).linkFail = s.linkFail := rfl
@[simp] theorem raise_background (s : State) (r : FaultRecord) : (s.raise r).background = s.background := rfl
@[simp] theorem raise_answers (s : State) (r : FaultRecord) : (s.raise r).answers = s.answers := rfl
@[simp] theorem raise_hostAnswers (s : State) (r : FaultRecord) : (s.raise r).hostAnswers = s.hostAnswers := rfl
@[simp] theorem raise_snoopAnswers (s : State) (r : FaultRecord) : (s.raise r).snoopAnswers = s.snoopAnswers := rfl
@[simp] theorem raise_eventLog (s : State) (r : FaultRecord) : (s.raise r).eventLog = s.eventLog := rfl
@[simp] theorem raise_queues (s : State) (r : FaultRecord) : (s.raise r).queues = s.queues := rfl
@[simp] theorem raise_msix (s : State) (r : FaultRecord) : (s.raise r).msix = s.msix := rfl
@[simp] theorem raise_hostBias (s : State) (r : FaultRecord) : (s.raise r).hostBias = s.hostBias := rfl
@[simp] theorem raise_hostLines (s : State) (r : FaultRecord) : (s.raise r).hostLines = s.hostLines := rfl
@[simp] theorem raise_flipping (s : State) (r : FaultRecord) : (s.raise r).flipping = s.flipping := rfl
@[simp] theorem raise_granules (s : State) (r : FaultRecord) : (s.raise r).granules = s.granules := rfl
@[simp] theorem raise_linkGroups (s : State) (r : FaultRecord) : (s.raise r).linkGroups = s.linkGroups := rfl
@[simp] theorem raise_deviceWrites (s : State) (r : FaultRecord) : (s.raise r).deviceWrites = s.deviceWrites := rfl
@[simp] theorem raise_peers (s : State) (r : FaultRecord) : (s.raise r).peers = s.peers := rfl
@[simp] theorem raise_wards (s : State) (r : FaultRecord) : (s.raise r).wards = s.wards := rfl
@[simp] theorem raise_faults (s : State) (r : FaultRecord) : (s.raise r).faults = s.faults ++ [{ r with queue := s.faultWard r.ward, time := s.devclk }] := rfl
@[simp] theorem raise_resets (s : State) (r : FaultRecord) : (s.raise r).resets = s.resets := rfl
@[simp] theorem raise_checkpoint (s : State) (r : FaultRecord) : (s.raise r).checkpoint = s.checkpoint := rfl
@[simp] theorem raise_launches (s : State) (r : FaultRecord) : (s.raise r).launches = s.launches := rfl
@[simp] theorem raise_gangs (s : State) (r : FaultRecord) : (s.raise r).gangs = s.gangs := rfl
@[simp] theorem raise_claims (s : State) (r : FaultRecord) : (s.raise r).claims = s.claims := rfl
@[simp] theorem raise_nextOrder (s : State) (r : FaultRecord) : (s.raise r).nextOrder = s.nextOrder := rfl
@[simp] theorem raise_ptbase (s : State) (r : FaultRecord) : (s.raise r).ptbase = s.ptbase := rfl
@[simp] theorem raise_ptbaseLow (s : State) (r : FaultRecord) : (s.raise r).ptbaseLow = s.ptbaseLow := rfl
@[simp] theorem raise_reticleTlb (s : State) (r : FaultRecord) : (s.raise r).reticleTlb = s.reticleTlb := rfl
@[simp] theorem raise_walks (s : State) (r : FaultRecord) : (s.raise r).walks = s.walks := rfl
@[simp] theorem raise_tiles (s : State) (r : FaultRecord) : (s.raise r).tiles = s.tiles := rfl
@[simp] theorem raise_mem (s : State) (r : FaultRecord) : (s.raise r).mem = s.mem := rfl
@[simp] theorem raise_wc (s : State) (r : FaultRecord) : (s.raise r).wc = s.wc := rfl
@[simp] theorem raise_useCtr (s : State) (r : FaultRecord) : (s.raise r).useCtr = s.useCtr := rfl
@[simp] theorem raise_held (s : State) (r : FaultRecord) : (s.raise r).held = s.held := rfl
@[simp] theorem raise_inError (s : State) (r : FaultRecord) : (s.raise r).inError = s.inError := rfl
@[simp] theorem raise_regions (s : State) (r : FaultRecord) : (s.raise r).regions = s.regions := rfl
@[simp] theorem raise_replicas (s : State) (r : FaultRecord) : (s.raise r).replicas = s.replicas := rfl
@[simp] theorem raise_placement (s : State) (r : FaultRecord) : (s.raise r).placement = s.placement := rfl
@[simp] theorem raise_redealt (s : State) (r : FaultRecord) : (s.raise r).redealt = s.redealt := rfl
@[simp] theorem raise_emptying (s : State) (r : FaultRecord) : (s.raise r).emptying = s.emptying := rfl
@[simp] theorem raise_lastAtomic (s : State) (r : FaultRecord) : (s.raise r).lastAtomic = s.lastAtomic := rfl
@[simp] theorem raise_locks (s : State) (r : FaultRecord) : (s.raise r).locks = s.locks := rfl
@[simp] theorem raise_lockSquads (s : State) (r : FaultRecord) : (s.raise r).lockSquads = s.lockSquads := rfl
@[simp] theorem raise_matrices (s : State) (r : FaultRecord) : (s.raise r).matrices = s.matrices := rfl
@[simp] theorem raise_sentGrants (s : State) (r : FaultRecord) : (s.raise r).sentGrants = s.sentGrants := rfl
@[simp] theorem raise_nextGrant (s : State) (r : FaultRecord) : (s.raise r).nextGrant = s.nextGrant := rfl
@[simp] theorem raise_junctions (s : State) (r : FaultRecord) : (s.raise r).junctions = s.junctions := rfl
@[simp] theorem raise_peerHeld (s : State) (r : FaultRecord) : (s.raise r).peerHeld = s.peerHeld := rfl
@[simp] theorem raise_peerRefused (s : State) (r : FaultRecord) : (s.raise r).peerRefused = s.peerRefused := rfl
@[simp] theorem raise_sampler (s : State) (r : FaultRecord) : (s.raise r).sampler = s.sampler := rfl
@[simp] theorem raise_snap (s : State) (r : FaultRecord) : (s.raise r).snap = s.snap := rfl
@[simp] theorem raise_snaps (s : State) (r : FaultRecord) : (s.raise r).snaps = s.snaps := rfl
@[simp] theorem raise_agenda (s : State) (r : FaultRecord) : (s.raise r).agenda = s.agenda := rfl
@[simp] theorem raise_sched (s : State) (r : FaultRecord) : (s.raise r).sched = s.sched := rfl
@[simp] theorem raise_rr (s : State) (r : FaultRecord) : (s.raise r).rr = s.rr := rfl
@[simp] theorem raise_cur (s : State) (r : FaultRecord) : (s.raise r).cur = s.cur := rfl
@[simp] theorem raise_input (s : State) (r : FaultRecord) : (s.raise r).input = s.input := rfl
@[simp] theorem raise_loss (s : State) (r : FaultRecord) : (s.raise r).loss = s.loss := rfl
@[simp] theorem raise_freeCtr (s : State) (r : FaultRecord) : (s.raise r).freeCtr = s.freeCtr := rfl

/-! ### release -/

@[simp] theorem release_devclk (s : State) (l : Nat) (r : HeldRequest) : (s.release l r).devclk = s.devclk := rfl
@[simp] theorem release_coreCycles (s : State) (l : Nat) (r : HeldRequest) : (s.release l r).coreCycles = s.coreCycles := rfl
@[simp] theorem release_fabricCycles (s : State) (l : Nat) (r : HeldRequest) : (s.release l r).fabricCycles = s.fabricCycles := rfl
@[simp] theorem release_pace (s : State) (l : Nat) (r : HeldRequest) : (s.release l r).pace = s.pace := rfl
@[simp] theorem release_power (s : State) (l : Nat) (r : HeldRequest) : (s.release l r).power = s.power := rfl
@[simp] theorem release_flash (s : State) (l : Nat) (r : HeldRequest) : (s.release l r).flash = s.flash := rfl
@[simp] theorem release_flashWrite (s : State) (l : Nat) (r : HeldRequest) : (s.release l r).flashWrite = s.flashWrite := rfl
@[simp] theorem release_staged (s : State) (l : Nat) (r : HeldRequest) : (s.release l r).staged = s.staged := rfl
@[simp] theorem release_bringUp (s : State) (l : Nat) (r : HeldRequest) : (s.release l r).bringUp = s.bringUp := rfl
@[simp] theorem release_links (s : State) (l : Nat) (r : HeldRequest) : (s.release l r).links = s.links := rfl
@[simp] theorem release_flights (s : State) (l : Nat) (r : HeldRequest) : (s.release l r).flights = s.flights := rfl
@[simp] theorem release_awaited (s : State) (l : Nat) (r : HeldRequest) : (s.release l r).awaited = s.awaited := rfl
@[simp] theorem release_nextPacket (s : State) (l : Nat) (r : HeldRequest) : (s.release l r).nextPacket = s.nextPacket := rfl
@[simp] theorem release_waiting (s : State) (l : Nat) (r : HeldRequest) : (s.release l r).waiting = s.waiting := rfl
@[simp] theorem release_fkey (s : State) (l : Nat) (r : HeldRequest) : (s.release l r).fkey = s.fkey := rfl
@[simp] theorem release_street (s : State) (l : Nat) (r : HeldRequest) : (s.release l r).street = s.street := rfl
@[simp] theorem release_streetNext (s : State) (l : Nat) (r : HeldRequest) : (s.release l r).streetNext = s.streetNext := rfl
@[simp] theorem release_streetCommit (s : State) (l : Nat) (r : HeldRequest) : (s.release l r).streetCommit = s.streetCommit := rfl
@[simp] theorem release_harvestMap (s : State) (l : Nat) (r : HeldRequest) : (s.release l r).harvestMap = s.harvestMap := rfl
@[simp] theorem release_marks (s : State) (l : Nat) (r : HeldRequest) : (s.release l r).marks = s.marks := rfl
@[simp] theorem release_active (s : State) (l : Nat) (r : HeldRequest) : (s.release l r).active = s.active := rfl
@[simp] theorem release_staging (s : State) (l : Nat) (r : HeldRequest) : (s.release l r).staging = s.staging := rfl
@[simp] theorem release_rt (s : State) (l : Nat) (r : HeldRequest) : (s.release l r).rt = s.rt := rfl
@[simp] theorem release_ports (s : State) (l : Nat) (r : HeldRequest) : (s.release l r).ports = s.ports := rfl
@[simp] theorem release_linkFail (s : State) (l : Nat) (r : HeldRequest) : (s.release l r).linkFail = s.linkFail := rfl
@[simp] theorem release_background (s : State) (l : Nat) (r : HeldRequest) : (s.release l r).background = s.background := rfl
@[simp] theorem release_answers (s : State) (l : Nat) (r : HeldRequest) : (s.release l r).answers = s.answers := rfl
@[simp] theorem release_hostAnswers (s : State) (l : Nat) (r : HeldRequest) : (s.release l r).hostAnswers = s.hostAnswers := rfl
@[simp] theorem release_snoopAnswers (s : State) (l : Nat) (r : HeldRequest) : (s.release l r).snoopAnswers = s.snoopAnswers := rfl
@[simp] theorem release_eventLog (s : State) (l : Nat) (r : HeldRequest) : (s.release l r).eventLog = s.eventLog := rfl
@[simp] theorem release_queues (s : State) (l : Nat) (r : HeldRequest) : (s.release l r).queues = s.queues := rfl
@[simp] theorem release_msix (s : State) (l : Nat) (r : HeldRequest) : (s.release l r).msix = s.msix := rfl
@[simp] theorem release_hostBias (s : State) (l : Nat) (r : HeldRequest) : (s.release l r).hostBias = s.hostBias := rfl
@[simp] theorem release_hostLines (s : State) (l : Nat) (r : HeldRequest) : (s.release l r).hostLines = s.hostLines := rfl
@[simp] theorem release_flipping (s : State) (l : Nat) (r : HeldRequest) : (s.release l r).flipping = s.flipping := rfl
@[simp] theorem release_granules (s : State) (l : Nat) (r : HeldRequest) : (s.release l r).granules = s.granules := rfl
@[simp] theorem release_linkGroups (s : State) (l : Nat) (r : HeldRequest) : (s.release l r).linkGroups = s.linkGroups := rfl
@[simp] theorem release_deviceWrites (s : State) (l : Nat) (r : HeldRequest) : (s.release l r).deviceWrites = s.deviceWrites := rfl
@[simp] theorem release_peers (s : State) (l : Nat) (r : HeldRequest) : (s.release l r).peers = s.peers := rfl
@[simp] theorem release_wards (s : State) (l : Nat) (r : HeldRequest) : (s.release l r).wards = s.wards := rfl
@[simp] theorem release_faults (s : State) (l : Nat) (r : HeldRequest) : (s.release l r).faults = s.faults := rfl
@[simp] theorem release_resets (s : State) (l : Nat) (r : HeldRequest) : (s.release l r).resets = s.resets := rfl
@[simp] theorem release_checkpoint (s : State) (l : Nat) (r : HeldRequest) : (s.release l r).checkpoint = s.checkpoint := rfl
@[simp] theorem release_launches (s : State) (l : Nat) (r : HeldRequest) : (s.release l r).launches = s.launches := rfl
@[simp] theorem release_gangs (s : State) (l : Nat) (r : HeldRequest) : (s.release l r).gangs = s.gangs := rfl
@[simp] theorem release_claims (s : State) (l : Nat) (r : HeldRequest) : (s.release l r).claims = s.claims := rfl
@[simp] theorem release_nextOrder (s : State) (l : Nat) (r : HeldRequest) : (s.release l r).nextOrder = s.nextOrder := rfl
@[simp] theorem release_ptbase (s : State) (l : Nat) (r : HeldRequest) : (s.release l r).ptbase = s.ptbase := rfl
@[simp] theorem release_ptbaseLow (s : State) (l : Nat) (r : HeldRequest) : (s.release l r).ptbaseLow = s.ptbaseLow := rfl
@[simp] theorem release_reticleTlb (s : State) (l : Nat) (r : HeldRequest) : (s.release l r).reticleTlb = s.reticleTlb := rfl
@[simp] theorem release_walks (s : State) (l : Nat) (r : HeldRequest) : (s.release l r).walks = s.walks := rfl
@[simp] theorem release_tiles (s : State) (l : Nat) (r : HeldRequest) : (s.release l r).tiles = s.tiles := rfl
@[simp] theorem release_mem (s : State) (l : Nat) (r : HeldRequest) : (s.release l r).mem = s.mem := rfl
@[simp] theorem release_wc (s : State) (l : Nat) (r : HeldRequest) : (s.release l r).wc = s.wc := rfl
@[simp] theorem release_useCtr (s : State) (l : Nat) (r : HeldRequest) : (s.release l r).useCtr = s.useCtr := rfl
@[simp] theorem release_held (s : State) (l : Nat) (r : HeldRequest) : (s.release l r).held = s.held.erase ⟨l, r⟩ := rfl
@[simp] theorem release_inError (s : State) (l : Nat) (r : HeldRequest) : (s.release l r).inError = s.inError := rfl
@[simp] theorem release_regions (s : State) (l : Nat) (r : HeldRequest) : (s.release l r).regions = s.regions := rfl
@[simp] theorem release_replicas (s : State) (l : Nat) (r : HeldRequest) : (s.release l r).replicas = s.replicas := rfl
@[simp] theorem release_placement (s : State) (l : Nat) (r : HeldRequest) : (s.release l r).placement = s.placement := rfl
@[simp] theorem release_redealt (s : State) (l : Nat) (r : HeldRequest) : (s.release l r).redealt = s.redealt := rfl
@[simp] theorem release_emptying (s : State) (l : Nat) (r : HeldRequest) : (s.release l r).emptying = s.emptying := rfl
@[simp] theorem release_lastAtomic (s : State) (l : Nat) (r : HeldRequest) : (s.release l r).lastAtomic = s.lastAtomic := rfl
@[simp] theorem release_locks (s : State) (l : Nat) (r : HeldRequest) : (s.release l r).locks = s.locks := rfl
@[simp] theorem release_lockSquads (s : State) (l : Nat) (r : HeldRequest) : (s.release l r).lockSquads = s.lockSquads := rfl
@[simp] theorem release_matrices (s : State) (l : Nat) (r : HeldRequest) : (s.release l r).matrices = s.matrices := rfl
@[simp] theorem release_sentGrants (s : State) (l : Nat) (r : HeldRequest) : (s.release l r).sentGrants = s.sentGrants := rfl
@[simp] theorem release_nextGrant (s : State) (l : Nat) (r : HeldRequest) : (s.release l r).nextGrant = s.nextGrant := rfl
@[simp] theorem release_junctions (s : State) (l : Nat) (r : HeldRequest) : (s.release l r).junctions = s.junctions := rfl
@[simp] theorem release_peerHeld (s : State) (l : Nat) (r : HeldRequest) : (s.release l r).peerHeld = s.peerHeld := rfl
@[simp] theorem release_peerRefused (s : State) (l : Nat) (r : HeldRequest) : (s.release l r).peerRefused = s.peerRefused := rfl
@[simp] theorem release_sampler (s : State) (l : Nat) (r : HeldRequest) : (s.release l r).sampler = s.sampler := rfl
@[simp] theorem release_snap (s : State) (l : Nat) (r : HeldRequest) : (s.release l r).snap = s.snap := rfl
@[simp] theorem release_snaps (s : State) (l : Nat) (r : HeldRequest) : (s.release l r).snaps = s.snaps := rfl
@[simp] theorem release_agenda (s : State) (l : Nat) (r : HeldRequest) : (s.release l r).agenda = s.agenda := rfl
@[simp] theorem release_sched (s : State) (l : Nat) (r : HeldRequest) : (s.release l r).sched = s.sched := rfl
@[simp] theorem release_rr (s : State) (l : Nat) (r : HeldRequest) : (s.release l r).rr = s.rr := rfl
@[simp] theorem release_cur (s : State) (l : Nat) (r : HeldRequest) : (s.release l r).cur = s.cur := rfl
@[simp] theorem release_input (s : State) (l : Nat) (r : HeldRequest) : (s.release l r).input = s.input := rfl
@[simp] theorem release_loss (s : State) (l : Nat) (r : HeldRequest) : (s.release l r).loss = s.loss := rfl
@[simp] theorem release_freeCtr (s : State) (l : Nat) (r : HeldRequest) : (s.release l r).freeCtr = s.freeCtr := rfl

/-! ### sendMsix -/

@[simp] theorem sendMsix_devclk (s : State) (p v : Nat) : (s.sendMsix p v).devclk = s.devclk := rfl
@[simp] theorem sendMsix_coreCycles (s : State) (p v : Nat) : (s.sendMsix p v).coreCycles = s.coreCycles := rfl
@[simp] theorem sendMsix_fabricCycles (s : State) (p v : Nat) : (s.sendMsix p v).fabricCycles = s.fabricCycles := rfl
@[simp] theorem sendMsix_pace (s : State) (p v : Nat) : (s.sendMsix p v).pace = s.pace := rfl
@[simp] theorem sendMsix_power (s : State) (p v : Nat) : (s.sendMsix p v).power = s.power := rfl
@[simp] theorem sendMsix_flash (s : State) (p v : Nat) : (s.sendMsix p v).flash = s.flash := rfl
@[simp] theorem sendMsix_flashWrite (s : State) (p v : Nat) : (s.sendMsix p v).flashWrite = s.flashWrite := rfl
@[simp] theorem sendMsix_staged (s : State) (p v : Nat) : (s.sendMsix p v).staged = s.staged := rfl
@[simp] theorem sendMsix_bringUp (s : State) (p v : Nat) : (s.sendMsix p v).bringUp = s.bringUp := rfl
@[simp] theorem sendMsix_links (s : State) (p v : Nat) : (s.sendMsix p v).links = s.links := rfl
@[simp] theorem sendMsix_flights (s : State) (p v : Nat) : (s.sendMsix p v).flights = s.flights := rfl
@[simp] theorem sendMsix_awaited (s : State) (p v : Nat) : (s.sendMsix p v).awaited = s.awaited := rfl
@[simp] theorem sendMsix_nextPacket (s : State) (p v : Nat) : (s.sendMsix p v).nextPacket = s.nextPacket := rfl
@[simp] theorem sendMsix_waiting (s : State) (p v : Nat) : (s.sendMsix p v).waiting = s.waiting := rfl
@[simp] theorem sendMsix_fkey (s : State) (p v : Nat) : (s.sendMsix p v).fkey = s.fkey := rfl
@[simp] theorem sendMsix_street (s : State) (p v : Nat) : (s.sendMsix p v).street = s.street := rfl
@[simp] theorem sendMsix_streetNext (s : State) (p v : Nat) : (s.sendMsix p v).streetNext = s.streetNext := rfl
@[simp] theorem sendMsix_streetCommit (s : State) (p v : Nat) : (s.sendMsix p v).streetCommit = s.streetCommit := rfl
@[simp] theorem sendMsix_harvestMap (s : State) (p v : Nat) : (s.sendMsix p v).harvestMap = s.harvestMap := rfl
@[simp] theorem sendMsix_marks (s : State) (p v : Nat) : (s.sendMsix p v).marks = s.marks := rfl
@[simp] theorem sendMsix_active (s : State) (p v : Nat) : (s.sendMsix p v).active = s.active := rfl
@[simp] theorem sendMsix_staging (s : State) (p v : Nat) : (s.sendMsix p v).staging = s.staging := rfl
@[simp] theorem sendMsix_rt (s : State) (p v : Nat) : (s.sendMsix p v).rt = s.rt := rfl
@[simp] theorem sendMsix_ports (s : State) (p v : Nat) : (s.sendMsix p v).ports = s.ports := rfl
@[simp] theorem sendMsix_linkFail (s : State) (p v : Nat) : (s.sendMsix p v).linkFail = s.linkFail := rfl
@[simp] theorem sendMsix_background (s : State) (p v : Nat) : (s.sendMsix p v).background = s.background := rfl
@[simp] theorem sendMsix_answers (s : State) (p v : Nat) : (s.sendMsix p v).answers = s.answers := rfl
@[simp] theorem sendMsix_hostAnswers (s : State) (p v : Nat) : (s.sendMsix p v).hostAnswers = s.hostAnswers := rfl
@[simp] theorem sendMsix_snoopAnswers (s : State) (p v : Nat) : (s.sendMsix p v).snoopAnswers = s.snoopAnswers := rfl
@[simp] theorem sendMsix_eventLog (s : State) (p v : Nat) : (s.sendMsix p v).eventLog = s.eventLog := rfl
@[simp] theorem sendMsix_queues (s : State) (p v : Nat) : (s.sendMsix p v).queues = s.queues := rfl
@[simp] theorem sendMsix_msix (s : State) (p v : Nat) : (s.sendMsix p v).msix = s.msix ++ [(p, v)] := rfl
@[simp] theorem sendMsix_hostBias (s : State) (p v : Nat) : (s.sendMsix p v).hostBias = s.hostBias := rfl
@[simp] theorem sendMsix_hostLines (s : State) (p v : Nat) : (s.sendMsix p v).hostLines = s.hostLines := rfl
@[simp] theorem sendMsix_flipping (s : State) (p v : Nat) : (s.sendMsix p v).flipping = s.flipping := rfl
@[simp] theorem sendMsix_granules (s : State) (p v : Nat) : (s.sendMsix p v).granules = s.granules := rfl
@[simp] theorem sendMsix_linkGroups (s : State) (p v : Nat) : (s.sendMsix p v).linkGroups = s.linkGroups := rfl
@[simp] theorem sendMsix_deviceWrites (s : State) (p v : Nat) : (s.sendMsix p v).deviceWrites = s.deviceWrites := rfl
@[simp] theorem sendMsix_peers (s : State) (p v : Nat) : (s.sendMsix p v).peers = s.peers := rfl
@[simp] theorem sendMsix_wards (s : State) (p v : Nat) : (s.sendMsix p v).wards = s.wards := rfl
@[simp] theorem sendMsix_faults (s : State) (p v : Nat) : (s.sendMsix p v).faults = s.faults := rfl
@[simp] theorem sendMsix_resets (s : State) (p v : Nat) : (s.sendMsix p v).resets = s.resets := rfl
@[simp] theorem sendMsix_checkpoint (s : State) (p v : Nat) : (s.sendMsix p v).checkpoint = s.checkpoint := rfl
@[simp] theorem sendMsix_launches (s : State) (p v : Nat) : (s.sendMsix p v).launches = s.launches := rfl
@[simp] theorem sendMsix_gangs (s : State) (p v : Nat) : (s.sendMsix p v).gangs = s.gangs := rfl
@[simp] theorem sendMsix_claims (s : State) (p v : Nat) : (s.sendMsix p v).claims = s.claims := rfl
@[simp] theorem sendMsix_nextOrder (s : State) (p v : Nat) : (s.sendMsix p v).nextOrder = s.nextOrder := rfl
@[simp] theorem sendMsix_ptbase (s : State) (p v : Nat) : (s.sendMsix p v).ptbase = s.ptbase := rfl
@[simp] theorem sendMsix_ptbaseLow (s : State) (p v : Nat) : (s.sendMsix p v).ptbaseLow = s.ptbaseLow := rfl
@[simp] theorem sendMsix_reticleTlb (s : State) (p v : Nat) : (s.sendMsix p v).reticleTlb = s.reticleTlb := rfl
@[simp] theorem sendMsix_walks (s : State) (p v : Nat) : (s.sendMsix p v).walks = s.walks := rfl
@[simp] theorem sendMsix_tiles (s : State) (p v : Nat) : (s.sendMsix p v).tiles = s.tiles := rfl
@[simp] theorem sendMsix_mem (s : State) (p v : Nat) : (s.sendMsix p v).mem = s.mem := rfl
@[simp] theorem sendMsix_wc (s : State) (p v : Nat) : (s.sendMsix p v).wc = s.wc := rfl
@[simp] theorem sendMsix_useCtr (s : State) (p v : Nat) : (s.sendMsix p v).useCtr = s.useCtr := rfl
@[simp] theorem sendMsix_held (s : State) (p v : Nat) : (s.sendMsix p v).held = s.held := rfl
@[simp] theorem sendMsix_inError (s : State) (p v : Nat) : (s.sendMsix p v).inError = s.inError := rfl
@[simp] theorem sendMsix_regions (s : State) (p v : Nat) : (s.sendMsix p v).regions = s.regions := rfl
@[simp] theorem sendMsix_replicas (s : State) (p v : Nat) : (s.sendMsix p v).replicas = s.replicas := rfl
@[simp] theorem sendMsix_placement (s : State) (p v : Nat) : (s.sendMsix p v).placement = s.placement := rfl
@[simp] theorem sendMsix_redealt (s : State) (p v : Nat) : (s.sendMsix p v).redealt = s.redealt := rfl
@[simp] theorem sendMsix_emptying (s : State) (p v : Nat) : (s.sendMsix p v).emptying = s.emptying := rfl
@[simp] theorem sendMsix_lastAtomic (s : State) (p v : Nat) : (s.sendMsix p v).lastAtomic = s.lastAtomic := rfl
@[simp] theorem sendMsix_locks (s : State) (p v : Nat) : (s.sendMsix p v).locks = s.locks := rfl
@[simp] theorem sendMsix_lockSquads (s : State) (p v : Nat) : (s.sendMsix p v).lockSquads = s.lockSquads := rfl
@[simp] theorem sendMsix_matrices (s : State) (p v : Nat) : (s.sendMsix p v).matrices = s.matrices := rfl
@[simp] theorem sendMsix_sentGrants (s : State) (p v : Nat) : (s.sendMsix p v).sentGrants = s.sentGrants := rfl
@[simp] theorem sendMsix_nextGrant (s : State) (p v : Nat) : (s.sendMsix p v).nextGrant = s.nextGrant := rfl
@[simp] theorem sendMsix_junctions (s : State) (p v : Nat) : (s.sendMsix p v).junctions = s.junctions := rfl
@[simp] theorem sendMsix_peerHeld (s : State) (p v : Nat) : (s.sendMsix p v).peerHeld = s.peerHeld := rfl
@[simp] theorem sendMsix_peerRefused (s : State) (p v : Nat) : (s.sendMsix p v).peerRefused = s.peerRefused := rfl
@[simp] theorem sendMsix_sampler (s : State) (p v : Nat) : (s.sendMsix p v).sampler = s.sampler := rfl
@[simp] theorem sendMsix_snap (s : State) (p v : Nat) : (s.sendMsix p v).snap = s.snap := rfl
@[simp] theorem sendMsix_snaps (s : State) (p v : Nat) : (s.sendMsix p v).snaps = s.snaps := rfl
@[simp] theorem sendMsix_agenda (s : State) (p v : Nat) : (s.sendMsix p v).agenda = s.agenda := rfl
@[simp] theorem sendMsix_sched (s : State) (p v : Nat) : (s.sendMsix p v).sched = s.sched := rfl
@[simp] theorem sendMsix_rr (s : State) (p v : Nat) : (s.sendMsix p v).rr = s.rr := rfl
@[simp] theorem sendMsix_cur (s : State) (p v : Nat) : (s.sendMsix p v).cur = s.cur := rfl
@[simp] theorem sendMsix_input (s : State) (p v : Nat) : (s.sendMsix p v).input = s.input := rfl
@[simp] theorem sendMsix_loss (s : State) (p v : Nat) : (s.sendMsix p v).loss = s.loss := rfl
@[simp] theorem sendMsix_freeCtr (s : State) (p v : Nat) : (s.sendMsix p v).freeCtr = s.freeCtr := rfl

end Sys2Proof.Laws
end

