-- ==== Sys2Proof/Tests/Slice0.lean ====
section
/-! SUPPORT. Tests of the model on small states: words of every family decode, ill-formed terms are refused, one step of an
instruction gives what the specification's tables say, and the hypotheses of every statement are met somewhere. -/

namespace Sys2Proof.Tests

open Sys2Proof Sys2Proof.Machine Sys2Proof.Safety Sys2Proof.Rules

set_option maxRecDepth 20000
set_option Elab.async false

/-! ### Small states -/

/-- The machine of LOG 11, with its one group at its instruction. -/
def bench : State := { State.reset.boot 0 with cur := some ⟨0, 0, 0⟩ }

/-- The bench with its squad changed. -/
def lab (f : Squad → Squad) : State := bench.updSquad 0 0 f

/-- A squad with some registers set. -/
def withRegs (l : List (Nat × RegVal)) (q : Squad) : Squad := l.foldl (fun q e => q.setReg e.1 e.2) q

/-- A squad with a segment register set. -/
def withSeg (n : SegName) (base limit : Nat) (q : Squad) : Squad :=
  { q with segs := q.segs.setIfInBounds n.num ⟨BitVec.ofNat 64 base, BitVec.ofNat 64 limit⟩ }

/-- A general register that holds k + m·j in lane j. -/
def ramp (k m : Nat) : RegVal := .general (Vector.ofFn fun j : Fin 32 => BitVec.ofNat 32 (k + m * j.val))

/-- The bench's squad. -/
def me : SquadKey := ⟨bootGang, 0, 0⟩

/-- The group that comes to issue an instruction. -/
def comer (i : Instr) (s : State) : Ctx :=
  match s.ctx with
  | some x => { x with sq := x.sq.settle i x.g }
  | none => ⟨0, Tile.empty, bootWorkgroup 0, bootSquad 0, ⟨0, 0, .home, none, none, 0, 0, 0, [], 0, none⟩⟩

/-- The group that issues an instruction, with its dead read noted. -/
def issuer (i : Instr) (s : State) : Ctx := (comer i s).reading i

/-- A group comes to issue on a state. -/
def comes (s : State) : Bool := s.ctx.any fun x => x.g.fences.isEmpty

/-- No trap follows a dead read of an instruction. -/
def quiet (i : Instr) (s : State) : Bool := !((comer i s).readsDead i && (comer i s).sq.drtrap)

/-- The instruction issues on a state. -/
def issuesOn (i : Instr) (s : State) : Bool :=
  comes s && quiet i s &&
    decide (issueTrap i (comer i s) (s.flash.stepping = 0) ((comer i s).priv s) i.isPrivileged = none)

/-- The group is tried again at an instruction on a state. -/
def resumesOn (i : Instr) (s : State) : Bool := comes s && quiet i s && (comer i s).g.inWait

theorem issuing_of {i : Instr} {s : State} (h : comes s = true) : Issuing i s (comer i s) := by
  unfold comes at h
  cases hx : s.ctx with
  | none => simp [hx] at h
  | some x => exact ⟨x, hx, by simpa [hx] using h, by simp [comer, hx]⟩

theorem issues_of {i : Instr} {s : State} (h : issuesOn i s = true) : Issues i s (issuer i s) := by
  simp only [issuesOn, quiet, Bool.and_eq_true, decide_eq_true_eq, Bool.not_eq_true'] at h
  exact ⟨comer i s, issuing_of h.1.1, h.2, h.1.2, rfl⟩

theorem resumes_of {i : Instr} {s : State} (h : resumesOn i s = true) : Resumes i s (issuer i s) := by
  simp only [resumesOn, quiet, Bool.and_eq_true, Bool.not_eq_true'] at h
  exact ⟨comer i s, issuing_of h.1.1, h.2, h.1.2, rfl⟩

/-- The value of a register in a lane after an instruction, if it goes on. -/
def after (i : Instr) (s : State) (n j : Nat) : Option Word :=
  match exec i s with
  | .next t => (t.squad? 0 0).map fun q => (q.reg n).lane j
  | .fault _ | .refused _ => none

/-- The low word and the high word of a pair after an instruction. -/
def after2 (i : Instr) (s : State) (n j : Nat) : Option (Word × Word) :=
  match after i s n j, after i s (n + 1) j with
  | some a, some b => some (a, b)
  | _, _ => none

/-- An R-format instruction's fields: v3 from v4 and v5. -/
def dab : RForm := ⟨false, .v 3, .v 4, .v 5, false, false⟩
/-- v3 from v4 alone. -/
def da : RForm := ⟨false, .v 3, .v 4, .zero, false, false⟩
/-- v8:v9 from v4:v5 and v6:v7. -/
def wide : RForm := ⟨false, .v 8, .v 4, .v 6, false, false⟩
/-- v3 from v4 and an immediate. -/
def dai (n : Int) : IForm := ⟨false, .v 3, .v 4, BitVec.ofInt 10 n⟩

/-- A squad that holds d, a and b in v3, v4 and v5. -/
def three (d a b : Word) : State := lab (withRegs [(3, .uniform d), (4, .uniform a), (5, .uniform b)])
/-- A squad that holds two pairs. -/
def pairs (a1 a0 b1 b0 : Word) : State :=
  lab (withRegs [(4, .uniform a0), (5, .uniform a1), (6, .uniform b0), (7, .uniform b1), (8, .uniform 0), (9, .uniform 0)])

/-! ### Integer instructions: the values of R265-R269 -/

theorem test_iadd_wraps : after (.iadd dab) (three 0 0xFFFFFFFF 2) 3 31 = some 1 := by decide +kernel
theorem test_iadds_clamps : after (.iadds dab) (three 0 0x7FFFFFFF 1) 3 0 = some 0x7FFFFFFF := by decide +kernel
theorem test_isub_wraps : after (.isub dab) (three 0 1 2) 3 0 = some 0xFFFFFFFF := by decide +kernel
theorem test_isubs_clamps : after (.isubs dab) (three 0 0x80000000 1) 3 0 = some 0x80000000 := by decide +kernel
theorem test_imul : after (.imul dab) (three 0 0xFFFFFFFF 0xFFFFFFFF) 3 0 = some 1 := by decide +kernel
theorem test_imulh_signed : after (.imulh dab) (three 0 0xFFFFFFFF 2) 3 0 = some 0xFFFFFFFF := by decide +kernel
theorem test_imad_reads_d : after (.imad dab) (three 5 3 4) 3 0 = some 17 := by decide +kernel
theorem test_imadh : after (.imadh dab) (three 1 0x40000000 8) 3 0 = some 3 := by decide +kernel
theorem test_imin_signed : after (.imin dab) (three 0 0xFFFFFFFF 1) 3 0 = some 0xFFFFFFFF := by decide +kernel
theorem test_iminn_unsigned : after (.iminn dab) (three 0 0xFFFFFFFF 1) 3 0 = some 1 := by decide +kernel
theorem test_imax_signed : after (.imax dab) (three 0 0xFFFFFFFF 1) 3 0 = some 1 := by decide +kernel
theorem test_imaxn_unsigned : after (.imaxn dab) (three 0 0xFFFFFFFF 1) 3 0 = some 0xFFFFFFFF := by decide +kernel
theorem test_andn : after (.andn dab) (three 0 0xFF 0x0F) 3 0 = some 0xF0 := by decide +kernel
theorem test_orn : after (.orn dab) (three 0 0 0xFFFFFFFE) 3 0 = some 1 := by decide +kernel
theorem test_xnor : after (.xnor dab) (three 0 0xFF 0x0F) 3 0 = some 0xFFFFFF0F := by decide +kernel
theorem test_shl_full_width : after (.shl dab) (three 0 1 32) 3 0 = some 0 := by decide +kernel
theorem test_rol_over_width : after (.rol dab) (three 0 0x80000001 33) 3 0 = some 3 := by decide +kernel
theorem test_shr : after (.shr dab) (three 0 0x80000000 31) 3 0 = some 1 := by decide +kernel
theorem test_sar_over_width : after (.sar dab) (three 0 0x80000000 40) 3 0 = some 0xFFFFFFFF := by decide +kernel
theorem test_cslt_signed : after (.cslt dab) (three 0 0xFFFFFFFF 0) 3 0 = some 1 := by decide +kernel
theorem test_csltn_unsigned : after (.csltn dab) (three 0 0xFFFFFFFF 0) 3 0 = some 0 := by decide +kernel
theorem test_csle_equal : after (.csle dab) (three 7 5 5) 3 0 = some 1 := by decide +kernel
theorem test_sel_keeps_b : after (.sel dab) (three 0 5 6) 3 0 = some 6 := by decide +kernel
theorem test_popc : after (.popc da) (three 0 0xF0F0F0F1 0) 3 0 = some 17 := by decide +kernel
theorem test_clz_of_zero : after (.clz da) (three 0 0 0) 3 0 = some 32 := by decide +kernel
theorem test_brev : after (.brev da) (three 0 1 0) 3 0 = some 0x80000000 := by decide +kernel
theorem test_ffs : after (.ffs da) (three 0 0x80000000 0) 3 0 = some 31 := by decide +kernel
theorem test_bfx_width_at_top : after (.bfx dab) (three 0 0xF0000000 0x3F1E) 3 0 = some 3 := by decide +kernel
theorem test_bfxs_sign : after (.bfxs dab) (three 0 0x00000008 0x0103) 3 0 = some 0xFFFFFFFF := by decide +kernel
theorem test_bfi_keeps_rest : after (.bfi dab) (three 0xFFFFFFFF 0 0x0804) 3 0 = some 0xFFFFF00F := by decide +kernel
theorem test_movg_keeps_d : after (.movg dab) (three 9 5 0) 3 0 = some 9 := by decide +kernel
theorem test_iabs_of_least : after (.iabs da) (three 0 0x80000000 0) 3 0 = some 0x80000000 := by decide +kernel
theorem test_ineg : after (.ineg da) (three 0 1 0) 3 0 = some 0xFFFFFFFF := by decide +kernel
theorem test_iaddi_signed : after (.iaddi (dai (-512))) (three 0 512 0) 3 0 = some 0 := by decide +kernel
theorem test_imuli : after (.imuli (dai (-1))) (three 0 7 0) 3 0 = some 0xFFFFFFF9 := by decide +kernel
theorem test_xori_extends : after (.xori (dai (-1))) (three 0 0 0) 3 0 = some 0xFFFFFFFF := by decide +kernel
theorem test_shri_arith : after (.shri ⟨false, .v 3, .v 4, 0x21F⟩) (three 0 0x80000000 0) 3 0 = some 0xFFFFFFFF := by decide +kernel
theorem test_movi : after (.movi ⟨true, .v 3, .zero, 0x3FF⟩) bench 3 5 = some 0xFFFFFFFF := by decide +kernel
theorem test_wadd_carries : after2 (.wadd wide) (pairs 0 0xFFFFFFFF 0 1) 8 0 = some (0, 1) := by decide +kernel
theorem test_wsub_borrows : after2 (.wsub wide) (pairs 1 0 0 1) 8 0 = some (0xFFFFFFFF, 0) := by decide +kernel
theorem test_wmulh_signed : after2 (.wmulh wide) (pairs 0xFFFFFFFF 0xFFFFFFFF 0 2) 8 0 = some (0xFFFFFFFF, 0xFFFFFFFF) := by
  decide +kernel
theorem test_wshl_crosses : after2 (.wshl ⟨false, .v 8, .v 4, .v 6, false, false⟩) (pairs 0 1 0 33) 8 0 = some (0, 2) := by
  decide +kernel

/-! ### The hypotheses of the statements are met: instructions -/

/-- The first part of a pair, and the answer it carries. -/
theorem ok_of {α ε β : Type} {p : α × Except ε β} {b : β} (h : p.2.toOption = some b) : p = (p.1, .ok b) := by
  obtain ⟨a, r⟩ := p
  cases r <;> simp_all [Except.toOption]

/-- What was served. -/
def servedOf {α : Type} : Served α → Option α
  | .ok v => some v
  | .wait _ | .fault _ _ => none

/-- The fault that an access met. -/
def faultOf {α : Type} : Served α → Option (MemFault × Bool)
  | .fault f p => some (f, p)
  | .wait _ | .ok _ => none

theorem served_of {α β : Type} {p : α × Served β} {b : β} (h : servedOf p.2 = some b) : p = (p.1, .ok b) := by
  obtain ⟨a, r⟩ := p
  cases r <;> simp_all [servedOf]

theorem ex_served {α β : Type} (p : α × Served β) (b : β) (h : servedOf p.2 = some b) : ∃ a, p = (a, .ok b) := by
  obtain ⟨a, r⟩ := p
  cases r <;> simp_all [servedOf]

theorem ex_served_and {α β : Type} (p : α × Served β) (b : β) (Q : α → Prop) (h : servedOf p.2 = some b) (hq : Q p.1) :
    ∃ a, p = (a, .ok b) ∧ Q a := by
  obtain ⟨a, r⟩ := p
  cases r <;> simp_all [servedOf]

theorem ex_fault {α β : Type} (p : α × Served β) (f : MemFault) (b : Bool) (h : faultOf p.2 = some (f, b)) :
    ∃ a, p = (a, .fault f b) := by
  obtain ⟨a, r⟩ := p
  cases r <;> simp_all [faultOf]

/-- The error of an answer. -/
def errorOf {ε β : Type} : Except ε β → Option ε
  | .ok _ => none
  | .error e => some e

theorem ex_ok {α ε β : Type} (p : α × Except ε β) (b : β) (h : p.2.toOption = some b) : ∃ a, p = (a, .ok b) := ⟨p.1, ok_of h⟩

theorem ex_ok_and {α ε β : Type} (p : α × Except ε β) (b : β) (Q : α → Prop) (h : p.2.toOption = some b) (hq : Q p.1) :
    ∃ a, p = (a, .ok b) ∧ Q a := ⟨p.1, ok_of h, hq⟩

theorem error_of {α ε β : Type} {p : α × Except ε β} {e : ε} (h : errorOf p.2 = some e) : p = (p.1, .error e) := by
  obtain ⟨a, r⟩ := p
  cases r <;> simp_all [errorOf]

/-- A group that waits for no result is the context as it stands. -/
theorem comer_ctx {i : Instr} {s : State} (h : s.ctx.any (fun x => decide (x.sq.settle i x.g = x.sq)) = true) :
    s.ctx = some (comer i s) := by
  cases hx : s.ctx with
  | none => simp [hx] at h
  | some x =>
    simp only [hx, Option.any_some, decide_eq_true_eq] at h
    simp [comer, hx, h]

/-- A squad of which only lanes 0 to 3 are in the group. -/
def split (q : Squad) : Squad :=
  { q with groups := [⟨0xF, 0, .home, none, none, 0, 0, 0, [], 0, none⟩, ⟨0xFFFFFFF0, 64, .pool 0, none, none, 0, 0, 0, [], 0, none⟩] }

/-- The bench with a trap handler at 0x800 of its code. -/
def guarded (f : Squad → Squad) : State :=
  { lab f with launches := [{ bootLaunch with header := { bootLaunch.header with trapPc := some 0x800 } }] }

theorem witness_IntegerResults :
    (∃ i s c d v, intResult c i = some (d, v) ∧ Issues i s c) ∧ (∃ i s c d v, wideResult c i = some (d, v) ∧ Issues i s c) ∧
      ∃ s c, Issues (.bfi dab) s c ∧ c.whole = false :=
  ⟨⟨.sar dab, three 0 1 32, issuer (.sar dab) (three 0 1 32), _, _, rfl, issues_of (by decide +kernel)⟩,
    ⟨.wshl wide, pairs 0 1 0 64, issuer (.wshl wide) (pairs 0 1 0 64), _, _, rfl, issues_of (by decide +kernel)⟩,
    ⟨lab (fun q => split (withRegs [(3, .uniform 0), (4, .uniform 0), (5, .uniform 0)] q)), _,
      by exact issues_of (by decide +kernel), by decide +kernel⟩⟩

theorem witness_FloatResults :
    (∃ i s c d v, floatResult c i = some (d, v) ∧ Issues i s c ∧
      ∀ j ∈ lanesOfFloat c i, (v j).2 &&& ctlTraps c.control = 0 ∧ badScale c j i = false) ∧
    (∃ i s c d v, doubleResult c i = some (d, v) ∧ Issues i s c ∧ ∀ j ∈ lanesOfFloat c i, (v j).2 &&& ctlTraps c.control = 0) ∧
    ∃ s c, Issues (.dadd wide) s c ∧ c.whole = false :=
  ⟨⟨.fadd dab, three 0 0x3F800000 0x3F800000, issuer (.fadd dab) (three 0 0x3F800000 0x3F800000), _, _, rfl,
      issues_of (by decide +kernel), by decide +kernel⟩,
    ⟨.dadd wide, pairs 0x3FF00000 0 0x3FF00000 0, issuer (.dadd wide) (pairs 0x3FF00000 0 0x3FF00000 0), _, _, rfl,
      issues_of (by decide +kernel), by decide +kernel⟩,
    ⟨lab (fun q => split (withRegs [(4, .uniform 0), (5, .uniform 0), (6, .uniform 0), (7, .uniform 0), (8, .uniform 0), (9, .uniform 0)] q)), _,
      by exact issues_of (by decide +kernel), by decide +kernel⟩⟩

theorem witness_CrossLaneResults : ∃ i s c d v, crossResult c i = some (d, v) ∧ Issues i s c :=
  ⟨.shfl dab, three 0 7 31, issuer (.shfl dab) (three 0 7 31), _, _, rfl, issues_of (by decide +kernel)⟩

/-- A branch at the base of the code segment to its last word. -/
def braI : Instr := .bra 1023
theorem witness_BranchResults :
    (∃ i s c target, branchTarget c i = some target ∧ Issues i s c ∧
      ∀ j ∈ lanesOf c.g.threads, ∀ x, target j = some x → x % 4 = 0 ∧ segCheck c.sq .iseg x 4 = true) ∧
    (∃ i s c target j x pc, branchTarget c i = some target ∧ Issues i s c ∧ j ∈ lanesOf c.g.threads ∧ target j = some x ∧
      x % 4 ≠ 0 ∧ (∀ k ∈ lanesOf c.g.threads, k < j → ∀ y, target k = some y → y % 4 = 0) ∧ handlerOf s c 8 = some pc) ∧
    (∃ i s c target j x pc, branchTarget c i = some target ∧ Issues i s c ∧ j ∈ lanesOf c.g.threads ∧ target j = some x ∧
      segCheck c.sq .iseg x 4 = false ∧ (∀ k ∈ lanesOf c.g.threads, ∀ y, target k = some y → y % 4 = 0) ∧
      (∀ k ∈ lanesOf c.g.threads, k < j → ∀ y, target k = some y → segCheck c.sq .iseg y 4 = true) ∧
      handlerOf s c 5 = some pc) := by
  refine ⟨⟨braI, bench, issuer braI bench, _, rfl, issues_of (by decide +kernel), ?_⟩,
    ⟨.jmpr ⟨false, .zero, .v 4, .zero, false, false⟩, guarded (withRegs [(4, ramp 0 1)]), _, _, 1, 1, 0x800, rfl,
      issues_of (by decide +kernel), by decide +kernel, by decide +kernel, by decide, ?_, by decide +kernel⟩,
    ⟨.bra 1024, guarded id, _, _, 0, 4096, 0x800, rfl,
      issues_of (by decide +kernel), by decide +kernel, by decide +kernel, by decide +kernel, ?_, ?_, by decide +kernel⟩⟩
  · intro j _ x h
    cases Option.some.inj h
    decide +kernel
  · intro k _ hk y h
    obtain rfl : k = 0 := by omega
    cases Option.some.inj h
    decide +kernel
  · intro k _ y h
    cases Option.some.inj h
    decide +kernel
  · intro k _ hk
    omega

theorem witness_HintWords : ∃ i s c h, hintRun (runOf c) i = some h ∧ Issuing i s c ∧
    ((runOf c).upper.isSome = true → endsWide i = true) ∧ c.g.threads ≠ 0 ∧ ∀ g ∈ c.sq.groups, g.pc ≠ c.g.pc + 4 :=
  ⟨.hintSched 31, bench, comer (.hintSched 31) bench, _, rfl, issuing_of (by decide +kernel), by decide +kernel, by decide +kernel,
    by decide +kernel⟩

/-- The bench with a span table of one entry and a handler. -/
def spanState : State := { lab id with launches := [{ bootLaunch with header := { bootLaunch.header with nspan := 1, trapPc := some 0x800 } }] }
/-- And that entry with a reserved bit set. -/
def spanBad : State := spanState.pokeNum (bootCode + 0x1000E) 1 1
def spanI : Instr := .span 0
theorem witness_ExitAndSpan :
    (∃ p s c, Inv s ∧ Issues (.exit p) s c ∧ c.whole = false) ∧
    (∃ p s c, Inv s ∧ Issues (.exit p) s c ∧ c.whole = true ∧ c.sq.engine = none ∧
      (ready s c).releaseState c.tile c.sq ((ready s c).heldScope c.key) = .ready ∧
      ∀ g ∈ s.sentGrants, g.grant.squad ≠ c.key) ∧
    (∃ (p : BitVec 25) (s : State) (c : Ctx) (v : Nat), Inv s ∧ Issues (.span p) s c ∧
      s.spanWrong c (p.toNat % 2 ^ 16) = false ∧ ∃ s1, (ready s c).readSpan c (c.spanEntry s (p.toNat % 2 ^ 16)) = (s1, .ok v)) ∧
    (∃ (p : BitVec 25) (s : State) (x : Ctx) (pc : DWord), Issuing (.span p) s x ∧ x.g.inWait = false ∧ handlerOf s x 1 = some pc ∧
      x.spanCount s ≤ p.toNat % 2 ^ 16) ∧
    ∃ (p : BitVec 25) (s s1 : State) (x : Ctx) (pc : DWord) (v : Nat), Issuing (.span p) s x ∧ x.g.inWait = false ∧
      handlerOf s x 1 = some pc ∧
      s.readSpan x (x.spanEntry s (p.toNat % 2 ^ 16)) = (s1, .ok v) ∧ 2 ^ 112 ≤ v :=
  ⟨⟨0, lab split, _, ⟨by decide +kernel, by decide +kernel⟩, issues_of (by decide +kernel), by decide +kernel⟩,
    ⟨0, bench, _, ⟨by decide +kernel, by decide +kernel⟩, issues_of (by decide +kernel), by decide +kernel, by decide +kernel,
      by decide +kernel, by decide +kernel⟩,
    ⟨0, bench, issuer spanI bench, 0, ⟨by decide +kernel, by decide +kernel⟩, issues_of (by decide +kernel), by decide +kernel,
      ex_served _ _ (by decide +kernel)⟩,
    ⟨1, spanState, comer (.span 1) spanState, 0x800, issuing_of (by decide +kernel), by decide +kernel, by decide +kernel,
      by decide +kernel⟩,
    ⟨0, spanBad, _, comer spanI spanBad, 0x800, 2 ^ 112, issuing_of (by decide +kernel), by decide +kernel, by decide +kernel,
      served_of (by decide +kernel), by decide⟩⟩

/-- A uniform value in v4, its high word in v5. -/
def pair4 (lo hi : Word) (q : Squad) : Squad := withRegs [(4, .uniform lo), (5, .uniform hi), (6, .uniform 0), (7, .uniform 0)] q
/-- A system instruction on v4. -/
def s4 (sub : BitVec 8) (imm : BitVec 10) : SForm := ⟨sub, .v 4, imm⟩

theorem witness_SysResults :
    (∃ i s c d v, sysResult s c i = some (d, v) ∧ Issues i s c) ∧ (∃ i s c d v, sysPair s c i = some (d, v) ∧ Issues i s c) ∧
      ∀ n ∈ [0, 1, 3, 4, 5, 9, 0x40], ∃ f s c, Issues (.sysMfs f) s c ∧ f.imm.toNat = n ∧ specialFields s c n ≠ [] ∧
        ∀ x ∈ specialFields s c n, x.2.2 < 2 ^ x.2.1 :=
  ⟨⟨.sysXmsk (s4 10 0), bench, issuer (.sysXmsk (s4 10 0)) bench, _, _, rfl, issues_of (by decide +kernel)⟩,
    ⟨.sysClkr (s4 2 0), bench, issuer (.sysClkr (s4 2 0)) bench, _, _, rfl, issues_of (by decide +kernel)⟩,
    by
      have h : ∀ n ∈ [0, 1, 3, 4, 5, 9, 0x40], issuesOn (.sysMfs (s4 0 (BitVec.ofNat 10 n))) bench = true ∧
          specialFields bench (issuer (.sysMfs (s4 0 (BitVec.ofNat 10 n))) bench) n ≠ [] ∧
          (∀ x ∈ specialFields bench (issuer (.sysMfs (s4 0 (BitVec.ofNat 10 n))) bench) n, x.2.2 < 2 ^ x.2.1) ∧
          (BitVec.ofNat 10 n).toNat = n := by decide +kernel
      exact fun n hn => ⟨s4 0 (BitVec.ofNat 10 n), bench, _, issues_of (h n hn).1, (h n hn).2.2.2, (h n hn).2.1, (h n hn).2.2.1⟩⟩

theorem witness_SysEffects :
    (∃ i s c e b, sysEffect s c i = some (e, b) ∧ Issues i s c) ∧
    (∃ f s c, Issues (.sysMts f) s c ∧ (needsPriv (.sysMts f) = true → c.priv s = true)) ∧
    ∃ f s c, Issues (.sysAmskSwap f) s c :=
  ⟨⟨.sysSegld (s4 12 7), lab (pair4 1 0), issuer (.sysSegld (s4 12 7)) (lab (pair4 1 0)), _, _, rfl, issues_of (by decide +kernel)⟩,
    ⟨s4 1 0, lab (pair4 3 0), _, issues_of (by decide +kernel), by decide +kernel⟩,
    ⟨s4 9 1, lab (pair4 0xFFFFFFFF 0), _, issues_of (by decide +kernel)⟩⟩

theorem witness_TagsAndDeadRegisters :
    (∃ (f : SForm) (s : State) (c : Ctx) (n : Fin 112), Issues (.sysTagc f) s c ∧ f.a = .v n ∧ c.whole = true ∧ c.sq.reg n.val ≠ .dead ∧
      ∃ b st : Word, ∀ j ∈ lanesOf c.sq.live, (c.sq.reg n.val).lane j = b + st * BitVec.ofNat 32 j) ∧
    (∃ (f : SForm) (s : State) (c : Ctx) (n : Fin 112), Issues (.sysTagc f) s c ∧ f.a = .v n ∧ c.whole = false) ∧
    ∃ (f : SForm) (s : State) (c : Ctx) (n : Fin 112), Issues (.sysDead f) s c ∧ f.a = .v n :=
  ⟨⟨s4 23 0, lab (withRegs [(4, ramp 5 3)]), _, 4, issues_of (by decide +kernel), rfl, by decide +kernel, by decide +kernel, 5, 3,
      by decide +kernel⟩,
    ⟨s4 23 0, lab fun q => split (withRegs [(4, ramp 5 3)] q), _, 4, by exact issues_of (by decide +kernel), rfl, by decide +kernel⟩,
    ⟨⟨35, .v 111, 0⟩, bench, _, 111, issues_of (by decide +kernel), rfl⟩⟩

/-- A launch that compares or captures in a buffer of 4 KiB at 1 MiB. -/
def snapping (mode : Nat) (f : Squad → Squad) : State :=
  { lab f with launches := [{ bootLaunch with snap := some ⟨0, mode, 0x100000, 96⟩ }] }

theorem witness_ObservingInstructions :
    (∃ f s c pa, Inv s ∧ Issues (.sysPmap f) s c ∧ ∃ s1,
      (ready s c).resolve c .gseg .read false 1 0 [0] (fun _ => ((c.pair f.a 0).toNat : Int)) = (s1, .ok [(0, .phys pa)])) ∧
    (∃ f s c z, Inv s ∧ Issues (.sysSnap f) s c ∧ (c.launch s).bind (·.snap) = some z ∧ z.mode = 1 ∧
      z.offset + z.size ≤ Config.hbmEnd ∧
      (c.launch s).any (fun l => l.snapped.contains (c.wg.gang.gang, c.wg.member, c.sq.slot, f.imm.toNat, c.sq.cmdSeq)) = true) ∧
    (∃ f s c z, Inv s ∧ Issues (.sysSnap f) s c ∧ (c.launch s).bind (·.snap) = some z ∧ z.mode = 1 ∧
      z.offset + z.size ≤ Config.hbmEnd ∧
      (c.launch s).any (fun l => l.snapped.contains (c.wg.gang.gang, c.wg.member, c.sq.slot, f.imm.toNat, c.sq.cmdSeq)) = false ∧
      64 + 32 * (((ready s c).obtainSnap z).num z.offset 4 + 1) ≤ z.size) ∧
    (∃ f s c z, Inv s ∧ Issues (.sysSnap f) s c ∧ (c.launch s).bind (·.snap) = some z ∧ z.mode = 2 ∧
      ((ready s c).obtainSnap z).snapFind z (c.snapKey f.imm.toNat) (fun _ => true) = some (c.uni f.a).toNat) ∧
    (∃ f s c z, Inv s ∧ Issues (.sysSnap f) s c ∧ (c.launch s).bind (·.snap) = some z ∧ z.mode = 2 ∧
      ((ready s c).obtainSnap z).snapFind z (c.snapKey f.imm.toNat) (fun _ => true) ≠ some (c.uni f.a).toNat) ∧
    (∃ f s c, Issues (.sysSleep f) s c ∧ (∀ n b, c.g.blocked ≠ some (.sleep n b)) ∧ c.uni f.a = 0) ∧
    (∃ f s c, Issues (.sysSleep f) s c ∧ (∀ n b, c.g.blocked ≠ some (.sleep n b)) ∧ c.uni f.a ≠ 0) ∧
    (∃ f s c n, Resumes (.sysSleep f) s c ∧ c.g.blocked = some (.sleep n true)) ∧
    ∃ f s c n, Resumes (.sysSleep f) s c ∧ c.g.blocked = some (.sleep n false) :=
  let sleeping (b : Bool) (q : Squad) : Squad := { pair4 1 0 q with
    groups := [⟨fullMask, 0, .home, none, some (.sleep 1 b), 0, 0, 0, [], 0, some q.sources⟩] }
  have h (f : Squad → Squad) (hb : ((issuer (.sysSleep (s4 33 0)) (lab f)).g.blocked = none)) (n : Nat) (b : Bool) :
      (issuer (.sysSleep (s4 33 0)) (lab f)).g.blocked ≠ some (.sleep n b) := by rw [hb]; exact Option.some_ne_none _ |>.symm
  ⟨⟨s4 29 0, lab fun q => withSeg .gseg 0 4096 (pair4 4095 0 q), _, 4095, ⟨by decide +kernel, by decide +kernel⟩,
      by exact issues_of (by decide +kernel), ex_ok _ _ (by decide +kernel)⟩,
    ⟨s4 24 0, { snapping 1 (pair4 9 0) with launches := (snapping 1 (pair4 9 0)).launches.map fun l =>
        { l with snapped := [(0, 0, 0, 0, 1)] } }, _, ⟨0, 1, 0x100000, 96⟩, ⟨by decide +kernel, by decide +kernel⟩,
      issues_of (by decide +kernel), by decide +kernel, rfl, by decide +kernel, by decide +kernel⟩,
    ⟨s4 24 0, snapping 1 (pair4 9 0), _, ⟨0, 1, 0x100000, 96⟩, ⟨by decide +kernel, by decide +kernel⟩,
      issues_of (by decide +kernel), by decide +kernel, rfl, by decide +kernel, by decide +kernel, by decide +kernel⟩,
    ⟨s4 24 0, ((snapping 2 (pair4 9 0)).pokeNum 0x100000 4 1).pokeN 0x100040
        (captureRecord (issuer (.sysSnap (s4 24 0)) (snapping 2 (pair4 9 0))) 0 9), _,
      ⟨0, 2, 0x100000, 96⟩, ⟨by decide +kernel, by decide +kernel⟩, issues_of (by decide +kernel), by decide +kernel, rfl,
      by decide +kernel⟩,
    ⟨s4 24 0, snapping 2 (pair4 9 0), _, ⟨0, 2, 0x100000, 96⟩, ⟨by decide +kernel, by decide +kernel⟩,
      issues_of (by decide +kernel), by decide +kernel, rfl, by decide +kernel⟩,
    ⟨s4 33 0, lab (pair4 0 0), _, issues_of (by decide +kernel), h _ (by decide +kernel), by decide +kernel⟩,
    ⟨s4 33 0, lab (pair4 1 0), _, issues_of (by decide +kernel), h _ (by decide +kernel), by decide +kernel⟩,
    ⟨s4 33 0, lab (sleeping true), _, 1, by exact resumes_of (by decide +kernel), by decide +kernel⟩,
    ⟨s4 33 0, lab (sleeping false), _, 1, by exact resumes_of (by decide +kernel), by decide +kernel⟩⟩

/-- A memory instruction on v6, at the offset in v4. -/
def m6 (u : Bool) (sz : BitVec 2) (bs : BitVec 3) (sx : Bool) : MForm := ⟨u, 0, .v 6, .v 4, sz, bs, sx⟩
/-- Lane j at the offset 512 + 4j of the scratchpad. -/
def strided : State := lab (withRegs [(4, ramp 512 4), (6, ramp 0 1), (7, .uniform 0)])
/-- The whole of `gseg` in the first page, at its last word. -/
def globally : State := lab fun q => withSeg .gseg 0 4096 (withRegs [(4, .uniform 1023), (6, .uniform 7), (7, .uniform 0)] q)

theorem witness_LoadResults :
    (∃ (i : Instr) (s : State) (c : Ctx) (f : MForm) (k : LoadKind) (ts : List (Nat × Target)), loadKind c i = some (f, k) ∧ Inv s ∧ Issues i s c ∧
      s.acquireReady k.acquire = true ∧ s.loss ≠ .answer ∧ ∃ s1,
      (ready s c).resolve c k.seg .read (k.seg = .pseg) (2 ^ f.sz.toNat) k.swz (c.accessLanes f.u) (loadOffset i c f k) = (s1, .ok ts) ∧
      servable (readState s1 c k ts) c false ts) ∧
    ∃ s c, Issues (.ldg (m6 true 2 0 false)) s c ∧ Inv s ∧ s.loss ≠ .answer ∧ ∃ s1 ts,
      (ready s c).resolve c .gseg .read false 4 0 [0] (loadOffset (.ldg (m6 true 2 0 false)) c (m6 true 2 0 false) (plainLoad .gseg 0 c))
        = (s1, .ok ts) ∧ servable (readState s1 c (plainLoad .gseg 0 c) ts) c false ts ∧ ∀ l ∈ linesOf ts, sureHome s1 l :=
  ⟨⟨.lds (m6 false 2 0 false), strided, issuer (.lds (m6 false 2 0 false)) strided, _, _,
      (lanesOf fullMask).map fun j => (j, .spad 0 (spadKey 0 (1536 + 4 * j))), rfl, ⟨by decide +kernel, by decide +kernel⟩,
      issues_of (by decide +kernel), by decide +kernel, by decide +kernel,
      ex_ok_and _ _ _ (by decide +kernel) (by unfold servable; decide +kernel)⟩,
    ⟨globally, _, issues_of (by decide +kernel), ⟨by decide +kernel, by decide +kernel⟩, by decide +kernel, _, [(0, .phys 4092)],
      by exact ok_of (by decide +kernel), by unfold servable; decide +kernel, by unfold sureHome; decide +kernel⟩⟩

theorem witness_StoreEffects :
    (∃ (i : Instr) (s : State) (c : Ctx) (f : MForm) (seg : SegName) (scaled : Bool) (swz : Nat) (ts : List (Nat × Target)),
      storeKind i = some (f, seg, scaled, swz, none) ∧ Inv s ∧ Issues i s c ∧ s.loss ≠ .answer ∧ ∃ s1,
      (ready s c).resolve c seg .write (seg = .pseg) (2 ^ f.sz.toNat) swz (c.accessLanes f.u)
        (c.offset i f.o (if scaled then 2 ^ f.sz.toNat else 1)) = (s1, .ok ts) ∧
      servable (storeState s1 c seg ts) c (coalesced seg (2 ^ f.sz.toNat) ts).isSome ts) ∧
    ∃ (s : State) (c : Ctx) (s1 : State) (ts : List (Nat × Target)), Issues (.strl (m6 true 3 6 false)) s c ∧ Inv s ∧ s.loss ≠ .answer ∧
      (∃ f seg scaled swz n, storeKind (.strl (m6 true 3 6 false)) = some (f, seg, scaled, swz, some n)) ∧
      (ready s c).resolve c .gseg .write false 8 0 [0] (c.offset (.strl (m6 true 3 6 false)) (.v 4) 8) = (s1, .ok ts) ∧
      s1.releaseState c.tile c.sq 6 = .ready ∧ servable (storeState s1 c .gseg ts) c (coalesced .gseg 8 ts).isSome ts :=
  ⟨⟨.sts (m6 false 2 0 false), strided, issuer (.sts (m6 false 2 0 false)) strided, _, _, _, _,
      (lanesOf fullMask).map fun j => (j, .spad 0 (spadKey 0 (1536 + 4 * j))), rfl, ⟨by decide +kernel, by decide +kernel⟩,
      issues_of (by decide +kernel), by decide +kernel, ex_ok_and _ _ _ (by decide +kernel) (by unfold servable; decide +kernel)⟩,
    ⟨lab fun q => withSeg .gseg 0 4096 (withRegs [(4, .uniform 511), (6, .uniform 7), (7, .uniform 0)] q), _, _, [(0, .phys 4088)],
      by exact issues_of (by decide +kernel), ⟨by decide +kernel, by decide +kernel⟩, by decide +kernel, ⟨_, _, _, _, _, rfl⟩,
      by exact ok_of (by decide +kernel), by decide +kernel, by unfold servable; decide +kernel⟩⟩

/-- The last word of the first page again, its anchor a bank at reticle 1. -/
def farAnchor : State :=
  { globally with street := [(0, 0x2007#32), (1, 7#32)], streetNext := [(0, 0x2007#32), (1, 7#32)], placement := [1]
                  active := ⟨.default [] [(0, 0), (1, 1)], []⟩ }

theorem witness_AtomicEffects :
    (∃ (i : Instr) (s : State) (c : Ctx) (f : AForm) (op : Nat → Nat → Nat) (ts : List (Nat × Target)),
      atomicResult c i = some (f, op) ∧ Inv s ∧ Issues i s c ∧ ∃ s1,
      (ready s c).resolve c (atomSeg f) .write (atomSeg f = .pseg) (atomSize f) 0 (c.accessLanes f.u)
        (c.offset i f.o (if atomSeg f = .sseg then 1 else atomSize f)) = (s1, .ok ts) ∧ servable s1 c false ts ∧ s1.nearMoves c.tile ts = [] ∧
        s.loss ≠ .answer ∧ ∀ l ∈ linesOf ts, sureHome s1 l) ∧
    ∃ (i : Instr) (s : State) (c : Ctx) (f : AForm) (op : Nat → Nat → Nat) (ts : List (Nat × Target)),
      atomicResult c i = some (f, op) ∧ Inv s ∧ Issues i s c ∧ ∃ s1,
      (ready s c).resolve c (atomSeg f) .write (atomSeg f = .pseg) (atomSize f) 0 (c.accessLanes f.u)
        (c.offset i f.o (if atomSeg f = .sseg then 1 else atomSize f)) = (s1, .ok ts) ∧ servable s1 c false ts ∧
        ∃ l r, s1.nearMoves c.tile ts = l :: r :=
  let f : AForm := ⟨false, 0, .v 6, .v 4, 1, 2, false⟩
  let g : AForm := ⟨true, 0, .v 6, .v 4, 5, 0, false⟩
  ⟨⟨.aadd f, strided, issuer (.aadd f) strided, _, _,
    (lanesOf fullMask).map fun j => (j, .spad 0 (spadKey 0 (1536 + 4 * j))), rfl, ⟨by decide +kernel, by decide +kernel⟩,
    issues_of (by decide +kernel), ex_ok_and _ _ _ (by decide +kernel) ⟨by unfold servable; decide +kernel, by decide +kernel,
      by decide +kernel, by unfold sureHome; decide +kernel⟩⟩,
   ⟨.aadd g, farAnchor, issuer (.aadd g) farAnchor, _, _, [(0, .phys 4092)], rfl, ⟨by decide +kernel, by decide +kernel⟩,
    issues_of (by decide +kernel), ex_ok_and _ _ _ (by decide +kernel)
      ⟨by unfold servable; decide +kernel, 31, [], by decide +kernel⟩⟩⟩

/-- Lane 0 alone, at an offset. -/
def alone (o : Nat) (t : Word) (q : Squad) : Squad := withSeg .gseg 0 4096
  { withRegs [(4, .uniform (BitVec.ofNat 32 o)), (6, .uniform t), (7, .uniform 0)] q with
    live := 1, groups := [⟨1, 0, .home, none, none, 0, 0, 0, [], 0, none⟩] }

theorem witness_PrefetchFlushAndHints :
    (∃ f s c, Inv s ∧ Issues (.pref f) s c) ∧
    (∃ (f : MForm) (s : State) (c : Ctx) (ls : List Nat), Inv s ∧ Issues (.flsh f) s c ∧ s.loss ≠ .answer ∧ ∃ s1, (ready s c).flushLines c (.flsh f) f .read = (s1, .ok ls) ∧
      (∀ l ∈ ls, s1.farLine l = false ∧ s1.deviceWrites.contains l = false) ∧
      ∀ w ∈ s1.wc, w.line ∈ ls → s1.wcLine? w.line = some w) ∧
    (∃ (f : MForm) (s : State) (c : Ctx) (ls : List Nat), Inv s ∧ Issues (.flshd f) s c ∧ s.loss ≠ .answer ∧ ∃ s1, (ready s c).flushLines c (.flshd f) f .write = (s1, .ok ls)) ∧
    ∃ (f : MForm) (s : State) (c : Ctx) (bs : List (Nat × Nat)), Inv s ∧ Issues (.place f) s c ∧ s.loss = .none ∧ (c.uni f.t).toNat % 8 < 4 ∧
      (c.uni f.t).toNat / 8 % 2 = 0 ∧ (c.uni f.t).toNat / 16 < 10 ∧
      segCheck c.sq .gseg (c.offset (.place f) f.o 1 0) (128 * 2 ^ ((c.uni f.t).toNat / 16 % 16)) = true ∧
      segAddr c.sq .gseg (c.offset (.place f) f.o 1 0) 0 % (128 * 2 ^ ((c.uni f.t).toNat / 16 % 16)) = 0 ∧ (c.uni f.t).toNat % 4 ≠ 0 ∧
      ∃ s1, (ready s c).placeAll c (placeBlocks (segAddr c.sq .gseg (c.offset (.place f) f.o 1 0) 0) ((c.uni f.t).toNat / 16 % 16))
        = (s1, .ok bs) ∧ (∀ b ∈ bs, s1.routes c.tile (s1.anchor b.1) = true) ∧ ∃ x, bs = [x] := by
  refine ⟨⟨⟨false, 0, .zero, .v 4, 0, 0, false⟩, lab (alone 4095 0), _, ⟨by decide +kernel, by decide +kernel⟩, issues_of ?_⟩,
    ⟨⟨false, 0, .zero, .v 4, 0, 0, false⟩, lab (alone 4095 0), _, [31], ⟨by decide +kernel, by decide +kernel⟩, issues_of ?_,
      ?_, ex_served_and _ _ _ ?_ ?_⟩,
    ⟨⟨false, 0, .zero, .v 4, 0, 0, true⟩, lab (alone 4095 0), _, [31], ⟨by decide +kernel, by decide +kernel⟩, issues_of ?_,
      ?_, ex_served _ _ ?_⟩,
    ⟨⟨true, 0, .v 6, .v 4, 0, 0, false⟩, lab (alone 0 0x53), _, [(0, 4)], ⟨by decide +kernel, by decide +kernel⟩, issues_of ?_,
      ?_, ?_, ?_, ?_, ?_, ?_, ?_, ex_ok_and _ _ _ ?_ ⟨?_, _, rfl⟩⟩⟩
  all_goals decide +kernel

theorem witness_PlaneMoves :
    (∃ f s c ts, Inv s ∧ Issues (.psts f) s c ∧ s.loss ≠ .answer ∧ (ready s c).planeWords c (.psts f) f = .ok ts) ∧
    ∃ f s c ts, Inv s ∧ Issues (.plds f) s c ∧ s.loss ≠ .answer ∧ (ready s c).planeWords c (.plds f) f = .ok ts :=
  let s : State := lab (withRegs [(4, .uniform 3968), (6, ramp 0 1)])
  have h {ε : Type} {p : Except ε (List Target)} (b : List Target) (hp : p.toOption = some b) : p = .ok b := by
    cases p <;> simp_all [Except.toOption]
  let ts := (List.range 32).map fun k => Target.spad 0 (spadKey 0 (4992 + 4 * k))
  ⟨⟨m6 false 2 0 false, s, _, ts, ⟨by decide +kernel, by decide +kernel⟩, issues_of (by decide +kernel), by decide +kernel,
      h _ (by decide +kernel)⟩,
    ⟨m6 false 2 0 false, s, _, ts, ⟨by decide +kernel, by decide +kernel⟩, issues_of (by decide +kernel), by decide +kernel,
      h _ (by decide +kernel)⟩⟩

theorem witness_BarrierObjects :
    (∃ (s : State) (o : BarrierObj), Inv s ∧ o.phase < 2 ^ 32 ∧ o.exparr < 2 ^ 16 ∧ o.arrived < 2 ^ 16 ∧ o.expbytes < 2 ^ 64 ∧
      o.landed < 2 ^ 64 ∧ o.scope < 8 ∧ o.reserved = false) ∧ (∃ o : BarrierObj, o.scope ≠ 0 ∧ 0 < o.exparr) ∧
      ∃ o : BarrierObj, o.scope ≠ 0 ∧ o.exparr = 0 ∧ 0 < o.expbytes :=
  ⟨⟨bench, ⟨2 ^ 32 - 1, 65535, 65535, 2 ^ 64 - 1, 2 ^ 64 - 1, 7, true, false⟩, ⟨by decide +kernel, by decide +kernel⟩, by decide⟩,
    ⟨⟨0, 1, 0, 0, 0, 1, false, false⟩, by decide⟩, ⟨⟨0, 0, 0, 1, 0, 1, false, false⟩, by decide⟩⟩

/-- The last object of the allocation, which expects one arrival. -/
def barred (o : BarrierObj) (f : Squad → Squad) : State := (lab f).setBarrier (spadKey 0 (0x400 + 4064)) o
/-- A barrier instruction on v4, v5 and v6. -/
def bar (d b : Operand) : RForm := ⟨false, d, .v 4, b, false, false⟩
/-- v4 names the last object. -/
def named (b d : Word) (q : Squad) : Squad := withRegs [(4, .uniform 4064), (5, .uniform b), (6, .uniform d)] q

/-- A back-invalidate snoop waits at its anchor. -/
def snooped (f : Squad → Squad) : State := { lab f with held := [⟨Config.poolBase / 128, .snoop Config.poolBase false true none⟩] }
/-- The squad's group has a fence of pool scope ahead of it. -/
def fenced (q : Squad) : Squad := { q with groups := [⟨fullMask, 0, .home, none, none, 0, 0, 0, [7], 0, none⟩] }

theorem witness_BarrierInstructions :
    (∃ (f : RForm) (s : State) (c : Ctx), Issues (.binit f) s c ∧ s.loss = .none ∧ (ready s c).objectCheck c f.a true false = none ∧
      (c.uni f.b).toNat / 2 ^ 19 = 0 ∧ (c.uni f.b).toNat / 2 ^ 16 % 8 ∈ [1, 2, 3]) ∧
    (∃ (f : RForm) (s : State) (c : Ctx), Issues (.binv f) s c ∧ s.loss = .none ∧ (ready s c).objectCheck c f.a true true = none) ∧
    (∃ (i : Instr) (a : Operand) (s : State) (c : Ctx) (change : BarrierObj → BarrierObj) (n : Nat), arrivalOf c i = some (a, change, n) ∧ Issues i s c ∧ s.loss = .none ∧ (ready s c).objectCheck c a false true = none ∧
      (ready s c).releaseState c.tile c.sq ((ready s c).barrier ((ready s c).gangKeyAt c.wg (c.object a))).scope = .ready) ∧
    (∃ f s c, Issues (.fence f) s c ∧ f.sub.toNat = 31 ∧ s.acquireReady 7 = true ∧ (ready s c).releaseState c.tile c.sq 7 = .ready) ∧
    (∃ (f : SForm) (s : State) (c : Ctx) (pc : DWord), Issues (.fence f) s c ∧ f.sub.toNat / 8 % 4 ≠ 0 ∧
      ((ready s c).startRelease c.sq (f.sub.toNat % 8)).releaseState c.tile c.sq (f.sub.toNat % 8) = .poolLost ∧
      handlerOf s c 11 = some pc) ∧
    (∃ (f : SForm) (s : State) (c : Ctx), Issues (.fence f) s c ∧
      ((ready s c).startRelease c.sq (f.sub.toNat % 8)).releaseState c.tile c.sq (f.sub.toNat % 8) ≠ .poolLost ∧
      f.sub.toNat / 8 % 4 ≠ 1 ∧ s.acquireReady (f.sub.toNat % 8) = false ∧ c.g.threads ≠ 0 ∧ ∀ g ∈ c.sq.groups, g.pc ≠ c.g.pc + 4) ∧
    ∃ (i : Instr) (s : State) (x : Ctx), s.ctx = some x ∧ i.code.isSome = true ∧ fencedRow i = true ∧
      (∀ o v, x.g.blocked ≠ some (.waitp o v)) ∧ x.g.fences ≠ [] ∧
      ∀ n ∈ x.g.fences, s.fenceOver x.tile x.sq n = false ∧ s.fenceLost x.tile x.sq n = false :=
  ⟨⟨bar (.v 6) (.v 5), lab (named 0x3FFFF 0), _, issues_of (by decide +kernel), by decide +kernel, by decide +kernel, by decide +kernel, by decide +kernel⟩,
    ⟨bar .zero .zero, barred ⟨3, 1, 0, 0, 0, 1, false, false⟩ (named 0 0), _, issues_of (by decide +kernel), by decide +kernel, by decide +kernel⟩,
    ⟨.arrx (bar .zero (.v 5)), .v 4, barred ⟨0, 1, 0, 0, 0, 1, false, false⟩ (named 65535 0),
      issuer (.arrx (bar .zero (.v 5))) (barred ⟨0, 1, 0, 0, 0, 1, false, false⟩ (named 65535 0)), _, _, rfl,
      issues_of (by decide +kernel), by decide +kernel, by decide +kernel, by decide +kernel⟩,
    ⟨⟨31, .zero, 0⟩, bench, _, issues_of (by decide +kernel), rfl, by decide +kernel, by decide +kernel⟩,
    ⟨⟨15, .zero, 0⟩, guarded fun q => { q with poolWrites := [Config.poolBase / 128] }, _, 0x800, by exact issues_of (by decide +kernel),
      by decide +kernel, by decide +kernel, by decide +kernel⟩,
    ⟨⟨7, .zero, 0⟩, snooped id, _, issues_of (by decide +kernel), by decide +kernel, by decide +kernel, by decide +kernel,
      by decide +kernel, by decide +kernel⟩,
    ⟨.fence ⟨7, .zero, 0⟩, snooped fenced, comer (.fence ⟨7, .zero, 0⟩) (snooped fenced), by exact comer_ctx (by decide +kernel), rfl,
      by decide +kernel, fun o v => by rw [show (comer (.fence ⟨7, .zero, 0⟩) (snooped fenced)).g.blocked = none by decide +kernel]; simp,
      by decide +kernel, by decide +kernel⟩⟩

/-- The group waits at an instruction. -/
def waiting (b : Blocked) (q : Squad) : Squad := { q with groups := [⟨fullMask, 0, .home, none, some b, 0, 0, 0, [], 0, some q.sources⟩] }

/-- The squad's lock-grant object has counted a grant of pool scope, and a snoop waits. -/
def granted : State :=
  ({ snooped (named 0 0) with lockSquads := [⟨me, 0, none, false, false, false, none, [(1, 7)]⟩] } : State).setBarrier (spadKey 0 0)
    { phase := 1, exparr := 65535, arrived := 0, expbytes := 0, landed := 0, scope := 2, lkg := true, reserved := false }

theorem witness_WaitResults :
    (∃ f s c, Issues (.waitp f) s c ∧ c.g.blocked = none ∧ (ready s c).objectCheck c f.a true true = none ∧
      (ready s c).phaseOf c (c.waitObject f.a) ≠ c.uni f.b ∧ s.acquireReady ((ready s c).phaseScope c (c.waitObject f.a) (c.uni f.b)
        ((ready s c).phaseOf c (c.waitObject f.a))) = true) ∧
    (∃ f s c, Issues (.waitp f) s c ∧ c.g.blocked = none ∧ f.a = .zero ∧ (ready s c).phaseOf c (c.waitObject f.a) ≠ c.uni f.b ∧
      s.acquireReady ((ready s c).phaseScope c (c.waitObject f.a) (c.uni f.b)
        ((ready s c).phaseOf c (c.waitObject f.a))) = false) ∧
    (∃ f s c, Issues (.waitp f) s c ∧ c.g.blocked = none ∧ f.a = .zero ∧ (ready s c).phaseOf c (c.waitObject f.a) = c.uni f.b ∧
      c.waitObject f.a = none ∧ (ready s c).lockWaits c.key = false) ∧
    (∃ f s c, Issues (.waitp f) s c ∧ c.g.blocked = none ∧ (ready s c).objectCheck c f.a true true = none ∧
      (ready s c).phaseOf c (c.waitObject f.a) = c.uni f.b ∧ c.waitObject f.a ≠ none) ∧
    (∃ (f : RForm) (s : State) (c : Ctx) (o : Option Nat) (v : Word), s.ctx = some c ∧ c.g.blocked = some (.waitp o v) ∧ f.d.isFileDest = true ∧
      (c.readsDead (.waitp f) && c.sq.drtrap) = false ∧ s.phaseOf c o ≠ v ∧
      s.acquireReady (s.phaseScope c o v (s.phaseOf c o)) = true) ∧
    (∃ f s c, Issues (.tstp f) s c ∧ (ready s c).objectCheck c f.a true true = none ∧
      (ready s c).phaseOf c (c.waitObject f.a) ≠ c.uni f.b ∧ s.acquireReady ((ready s c).phaseScope c (c.waitObject f.a) (c.uni f.b)
        ((ready s c).phaseOf c (c.waitObject f.a))) = true) ∧
    (∃ f s c, Issues (.tstp f) s c ∧ f.a = .zero ∧ (ready s c).phaseOf c (c.waitObject f.a) ≠ c.uni f.b ∧
      s.acquireReady ((ready s c).phaseScope c (c.waitObject f.a) (c.uni f.b)
        ((ready s c).phaseOf c (c.waitObject f.a))) = false) ∧
    ∃ f s c, Issues (.yield f) s c :=
  let o : BarrierObj := ⟨2 ^ 32 - 1, 1, 0, 0, 0, 1, false, false⟩
  let z : RForm := ⟨false, .v 6, .zero, .v 5, false, false⟩
  ⟨⟨bar (.v 6) (.v 5), barred o (named 0 0), _, issues_of (by decide +kernel), by decide +kernel, by decide +kernel, by decide +kernel,
      by decide +kernel⟩,
    ⟨z, granted, _, issues_of (by decide +kernel), by decide +kernel, rfl, by decide +kernel, by decide +kernel⟩,
    ⟨z, lab (named 0 0), _, issues_of (by decide +kernel), by decide +kernel, rfl,
      by decide +kernel, rfl, by decide +kernel⟩,
    ⟨bar (.v 6) (.v 5), barred o (named 0xFFFFFFFF 0), _, issues_of (by decide +kernel), by decide +kernel, by decide +kernel,
      by decide +kernel, by decide +kernel⟩,
    ⟨bar (.v 6) (.v 5), barred o (fun q => waiting (.waitp (some 4064) 0) (named 0 0 q)),
      comer (.waitp (bar (.v 6) (.v 5))) (barred o (fun q => waiting (.waitp (some 4064) 0) (named 0 0 q))), some 4064, 0,
      by exact comer_ctx (by decide +kernel), by decide +kernel, rfl, by decide +kernel, by decide +kernel, by decide +kernel⟩,
    ⟨bar (.v 6) (.v 5), barred o (named 0 0), _, issues_of (by decide +kernel), by decide +kernel, by decide +kernel, by decide +kernel⟩,
    ⟨z, granted, _, issues_of (by decide +kernel), rfl, by decide +kernel, by decide +kernel⟩,
    ⟨⟨false, .zero, .zero, .zero, false, false⟩, bench, _, issues_of (by decide +kernel)⟩⟩

/-- The bench's launch of another ward without privilege. -/
def unprivileged (s : State) : State := { s with launches := s.launches.map fun l => { l with priv := false } }

/-- A group whose pending HINT.IMM asks for its lower half. -/
def halfWide (q : Squad) : Squad := { q with
  groups := [⟨fullMask, 4, .home, some ⟨0, none, some 1, none, none, none, none, none, none, false⟩, none, 0, 0, 0, [], 0, none⟩] }
/-- Dead reads trap, and v4 is dead. -/
def deadly (q : Squad) : Squad := { withRegs [(3, .uniform 0), (4, .dead), (5, .uniform 9)] q with drtrap := true }

theorem witness_IssueTraps :
    (∃ i s c before after n pc, i.code.isSome = true ∧ i.isHint = false ∧ c.g.inWait = false ∧ Issuing i s c ∧
      issueConditions s c i = before ++ (true, n) :: after ∧ (∀ x ∈ before, x.1 = false) ∧ handlerOf s c n = some pc ∧ n = 17) ∧
    (∃ i s c after pc, i.code.isSome = true ∧ i.isHint = false ∧ c.g.inWait = false ∧ Issuing i s c ∧
      issueConditions s c i = (true, 1) :: after ∧ isIllegal i c.g.hints (s.flash.stepping = 0) = false ∧ handlerOf s c 1 = some pc) ∧
    (∃ i s c h pc, hintRun (runOf c) i = some h ∧ s.ctx = some c ∧ (runOf c).upper.isSome = true ∧ endsWide i = false ∧
      handlerOf s c 1 = some pc) ∧
    (∃ f s c pc, Issuing (.sysMts f) s c ∧ c.g.inWait = false ∧ isIllegal (.sysMts f) c.g.hints (s.flash.stepping = 0) = false ∧
      (f.imm.toNat = 4 ∨ 256 ≤ f.imm.toNat) ∧ c.priv s = false ∧ handlerOf s c 17 = some pc) ∧
    ∃ (i : Instr) (s : State) (c : Ctx) (n : Fin 112) (v : Nat → Word) (pc : DWord), intResult c i = some (.v n, v) ∧ Issuing i s c ∧
      c.g.inWait = false ∧ (∀ x ∈ issueConditions s c i, x.1 = false) ∧ c.readsDead i = true ∧ c.sq.drtrap = true ∧ c.g.threads ≠ 0 ∧
      (∀ g ∈ c.sq.groups, g.pc ≠ c.g.pc → g.threads &&& c.g.threads = 0) ∧ handlerOf s c 4 = some pc :=
  ⟨⟨.sysHalt (s4 30 0), unprivileged (guarded (pair4 0 0)), comer (.sysHalt (s4 30 0)) (unprivileged (guarded (pair4 0 0))), [(false, 1)],
      [(false, 7), (false, 3), (false, 2), (false, 16)], 17, 0x800, rfl, rfl, by decide +kernel, issuing_of (by decide +kernel),
      by decide +kernel, by decide, by decide +kernel, rfl⟩,
    ⟨.span 1, spanState, comer (.span 1) spanState, [(false, 17), (false, 7), (false, 3), (false, 2), (false, 16)], 0x800, rfl, rfl,
      by decide +kernel, issuing_of (by decide +kernel), by decide +kernel, by decide +kernel, by decide +kernel⟩,
    ⟨.hintSched 31, { guarded halfWide with cur := some ⟨0, 0, 4⟩ }, comer (.hintSched 31) { guarded halfWide with cur := some ⟨0, 0, 4⟩ },
      _, 0x800, rfl, by exact comer_ctx (by decide +kernel), by decide +kernel, rfl, by decide +kernel⟩,
    ⟨s4 1 4, unprivileged (guarded (pair4 0 0)), _, 0x800, issuing_of (by decide +kernel), by decide +kernel, by decide +kernel,
      .inl (by decide +kernel), by decide +kernel, by decide +kernel⟩,
    ⟨.iadd dab, guarded deadly, comer (.iadd dab) (guarded deadly), 3, _, 0x800, rfl, issuing_of (by decide +kernel), by decide +kernel,
      by decide +kernel, by decide +kernel, by decide +kernel, by decide +kernel, by decide +kernel, by decide +kernel⟩⟩

theorem witness_TrapInstructions :
    (∃ f s c pc, Issues (.trap f) s c ∧ handlerOf s c 18 = some pc) ∧
    (∃ f s c pc, Issues (.trapc f) s c ∧ lanesSet c f.a ≠ 0 ∧ handlerOf s c 18 = some pc) ∧
    (∃ f s c, Issues (.trapc f) s c ∧ lanesSet c f.a = 0) ∧ (∃ f s c pc, Issues (.brk f) s c ∧ handlerOf s c 19 = some pc) ∧
    ∃ f s c, Issues (.brk f) s c ∧ handlerOf s c 19 = none :=
  ⟨⟨s4 0 1023, guarded (pair4 7 0), _, 0x800, issues_of (by decide +kernel), by decide +kernel⟩,
    ⟨s4 0 1023, guarded (withRegs [(4, ramp 0 1)]), _, 0x800, issues_of (by decide +kernel), by decide +kernel, by decide +kernel⟩,
    ⟨s4 0 1023, guarded (pair4 0 0), _, issues_of (by decide +kernel), by decide +kernel⟩,
    ⟨⟨0, .zero, 1023⟩, guarded id, _, 0x800, issues_of (by decide +kernel), by decide +kernel⟩,
    ⟨⟨0, .zero, 1023⟩, bench, _, issues_of (by decide +kernel), by decide +kernel⟩⟩

theorem witness_UnhandledTraps :
    ∃ (s : State) (n slot : Nat) (w : Workgroup) (q : Squad) (l : Launch) (r : TrapRegs),
      (s.tile n).wg = some w ∧ w.squad? slot = some q ∧ s.launch? w.gang.launch = some l ∧ l.status = none ∧
      l.ending = none ∧ (∀ e ∈ s.tiles, ∀ v, e.2.wg = some v → v.gang.launch = w.gang.launch → v.jobs = []) ∧ handlerPc (some l) q r.num.toNat = none ∧ r.num ≠ 6 ∧ r.num ≠ 19 :=
  ⟨bench, 0, 0, bootWorkgroup 0, bootSquad 0, bootLaunch, ⟨0, 1, false, false, false, 0, 0, 0, 0, 0⟩, by decide +kernel,
    by decide +kernel, by decide +kernel, rfl, rfl, by
      intro e he v hv _
      have h : (bench.tiles.all fun e => e.2.wg.all fun v => decide (v.jobs = [])) = true := by decide +kernel
      simpa [hv] using List.all_eq_true.1 h e he, by decide +kernel, by decide, by decide⟩

theorem ex_error {α ε β : Type} (p : α × Except ε β) (e : ε) (h : errorOf p.2 = some e) : ∃ a, p = (a, .error e) := ⟨p.1, error_of h⟩

/-- A segment in a page that no table maps. -/
def absent (q : Squad) : Squad := withSeg .gseg 0x40000000 4096 (pair4 0 0 q)
/-- The walk of that page. -/
def onWalk : Walk := ⟨0, 0x40000000, false, false, 3, 0, false, bench.squadRecord 0 (bootWorkgroup 0) 0 ⟨0, 9, false, false, false, 26, 0, 0, 0, 0⟩ 0, 0⟩

/-- An access meets a replayable fault in a state where more holds. -/
def replayed (i : Instr) (more : State → Ctx → MemFault → Prop) : Prop :=
  ∃ (s : State) (c : Ctx) (x : MemFault) (level : Nat), Inv s ∧ Issues i s c ∧ x.replay = some level ∧ more s c x ∧ ∃ s1, AccessFault i s c s1 x

/-- A load, a store and an atomic of a word at the offset in v4. -/
def lw : Instr := .ldg (m6 true 2 0 false)
def sw : Instr := .stg (m6 true 2 0 false)
def aw : Instr := .aadd ⟨true, 0, .v 6, .v 4, 5, 0, false⟩

theorem ex_loads {i : Instr} {s : State} {c : Ctx} {x : MemFault} (f : MForm) (k : LoadKind) (h : loadKind c i = some (f, k))
    (ha : s.acquireReady k.acquire = true)
    (he : errorOf ((ready s c).resolve c k.seg .read (k.seg = .pseg) (2 ^ f.sz.toNat) k.swz (c.accessLanes f.u) (loadOffset i c f k)).2 = some x) :
    ∃ s1, AccessFault i s c s1 x := ⟨_, .inl ⟨f, k, h, ha, error_of he⟩⟩

theorem ex_stores {i : Instr} {s : State} {c : Ctx} {x : MemFault} (f : MForm) (seg : SegName) (scaled : Bool) (swz : Nat)
    (scope : Option Nat) (h : storeKind i = some (f, seg, scaled, swz, scope))
    (he : errorOf ((ready s c).resolve c seg .write (seg = .pseg) (2 ^ f.sz.toNat) swz (c.accessLanes f.u)
      (c.offset i f.o (if scaled then 2 ^ f.sz.toNat else 1))).2 = some x) :
    ∃ s1, AccessFault i s c s1 x := ⟨_, .inr (.inl ⟨f, seg, scaled, swz, scope, h, error_of he⟩)⟩

theorem ex_atomics {i : Instr} {s : State} {c : Ctx} {x : MemFault} (f : AForm) (op : Nat → Nat → Nat)
    (h : atomicResult c i = some (f, op))
    (he : errorOf ((ready s c).resolve c (atomSeg f) .write (atomSeg f = .pseg) (atomSize f) 0 (c.accessLanes f.u)
      (c.offset i f.o (if atomSeg f = .sseg then 1 else atomSize f))).2 = some x) :
    ∃ s1, AccessFault i s c s1 x := ⟨_, .inr (.inr ⟨f, op, h, error_of he⟩)⟩

theorem witness_AccessTraps :
    (∃ (i : Instr) (s : State) (c : Ctx) (x : MemFault) (pc : DWord), (∃ f k, loadKind c i = some (f, k)) ∧ Issues i s c ∧
      x.replay = none ∧ x.detail < 2 ^ 32 ∧ handlerOf s c x.num = some pc ∧ ∃ s1, AccessFault i s c s1 x) ∧
    (∃ (i : Instr) (s : State) (c : Ctx) (x : MemFault) (pc : DWord), (storeKind i).isSome = true ∧ Issues i s c ∧
      x.replay = none ∧ x.detail < 2 ^ 32 ∧ handlerOf s c x.num = some pc ∧ ∃ s1, AccessFault i s c s1 x) ∧
    (∃ (i : Instr) (s : State) (c : Ctx) (x : MemFault) (pc : DWord), (atomicResult c i).isSome = true ∧ Issues i s c ∧
      x.replay = none ∧ x.detail < 2 ^ 32 ∧ handlerOf s c x.num = some pc ∧ ∃ s1, AccessFault i s c s1 x) ∧
    replayed lw (fun s c x => (ready s c).walkPending (c.tenant s) x.addr = false ∧ (ready s c).walkerFull c.tile = true) ∧
    replayed lw (fun s c x => (ready s c).walkPending (c.tenant s) x.addr = false ∧
      (ready s c).walkerFull c.tile = false ∧ c.sq.inSpan = false) ∧
    replayed lw (fun s c x => (ready s c).walkPending (c.tenant s) x.addr = true ∧
      c.sq.inSpan = true ∧ c.sq.intrap = false ∧ ∃ z, c.sq.span = some z ∧ z.entryMask ≠ 0) ∧
    replayed lw (fun _ c _ => c.sq.inSpan = true ∧ c.sq.intrap = true) ∧
    replayed sw (fun s c x => (ready s c).walkPending (c.tenant s) x.addr = false ∧
      (ready s c).walkerFull c.tile = false ∧ c.sq.inSpan = false) ∧
    replayed aw (fun s c x => (ready s c).walkPending (c.tenant s) x.addr = false ∧
      (ready s c).walkerFull c.tile = false ∧ c.sq.inSpan = false) :=
  let s1 := guarded (pair4 4096 0)
  let s2 := guarded (pair4 2 0)
  let s3 := lab absent
  let s4 := { lab absent with walks := List.replicate 64 { onWalk with tenant := 1 } }
  let s5 := { lab (fun q => { absent q with inSpan := true, span := some ⟨0, 0, 0, fullMask⟩ }) with walks := [onWalk] }
  let s6 := lab fun q => { absent q with inSpan := true, span := some ⟨0, 0, 0, fullMask⟩, intrap := true, handler := fullMask }
  let e : MemFault := ⟨9, 26, 0x40000000, some 3⟩
  let f := m6 true 2 0 false
  let g : AForm := ⟨true, 0, .v 6, .v 4, 5, 0, false⟩
  ⟨⟨.lds f, s1, issuer (.lds f) s1, ⟨5, 0, 4096, none⟩, 0x800, ⟨_, _, rfl⟩, issues_of (by decide +kernel), rfl, by decide,
      by decide +kernel, ex_loads f _ rfl (by decide +kernel) (by decide +kernel)⟩,
    ⟨.sts f, s2, issuer (.sts f) s2, ⟨8, 0, 2, none⟩, 0x800, rfl, issues_of (by decide +kernel), rfl, by decide,
      by decide +kernel, ex_stores f _ _ _ _ rfl (by decide +kernel)⟩,
    ⟨.aadd ⟨true, 0, .v 6, .v 4, 1, 2, false⟩, s2, issuer (.aadd ⟨true, 0, .v 6, .v 4, 1, 2, false⟩) s2, ⟨8, 0, 2, none⟩, 0x800, rfl,
      issues_of (by decide +kernel), rfl, by decide, by decide +kernel, ex_atomics _ _ rfl (by decide +kernel)⟩,
    ⟨s4, issuer lw s4, e, 3, ⟨by decide +kernel, by decide +kernel⟩, issues_of (by decide +kernel), rfl,
      ⟨by decide +kernel, by decide +kernel⟩, ex_loads f _ rfl (by decide +kernel) (by decide +kernel)⟩,
    ⟨s3, issuer lw s3, e, 3, ⟨by decide +kernel, by decide +kernel⟩, issues_of (by decide +kernel), rfl,
      ⟨by decide +kernel, by decide +kernel, by decide +kernel⟩, ex_loads f _ rfl (by decide +kernel) (by decide +kernel)⟩,
    ⟨s5, issuer lw s5, e, 3, ⟨by decide +kernel, by decide +kernel⟩, issues_of (by decide +kernel), rfl,
      ⟨by decide +kernel, by decide +kernel, by decide +kernel, ⟨0, 0, 0, fullMask⟩, by decide +kernel, by decide⟩,
      ex_loads f _ rfl (by decide +kernel) (by decide +kernel)⟩,
    ⟨s6, issuer lw s6, e, 3, ⟨by decide +kernel, by decide +kernel⟩, issues_of (by decide +kernel), rfl,
      ⟨by decide +kernel, by decide +kernel⟩, ex_loads f _ rfl (by decide +kernel) (by decide +kernel)⟩,
    ⟨s3, issuer sw s3, { e with detail := 30 }, 3, ⟨by decide +kernel, by decide +kernel⟩, issues_of (by decide +kernel), rfl,
      ⟨by decide +kernel, by decide +kernel, by decide +kernel⟩, ex_stores f _ _ _ _ rfl (by decide +kernel)⟩,
    ⟨s3, issuer aw s3, { e with detail := 30 }, 3, ⟨by decide +kernel, by decide +kernel⟩, issues_of (by decide +kernel), rfl,
      ⟨by decide +kernel, by decide +kernel, by decide +kernel⟩, ex_atomics g _ rfl (by decide +kernel)⟩⟩

/-- A load at another tile's bank, with what the fabric loses of its packets. -/
theorem witness_AccessTraps_lost :
    (∃ (i : Instr) (s : State) (c : Ctx) (f : MForm) (k : LoadKind) (ts : List (Nat × Target)), loadKind c i = some (f, k) ∧ Inv s ∧
      Issues i s c ∧ s.acquireReady k.acquire = true ∧ s.loss = .answer ∧ ∃ s1,
      (ready s c).resolve c k.seg .read (k.seg = .pseg) (2 ^ f.sz.toNat) k.swz (c.accessLanes f.u) (loadOffset i c f k) = (s1, .ok ts) ∧
      servable (readState s1 c k ts) c false ts ∧ leaves s1 c ts) ∧
    ∃ (i : Instr) (s : State) (c : Ctx) (f : MForm) (k : LoadKind) (ts : List (Nat × Target)), loadKind c i = some (f, k) ∧ Inv s ∧
      Issues i s c ∧ s.acquireReady k.acquire = true ∧ s.loss = .request ∧ ∃ s1,
      (ready s c).resolve c k.seg .read (k.seg = .pseg) (2 ^ f.sz.toNat) k.swz (c.accessLanes f.u) (loadOffset i c f k) = (s1, .ok ts) ∧
      ¬ servable (readState s1 c k ts) c false ts ∧
      ∀ x ∈ ts, (readState s1 c k ts).targetVerdict c.tile x.2 false = .ok ∨
        (readState s1 c k ts).targetVerdict c.tile x.2 false = .fault 22 lostMark :=
  let a : State := { farAnchor with loss := .answer }
  let r : State := { farAnchor with loss := .request }
  ⟨⟨lw, a, issuer lw a, _, _, [(0, .phys 4092)], rfl, ⟨by decide +kernel, by decide +kernel⟩, issues_of (by decide +kernel),
      by decide +kernel, rfl, ex_ok_and _ _ _ (by decide +kernel)
        ⟨by unfold servable; decide +kernel, _, List.mem_singleton.2 rfl, by decide +kernel⟩⟩,
    ⟨lw, r, issuer lw r, _, _, [(0, .phys 4092)], rfl, ⟨by decide +kernel, by decide +kernel⟩, issues_of (by decide +kernel),
      by decide +kernel, rfl, ex_ok_and _ _ _ (by decide +kernel) ⟨by unfold servable; decide +kernel, by decide +kernel⟩⟩⟩

/-- The group's next instruction stands in a run that enables every exception. -/
def trapping (q : Squad) : Squad := { withRegs [(3, .uniform 0), (4, .uniform 0x7F800000), (5, .uniform 0xFF800000)] q with
  groups := [⟨fullMask, 4, .home, some ⟨0, none, none, none, none, some 0xF8, none, none, none, false⟩, none, 0, 0, 0, [], 0, none⟩] }
/-- The bench with its group at a PC. -/
def atPc (pc : DWord) (q : Squad) : Squad := { q with groups := [⟨fullMask, pc, .home, none, none, 0, 0, 0, [], 0, none⟩] }

/-- The bench with its group at a PC, as the group that issues. -/
def standing (f : Squad → Squad) (pc : DWord) : State := { guarded f with cur := some ⟨0, 0, pc⟩ }

theorem witness_FloatAndFetchTraps :
    (∃ i s c d v pc, floatResult c i = some (d, v) ∧ Issues i s c ∧ i.sig.uni = false ∧
      (∀ j ∈ lanesOfFloat c i, badScale c j i = false) ∧
      ((lanesOfFloat c i).map fun j => (v j).2).foldl (· ||| ·) 0 &&& ctlTraps c.control ≠ 0 ∧ handlerOf s c 20 = some pc) ∧
    (∃ i s c d v pc, floatResult c i = some (d, v) ∧ Issues i s c ∧ i.sig.uni = true ∧
      (∀ j ∈ lanesOfFloat c i, badScale c j i = false) ∧
      ((lanesOfFloat c i).map fun j => (v j).2).foldl (· ||| ·) 0 &&& ctlTraps c.control ≠ 0 ∧ handlerOf s c 20 = some pc) ∧
    (∃ i s c d v pc, doubleResult c i = some (d, v) ∧ Issues i s c ∧
      (∀ j ∈ lanesOfFloat c i, badScale c j i = false) ∧
      ((lanesOfFloat c i).map fun j => (v j).2).foldl (· ||| ·) 0 &&& ctlTraps c.control ≠ 0 ∧ handlerOf s c 20 = some pc) ∧
    (∃ i s c pc, Issues i s c ∧ (∃ j ∈ lanesOfFloat c i, badScale c j i = true) ∧ handlerOf s c 21 = some pc) ∧
    (∃ w s c pc, s.ctx = some c ∧ BitVec.toNat (w := 32) w / 2 ^ 22 ≠ 0x3FF ∧ handlerOf s c 1 = some pc) ∧
    ∃ (s : State) (c : Ctx) (x : MemFault) (part : Bool) (pc : DWord), s.ctx = some c ∧ x.replay = none ∧ x.detail < 2 ^ 32 ∧
      handlerOf s c x.num = some pc ∧ ∃ s1, s.fetch c = (s1, .fault x part) :=
  let s1 : State := standing trapping 4
  let s2 : State := standing (atPc 4096) 4096
  let s3 : State := standing (fun q => trapping (withRegs [(6, .uniform 0), (7, .uniform 0xFFF00000), (8, .uniform 0), (9, .uniform 0), (10, .uniform 0),
      (11, .uniform 0x7FF00000)] q)) 4
  let s4 : State := guarded (withRegs [(4, .uniform 0), (5, .uniform 0x1FE00000)])
  ⟨⟨.fadd dab, s1, issuer (.fadd dab) s1, _, _, 0x800, rfl, issues_of (by decide +kernel), rfl, by decide +kernel, by decide +kernel,
      by decide +kernel⟩,
    ⟨.fadd { dab with u := true }, s1, issuer (.fadd { dab with u := true }) s1, _, _, 0x800, rfl, issues_of (by decide +kernel), rfl,
      by decide +kernel, by decide +kernel, by decide +kernel⟩,
    ⟨.dadd { wide with a := .v 10, b := .v 6 }, s3, issuer (.dadd { wide with a := .v 10, b := .v 6 }) s3, _, _, 0x800, rfl,
      issues_of (by decide +kernel), by decide +kernel, by decide +kernel, by decide +kernel⟩,
    ⟨.q4up dab, s4, issuer (.q4up dab) s4, 0x800, issues_of (by decide +kernel), ⟨0, by decide +kernel, by decide +kernel⟩,
      by decide +kernel⟩,
    ⟨0xFE000000, guarded id, comer (.fadd dab) (guarded id), 0x800, by exact comer_ctx (by decide +kernel), by decide, by decide +kernel⟩,
    ⟨s2, comer (.fadd dab) s2, ⟨5, 0, 69632, none⟩, false, 0x800, by exact comer_ctx (by decide +kernel), rfl, by decide, by decide +kernel,
      ex_fault _ _ _ (by decide +kernel)⟩⟩

/-- A squad in its handler, to return to its first instruction. -/
def handling (q : Squad) : Squad := { pair4 0x10000 0 q with intrap := true, handler := fullMask }

theorem witness_TrapReturnAndHalt :
    (∃ f s c, Inv s ∧ Issues (.sysResm f) s c ∧ c.sq.intrap = true ∧ c.sq.trap.pc.toNat % 4 = 0 ∧
      segCheck c.sq .iseg c.sq.trap.pc.toNat 4 = true) ∧
    (∃ f s c, Inv s ∧ Issues (.sysResmDefault f) s c ∧ c.sq.intrap = true ∧ c.sq.live ≠ 0 ∧
      ∀ g ∈ s.sentGrants, g.grant.squad ≠ c.key) ∧
    (∃ s c i f pc, (i = .sysResm f ∨ i = .sysResmDefault f) ∧ Inv s ∧ Issues i s c ∧ c.sq.intrap = false ∧
      handlerOf s c 1 = some pc) ∧
    (∃ i s c a v, haltOf i = some (a, v) ∧ Issues i s c ∧ (c.uni a).toNat < 2 ^ 17) ∧
    ∃ (i : Instr) (f : SForm) (s : State) (x : Ctx) (pc : DWord), (i = .sysHalt f ∨ i = .sysResmHalted f) ∧ Issuing i s x ∧
      x.g.inWait = false ∧ isStale i x = false ∧ isMisshapen i x = false ∧ 2 ^ 17 ≤ (x.uni f.a).toNat ∧ handlerOf s x 1 = some pc :=
  ⟨⟨⟨31, .zero, 0⟩, lab handling, _, ⟨by decide +kernel, by decide +kernel⟩, issues_of (by decide +kernel), by decide +kernel,
      by decide +kernel, by decide +kernel⟩,
    ⟨⟨31, .zero, 2⟩, lab handling, _, ⟨by decide +kernel, by decide +kernel⟩, issues_of (by decide +kernel), by decide +kernel,
      by decide +kernel, by decide +kernel⟩,
    ⟨guarded id, _, _, ⟨31, .zero, 0⟩, 0x800, .inl rfl, ⟨by decide +kernel, by decide +kernel⟩, issues_of (by decide +kernel),
      by decide +kernel, by decide +kernel⟩,
    ⟨.sysHalt (s4 30 0), lab (pair4 0x1F000 0), issuer (.sysHalt (s4 30 0)) (lab (pair4 0x1F000 0)), _, _, rfl,
      issues_of (by decide +kernel), by decide +kernel⟩,
    ⟨.sysHalt (s4 30 0), s4 30 0, guarded (pair4 0x20000 0), comer (.sysHalt (s4 30 0)) (guarded (pair4 0x20000 0)), 0x800, .inl rfl,
      issuing_of (by decide +kernel), by decide +kernel, by decide +kernel, by decide +kernel, by decide +kernel, by decide +kernel⟩⟩

/-- The bench with a lock descriptor of one tile of one line, TID 0xAB and scope 7, at the start of `lseg`. -/
def locking (f : Squad → Squad) : State :=
  ((lab fun q => withSeg .lseg 0x20000 64 (pair4 0 0 (f q))).pokeN 0x20000
    (leBytes 8 (0xAB + 7 * 2 ^ 32) ++ leBytes 8 0x000100010001 ++ leBytes 8 1))
/-- The same, with a trap handler. -/
def lockGuarded : State :=
  { locking id with launches := [{ bootLaunch with header := { bootLaunch.header with trapPc := some 0x800 } }] }
/-- Another squad. -/
def them : SquadKey := ⟨bootGang, 0, 1⟩
/-- The entry of the descriptor's tensor. -/
def tensor : LockId := ⟨0, 0x20000, 0, 0⟩
/-- The table entry of the tensor, with a holder. -/
def tensorEntry (k : SquadKey) (m : LockMode) : LockEntry := ⟨tensor, 7, 0, 0xAB, 1, [(k, m)], []⟩
/-- The descriptor as it is read. -/
def desc : LockDesc := ⟨0x20000, 0xAB, 7, 0, 1, 1, false⟩
/-- A lock instruction on the tensor. -/
def onTensor (mode : BitVec 3) : LForm := ⟨mode, 0, .v 4, .zero⟩

theorem witness_LockRequests :
    (∃ (i : Instr) (f : LForm) (up : Bool) (s : State) (c : Ctx) (d : LockDesc), lockOf i = some (f, up) ∧ Inv s ∧ Issues i s c ∧
      ∃ s1, (ready s c).readDesc c (c.uni f.a).toNat = (s1, .ok d) ∧ s1.descCheck c d f.level.toNat (c.lockIndex f) false = none ∧
      s1.locksOut c.key < 16 ∧ s.loss ≠ .answer ∧ s1.requestCheck (requestOf s1 c f d up) = none) ∧
    (∃ (i : Instr) (f : LForm) (up : Bool) (s : State) (c : Ctx) (d : LockDesc) (n : Nat) (pc : DWord), lockOf i = some (f, up) ∧ Inv s ∧
      Issues i s c ∧ handlerOf s c 12 = some pc ∧ ∃ s1, (ready s c).readDesc c (c.uni f.a).toNat = (s1, .ok d) ∧
      s1.descCheck c d f.level.toNat (c.lockIndex f) false = some n) ∧
    (∃ (i : Instr) (f : LForm) (up : Bool) (s : State) (c : Ctx) (d : LockDesc) (pc : DWord), lockOf i = some (f, up) ∧ Inv s ∧
      Issues i s c ∧ handlerOf s c 12 = some pc ∧ ∃ s1, (ready s c).readDesc c (c.uni f.a).toNat = (s1, .ok d) ∧
      s1.descCheck c d f.level.toNat (c.lockIndex f) false = none ∧ 16 ≤ s1.locksOut c.key) ∧
    ∃ (i : Instr) (f : LForm) (up : Bool) (s : State) (c : Ctx) (d : LockDesc) (n : Nat) (pc : DWord), lockOf i = some (f, up) ∧ Inv s ∧
      Issues i s c ∧ handlerOf s c 12 = some pc ∧ ∃ s1, (ready s c).readDesc c (c.uni f.a).toNat = (s1, .ok d) ∧
      s1.descCheck c d f.level.toNat (c.lockIndex f) false = none ∧ s1.locksOut c.key < 16 ∧
      s1.requestCheck (requestOf s1 c f d up) = some n :=
  let s1 := locking id
  let f : LForm := ⟨5, 1, .v 4, .v 6⟩
  let s2 := lockGuarded.updSquad 0 0 (withRegs [(6, .uniform 1)])
  let s3 := { lockGuarded with locks := (List.range 16).map fun n =>
    { tensorEntry them .x with id := ⟨0, 0x30000 + n, 0, 0⟩, waiting := [⟨me, .x, false, ⟨0, 0, me⟩⟩] } }
  ⟨⟨.lock (onTensor 5), onTensor 5, false, s1, _, desc, rfl, ⟨by decide +kernel, by decide +kernel⟩, issues_of (by decide +kernel),
      ex_served_and _ _ _ (by decide +kernel) (by decide +kernel)⟩,
    ⟨.lock f, f, false, s2, _, desc, 2, 0x800, rfl, ⟨by decide +kernel, by decide +kernel⟩, issues_of (by decide +kernel),
      by decide +kernel, ex_served_and _ _ _ (by decide +kernel) (by decide +kernel)⟩,
    ⟨.lock (onTensor 5), onTensor 5, false, s3, _, desc, 0x800, rfl, ⟨by decide +kernel, by decide +kernel⟩, issues_of (by decide +kernel),
      by decide +kernel, ex_served_and _ _ _ (by decide +kernel) (by decide +kernel)⟩,
    ⟨.lkup (onTensor 5), onTensor 5, true, lockGuarded, _, desc, 6, 0x800, rfl, ⟨by decide +kernel, by decide +kernel⟩,
      issues_of (by decide +kernel), by decide +kernel, ex_served_and _ _ _ (by decide +kernel) (by decide +kernel)⟩⟩

/-- A request of the bench's squad for the tensor in mode X, of a younger holder's. -/
def wanting (age : DWord) : LockRequest :=
  { entry := tensor, squad := me, mode := .x, up := false, age := ⟨age, 0, me⟩, scope := 7, matrix := 0, tid := 0xAB, linesPerTile := 1 }
/-- Its request for the one line, whose parents it does not hold. -/
def wantingLine : LockRequest := { wanting 0 with entry := ⟨0, 0x20000, 2, 0⟩ }

/-- A descriptor's checks at the tile. -/
def atTile (d : LockDesc) (level index : Nat) (s : State) : Option Nat := s.descCheck (comer (.hintNop 0) s) d level index false

theorem witness_LockRequests_tile :
    atTile { desc with bad := true } 0 0 bench = some 1 ∧ atTile { desc with matrix := 3 } 0 0 bench = some 1 ∧
    atTile desc 1 1 bench = some 2 ∧ atTile desc 2 1 bench = some 2 ∧
    atTile desc 2 0 { bench with lockSquads := [⟨me, 0, none, false, false, true, none, []⟩] } = some 3 ∧ atTile desc 2 0 bench = none := by
  decide +kernel

theorem witness_LockRequests_slice :
    bench.requestCheck wantingLine = some 4 ∧
    State.requestCheck { bench with locks := [tensorEntry me .x] } (wanting 0) = some 5 ∧
    bench.requestCheck { wanting 0 with up := true } = some 6 ∧
    State.requestCheck { bench with locks := [tensorEntry me .x] } { wanting 0 with up := true } = some 7 ∧
    State.requestCheck { bench with locks := List.replicate 4096 { tensorEntry them .is with id := ⟨0, 0x40000, 0, 0⟩ } }
      (wanting 0) = some 9 ∧ bench.requestCheck (wanting 0) = none := by
  decide +kernel

theorem witness_LockDecisions :
    (∃ (s : State) (r : LockRequest), s.requestCheck r = none ∧
      s.lockBehind { entryBefore s r with waiting := (entryBefore s r).waiting.filter fun o => o.squad ≠ r.squad } (waiterOf r) = false ∧
      s.grantable { entryBefore s r with waiting := (entryBefore s r).waiting.filter fun o => o.squad ≠ r.squad } (waiterOf r) = true) ∧
    (∃ (s : State) (r : LockRequest), s.requestCheck r = none ∧
      s.lockBehind { entryBefore s r with waiting := (entryBefore s r).waiting.filter fun o => o.squad ≠ r.squad } (waiterOf r) = true) ∧
    ∃ (s : State) (r : LockRequest), s.requestCheck r = none ∧
      s.lockBehind { entryBefore s r with waiting := (entryBefore s r).waiting.filter fun o => o.squad ≠ r.squad } (waiterOf r) = false ∧
      s.grantable { entryBefore s r with waiting := (entryBefore s r).waiting.filter fun o => o.squad ≠ r.squad } (waiterOf r) = false ∧
      ∃ h ∈ (entryBefore s r).holders, h.1 ≠ r.squad ∧
        older r.age ⟨((s.lockSquad h.1).age).getD 0, (s.lockSquad h.1).ward, h.1⟩ = true ∧
        ∃ mx, s.lockMatrix (entryBefore s r).matrix = some mx ∧ compatible mx r.mode h.2 = false :=
  let l1 : LockEntry := { tensorEntry them .x with holders := [(them, .x)], waiting := [⟨me, .ix, false, ⟨0, 0, me⟩⟩] }
  let tile : LockEntry := { tensorEntry them .x with
    id := ⟨0, 0x20000, 1, 0⟩, waiting := [⟨me, .ix, false, ⟨0, 0, me⟩⟩] }
  ⟨⟨bench, wanting 0, by decide +kernel⟩, ⟨{ bench with locks := [l1, tile] }, wantingLine, by decide +kernel⟩,
    ⟨{ bench with locks := [tensorEntry them .s], lockSquads := [⟨them, 0, some 1, true, false, false, none, []⟩] }, wanting 0,
      by decide +kernel, by decide +kernel, by decide +kernel, (them, .s), by decide +kernel, by decide +kernel, by decide +kernel,
      _, rfl, by decide +kernel⟩⟩

theorem witness_LockReleasesAndSettings :
    (∃ (i : Instr) (f : LForm) (down : Option LockMode) (s : State) (c : Ctx) (d : LockDesc), unlockOf i = some (f, down) ∧ Inv s ∧
      Issues i s c ∧ ∃ s1, (ready s c).readDesc c (c.uni f.a).toNat = (s1, .ok d) ∧
      s1.descCheck c d f.level.toNat (c.lockIndex f) false = none ∧ s1.releaseState c.tile c.sq d.scope = .ready ∧
      s1.releaseCheck (releaseOf s1 c f d down) = none ∧ s.loss ≠ .answer) ∧
    (∃ (s : State) (r : LockRelease), s.releaseCheck r = none) ∧
    (∃ f s c, Inv s ∧ Issues (.lkra f) s c ∧ (ready s c).slicesReached c.tile c.key = true ∧ (ready s c).releaseState c.tile c.sq ((ready s c).heldScope c.key) = .ready ∧
      s.loss = .none) ∧
    (∃ (f : LForm) (s : State) (c : Ctx) (d : LockDesc), Inv s ∧ Issues (.lkqy f) s c ∧ ∃ s1,
      (ready s c).readDesc c (c.uni f.a).toNat = (s1, .ok d) ∧ s1.descCheck c d f.level.toNat (c.lockIndex f) true = none) ∧
    (∃ f s c, Inv s ∧ Issues (.lkag f) s c ∧ (s.lockSquad c.key).revoked = false ∧ s.lockBusy c.key = false ∧
      (s.lockSquad c.key).fixed = false) ∧
    (∃ f s c, Inv s ∧ Issues (.lkag f) s c ∧ (s.lockSquad c.key).revoked = false ∧ s.lockBusy c.key = false ∧
      (s.lockSquad c.key).fixed = true) ∧
    ∃ f s c, Inv s ∧ Issues (.lkmx f) s c ∧ (s.lockSquad c.key).revoked = false ∧ 1 ≤ (c.uni f.a).toNat ∧ (c.uni f.a).toNat ≤ 8 ∧
      (c.pair f.b 0).toNat < 2 ^ 36 ∧ ∀ r < 6, ∀ k < 6, (c.pair f.b 0).toNat.testBit (6 * r + k) = (c.pair f.b 0).toNat.testBit (6 * k + r) :=
  let s1 : State := { locking id with locks := [tensorEntry me .x] }
  ⟨⟨.lkdn (onTensor 2), onTensor 2, some .s, s1, _, desc, rfl, ⟨by decide +kernel, by decide +kernel⟩, issues_of (by decide +kernel),
      ex_served_and _ _ _ (by decide +kernel) (by decide +kernel)⟩,
    ⟨s1, ⟨tensor, me, none, 1⟩, by decide +kernel⟩,
    ⟨⟨0, 0, .zero, .zero⟩, s1, _, ⟨by decide +kernel, by decide +kernel⟩, issues_of (by decide +kernel), by decide +kernel,
      by decide +kernel, by decide +kernel⟩,
    ⟨⟨0, 0, .v 4, .v 6⟩, s1, _, desc, ⟨by decide +kernel, by decide +kernel⟩, issues_of (by decide +kernel),
      ex_served_and _ _ _ (by decide +kernel) (by decide +kernel)⟩,
    ⟨⟨0, 0, .v 4, .zero⟩, lab (pair4 0xFFFFFFFF 0xFFFFFFFF), _, ⟨by decide +kernel, by decide +kernel⟩, issues_of (by decide +kernel),
      by decide +kernel⟩,
    ⟨⟨0, 0, .v 4, .zero⟩, { lab (pair4 1 0) with lockSquads := [⟨me, 0, some 1, true, false, false, none, []⟩] }, _,
      ⟨by decide +kernel, by decide +kernel⟩, issues_of (by decide +kernel), by decide +kernel⟩,
    ⟨⟨0, 0, .v 4, .v 6⟩, lab (fun q => withRegs [(6, .uniform 0xFFFFFFFF), (7, .uniform 0xF)] (pair4 8 0 q)), _,
      ⟨by decide +kernel, by decide +kernel⟩, by exact issues_of (by decide +kernel), by decide +kernel, by decide +kernel, by decide +kernel,
      by decide +kernel, by decide +kernel⟩⟩

/-- The bench with its workgroup changed. -/
def inGroup (g : Workgroup → Workgroup) (f : Squad → Squad) : State := (lab f).updWg 0 g
/-- A queue instruction on v4. -/
def q4 (q : BitVec 4) : QForm := ⟨true, 0, q, .v 4, .zero⟩
/-- A message area whose outbound ring has one place. -/
def tightArea : MsgArea := ⟨true, 0, 0, 15, 0, 0⟩
/-- n uncompleted matrix commands. -/
def busyArray (n : Nat) : List Job := (List.range n).map fun k =>
  { id := k, slot := 0, seq := 1, site := 0, kind := .matrix ⟨.zero, 0, 0, 0⟩ none, stage := .queued, waitSince := none, writes := []
    segs := Vector.replicate 8 ⟨0, 0⟩, read := [], fills := [] }

theorem witness_QueuePushes :
    (∃ f s c, Issues (.qpsh f) s c ∧ f.q = 4 ∧ (wgNow (ready s c) c).area.bound = true ∧ (wgNow (ready s c) c).outRoom ≠ 0 ∧
      (ready s c).releaseState c.tile c.sq 6 = .ready) ∧
    (∃ f s c, Issues (.qpsh f) s c ∧ 6 ≤ f.q.toNat ∧ f.q.toNat ≤ 13 ∧ ((wgNow (ready s c) c).box f.q.toNat).items.length < 16) ∧
    (∃ i f op offset bad s c pc, matrixOf i = some (f, op, offset, bad) ∧ Issues i s c ∧ (offset = true → c.matrixTrap f.a = none) ∧
      bad (c.uni f.b).toNat = false ∧ 32 ≤ jobsIn (wgNow (ready s c) c) 1 ∧ handlerOf s c 13 = some pc) ∧
    ∃ f s c pc, Issues (.qpsh f) s c ∧ 6 ≤ f.q.toNat ∧ f.q.toNat ≤ 13 ∧ 16 ≤ ((wgNow (ready s c) c).box f.q.toNat).items.length ∧
      handlerOf s c 13 = some pc :=
  let guard (s : State) : State :=
    { s with launches := [{ bootLaunch with header := { bootLaunch.header with trapPc := some 0x800 } }] }
  let x : XForm := ⟨false, 0, 7, .v 4, .zero⟩
  ⟨⟨q4 4, inGroup (fun w => { w with area := tightArea }) (pair4 1 2), _, by exact issues_of (by decide +kernel), rfl, by decide +kernel,
      by decide +kernel, by decide +kernel⟩,
    ⟨q4 13, inGroup (fun w => w.setBox 13 ⟨List.replicate 15 0, 0, some 512⟩) (pair4 1 2), _, by exact issues_of (by decide +kernel),
      by decide, by decide, by decide +kernel⟩,
    ⟨.mxlw x, x, .loadWeights, true, _, guard (inGroup (fun w => { w with jobs := busyArray 32 }) (pair4 4064 0)), _, 0x800, rfl,
      by exact issues_of (by decide +kernel), by decide +kernel, rfl, by decide +kernel, by decide +kernel⟩,
    ⟨q4 6, guard (inGroup (fun w => w.setBox 6 ⟨List.replicate 16 0, 0, none⟩) (pair4 1 2)), _, 0x800,
      by exact issues_of (by decide +kernel), by decide, by decide, by decide +kernel, by decide +kernel⟩⟩

theorem witness_QueuePops :
    (∃ f s c x, Issues (.qpop f) s c ∧ (f.q.toNat = 3 ∨ (5 ≤ f.q.toNat ∧ f.q.toNat ≤ 13)) ∧
      (∀ n, c.g.blocked = some (.qpop n) → n = f.q.toNat) ∧ (ready s c).popHead c.tile (wgNow (ready s c) c) f.q.toNat = some x) ∧
    (∃ f s c, Issues (.qpop f) s c ∧ (f.q.toNat = 3 ∨ (5 ≤ f.q.toNat ∧ f.q.toNat ≤ 13)) ∧
      (∀ n, c.g.blocked = some (.qpop n) → n = f.q.toNat) ∧ (ready s c).popHead c.tile (wgNow (ready s c) c) f.q.toNat = none) ∧
    (∃ f s c, Issues (.qcnt f) s c ∧ f.q.toNat ≤ 13) ∧
    (∃ f s c, Issues (.qbnd f) s c ∧ (f.q.toNat = 3 ∨ (5 ≤ f.q.toNat ∧ f.q.toNat ≤ 13)) ∧ f.a = .zero) ∧
    ∃ f s c, Issues (.qbnd f) s c ∧ (f.q.toNat = 3 ∨ (5 ≤ f.q.toNat ∧ f.q.toNat ≤ 13)) ∧ f.a ≠ .zero ∧
      (ready s c).objectCheck c f.a true true = none :=
  let held : State := inGroup (fun w => { w with q3 := ⟨1, 63, 0, 0, none⟩ }) (pair4 0 0)
  have free {g : Group} {m : Nat} (h : g.blocked = none) (n : Nat) (e : g.blocked = some (.qpop n)) : n = m := by
    rw [h] at e; cases e
  ⟨⟨q4 3, held, _, 0, by exact issues_of (by decide +kernel), .inl rfl, free (by decide +kernel), by decide +kernel⟩,
    ⟨q4 13, lab (waiting (.qpop 13)), _, by exact issues_of (by decide +kernel), .inr (by decide),
      (fun n h => by injection h with h; injection h with h; exact h.symm), by decide +kernel⟩,
    ⟨q4 13, lab (pair4 0 0), _, issues_of (by decide +kernel), by decide⟩,
    ⟨⟨true, 0, 5, .zero, .zero⟩, bench, _, issues_of (by decide +kernel), .inr (by decide), rfl⟩,
    ⟨q4 13, barred ⟨0, 1, 0, 0, 0, 1, false, false⟩ (named 0 0), _, issues_of (by decide +kernel), .inr (by decide), by decide,
      by decide +kernel⟩⟩

/-- A card of one row of 128 bytes in the gang's scratchpad, from offset 0 to offset 256, with EVT or FON. -/
def copyCard (flags : Nat) : BitVec 1024 := BitVec.ofNat 1024
  (0xFFFFFFFF00000280 + flags + 2 ^ 128 * 256 + 2 ^ 192 * (128 + 2 ^ 24 + 2 ^ 40))
/-- A collective card of one rank, 128 bytes of scratchpad, from offset 0 to offset 256. -/
def collectiveCard : BitVec 1024 := BitVec.ofNat 1024
  (0xFFFFFFFF00000000 + 2 ^ 64 * 5 + 2 ^ 128 * (1 + 2 ^ 32 * 128) + 2 ^ 320 * 256 + 2 ^ 384 * (2 + 2 ^ 2 * 2 + 2 ^ 7))
/-- The bench with a card at the last place of its allocation, which v4 names. -/
def carded (c : BitVec 1024) : State := (lab (pair4 3968 0)).pokeNum (spadKey 0 (0x400 + 3968)) 128 c.toNat

theorem witness_EnginePushes :
    (∃ f s c, Issues (.cpyj f) s c ∧ f.q = 0 ∧ c.cardTrap f.a = none ∧
      (ready s c).cardCheck (wgNow (ready s c) c) ((ready s c).readCard c f.a) = none ∧ jobsIn (wgNow (ready s c) c) 0 < 16 ∧
      cardFon ((ready s c).readCard c f.a) = false) ∧
    (∃ f s c, Issues (.cpyj f) s c ∧ f.q = 0 ∧ c.cardTrap f.a = none ∧
      (ready s c).cardCheck (wgNow (ready s c) c) ((ready s c).readCard c f.a) = none ∧ jobsIn (wgNow (ready s c) c) 0 < 16 ∧
      cardFon ((ready s c).readCard c f.a) = true ∧ jobsIn (wgNow (ready s c) c) 1 < 32) ∧
    (∃ f s c, Issues (.colj f) s c ∧ f.q = 2 ∧ c.cardTrap f.a = none ∧
      (ready s c).collCheck (wgNow (ready s c) c) ((ready s c).readCard c f.a) = none ∧ jobsIn (wgNow (ready s c) c) 2 < 16) ∧
    ∃ i f op offset bad s c, matrixOf i = some (f, op, offset, bad) ∧ Issues i s c ∧ (offset = true → c.matrixTrap f.a = none) ∧
      bad (c.uni f.b).toNat = false ∧ jobsIn (wgNow (ready s c) c) 1 < 32 :=
  let f (q : BitVec 4) : QForm := ⟨true, 0, q, .v 4, .v 6⟩
  let x : XForm := ⟨false, 0, 7, .v 4, .v 6⟩
  ⟨⟨f 0, carded (copyCard 0x10), _, by exact issues_of (by decide +kernel), rfl, by decide +kernel, by decide +kernel, by decide +kernel,
      by decide +kernel⟩,
    ⟨f 0, carded (copyCard 0x20), _, by exact issues_of (by decide +kernel), rfl, by decide +kernel, by decide +kernel, by decide +kernel,
      by decide +kernel, by decide +kernel⟩,
    ⟨f 2, carded collectiveCard, _, by exact issues_of (by decide +kernel), rfl, by decide +kernel, by decide +kernel, by decide +kernel⟩,
    ⟨.mxchBegin x, x, .openChain, false, _, inGroup (fun w => { w with jobs := busyArray 31 }) (pair4 0xFFFFFC00 0), _, rfl,
      by exact issues_of (by decide +kernel), by decide +kernel, by decide +kernel, by decide +kernel⟩⟩

/-- A block that names a ward, with a parent, a tenant and a fault queue of 2^12 entries on port 0. -/
def block (w parent tenant : Nat) : Nat := w + 2 ^ 12 * parent + 2 ^ 24 * tenant + 2 ^ 384 * 12
/-- A ward of tenant 63 beside wards 0 and 1. -/
def threeWards : State := { bench with wards := bench.wards ++ [(4094, { Ward.bringUp with parent := 0xFFF, tenant := 63 })] }

theorem witness_WardOperations :
    (∃ (i : Instr) (f : SForm) (act : Nat → Nat → State × WardStatus) (s : State) (c : Ctx),
      wardOf (ready s c) ((ready s c).gangKeyAt c.wg (c.object f.a)) i = some (f, act) ∧ Issues i s c ∧ c.areaTrap f.a = none ∧ s.loss ≠ .answer ∧
      (ready s c).targetVerdict c.tile ((ready s c).spadTarget c.wg 0 (c.object f.a)) false = .ok) ∧
    (bench.wardCreate 4094 (block 4094 0xFFF 63)).2 = .ok ∧ (bench.wardCreate 2 (block 2 1 0)).2 = .ok ∧
    (bench.wardCreate 1 (block 1 0 0)).2 ≠ .ok ∧
    (∃ v, threeWards.ward? 4094 = some v ∧ (threeWards.wardModify 4094 (block 4094 0xFFF 63)).2 = .ok) ∧
    (threeWards.wardDelete 4094).2 = .ok ∧ (threeWards.wardDelete 1).2 ≠ .ok ∧ (threeWards.wardReset 4094).2 = .ok ∧
    ∃ v u, threeWards.ward? 4094 = some v ∧ (threeWards.wardClear 4094).1.ward? 4094 = some u :=
  ⟨⟨.sysWardRead (s4 8 3), s4 8 3, _, lab (pair4 3840 0), issuer (.sysWardRead (s4 8 3)) (lab (pair4 3840 0)), rfl,
      issues_of (by decide +kernel), by decide +kernel, by decide +kernel, by decide +kernel⟩,
    by decide +kernel, by decide +kernel, by decide +kernel, ⟨_, rfl, by decide +kernel⟩, by decide +kernel, by decide +kernel,
    by decide +kernel, _, _, rfl, rfl⟩

/-- n uncompleted jobs of a kind. -/
def busyWith (k : JobKind) (n : Nat) (w : Workgroup) : Workgroup := { w with jobs := (busyArray n).map fun j => { j with kind := k } }
/-- A state whose launch has a trap handler. -/
def handled (s : State) : State :=
  { s with launches := [{ bootLaunch with header := { bootLaunch.header with trapPc := some 0x800 } }] }

theorem witness_QueuePushes_refused :
    (∃ f s c pc, Issues (.qpsh f) s c ∧ f.q = 4 ∧ handlerOf s c 13 = some pc ∧ (wgNow (ready s c) c).area.bound = false) ∧
    (∃ f s c pc, Issues (.qpsh f) s c ∧ f.q = 4 ∧ handlerOf s c 13 = some pc ∧ (wgNow (ready s c) c).area.bound = true ∧
      (wgNow (ready s c) c).outRoom = 0) ∧
    (∃ f s c pc, Issues (.cpyj f) s c ∧ f.q = 0 ∧ c.cardTrap f.a = none ∧
      (ready s c).cardCheck (wgNow (ready s c) c) ((ready s c).readCard c f.a) = none ∧ 16 ≤ jobsIn (wgNow (ready s c) c) 0 ∧
      handlerOf s c 13 = some pc) ∧
    (∃ f s c pc, Issues (.cpyj f) s c ∧ f.q = 0 ∧ c.cardTrap f.a = none ∧
      (ready s c).cardCheck (wgNow (ready s c) c) ((ready s c).readCard c f.a) = none ∧
      cardFon ((ready s c).readCard c f.a) = true ∧ 32 ≤ jobsIn (wgNow (ready s c) c) 1 ∧ handlerOf s c 13 = some pc) ∧
    (∃ f s c pc, Issues (.colj f) s c ∧ f.q = 2 ∧ c.cardTrap f.a = none ∧
      (ready s c).collCheck (wgNow (ready s c) c) ((ready s c).readCard c f.a) = none ∧ 16 ≤ jobsIn (wgNow (ready s c) c) 2 ∧
      handlerOf s c 13 = some pc) ∧
    ∃ (i : Instr) (f : QForm) (s : State) (c : Ctx) (pc : DWord), Issues i s c ∧ handlerOf s c 13 = some pc ∧ i = .qpop f ∧ f.q.toNat = 4 :=
  let f (q : BitVec 4) : QForm := ⟨true, 0, q, .v 4, .v 6⟩
  let full : State := inGroup (fun w => { w with area := tightArea, q4 := ⟨List.replicate 16 0, 0, none⟩ }) (pair4 1 2)
  ⟨⟨q4 4, handled (lab (pair4 1 2)), _, 0x800, issues_of (by decide +kernel), rfl, by decide +kernel, by decide +kernel⟩,
    ⟨q4 4, handled full, _, 0x800, by exact issues_of (by decide +kernel), rfl, by decide +kernel, by decide +kernel, by decide +kernel⟩,
    ⟨f 0, handled ((carded (copyCard 0x10)).updWg 0 (busyWith (.copy 0) 16)), _, 0x800, by exact issues_of (by decide +kernel), rfl,
      by decide +kernel, by decide +kernel, by decide +kernel, by decide +kernel⟩,
    ⟨f 0, handled ((carded (copyCard 0x20)).updWg 0 fun w => { w with jobs := busyArray 32 }), _, 0x800,
      by exact issues_of (by decide +kernel), rfl, by decide +kernel, by decide +kernel, by decide +kernel, by decide +kernel,
      by decide +kernel⟩,
    ⟨f 2, handled ((carded collectiveCard).updWg 0 (busyWith (.collective 0) 16)), _, 0x800, by exact issues_of (by decide +kernel), rfl,
      by decide +kernel, by decide +kernel, by decide +kernel, by decide +kernel⟩,
    ⟨.qpop (q4 4), q4 4, handled (lab (pair4 0 0)), _, 0x800, issues_of (by decide +kernel), by decide +kernel, rfl, rfl⟩⟩

/-! ### The hypotheses of the statements are met: the device -/

/-- A state with what an event's agent brings. -/
def given (s : State) (i : Input) : State := { s with input := i }
/-- The bench with ports 0 and 1 up as host ports, 2 as a pool port and 14 as a peer port. -/
def online : State := { bench with ports := bench.ports.mapIdx fun n p => if n < 2 ∨ n = 2 ∨ n = 14 then { p with up := true } else p }
/-- Reset state at a phase of bring-up, with how far its work has come. -/
def phase (n w : Nat) : State := { State.reset with bringUp := { State.reset.bringUp with phase := n, worked := w, rsvc := true } }

theorem witness_DecodeEncode : ∃ (i : Instr) (w : Word), i.wf = true ∧ encode i = some w :=
  ⟨.iadd dab, _, by decide +kernel, rfl⟩
theorem witness_EncodeDecode : ∃ (w : Word) (i : Instr), decodeWord w = .ok i := ⟨0xFE000000, .hintNop 0, by rfl⟩

/-- The bench with a word at its group's PC. -/
def fetching (w : Word) : State := State.reset.boot w
theorem witness_MemoryCanonical : ∃ s t, Inv s ∧ step s = .next t :=
  ⟨State.reset, _, ⟨by decide +kernel, by decide +kernel⟩, rfl⟩

theorem witness_PowerEvents :
    (∃ (s : State) (w x : Nat), s.input = .powerSample w x ∧ s.power.removed = false ∧ 450 < x) ∧
    (∃ s : State, s.power.alarm = true ∧ 10000 ≤ s.power.calm) ∧ (∃ s, Inv s) ∧
    (∃ s : State, Inv s ∧ s.power.removed = false ∧ s.wc = []) ∧ ∃ s : State, Inv s ∧ 10000 ≤ s.power.overUs :=
  ⟨⟨given bench (.powerSample 27000 451), 27000, 451, rfl, rfl, by decide⟩,
    ⟨{ bench with power := { bench.power with alarm := true, calm := 10000 } }, rfl, by decide⟩,
    ⟨bench, by decide +kernel, by decide +kernel⟩, ⟨bench, ⟨by decide +kernel, by decide +kernel⟩, rfl, rfl⟩,
    ⟨{ bench with power := { bench.power with overUs := 10000 } }, ⟨by decide +kernel, by decide +kernel⟩, by decide⟩⟩

/-- An image of no code but for a signature: magic, SVN 0, 0 bytes. -/
def emptyImage : List Byte := leBytes 4 0x31464E4B ++ List.replicate 124 0

/-- The case of `romCheck` in which the image is accepted needs a signature that the open function `signatureValid` takes. -/
theorem witness_BringUpEvents :
    (∃ s : State, Inv s ∧ s.bringUp.phase = 0 ∧ s.power.removed = false ∧
      (Config.signatureValid s.flash.keyDigest (sha256 (emptyImage.take 0x40)) ((emptyImage.drop 0x40).take 64) = true →
        ∃ t : State, t.flash.torn = false ∧ imageAccepted t.flash.image s.flash.minSvn s.flash.keyDigest = true)) ∧
    (∃ s : State, Inv s ∧ s.bringUp.phase = 0 ∧ s.power.removed = false ∧
      imageAccepted s.flash.image s.flash.minSvn s.flash.keyDigest = false) ∧
    (∃ (s : State) (ts bs : List Nat), s.input = .harvest ts bs ∧ s.bringUp.phase = 2) ∧ (∃ s : State, s.bringUp.phase = 3) ∧
    (∃ s : State, s.bringUp.phase = 4) ∧ (∃ s : State, Inv s ∧ s.bringUp.phase = 5 ∧ s.bringUp.worked = 4) ∧
    (∃ s : State, Inv s ∧ s.bringUp.phase = 5 ∧ s.bringUp.worked = 5 ∧ ¬ ∀ g ∈ s.gangs, g.stage = .saved) ∧
    (∃ s : State, Inv s ∧ s.bringUp.phase = 5 ∧ s.bringUp.worked = 5 ∧ (∀ g ∈ s.gangs, g.stage = .saved) ∧ s.rt.state = 0) ∧
    ∃ s : State, s.bringUp.phase = 5 ∧ s.bringUp.worked = 7 ∧ (∀ g ∈ s.gangs, g.stage = .saved) ∧ s.rt.state = 0 := by
  refine ⟨⟨State.reset, ⟨by decide, by decide⟩, rfl, rfl,
      fun h => ⟨{ State.reset with flash := { Flash.blank with image := emptyImage } }, rfl, ?_⟩⟩,
    ⟨State.reset, ⟨by decide, by decide⟩, rfl, rfl, rfl⟩,
    ⟨given (phase 2 0) (.harvest [2687] [0]), _, _, rfl, rfl⟩, ⟨phase 3 0, rfl⟩, ⟨phase 4 0, rfl⟩,
    ⟨phase 5 4, ⟨by decide, by decide⟩, rfl, rfl⟩,
    ⟨{ phase 5 5 with gangs := bench.gangs }, ⟨by decide, by decide⟩, rfl, rfl, by decide +kernel⟩,
    ⟨phase 5 5, ⟨by decide, by decide⟩, rfl, rfl, by decide, rfl⟩, ⟨phase 5 7, rfl, rfl, by decide, rfl⟩⟩
  have hn : imageField emptyImage 0x0C 4 = 0 := by decide +kernel
  simp only [imageAccepted, hn, Nat.add_zero]
  rw [h]
  decide +kernel

/-- A packet of the words at 0, 0x08, 0x18, 0x20, 0x28 and 0x38. -/
def packet (w0 code w3 w4 dep seq : Nat) : List Byte :=
  leBytes 8 w0 ++ leBytes 8 code ++ leBytes 8 0 ++ leBytes 8 w3 ++ leBytes 8 w4 ++ leBytes 8 dep ++ leBytes 8 0 ++ leBytes 8 seq
/-- A launch of one gang of 16 squads on 16 tiles, with the most scratchpad and parameters, of the code at 0x20000. -/
def largest : List Byte := packet (1 + 2 ^ 12 * 6 + 2 ^ 16 * 16 + 2 ^ 32) 0x20000 65536 Config.spadMax 0 7
/-- A queue of ward 0 whose head is 7. -/
def sevens : LaunchQueue := ⟨true, 0x1000, 0x2000, 0x3000, 0x4000, 0, 6, 0, 0, 7, 0, false, 0, [], [], false⟩
/-- The bench with a code object of one instruction at 0x20000. -/
def coded : State := bench.pokeN 0x20000 (leBytes 4 0x4F434B59 ++ leBytes 4 0x100 ++ leBytes 4 0xF0070 ++ leBytes 4 1 ++ leBytes 4 4
  ++ leBytes 4 0xFFFFFFFF ++ leBytes 4 256 ++ List.replicate 20 0 ++ leBytes 4 1 ++ List.replicate 116 0 ++ leBytes 8 4 ++ List.replicate 88 0)

theorem test_launch_accepted : ∃ h, coded.checkPacket sevens largest false = .accept h := ⟨_, rfl⟩
theorem test_launch_seq : coded.checkPacket sevens (packet (1 + 2 ^ 16 * 17) 0 65537 1 0 8) false = .reject 1 := by decide +kernel
theorem test_launch_nop : coded.checkPacket sevens (packet 0 0 0 0 0 7) false = .nop := by decide +kernel
theorem test_launch_reserved : coded.checkPacket sevens (packet 2 0 0 0 0 7) false = .reject 3 := by decide +kernel
theorem test_launch_tiles : ({ coded with wards := [(0, { Ward.management with tiles := 15 })] } : State).checkPacket sevens largest false = .reject 4 := by
  decide +kernel
theorem test_launch_squads : coded.checkPacket sevens (packet (1 + 2 ^ 16 * 17) 0 65537 1 0 7) false = .reject 5 := by decide +kernel
theorem test_launch_gangs : coded.checkPacket sevens (packet (1 + 2 ^ 16 * 16) 0 65537 1 0 7) false = .reject 6 := by decide +kernel
theorem test_launch_spad_budget : ({ coded with wards := [(0, { Ward.management with spadb := 15 })] } : State).checkPacket sevens
    (packet (1 + 2 ^ 16 * 16 + 2 ^ 32) 0 65536 0x4000 0 7) false = .reject 7 := by decide +kernel
theorem test_launch_spad : coded.checkPacket sevens (packet (1 + 2 ^ 16 * 16 + 2 ^ 32) 0 65537 1 0 7) false = .reject 7 := by decide +kernel
theorem test_launch_plen : coded.checkPacket sevens (packet (1 + 2 ^ 16 * 16 + 2 ^ 32) 0 65537 0 0 7) false = .reject 8 := by decide +kernel
theorem test_launch_dep : coded.checkPacket sevens (packet (1 + 2 ^ 11 + 2 ^ 16 * 16 + 2 ^ 32) 0 65536 0 0 7) false = .reject 9 := by
  decide +kernel
theorem test_launch_code : coded.checkPacket sevens (packet (1 + 2 ^ 16 * 16 + 2 ^ 32) 0 65536 0 0 7) false = .reject 10 := by decide +kernel

theorem witness_MailboxCommands :
    (∃ (s : State) (i : Instr) (p op : Nat), mailboxRow s.input = some (i, p, op) ∧ s.mailbox p op = false) ∧
    (∃ (s : State) (i : Instr) (p op : Nat), mailboxRow s.input = some (i, p, op) ∧ s.mailbox p op = true) ∧
    (∃ (s : State) (i : Instr) (p op : Nat), mailboxRow s.input = some (i, p, op) ∧ s.bringUp.phase = 0 ∧ op ≠ 0xC001 ∧ op ≠ 0xC002) ∧
    (∃ s p bs, State.mailbox s p 0x0100 = true ∧ State.mailbox s p 0x0101 = true ∧ s.input = .standardCommand p 0x0100 bs) ∧
    (∃ s p bs, State.mailbox s p 0x0100 = true ∧ State.mailbox s p 0x0101 = true ∧ s.input = .standardCommand p 0x0101 bs) ∧
    (∃ (s : State) (p : Nat) (r : DWord), s.input = .setroles p r ∧ s.mailbox p 0xC000 = true) ∧
    (∃ (s : State) (p o : Nat) (bs : List Byte), s.input = .imgchunk p o bs ∧ s.mailbox p 0xC001 = true ∧ Inv s ∧ bs.length ≤ 4096 ∧
      o + bs.length ≤ 0x40 + 2 ^ 24 + 64 ∧ s.background = []) ∧
    (∃ (s : State) (p : Nat) (n : BitVec 256), s.input = .idreport p n ∧ s.mailbox p 0xC003 = true) ∧
    (∃ (s : State) (p o : Nat), s.input = .certread p o ∧ s.mailbox p 0xC004 = true) ∧
    (∃ (s : State) (p off n : Nat), s.input = .biasread p off n ∧ s.mailbox p 0xC008 = true ∧ off % 4096 = 0 ∧ 0 < n ∧ n ≤ 32768 ∧
      off + 4096 * n ≤ s.hbmLimit) ∧
    (∃ (s : State) (p qid : Nat) (d : BitVec 512), s.input = .qctlEnable p qid d ∧ s.mailbox p 0xC009 = true ∧ qid < 4096 ∧
      (∀ q, tabFind qid s.queues = some q → q.enabled = false) ∧ s.enableWrong qid d = false) ∧
    (∃ (s : State) (p qid : Nat), s.input = .qctlDisable p qid ∧ s.mailbox p 0xC009 = true ∧ qid < 4096) ∧
    (∃ (s : State) (p qid : Nat) (q : LaunchQueue), s.input = .qctlRead p qid ∧ s.mailbox p 0xC009 = true ∧ qid < 4096 ∧
      tabFind qid s.queues = some q) ∧
    (∃ (s : State) (p i : Nat) (e : PeerEntry), s.input = .peerset p i e ∧ s.mailbox p 0xC00B = true ∧ i < 64) ∧
    (∃ (s : State) (p : Nat) (z : SampSetting), s.input = .sampctl p z ∧ s.mailbox p 0xC00C = true ∧ s.samplerWrong z = false) ∧
    ∃ (s : State) (p : Nat) (z : SnapSetting), s.input = .snapctl p z ∧ s.mailbox p 0xC00D = true ∧ s.snapWrong z = false ∧ Inv s :=
  let s := online
  ⟨⟨given s (.certread 2 0), _, 2, 0xC003 + 1, rfl, by decide +kernel⟩, ⟨given s (.certread 1 0), _, 1, 0xC003 + 1, rfl, by decide +kernel⟩,
    ⟨given State.reset (.certread 1 0), _, 1, 0xC003 + 1, rfl, rfl, by decide, by decide⟩,
    ⟨given s (.standardCommand 0 0x0100 []), 0, [], by decide +kernel, by decide +kernel, rfl⟩,
    ⟨given s (.standardCommand 1 0x0101 []), 1, [], by decide +kernel, by decide +kernel, rfl⟩,
    ⟨given s (.setroles 0 3), 0, 3, rfl, by decide +kernel⟩,
    ⟨given s (.imgchunk 0 0x1000080 []), 0, 0x1000080, [], rfl, by decide +kernel, ⟨by decide +kernel, by decide +kernel⟩, by decide, by decide, rfl⟩,
    ⟨given s (.idreport 0 7), 0, 7, rfl, by decide +kernel⟩, ⟨given s (.certread 0 4096), 0, 4096, rfl, by decide +kernel⟩,
    ⟨given s (.biasread 0 4096 32768), 0, 4096, 32768, rfl, by decide +kernel⟩,
    ⟨given s (.qctlEnable 0 4095 (BitVec.ofNat 512 (2 ^ 12 + 2 ^ 77 + 2 ^ 142 + 2 ^ 205 + 2 ^ 268 * 6))), 0, 4095, _, rfl,
      by decide +kernel, by decide, (fun q h => by cases h), by decide +kernel⟩,
    ⟨given s (.qctlDisable 0 4095), 0, 4095, rfl, by decide +kernel, by decide⟩,
    ⟨given { s with queues := [(0, sevens)] } (.qctlRead 0 0), 0, 0, sevens, rfl, by decide +kernel, by decide, rfl⟩,
    ⟨given s (.peerset 0 63 ⟨true, 0, 0⟩), 0, 63, _, rfl, by decide +kernel, by decide⟩,
    ⟨given s (.sampctl 0 ⟨0x1000, 16, 1, 24, 2, 4095⟩), 0, _, rfl, by decide +kernel, by decide +kernel⟩,
    ⟨given s (.snapctl 0 ⟨1, 1, 0x1000, 0x1000⟩), 0, _, rfl, by decide +kernel, by decide +kernel, by decide +kernel, by decide +kernel⟩⟩

/-- Online, with a background command. -/
def working (b : Background) : State := { online with background := [(0, b)] }
/-- Online, with a safe region of one checkpoint from granule 1. -/
def safe : State := { online with wards := [(0, { Ward.management with safeg := 1, safen := 1536 })] }

/-- Granules of one link group, from one on. -/
def bound (g : Nat) : Nat → Nat → List (Nat × Granule)
  | _, 0 => []
  | r, n + 1 => (r, ⟨g, false⟩) :: bound g (r + 1) n

theorem tabFind_bound (g : Nat) : ∀ (n r i : Nat), i < n → tabFind (r + i) (bound g r n) = some ⟨g, false⟩
  | 0, _, _, h => absurd h (Nat.not_lt_zero _)
  | n + 1, r, 0, _ => by simp [bound, tabFind]
  | n + 1, r, i + 1, h => by
    rw [bound, tabFind, if_neg (by omega), show r + (i + 1) = (r + 1) + i by omega]
    exact tabFind_bound g n (r + 1) i (by omega)

theorem regionFault_bound {s : State} {g r : Nat} (h : s.granules = bound g r 1536) : s.regionFault r = none := by
  simp only [State.regionFault, Option.map_eq_none_iff, List.find?_eq_none, List.mem_range, Bool.not_eq_true]
  intro i hi
  have hg : granuleOf (Config.poolBase + (r + i) * 2 ^ 30) = r + i := by
    simp only [granuleOf]; omega
  simp only [State.poolLost, hg, h, tabFind_bound g 1536 r i hi, Bool.and_false]

theorem witness_BackgroundCommands :
    (∃ (s : State) (p n : Nat), s.input = .imgcommit p n ∧ s.mailbox p 0xC002 = true ∧ s.background = [] ∧ n ≤ 0x40 + 2 ^ 24 + 64) ∧
    (∃ (s : State) (b : List Byte) (p : Nat), s.flashWrite = some b ∧ (s.runningOne fun b => b = .image) = some (p, .image)) ∧
    (∃ (s : State) (p : Nat) (part : Part), s.input = .mark p part ∧ s.mailbox p 0xC005 = true ∧ s.background = [] ∧ partExists part = true ∧
      ∃ t k, part = .link t k) ∧
    (∃ (s : State) (p : Nat) (t : Nat), s.input = .mark p (.bank t) ∧ s.mailbox p 0xC005 = true ∧ s.background = [] ∧
      partExists (.bank t) = true ∧ s.bgood t = true) ∧
    (∃ (s : State) (p r : Nat), s.input = .chkpt p r ∧ s.mailbox p 0xC006 = true ∧ s.safeRegion r = true ∧ s.checkpoint = none) ∧
    (∃ (s : State) (f : Option (Nat × Nat)) (c : Checkpoint) (p r : Nat), s.input = .checkpointComplete f ∧ Inv s ∧ s.checkpoint = some c ∧
      (s.runningOne fun b => match b with | .checkpoint _ => true | _ => false) = some (p, .checkpoint r) ∧
      (∀ g ∈ s.gangs, g.stage = .saved) ∧ f = none ∧ s.regionFault c.region = none) ∧
    (∃ (s : State) (p : Nat) (x : BitVec 128), s.input = .biasflip p x ∧ s.mailbox p 0xC007 = true ∧ s.background = [] ∧
      (x.extractLsb' 0 64).toNat % 4096 = 0 ∧ (x.extractLsb' 0 64).toNat + 4096 * (x.extractLsb' 64 21).toNat ≤ s.hbmLimit ∧
      0 < (x.extractLsb' 64 21).toNat ∧ (x.extractLsb' 64 21).toNat ≤ 1048576 ∧ x.extractLsb' 85 3 = 0 ∧ x.extractLsb' 89 39 = 0) ∧
    (∃ (s : State) (p a n : Nat) (b : Bool),
      (s.runningOne fun b => match b with | .biasFlip _ _ _ => true | _ => false) = some (p, .biasFlip a n b)) ∧
    (∃ (s : State) (p a n : Nat),
      (s.runningOne fun b => match b with | .biasFlip _ _ _ => true | _ => false) = some (p, .biasFlip a n false) ∧
      ∀ g, s.flipping.contains g = true → s.hostBias.contains g = true) ∧
    (∃ (s : State) (p a n g : Nat), s.input = .poolbind p a n g ∧ s.mailbox p 0xC00A = true ∧ s.background = [] ∧ 0 < n ∧ a + n ≤ 16384 ∧
      (tabFind g s.linkGroups).isSome = true) ∧
    ∃ (s : State) (p a n g : Nat),
      (s.runningOne fun b => match b with | .poolBind _ _ _ => true | _ => false) = some (p, .poolBind a n g) :=
  ⟨⟨given online (.imgcommit 0 0x1000080), 0, 0x1000080, rfl, by decide +kernel, rfl, by decide⟩,
    ⟨{ working .image with flashWrite := some [] }, [], 0, rfl, by decide +kernel⟩,
    ⟨given online (.mark 0 (.link 0 1)), 0, _, rfl, by decide +kernel, rfl, by decide +kernel, _, _, rfl⟩,
    ⟨given online (.mark 1 (.bank 0)), 1, 0, rfl, by decide +kernel, rfl, by decide +kernel, by decide +kernel⟩,
    ⟨given safe (.chkpt 0 1), 0, 1, rfl, by decide +kernel, by decide +kernel, rfl⟩,
    ⟨given { working (.checkpoint 1) with checkpoint := some ⟨1, 0⟩, gangs := [], granules := bound 3 1 1536 } (.checkpointComplete none), none, _, 0, 1, rfl,
      ⟨by decide +kernel, by decide +kernel⟩, rfl, by decide +kernel, by decide +kernel, rfl, regionFault_bound (g := 3) rfl⟩,
    ⟨given online (.biasflip 0 (BitVec.ofNat 128 (2 ^ 64 * 1048576 + 2 ^ 88))), 0, _, rfl, by decide +kernel, rfl, by decide +kernel⟩,
    ⟨working (.biasFlip 0 1 true), 0, 0, 1, true, by decide +kernel⟩,
    ⟨{ working (.biasFlip 0 1 false) with flipping := [0], hostBias := [0] }, 0, 0, 1, by decide +kernel, fun _ h => h⟩,
    ⟨given { online with linkGroups := [(3, [2])] } (.poolbind 0 16383 1 3), 0, 16383, 1, 3, rfl, by decide +kernel, rfl, by decide,
      by decide, rfl⟩,
    ⟨working (.poolBind 0 1 3), 0, 0, 1, 3, by decide +kernel⟩⟩

/-- A junction that spans peer 63. -/
def peering : Junction := { tenant := 0, key := 7, op := 0, len := 16, chunk := 16, nlocal := 1, npeer := 1, peers := 1#64 <<< 63
                            members := [], contributions := [], reduced := false, failed := false, rebuilds := 0 }
/-- A load of the first line of the pool, on its way to v4. -/
def fromPool : Outstanding := ⟨.v 4, 1, 1, Vector.replicate 32 0, Vector.replicate 32 0, Vector.replicate 32 1, false, 0, [(Config.poolBase / 128, 0)]⟩

theorem witness_PortEvents :
    (∃ (s : State) (p : Nat) (x : Partner), s.input = .cxlLinkTraining p x ∧ p < 32 ∧ p < s.ports.length ∧ x.mandatory = true ∧ s.role p = 1) ∧
    (∃ (s : State) (p : Nat) (x : Partner), s.input = .cxlLinkTraining p x ∧ p < 32 ∧ p < s.ports.length ∧ x.mandatory = false) ∧
    (∃ (s : State) (p : Nat), p < s.ports.length ∧ s.input = .portLinkDown p ∧ s.role p = 2 ∧ ∃ j ∈ s.junctions, ∃ n e, n < 64 ∧
      j.2.peers.getLsbD n = true ∧ tabFind n s.peers = some e ∧ e.valid = true ∧ e.ports.getLsbD p = true) ∧
    (∃ (s : State) (p : Nat), p < s.ports.length ∧ s.input = .portLinkDown p ∧ s.role p = 1 ∧ ∃ g ∈ s.linkGroups, p ∈ g.2 ∧
      ∀ k ∈ g.2, k = p ∨ ∀ y, s.ports[k]? = some y → y.up = false) ∧
    (∃ (s : State) (p : Nat), p < s.ports.length ∧ s.input = .hostPortReset p ∧ p ≠ 0 ∧ s.role p = 0) ∧
    (∃ (s : State) (g : Nat), s.input = .poolGroupLost g) ∧
    ∃ (s : State) (m : Nat) (w : Workgroup) (q : Squad) (o : Outstanding), s.input = .poolGroupLost 3 ∧ (s.tile m).wg = some w ∧
      q ∈ w.squads ∧ o ∈ q.outstanding ∧ (∃ x ∈ o.pool, s.poolLost (128 * x.1) = false) ∧ q.late = none :=
  ⟨⟨given online (.cxlLinkTraining 29 ⟨true, 5, 0⟩), 29, _, rfl, by decide, by decide +kernel, rfl, by decide +kernel⟩,
    ⟨given online (.cxlLinkTraining 31 ⟨false, 5, 0⟩), 31, _, rfl, by decide, by decide +kernel, rfl⟩,
    ⟨given { online with junctions := [(7, peering)], peers := [(63, ⟨true, 0x4000, 0⟩)] } (.portLinkDown 14), 14, by decide +kernel, rfl,
      by decide +kernel, (7, peering), by decide +kernel, 63, ⟨true, 0x4000, 0⟩, by decide +kernel⟩,
    ⟨given { online with linkGroups := [(3, [2])] } (.portLinkDown 2), 2, by decide +kernel, rfl, by decide +kernel, (3, [2]),
      by decide +kernel, by decide +kernel⟩,
    ⟨given online (.hostPortReset 17), 17, by decide +kernel, rfl, by decide, by decide +kernel⟩,
    ⟨given online (.poolGroupLost 3), 3, rfl⟩,
    ⟨given { lab (fun q => { q with outstanding := [fromPool] }) with granules := [(0, ⟨3, false⟩)] } (.poolGroupLost 3), 0, _, _, fromPool,
      rfl, rfl, by exact List.mem_singleton.2 rfl, by decide +kernel, ⟨(Config.poolBase / 128, 0), by decide +kernel, by decide +kernel⟩,
      by decide +kernel⟩⟩

/-- A link from tile 0 to the east. -/
def east : LinkDir := ⟨0, 1⟩
/-- Its state: two flits from sequence number 255, and a count of replays. -/
def linked (st : LinkState) (n : Nat) : State := { bench with
  links := [(linkKey east, ⟨st, n, 1, [(255, 0), (0, 1)], false, 255, [], 0⟩)], fabricCycles := 2 ^ 20 }

theorem witness_LinkEvents :
    (∃ (s : State) (d : LinkDir) (q : BitVec 8), s.input = .flitCrcFail d q ∧ (s.link d).fromSeq q ≠ []) ∧
    (∃ (s : State) (d : LinkDir) (q : BitVec 8), s.input = .replayRequest d q ∧ (s.link d).fromSeq q ≠ []) ∧
    (∃ (s : State) (d : LinkDir) (q : BitVec 8) (e : BitVec 8 × Nat) (rest : List (BitVec 8 × Nat)),
      s.input = .flitAcknowledge d q ∧ (neighbour d.tile d.port).isSome = true ∧ (s.link d).fromSeq q = e :: rest) ∧
    (∃ (s : State) (d : LinkDir), s.input = .replayWindowEnd d ∧ (neighbour d.tile d.port).isSome = true ∧
      (s.link d).window < s.fabricCycles / 2 ^ 20 ∧ (s.link d).replays ≤ 16) ∧
    (∃ (s : State) (d : LinkDir), s.input = .replayWindowEnd d ∧ (neighbour d.tile d.port).isSome = true ∧
      (s.link d).window < s.fabricCycles / 2 ^ 20 ∧ 16 < (s.link d).replays ∧ (s.link d).st = .full) ∧
    (∃ (s : State) (d : LinkDir), s.input = .replayWindowEnd d ∧ (neighbour d.tile d.port).isSome = true ∧
      (s.link d).window < s.fabricCycles / 2 ^ 20 ∧ 16 < (s.link d).replays ∧ (s.link d).st = .half) ∧
    ∃ (s : State) (d : LinkDir), s.input = .linkRetrainDone d :=
  ⟨⟨given (linked .full 0) (.flitCrcFail east 255), east, 255, rfl, by decide +kernel⟩,
    ⟨given (linked .full 0) (.replayRequest east 0), east, 0, rfl, by decide +kernel⟩,
    ⟨given (linked .full 0) (.flitAcknowledge east 255), east, 255, (255, 0), [(0, 1)], rfl, by decide +kernel, by decide +kernel⟩,
    ⟨given (linked .full 16) (.replayWindowEnd east), east, rfl, by decide +kernel⟩,
    ⟨given (linked .full 17) (.replayWindowEnd east), east, rfl, by decide +kernel⟩,
    ⟨given (linked .half 17) (.replayWindowEnd east), east, rfl, by decide +kernel⟩,
    ⟨given (linked .half 17) (.linkRetrainDone east), east, rfl⟩⟩

/-- The bench's memory, online, with what the serving bank of line 8 keeps. -/
def cached (l : List WcLine) (bias : List Nat) : State := { online with wc := l, hostBias := bias }
/-- A modified line 8. -/
def line8 : WcLine := { line := 8, home := List.replicate 128 0, modified := true, hostHeld := true, owned := true, writers := [0], ward := 0
                        used := 0 }

/-- A packet from tile 0 to a tile, for a squad. -/
def carrying (dest : Nat) (owner : Option SquadKey) (p : Payload) : Packet :=
  { source := 0, dest := dest, owner := owner, site := 0, address := 0, seq := 0, payload := p }
/-- The bench with the routes of a set of entries. -/
def routed (es : List (Nat × BitVec 16)) : State := { bench with active := ⟨.blank, es⟩ }
/-- The bench with the link from tile 0 to the east down. -/
def cut : State := { bench with links := [(linkKey east, ⟨.down, 0, 1, [], true, 255, [], 0⟩)] }
/-- A flight from tile 0. -/
def flying (id dest : Nat) (r : RouteClass) (p : Payload) : Flight := ⟨id, carrying dest none p, r, 0, 0, 0⟩
/-- An invalidation of the first region. -/
def inval : Payload := .invalidate ⟨0, 0⟩ 5
/-- A load of the first word of memory, and a store to line 8. -/
def reading0 : Payload := .access ⟨0, 0, 4, .load⟩
def storing8 : Payload := .access ⟨0, 1024, 1, .store [7]⟩
/-- A packet is delivered, with an error in its data or not, where more holds. -/
def delivered (bad : Bool) (more : State → Flight → Prop) : Prop :=
  ∃ (s : State) (n : Nat) (f : Flight), s.input = .packetDeliver n bad ∧ s.flights[n]? = some f ∧ more s f
/-- A packet that can reach its endpoint. -/
def arrives (s : State) (f : Flight) : Prop := s.isNext f = true ∧ s.heldFlight f = false

/-- A job of tile 0 that awaits its copy 3. -/
def copier : Job := { id := 0, slot := 0, seq := 1, site := 0, kind := .copy 0, stage := .started, waitSince := none
                      writes := [⟨4, 0, some 0, [7], 1, [], some 3⟩], segs := Vector.replicate 8 ⟨0, 0⟩, read := [], fills := [] }
/-- Such a job stands on a state's tile 0. -/
def copyingOn (s : State) : State := s.updWg 0 fun w => { w with jobs := [copier] }
/-- Copy 3. -/
def theCopy : Payload := .copy 0 0 3 0 .none
/-- A squad that stands nowhere. -/
def goneSquad : SquadKey := ⟨⟨⟨9, 9⟩, 0⟩, 0, 0⟩
/-- A packet is injected while no commit drains the fabric, by a state whose tables do not reach its endpoint. -/
def refusedPacket (more : State → Packet → Prop) : Prop :=
  ∃ (s : State) (p : Packet), s.input = .packetInject p ∧ s.rt.state ≠ 2 ∧ (s.active.entry p.source p.dest).getLsbD 6 = false ∧
    (¬∃ t id n o x, p.payload = .copy t id n o x) ∧ more s p

theorem witness_PacketEvents_sent :
    (∃ (s : State) (p : Packet), s.input = .packetInject p ∧ s.rt.state = 2) ∧
    (∃ (s : State) (p : Packet), s.input = .packetInject p ∧ s.rt.state ≠ 2 ∧ (s.active.entry p.source p.dest).getLsbD 6 = true ∧
      s.onTree p = false) ∧
    (∃ (s : State) (p : Packet), s.input = .packetInject p ∧ s.rt.state ≠ 2 ∧ s.onTree p = true) ∧
    refusedPacket (fun _ p => p.owner = none) ∧
    refusedPacket (fun s p => ∃ k t slot w, p.owner = some k ∧ s.locate k = some (t, slot) ∧ (s.tile t).wg = some w ∧ p.seq = 0 ∧
      s.goesOn k.gang.launch = true) ∧
    refusedPacket (fun s p => ∃ k, p.owner = some k ∧ s.locate k = none ∧ s.faultWard 0 = none ∧ s.launch? k.gang.launch = none) ∧
    (∃ (s : State) (n : Nat) (f : Flight), s.input = .headerUeDiscard n ∧ s.flights[n]? = some f ∧ s.faultWard 0 = none) ∧
    (∃ (s : State) (n : Nat) (a : Awaited), s.input = .resendTimeout n ∧ s.awaited[n]? = some a ∧ payloadResent a.packet.payload = true ∧
      a.sent + 2 ^ 16 ≤ s.fabricCycles ∧ s.rt.state ≠ 2 ∧ a.resends < 3 ∧ (s.active.entry a.packet.source a.packet.dest).getLsbD 6 = true) ∧
    (∃ (s : State) (n : Nat) (a : Awaited) (k : RegionKey) (r : Nat), s.input = .resendTimeout n ∧ s.awaited[n]? = some a ∧
      payloadResent a.packet.payload = true ∧ a.sent + 2 ^ 16 ≤ s.fabricCycles ∧ s.rt.state ≠ 2 ∧ 3 ≤ a.resends ∧
      a.packet.payload = .invalidate k r) ∧
    ∃ (s : State) (n : Nat) (a : Awaited) (m pa p : Nat) (k : Bool), s.input = .resendTimeout n ∧ s.awaited[n]? = some a ∧
      payloadResent a.packet.payload = true ∧ a.sent + 2 ^ 16 ≤ s.fabricCycles ∧ s.rt.state ≠ 2 ∧ 3 ≤ a.resends ∧
      a.packet.payload = .probe m pa p k ∧ s.modified (lineOf pa) = true := by
  let east1 : State := routed [(1, 0x51)]
  let waits (o : Option SquadKey) (p : Payload) (sends : Nat) : State := { east1 with
    awaited := [⟨0, carrying 1 o p, 0, sends⟩], fabricCycles := 2 ^ 20, wc := [line8] }
  refine ⟨⟨given { bench with rt := { bench.rt with state := 2 } } (.packetInject (carrying 1 none reading0)), _, rfl, rfl⟩,
    ⟨given east1 (.packetInject (carrying 1 none reading0)), _, rfl, ?_, ?_, rfl⟩,
    ⟨given (copyingOn bench) (.packetInject (carrying 0 none theCopy)), _, rfl, ?_, ?_⟩,
    ⟨given bench (.packetInject (carrying 1 none reading0)), _, rfl, ?_, ?_, by simp [carrying, reading0], rfl⟩,
    ⟨given bench (.packetInject (carrying 1 (some me) reading0)), _, rfl, ?_, ?_, by simp [carrying, reading0],
      me, 0, 0, _, rfl, ?_, rfl, rfl, ?_⟩,
    ⟨given bench (.packetInject (carrying 1 (some goneSquad) reading0)), _, rfl, ?_, ?_, by simp [carrying, reading0], goneSquad, rfl, ?_, ?_, ?_⟩,
    ⟨given { bench with flights := [flying 0 1 .xFirst reading0] } (.headerUeDiscard 0), 0, flying 0 1 .xFirst reading0, rfl, rfl, ?_⟩,
    ⟨given (waits none inval 2) (.resendTimeout 0), 0, _, rfl, rfl, rfl, ?_, ?_, ?_, ?_⟩,
    ⟨given (waits none inval 3) (.resendTimeout 0), 0, _, _, _, rfl, rfl, rfl, ?_, ?_, ?_, rfl⟩,
    ⟨given (waits none (.probe 0 1024 1 false) 3) (.resendTimeout 0), 0, _, _, 1024, _, _, rfl, rfl, rfl, ?_, ?_, ?_, rfl, ?_⟩⟩
  all_goals decide +kernel

/-- An awaited packet of an owner is timed out, when more holds. -/
def timedOut (more : State → Packet → Prop) : Prop :=
  ∃ (s : State) (n : Nat) (a : Awaited), s.input = .requestTimeout n ∧ s.awaited[n]? = some a ∧ payloadResent a.packet.payload = false ∧
    a.sent + 2 ^ 20 ≤ s.fabricCycles ∧ more s a.packet

/-- The bench's group waits for an answer since cycle 5. -/
def unheardAt (cycles : Nat) : State :=
  given { guarded (waiting (.answer 5 0x1000 false)) with fabricCycles := cycles } (.requestTimeout 0)

theorem witness_PacketEvents_timeouts :
    timedOut (fun _ p => (¬∃ t id n o x, p.payload = .copy t id n o x) ∧ p.owner = none) ∧
    timedOut (fun s p => (¬∃ t id n o x, p.payload = .copy t id n o x) ∧ ∃ k t slot w, p.owner = some k ∧ s.locate k = some (t, slot) ∧
      (s.tile t).wg = some w ∧ p.seq = 0 ∧ s.goesOn k.gang.launch = true) ∧
    timedOut (fun s p => ∃ tl id m o x, p.payload = .copy tl id m o x ∧ (s.copying tl id m).isSome = true) ∧
    ∀ b, ∃ (s : State) (n : Nat) (k : Cursor) (sent addr : Nat) (part : Bool) (c : Ctx) (pc : DWord), s.input = .requestTimeout n ∧
      s.awaited.length ≤ n ∧ s.unheard[n - s.awaited.length]? = some ⟨k, sent, addr, part⟩ ∧ s.at? k = some c ∧
      decide (sent + 2 ^ 20 ≤ s.fabricCycles) = b ∧ handlerOf s c Trap.fabricLoss = some pc := by
  let waits (o : Option SquadKey) (p : Payload) (s : State) : State :=
    given { s with awaited := [⟨0, carrying 1 o p, 0, 0⟩], fabricCycles := 2 ^ 20 } (.requestTimeout 0)
  refine ⟨⟨waits none reading0 bench, 0, _, rfl, rfl, rfl, by decide, by simp [carrying, reading0], rfl⟩,
    ⟨waits (some me) reading0 bench, 0, _, rfl, rfl, rfl, by decide, by simp [carrying, reading0], me, 0, 0, _, rfl, by decide +kernel, rfl, rfl,
      by decide +kernel⟩,
    ⟨waits none theCopy (copyingOn bench), 0, _, rfl, rfl, rfl, by decide +kernel, 0, 0, 3, 0, .none, rfl, by decide +kernel⟩, fun b => ?_⟩
  let s : State := unheardAt (if b then 2 ^ 20 + 5 else 2 ^ 20 + 4)
  exact ⟨s, 0, ⟨0, 0, 0⟩, 5, 0x1000, false, comer (.hintNop 0) s, 0x800, rfl, by cases b <;> decide +kernel,
    by cases b <;> decide +kernel, comer_ctx (i := .hintNop 0) (s := s) (by cases b <;> decide +kernel), by cases b <;> decide +kernel,
    by cases b <;> decide +kernel⟩

theorem witness_PacketEvents_delivered :
    delivered false (fun s f => ∃ g ∈ s.flights, g.id < f.id ∧ g.packet.source = f.packet.source ∧
      packetClass g.packet = packetClass f.packet ∧ packetLine g.packet = packetLine f.packet ∧ g.packet.dest = f.packet.dest) ∧
    delivered false (fun s f => ∃ g ∈ s.flights.takeWhile (fun g => g.id ≠ f.id), g.router = f.router ∧
      packetClass g.packet = packetClass f.packet ∧ g.route = f.route ∧ s.nextLink g = s.nextLink f ∧ (s.nextLink f).isSome = true) ∧
    delivered false (fun s f => arrives s f ∧ ¬∃ t id n o x, f.packet.payload = .copy t id n o x) ∧
    (∀ b, delivered b (fun s f => arrives s f ∧ ∃ tl id m o x, f.packet.payload = .copy tl id m o x ∧ (s.copying tl id m).isSome = true)) ∧
    delivered true (fun s f => arrives s f ∧ ∃ a bs, f.packet.payload = .access a ∧ a.kind = .store bs) ∧
    delivered true (fun s f => arrives s f ∧ ∃ k, f.packet.payload = .migration k ∧ ∃ l ∈ s.wc, l.modified = true ∧
      k.has (128 * l.line) = true) ∧
    delivered true (fun s f => arrives s f ∧ ∃ k r l, f.packet.payload = .replicaFill k r l) ∧
    delivered true (fun s f => arrives s f ∧ ∃ m l a k tl slot w q, f.packet.payload = .reply m l ∧
      (s.awaited.find? fun a => a.id = m) = some a ∧ a.packet.owner = some k ∧ s.locate k = some (tl, slot) ∧
      (s.tile tl).wg = some w ∧ a.packet.seq = 0 ∧ s.goesOn k.gang.launch = true ∧ s.squad? tl slot = some q ∧ q.late = none) ∧
    delivered false (fun s f => s.isNext f = true ∧ s.heldFlight f = true ∧ f.route = .upDown ∧ s.rt.state = 2) ∧
    delivered false (fun s f => s.isNext f = true ∧ s.heldFlight f = true ∧ f.route ≠ .upDown) := by
  let one (p : Payload) (bad : Bool) : State := given { copyingOn bench with
    flights := [flying 0 0 .xFirst p], wc := [line8], awaited := [⟨7, carrying 0 (some me) reading0, 0, 0⟩] } (.packetDeliver 0 bad)
  let f (p : Payload) : Flight := flying 0 0 .xFirst p
  refine ⟨⟨given { bench with flights := [f reading0, flying 1 0 .xFirst reading0] } (.packetDeliver 1 false), 1, flying 1 0 .xFirst reading0,
      rfl, rfl, f reading0, ?_⟩,
    ⟨given { cut with flights := [flying 0 1 .xFirst reading0, flying 1 1 .xFirst storing8] } (.packetDeliver 1 false), 1,
      flying 1 1 .xFirst storing8, rfl, rfl, flying 0 1 .xFirst reading0, ?_⟩,
    ⟨one reading0 false, 0, f reading0, rfl, rfl, ?_, by simp [f, flying, carrying, reading0]⟩,
    fun b => ⟨one theCopy b, 0, f theCopy, rfl, rfl, by unfold arrives; cases b <;> decide +kernel, 0, 0, 3, 0, .none, rfl,
      by cases b <;> decide +kernel⟩,
    ⟨one storing8 true, 0, f storing8, rfl, rfl, ?_, _, _, rfl, rfl⟩,
    ⟨one (.migration ⟨0, 0⟩) true, 0, f (.migration ⟨0, 0⟩), rfl, rfl, ?_, _, rfl, line8, ?_⟩,
    ⟨one (.replicaFill ⟨0, 0⟩ 1 8) true, 0, f (.replicaFill ⟨0, 0⟩ 1 8), rfl, rfl, ?_, _, _, _, rfl⟩,
    ⟨one (.reply 7 (.line 0)) true, 0, f (.reply 7 (.line 0)), rfl, rfl, ?_, 7, .line 0, ⟨7, carrying 0 (some me) reading0, 0, 0⟩, me, 0, 0,
      { bootWorkgroup 0 with jobs := [copier] }, bootSquad 0, rfl, ?_⟩,
    ⟨given { cut with flights := [flying 0 1 .upDown reading0], rt := { bench.rt with state := 2 } } (.packetDeliver 0 false), 0,
      flying 0 1 .upDown reading0, rfl, rfl, ?_⟩,
    ⟨given { cut with flights := [flying 0 1 .xFirst reading0] } (.packetDeliver 0 false), 0, flying 0 1 .xFirst reading0, rfl, rfl, ?_⟩⟩
  all_goals (try unfold arrives)
  all_goals decide +kernel

/-- The bench in the course of a commit. -/
def committing (st : Nat) (swapped : Bool) : State := { bench with rt := { bench.rt with state := st, swapped := swapped } }
/-- A squad's gang stands on a tile that the plaza reaches no more. -/
def struckAt (replay : Bool) : State := { committing 2 true with
  tiles := [(1, { Tile.empty with wg := some (bootWorkgroup 0) })], launches := [{ bootLaunch with replay := replay }] }

theorem tabFind_listed {α : Type} {k : Nat} {v : α} {l : List (Nat × α)} (h : tabFind k l = some v) : (k, v) ∈ l := by
  induction l with
  | nil => simp [tabFind] at h
  | cons e r ih =>
    obtain ⟨a, b⟩ := e
    simp only [tabFind] at h
    split at h
    · simp_all
    · exact .tail _ (ih h)
/-- What holds of every workgroup that is listed holds of every tile's. -/
theorem every_wg {s : State} (p : Nat → Workgroup → Bool) (h : (s.tiles.all fun e => e.2.wg.all (p e.1)) = true) (m : Nat) (w : Workgroup)
    (hw : (s.tile m).wg = some w) : p m w = true := by
  cases ht : tabFind m s.tiles with
  | none => simp [State.tile, ht, Tile.empty] at hw
  | some tl =>
    have := List.all_eq_true.1 h _ (tabFind_listed ht)
    simpa [show tl.wg = some w by simpa [State.tile, ht] using hw] using this
/-- No workgroup holds a job. -/
def idleJobs (s : State) : Bool := s.tiles.all fun e => e.2.wg.all fun w => w.jobs.isEmpty
theorem jobless {s : State} (h : idleJobs s = true) (m : Nat) (w : Workgroup) (hw : (s.tile m).wg = some w) : w.jobs = [] := by
  simpa using every_wg (fun _ w => w.jobs.isEmpty) h m w hw

theorem witness_CommitEvents :
    (∃ s : State, s.rt.state ≠ 0) ∧
    (∃ (s : State) (e r d : Nat), s.rt.state = 0 ∧ checkTables s.street s.staging = some (e, r, d)) ∧
    (∃ s : State, s.rt.state = 0 ∧ checkTables s.street s.staging = none ∧ s.rt.want = true) ∧
    (∃ s : State, s.rt.state = 0 ∧ checkTables s.street s.staging = none ∧ s.rt.want = false) ∧
    (∃ s : State, s.rt.want = true ∧ s.rt.state = 0) ∧
    (∃ s : State, s.rt.state = 2 ∧ s.rt.swapped = false ∧ (∀ f ∈ s.flights, f.route ≠ .upDown ∧ s.canArrive f = false) ∧
      s.bringUp.worked ≠ 6) ∧
    (∃ s : State, s.rt.state = 2 ∧ s.rt.swapped = false ∧ (∀ f ∈ s.flights, f.route ≠ .upDown ∧ s.canArrive f = false) ∧
      s.bringUp.worked = 6) ∧
    (∃ s : State, s.rt.state = 2 ∧ s.rt.swapped = true ∧ s.flights = [] ∧ s.launches = [] ∧ nothingHeld s ∧ s.waiting ≠ [] ∧
      ∃ e ∈ s.background, ∃ p, e.2 = .mark p ∧ partGood s.street p = false) ∧
    ∀ b, ∃ (s : State) (l : Launch) (g : GangKey), s.rt.state = 2 ∧ s.rt.swapped = true ∧ s.flights = [] ∧ s.launches = [l] ∧
      l.status = none ∧ l.ending = none ∧ (∀ m w, (s.tile m).wg = some w → w.gang.launch = l.key → w.jobs = []) ∧ (g.launch = l.key ∧ (∃ h ∈ s.gangs, h.key = g) ∧
        ∃ e ∈ s.tiles, (∃ w, e.2.wg = some w ∧ w.gang = g) ∧ s.routes s.plaza e.1 = false) ∧
      s.faultWard l.ward = none ∧ l.replay = b ∧ s.grounds l.shape ≠ [] := by
  refine ⟨⟨committing 2 false, by decide⟩, ⟨bench, 2, 0, 2688, rfl, by decide +kernel⟩,
    ⟨{ bench with street := [], rt := { bench.rt with want := true } }, rfl, by decide +kernel, rfl⟩,
    ⟨{ bench with street := [] }, rfl, by decide +kernel, rfl⟩,
    ⟨{ bench with rt := { bench.rt with want := true } }, rfl, rfl⟩,
    ⟨{ committing 2 false with flights := [flying 0 1 .xFirst reading0], links := cut.links }, rfl, rfl, by decide +kernel, by decide⟩,
    ⟨{ committing 2 false with bringUp := { bench.bringUp with worked := 6 } }, rfl, rfl, (fun f h => by cases h), rfl⟩,
    ⟨{ committing 2 true with launches := [], waiting := [carrying 1 none reading0], background := [(0, .mark (.router 0x401))] },
      rfl, rfl, rfl, rfl, ⟨rfl, by decide +kernel⟩, by decide, _, .head _, .router 0x401, rfl, by decide +kernel⟩, fun b => ?_⟩
  refine ⟨struckAt b, { bootLaunch with replay := b }, bootGang, rfl, rfl, rfl, rfl, rfl, rfl, (fun m w h _ => jobless (by cases b <;> decide +kernel) m w h),
    ⟨rfl, ⟨⟨bootGang, 0, 0, 0, .running, [], [], []⟩, by cases b <;> decide +kernel, rfl⟩,
      (1, { Tile.empty with wg := some (bootWorkgroup 0) }), by cases b <;> decide +kernel, ⟨_, rfl, rfl⟩, by cases b <;> decide +kernel⟩,
    by cases b <;> decide +kernel, rfl, by cases b <;> decide +kernel⟩

/-- A queue of ward 0 at port 0, head 7, with a tail read. -/
def queued (tail : Nat) (watching : Bool) : State :=
  { online with queues := [(3, { sevens with tail := tail, watching := watching })] }
/-- The bench's host memory at port 0 with a tail count. -/
def counted (n : Nat) : State := (queued 7 false).pokeNum (hostKey 0 0x2000) 4 n

/-- The code object that a check accepts. -/
def accepted : PacketCheck → Option CodeHeader
  | .accept h => some h
  | .reject _ | .nop => none
theorem ex_accept {p : PacketCheck} (h : (accepted p).isSome = true) : ∃ h, p = .accept h := by
  cases p <;> simp_all [accepted]

theorem witness_QueueEvents :
    (∃ (s : State) (qid : Nat) (bs : List (Nat × Byte)) (q : LaunchQueue), s.input = .tailSnoop qid bs ∧ tabFind qid s.queues = some q) ∧
    (∃ (s : State) (qid : Nat) (poison : Bool) (q : LaunchQueue), s.input = .tailReread qid poison ∧ tabFind qid s.queues = some q ∧
      q.enabled = true ∧ q.watching = false ∧ q.qerr = 0 ∧ s.hostPort q.port = true ∧ poison = true) ∧
    (∃ (s : State) (qid : Nat) (q : LaunchQueue), s.input = .tailReread qid false ∧ tabFind qid s.queues = some q ∧
      q.enabled = true ∧ q.watching = false ∧ q.qerr = 0 ∧ s.hostPort q.port = true ∧
      q.size < (s.num (hostKey q.port q.tailA) 4 + 2 ^ 32 - q.head) % 2 ^ 32) ∧
    (∃ (s : State) (qid : Nat) (q : LaunchQueue), s.input = .tailReread qid false ∧ tabFind qid s.queues = some q ∧
      q.enabled = true ∧ q.watching = false ∧ q.qerr = 0 ∧ s.hostPort q.port = true ∧
      (s.num (hostKey q.port q.tailA) 4 + 2 ^ 32 - q.head) % 2 ^ 32 ≤ q.size) ∧
    (∃ (s : State) (qid : Nat) (q : LaunchQueue), s.input = .launchPacketRead qid false ∧ tabFind qid s.queues = some q ∧
      s.packetDue qid q = true ∧ (∀ l ∈ s.launches, l.key = ⟨qid, q.head⟩ → l.status.isSome = true) ∧ ∃ h,
      (packetState s qid q (s.peekN (hostKey q.port (q.ring + 64 * (q.head % q.size))) 64)).checkPacket q
        (s.peekN (hostKey q.port (q.ring + 64 * (q.head % q.size))) 64) false = .accept h) ∧
    (∃ (s : State) (qid : Nat) (q : LaunchQueue), s.input = .launchPacketRead qid false ∧ tabFind qid s.queues = some q ∧
      s.packetDue qid q = true ∧ Inv s ∧ nothingHeld s ∧ (∀ l ∈ s.launches, l.dep = none) ∧
      (packetState s qid q (s.peekN (hostKey q.port (q.ring + 64 * (q.head % q.size))) 64)).checkPacket q
        (s.peekN (hostKey q.port (q.ring + 64 * (q.head % q.size))) 64) false = .reject 1) ∧
    (∃ (s : State) (qid : Nat) (q : LaunchQueue) (l : Launch), s.input = .launchPacketRead qid false ∧ tabFind qid s.queues = some q ∧
      s.packetDue qid q = true ∧ q.head < 2 ^ 32 ∧ l ∈ s.launches ∧ l.dep = some ⟨qid, q.head⟩ ∧ l.status = none ∧ l.ending = none ∧
      l.nextGang = 0 ∧ (∀ y ∈ s.launches, y.key = l.key → y = l) ∧
      (packetState s qid q (s.peekN (hostKey q.port (q.ring + 64 * (q.head % q.size))) 64)).checkPacket q
        (s.peekN (hostKey q.port (q.ring + 64 * (q.head % q.size))) 64) false = .reject 1) ∧
    ∀ b, ∃ (s : State) (qid : Nat) (q : LaunchQueue), s.input = .headWrite qid false ∧ tabFind qid s.queues = some q ∧ q.enabled = true ∧
      q.qerr = 0 ∧ s.hostPort q.port = true ∧ Inv s ∧ q.headDirty = b :=
  let ready : State := { queued 8 true with mem := (coded.pokeN (hostKey 0 (0x1000 + 64 * 7)) largest).mem }
  ⟨⟨given (queued 8 true) (.tailSnoop 3 []), 3, _, _, rfl, rfl⟩,
    ⟨given (queued 7 false) (.tailReread 3 true), 3, true, _, rfl, rfl, rfl, rfl, rfl, by decide +kernel, rfl⟩,
    ⟨given (counted 72) (.tailReread 3 false), 3, _, rfl, rfl, rfl, rfl, rfl, by decide +kernel, by decide +kernel⟩,
    ⟨given (counted 71) (.tailReread 3 false), 3, _, rfl, rfl, rfl, rfl, rfl, by decide +kernel, by decide +kernel⟩,
    ⟨given ready (.launchPacketRead 3 false), 3, _, rfl, rfl, by decide +kernel, by decide +kernel, ex_accept (by decide +kernel)⟩,
    ⟨given (queued 8 true) (.launchPacketRead 3 false), 3, _, rfl, rfl, by decide +kernel, ⟨by decide +kernel, by decide +kernel⟩,
      ⟨rfl, by decide +kernel⟩, by decide +kernel, by decide +kernel⟩,
    ⟨given { queued 8 true with launches := [{ bootLaunch with dep := some ⟨3, 7⟩, nextGang := 0 }] } (.launchPacketRead 3 false), 3, _,
      { bootLaunch with dep := some ⟨3, 7⟩, nextGang := 0 }, rfl, rfl, by decide +kernel, by decide, .head _, rfl, rfl, rfl, rfl,
      by decide +kernel, by decide +kernel⟩,
    fun b => ⟨given { queued 8 true with queues := [(3, { sevens with headDirty := b })] } (.headWrite 3 false), 3, _, rfl, rfl, rfl, rfl,
      by cases b <;> decide +kernel, ⟨by cases b <;> decide +kernel, by cases b <;> decide +kernel⟩, rfl⟩⟩

/-- A host's access to memory behind port 0's host. -/
def hostReads (a n : Nat) (more : State → Prop) : Prop :=
  ∃ s : State, s.input = .hostMemRead 0 a n ∧ s.hostPort 0 = true ∧ s.offersMem = true ∧ more s
def hostWrites (a : Nat) (bs : List Byte) (more : State → Prop) : Prop :=
  ∃ s : State, s.input = .hostMemWrite 0 a bs ∧ s.hostPort 0 = true ∧ s.offersMem = true ∧ Inv s ∧ more s
/-- An address on the far stacks, which the bench's street does not reach. -/
def farStack : Nat := 2 ^ 36 * 23 + 1024

theorem witness_HostMemoryEvents_read :
    (∃ (s : State) (p a n : Nat), s.input = .hostMemRead p a n ∧ s.hostPort p = true ∧ s.offersMem = false) ∧
    hostReads (Config.hbmExposed - 63) 64 (fun s => s.hbmLimit < Config.hbmExposed - 63 + 64) ∧
    (∀ b, hostReads 1024 64 fun s => 1024 + 64 ≤ s.hbmLimit ∧ s.lineBad 1024 = false ∧ s.inHostBias 1024 = false ∧ s.readWaits 1024 = b ∧
      (b = false → s.hostCarries 0 1024 = true)) ∧
    (∀ b, hostReads farStack 64 fun s => farStack + 64 ≤ s.hbmLimit ∧ s.lineBad farStack = false ∧ s.readWaits farStack = false ∧
      s.inHostBias farStack = b ∧ s.hostCarries 0 farStack = false) ∧
    hostReads 1024 64 (fun s => 1024 + 64 ≤ s.hbmLimit ∧ s.lineBad 1024 = false ∧ s.inHostBias 1024 = true ∧ s.hostCarries 0 1024 = true ∧
      ∃ l, s.wcLine? (1024 / 128) = some l ∧ l.modified = true) := by
  refine ⟨⟨given { online with bringUp := { bench.bringUp with phase := 1 } } (.hostMemRead 0 0 64), 0, 0, 64, rfl, ?_⟩,
    ⟨given online (.hostMemRead 0 (Config.hbmExposed - 63) 64), rfl, ?_⟩,
    fun b => ⟨given { online with held := if b then [⟨8, .hostRead 1 1024 64⟩] else [] } (.hostMemRead 0 1024 64), rfl, ?_⟩,
    fun b => ⟨given { online with hostBias := if b then [farStack / 4096] else [] } (.hostMemRead 0 farStack 64), rfl, ?_⟩,
    ⟨given (cached [line8] [0]) (.hostMemRead 0 1024 64), rfl, ?_, ?_, ?_, ?_, ?_, ?_, line8, ?_⟩⟩
  all_goals first | decide +kernel | (cases b <;> decide +kernel)

theorem witness_HostMemoryEvents_write :
    hostWrites (Config.hbmExposed - 63) (List.replicate 64 1) (fun s => s.hbmLimit < Config.hbmExposed - 63 + 64) ∧
    (∀ b, hostWrites farStack [1] fun s => farStack + 1 ≤ s.hbmLimit ∧ s.inHostBias farStack = b ∧ s.hostCarries 0 farStack = false) ∧
    (∀ b, hostWrites 1024 [1] fun s => 1024 + 1 ≤ s.hbmLimit ∧ s.hostCarries 0 1024 = true ∧ s.inHostBias 1024 = true ∧
      1024 / 4096 ∉ s.flipping ∧ s.modified (1024 / 128) = b) ∧
    hostWrites 1024 [1] (fun s => 1024 + 1 ≤ s.hbmLimit ∧ s.hostCarries 0 1024 = true ∧ s.inHostBias 1024 = false ∧ s.mustWait 1024 = false ∧
      (s.regionFor 1024).acks = [] ∧ (s.regionFor 1024).covered = []) ∧
    hostWrites 4095 [1] (fun s => 4095 + 1 ≤ s.hbmLimit ∧ s.hostCarries 0 4095 = true ∧ s.inHostBias 4095 = false ∧ s.mustWait 4095 = true) := by
  refine ⟨⟨given online (.hostMemWrite 0 (Config.hbmExposed - 63) (List.replicate 64 1)), rfl, ?_, ?_, ⟨?_, ?_⟩, ?_⟩,
    fun b => ⟨given { online with hostBias := if b then [farStack / 4096] else [] } (.hostMemWrite 0 farStack [1]), rfl, ?_, ?_, ⟨?_, ?_⟩, ?_⟩,
    fun b => ⟨given (cached (if b then [line8] else []) [0]) (.hostMemWrite 0 1024 [1]), rfl, ?_, ?_, ⟨?_, ?_⟩, ?_⟩,
    ⟨given online (.hostMemWrite 0 1024 [1]), rfl, ?_, ?_, ⟨?_, ?_⟩, ?_⟩,
    ⟨given { online with flipping := [0] } (.hostMemWrite 0 4095 [1]), rfl, ?_, ?_, ⟨?_, ?_⟩, ?_⟩⟩
  all_goals first | decide +kernel | (cases b <;> decide +kernel)

theorem witness_HostMemoryEvents_snoop :
    (∀ b, ∃ (s : State) (a : Nat) (d : List Byte), s.input = .hostSnoop a true (some d) ∧ s.inHostBias a = true ∧ s.mustWait a = b) ∧
    ∃ (s : State) (a : Nat), s.input = .hostSnoop a true none ∧ s.inHostBias a = false ∧ s.mustWait a = false :=
  ⟨fun b => ⟨given { cached [line8] [0] with flipping := if b then [0] else [] } (.hostSnoop 1024 true (some (List.replicate 64 1))), 1024, _,
      rfl, by cases b <;> decide +kernel⟩,
    ⟨given (cached [line8] []) (.hostSnoop 1024 true none), 1024, rfl, by decide +kernel⟩⟩

theorem witness_HostMemoryEvents_pool :
    (∃ (s : State) (a : Nat), s.input = .bisnpInv a none ∧ s.mustWait a = true) ∧
    (∃ (s : State) (a : Nat), s.input = .bisnpInv a none ∧ s.mustWait a = false ∧ s.banksReached a = true ∧ s.modified (a / 128) = false) ∧
    (∃ (s : State) (a : Nat), s.input = .bisnpData a ∧ s.mustWait a = false ∧ s.banksReached a = true ∧ s.lineReached (a / 128) = true ∧
      s.modified (a / 128) = true ∧ s.farLine (a / 128) = true) ∧
    (∃ (s : State) (a : Nat) (d : List Byte), s.input = .bisnpInv a (some d) ∧ s.mustWait a = false ∧
      isPool (128 * (a / 128)) = true ∧ d.length = 128 ∧ Inv s ∧ s.banksReached a = true) ∧
    (∃ (s : State) (a : Nat), s.input = .bisnpData a ∧ s.mustWait a = false ∧ s.banksReached a = false ∧ s.modified (a / 128) = true) ∧
    (∃ (s : State) (a : Nat), s.input = .bisnpData a ∧ s.mustWait a = false ∧ s.banksReached a = true ∧ s.lineReached (a / 128) = false ∧
      s.modified (a / 128) = true) ∧
    (∃ (s : State) (n : Nat), s.input = .memoryDeviceCompletion n) ∧
    (∃ (s : State) (a : Nat), s.input = .uncorrectableError a false ∧ s.modified (a / 128) = false) ∧
    (∃ (s : State) (a : Nat), s.input = .uncorrectableError a false ∧ s.modified (a / 128) = true ∧ Inv s) ∧
    (∃ (s : State) (a : Nat), s.input = .uncorrectableError a true ∧ Inv s) ∧
    ∃ (s : State) (b : Nat), s.input = .bankEmptyDone b ∧ b ∈ s.emptying ∧ s.routes s.plaza b = true := by
  let pool := Config.poolBase + 0x40
  let kept : State := { online with wc := [{ line8 with line := pool / 128 }] }
  refine ⟨⟨given { online with flipping := [pool / 4096] } (.bisnpInv pool none), pool, rfl, ?_⟩,
    ⟨given online (.bisnpInv pool none), pool, rfl, ?_, ?_, ?_⟩,
    ⟨given { kept with granules := [(0, ⟨1, false⟩)], linkGroups := [(1, [0])] } (.bisnpData pool), pool, rfl, ?_, ?_, ?_, ?_, ?_⟩,
    ⟨given online (.bisnpInv pool (some (List.replicate 128 1))), pool, _, rfl, ?_, ?_, ?_, ⟨?_, ?_⟩, ?_⟩,
    ⟨given { kept with placement := [1] } (.bisnpData pool), pool, rfl, ?_, ?_, ?_⟩,
    ⟨given { kept with granules := [(0, ⟨1, false⟩)], linkGroups := [(1, [14])] } (.bisnpData pool), pool, rfl, ?_, ?_, ?_, ?_⟩,
    ⟨given { online with deviceWrites := [5] } (.memoryDeviceCompletion 0), 0, rfl⟩,
    ⟨given online (.uncorrectableError 1024 false), 1024, rfl, ?_⟩,
    ⟨given (cached [line8] []) (.uncorrectableError 1151 false), 1151, rfl, ?_, ?_, ?_⟩,
    ⟨given online (.uncorrectableError 1024 true), 1024, rfl, ?_, ?_⟩,
    ⟨given { online with emptying := [0] } (.bankEmptyDone 0), 0, rfl, ?_, ?_⟩⟩
  all_goals decide +kernel

/-- The bench's launch came by a queue whose port is up. -/
def answering : State := { online with queues := [(0, { sevens with head := 1 })] }
/-- A launch can be ended and its record written at once, where more holds. -/
def endable (more : State → Launch → Prop) : Prop :=
  ∃ (s : State) (l : Launch) (q : LaunchQueue), s.launches = [l] ∧ l.status = none ∧ l.ending = none ∧ (l.dep = none ∨ l.nextGang ≠ 0) ∧ tabFind l.key.qid s.queues = some q ∧
    s.hostPort q.port = true ∧ nothingHeld s ∧ Inv s ∧ s.agenda = [] ∧ (∀ e ∈ s.tiles, ∀ w, e.2.wg = some w → w.jobs = []) ∧ more s l

theorem witness_LaunchEndings :
    (∃ (s : State) (k : LaunchKey) (n : Nat) (l : Launch), s.input = .launchAbort k n ∧ s.launch? k = some l ∧ l.status = none ∧
      l.ending = none ∧ ∀ m w, (s.tile m).wg = some w → w.gang.launch = k → w.jobs = []) ∧
    (∃ (s : State) (k : LaunchKey) (n : Nat) (l : Launch), s.input = .launchAbort k n ∧ s.launch? k = some l ∧ l.status = none ∧
      l.ending = some (2, 255) ∧ (∀ m w, (s.tile m).wg = some w → w.gang.launch = k → w.jobs = []) ∧ l.tenant ∉ s.resets) ∧
    (∃ (s : State) (x : Nat) (k : LaunchKey) (l : Launch), s.input = .tenantReset x ∧ x ∈ s.resets ∧ s.checkpoint = none ∧
      (∀ m w, (s.tile m).wg = some w → w.jobs = []) ∧ s.launch? k = some l ∧ (∀ y ∈ s.launches, y.key = k → y = l) ∧ l.tenant = x ∧ l.status = none ∧ l.ending = none ∧ l.nextGang ≠ 0 ∧
      s.faultWard (s.tenantRoot x) = none) ∧
    endable (fun s l => s.input = .launchAbort l.key 255) ∧
    endable (fun s l => s.input = .tenantReset l.tenant ∧ l.tenant ∈ s.resets ∧ s.checkpoint = none ∧
      s.faultWard (s.tenantRoot l.tenant) = none) ∧
    (∃ (s : State) (r : FaultRecord), s.faults = [r] ∧ (∀ e ∈ s.queues, e.2.held = []) ∧ r.queue = none) ∧
    (∃ (s : State) (r : FaultRecord) (w : Nat) (b : Ward), s.faults = [r] ∧ (∀ e ∈ s.queues, e.2.held = []) ∧ r.queue = some w ∧
      s.ward? w = some b ∧ s.hostPort b.fqPort = false) ∧
    (∃ (s : State) (r : FaultRecord) (w : Nat) (b : Ward), s.faults = [r] ∧ (∀ e ∈ s.queues, e.2.held = []) ∧ r.queue = some w ∧
      s.ward? w = some b ∧ s.hostPort b.fqPort = true ∧ (b.written + 2 ^ 32 - b.consumed) % 2 ^ 32 ≤ 2 ^ b.fqLogn ∧ Inv s) ∧
    ∃ (s : State) (r : FaultRecord) (w : Nat) (b : Ward), s.faults = [r] ∧ (∀ e ∈ s.queues, e.2.held = []) ∧ r.queue = some w ∧
      s.ward? w = some b ∧ s.hostPort b.fqPort = true ∧ 2 ^ b.fqLogn < (b.written + 2 ^ 32 - b.consumed) % 2 ^ 32 ∧
      2 ^ b.fqLogn < (b.written + 2 ^ 32 - s.num (hostKey b.fqPort b.fqHead) 4) % 2 ^ 32 := by
  let rec0 : FaultRecord := { FaultRecord.blank with num := 1 }
  let ring (written : Nat) : Ward := { Ward.bringUp with fqLogn := 6, fqRing := 0x1000, fqHead := 0x3000, written := written }
  refine ⟨⟨given bench (.launchAbort ⟨0, 0⟩ 255), _, 255, bootLaunch, rfl, ?_, rfl, rfl, fun m w h _ => jobless (by decide +kernel) m w h⟩,
    ⟨given { bench with launches := [{ bootLaunch with ending := some (2, 255) }] } (.launchAbort ⟨0, 0⟩ 9), _, 9,
      { bootLaunch with ending := some (2, 255) }, rfl, ?_, rfl, rfl, (fun m w h _ => jobless (by decide +kernel) m w h), by decide⟩,
    ⟨given { bench with resets := [0] } (.tenantReset 0), 0, ⟨0, 0⟩, bootLaunch, rfl, ?_, rfl,
      (fun m w h => jobless (by decide +kernel) m w h), ?_, ?_, rfl, rfl, rfl, ?_, ?_⟩,
    ⟨given answering (.launchAbort ⟨0, 0⟩ 255), bootLaunch, _, rfl, rfl, rfl, .inl rfl, rfl, ?_, ⟨rfl, ?_⟩, ⟨?_, ?_⟩, rfl, ?_, rfl⟩,
    ⟨given { answering with resets := [0] } (.tenantReset 0), bootLaunch, _, rfl, rfl, rfl, .inl rfl, rfl, ?_, ⟨rfl, ?_⟩, ⟨?_, ?_⟩, rfl, ?_, rfl, ?_, rfl, ?_⟩,
    ⟨{ bench with faults := [rec0] }, rec0, rfl, ?_, rfl⟩,
    ⟨{ bench with faults := [{ rec0 with queue := some 1 }] }, _, 1, _, rfl, ?_, rfl, rfl, ?_⟩,
    ⟨{ online with faults := [{ rec0 with queue := some 1 }], wards := [(1, ring 64)] }, _, 1, ring 64, rfl, ?_, rfl, rfl, ?_, ?_, ?_, ?_⟩,
    ⟨{ online with faults := [{ rec0 with queue := some 1 }], wards := [(1, ring 65)] }, _, 1, ring 65, rfl, ?_, rfl, rfl, ?_, ?_, ?_⟩⟩
  all_goals decide +kernel

/-- A launch that waits, while tile 0 holds nothing. -/
def unplaced : State := { bench with
  launches := [{ bootLaunch with nextGang := 0 }], gangs := [], tiles := [(0, Tile.empty)] }
/-- A second launch that has waited 10 ms for the bench's tile. -/
def contended : State := { bench with
  devclk := 10000000, launches := [bootLaunch, { bootLaunch with key := ⟨0, 1⟩, nextGang := 0, order := 1 }] }
/-- The bench's gang at a stage, with its squad changed. -/
def staged (g : GangStage) (f : Squad → Squad) : State :=
  { lab f with gangs := [⟨bootGang, 0, 0, 0, g, [], [], []⟩] }
/-- The bench's gang off the wafer. -/
def saved : State := { staged .saved id with tiles := [(0, Tile.empty)] }
/-- A squad that has ended. -/
def gone (q : Squad) : Squad := { q with live := 0, groups := [], ended := true }
/-- What is kept of squad 0. -/
def keptOne : KeptSquad := ⟨0, [], none, (bootSquad 0).trap, 3, []⟩

theorem witness_GangEvents :
    (∃ (s : State) (n id k : Nat) (l : Launch) (os : List Nat), s.input = .placementDecision n ∧ Inv s ∧
      (∀ x ∈ s.launches, x.status = none → x.ending = none → x.nextGang = 0 → s.depState x ≠ .cancel) ∧ s.toPlace = some (l, os) ∧
      s.nextGang l = some (.first id) ∧ s.freeSlot l = some k) ∧
    (∃ (l : Launch) (g : GangKey) (m k now : Nat) (q : Squad), q ∈ (l.startWorkgroup g m k now).squads) ∧
    (∃ (q : Squad) (p : SpanState), q.ended = false ∧ q.span = some p ∧ p.number < 2 ^ 16 ∧ (∃ e, q.engine = some e ∧ e.number < 256) ∧
      p.entryMask ≠ 0) ∧
    (∃ q : Squad, q.ended = true) ∧
    (∃ (l : Launch) (g : Gang) (m : Nat) (k : KeptMember) (p : KeptSquad), (g.kept.find? fun k => k.member = m) = some k ∧ p.slot < l.squads ∧
      (k.squads.find? fun e => e.slot = p.slot) = some p) ∧
    (∃ (s : State) (l : Launch) (b : List Byte), Inv s ∧ b.length = l.memberBytes) ∧
    (∃ (s : State) (n : Nat) (l : Launch) (os : List Nat) (g : Gang), s.input = .placementDecision n ∧
      (∀ x ∈ s.launches, x.status = none → x.ending = none → x.nextGang = 0 → s.depState x ≠ .cancel) ∧ s.toPlace = some (l, os) ∧
      s.nextGang l = some (.again g)) ∧
    (∃ (s : State) (gs : List GangKey) (l : Launch) (o : Nat), s.input = .preemptRequest gs ∧ gs ≠ [] ∧ s.placing = true ∧
      s.claimant gs = some (l, o)) ∧
    (∃ (s : State) (k : GangKey) (g : Gang), s.input = .preemptStop k ∧ s.gang? k = some g ∧ g.stage = .requested ∧
      s.goesOn k.launch = true ∧ s.atRestart k = true ∧ s.gangOver g = false) ∧
    (∃ (s : State) (k : GangKey) (g : Gang) (l : Launch), s.input = .preemptSave k ∧ s.gang? k = some g ∧ s.launch? k.launch = some l ∧
      l.status = none ∧ l.ending = none ∧ g.stage = .stopped ∧ s.mayLeave k = true) ∧
    (∃ (s : State) (x : Nat) (w : Workgroup), s.input = .workgroupEnd x ∧ (s.tile x).wg = some w ∧ w.finished = true) ∧
    ∃ (s : State) (k : GangKey) (g : Gang) (l : Launch), s.input = .gangRetire k ∧ s.gang? k = some g ∧ s.gangOver g = true ∧
      (s.releaseGang k).gangReleased k = true ∧ s.launch? k.launch = some l ∧ l.status = none ∧ l.ending = none ∧ l.retired.length + 1 = l.gangs := by
  refine ⟨⟨given unplaced (.placementDecision 0), 0, 0, 0, { bootLaunch with nextGang := 0 }, [0], rfl, ⟨?_, ?_⟩, ?_, ?_, ?_, ?_⟩,
    ⟨bootLaunch, bootGang, 0, 0, 0, _, List.mem_cons_self⟩,
    ⟨{ bootSquad 0 with span := some ⟨1, 8, 3, 1⟩, engine := some ⟨16, 0, 0, 0, 1⟩ }, ⟨1, 8, 3, 1⟩, rfl, rfl, ?_, ⟨_, rfl, ?_⟩, ?_⟩,
    ⟨gone (bootSquad 0), rfl⟩,
    ⟨bootLaunch, ⟨bootGang, 0, 0, 0, .saved, [], [], [⟨0, [], [], 0, 0, 0, 0, [keptOne]⟩]⟩, 0, _, keptOne, rfl, ?_, rfl⟩,
    ⟨bench, bootLaunch, List.replicate bootLaunch.memberBytes 0, ⟨?_, ?_⟩, List.length_replicate⟩,
    ⟨given saved (.placementDecision 0), 0, bootLaunch, [0], ⟨bootGang, 0, 0, 0, .saved, [], [], []⟩, rfl, ?_, ?_, ?_⟩,
    ⟨given contended (.preemptRequest [bootGang]), _, { bootLaunch with key := ⟨0, 1⟩, nextGang := 0, order := 1 }, 0, rfl, ?_, ?_, ?_⟩,
    ⟨given (staged .requested fun q => { q with inSpan := true }) (.preemptStop bootGang), _, _, rfl, rfl, rfl, ?_, ?_, ?_⟩,
    ⟨given (staged .stopped id) (.preemptSave bootGang), _, _, bootLaunch, rfl, rfl, rfl, rfl, rfl, rfl, ?_⟩,
    ⟨given (staged .running gone) (.workgroupEnd 0), 0, _, rfl, rfl, ?_⟩,
    ⟨given (staged .running gone) (.gangRetire bootGang), _, _, bootLaunch, rfl, rfl, ?_, ?_, ?_, rfl, rfl, rfl⟩⟩
  all_goals decide +kernel

/-- A result of one register on its way to v7 in every lane. -/
def coming : Outstanding := ⟨.v 7, 1, fullMask, Vector.ofFn fun j : Fin 32 => BitVec.ofNat 32 j.val, Vector.replicate 32 0, Vector.replicate 32 1, false, 0, []⟩
/-- A pair on its way to v6 and v7, and a uniform result. -/
def comingPair : Outstanding := { coming with dst := .v 6, width := 2 }
def comingWhole : Outstanding := { coming with uniform := true }
/-- A result is written back, where more holds. -/
def writesBack (more : Outstanding → Prop) : Prop :=
  ∃ (s : State) (x slot n : Nat) (m : Mask) (q : Squad) (o : Outstanding), s.input = .resultWriteback x slot n m ∧
    s.squad? x slot = some q ∧ q.outstanding[n]? = some o ∧ more o
/-- A group at a PC with an entry. -/
def held (m : Mask) (pc : DWord) (e : Entry) (b : Option Blocked) (since : Nat) : Group := ⟨m, pc, e, none, b, since, 0, 0, [], 0, none⟩

theorem witness_SquadEvents :
    writesBack (fun o => ∃ r, o.uniform = false ∧ o.width = 1 ∧ o.dst = .v r) ∧
    writesBack (fun o => ∃ r p : Fin 112, o.uniform = false ∧ o.width = 2 ∧ o.dst = .v r ∧ p.val = r.val + 1) ∧
    writesBack (fun o => ∃ r, o.uniform = true ∧ o.width = 1 ∧ o.dst = .v r) ∧
    (∃ (s : State) (x slot : Nat) (q : Squad) (g : Group), s.input = .sleepTimer x slot ∧ s.squad? x slot = some q ∧ q.groups[0]? = some g ∧
      ∃ a, g.blocked = some (.sleep a false) ∧ a ≤ s.devclk.toNat) ∧
    (∃ (s : State) (x slot : Nat) (w : Workgroup) (q : Squad), s.input = .woundTrap x slot ∧ (s.tile x).wg = some w ∧
      w.squad? slot = some q ∧ q.wound = true ∧ q.intrap = false ∧ q.ended = false ∧ s.lockBusy (squadKey w q) = false ∧
      s.locate (squadKey w q) = some (x, slot)) ∧
    (∃ (s : State) (x slot : Nat) (w : Workgroup) (q : Squad) (g : Group) (pc : DWord), s.input = .woundTrap x slot ∧ (s.tile x).wg = some w ∧
      w.squad? slot = some q ∧ q.wound = true ∧ q.intrap = false ∧ q.ended = false ∧ s.lockBusy (squadKey w q) = true ∧
      s.taker x w q = some g ∧ q.group? g.pc = some g ∧ handlerPc (s.launch? w.gang.launch) q 6 = some pc) ∧
    (∀ b, ∃ (s : State) (x slot : Nat) (w : Workgroup) (q : Squad) (g : Group), s.input = .woundTrap x slot ∧ (s.tile x).wg = some w ∧
      w.squad? slot = some q ∧ q.wound = true ∧ q.intrap = false ∧ q.ended = false ∧ s.lockBusy (squadKey w q) = true ∧ Inv s ∧ q.live ≠ 0 ∧
      s.locate (squadKey w q) = some (x, slot) ∧ s.taker x w q = some g ∧ q.group? g.pc = some g ∧
      handlerPc (s.launch? w.gang.launch) q 6 = none ∧ q.spanned = b ∧ q.span.isSome = true) ∧
    (∃ (s : State) (x slot : Nat) (w : Workgroup) (q : Squad) (g : Group) (e : EngineTrap) (pc : DWord), s.input = .asyncTrapEntry x slot ∧
      (s.tile x).wg = some w ∧ w.squad? slot = some q ∧ q.wound = false ∧ q.intrap = false ∧ s.taker x w q = some g ∧
      q.group? g.pc = some g ∧ (q.engine = some e ∨ (q.engine = none ∧ q.late = some e)) ∧ e.number < 256 ∧
      handlerPc (s.launch? w.gang.launch) q e.number = some pc) ∧
    (∃ (s : State) (k : SquadKey) (e : EngineTrap) (x slot : Nat) (w : Workgroup) (q : Squad), s.input = .engineTrapArrival k e ∧
      s.locate k = some (x, slot) ∧ (s.tile x).wg = some w ∧ w.squad? slot = some q ∧ q.engine = none ∧ q.ended = false ∧
      s.goesOn w.gang.launch = true) ∧
    (∃ (s : State) (k : SquadKey) (e : EngineTrap) (x slot : Nat) (w : Workgroup) (q : Squad) (h : EngineTrap), s.input = .engineTrapArrival k e ∧
      s.locate k = some (x, slot) ∧ (s.tile x).wg = some w ∧ w.squad? slot = some q ∧ q.engine = some h ∧
      s.goesOn w.gang.launch = true) ∧
    (∃ (s : State) (k : SquadKey) (e : EngineTrap), s.input = .engineTrapArrival k e ∧ s.locate k = none ∧ e.seq ≠ 0 ∧
      s.faultWard (((s.launch? k.gang.launch).map (·.ward)).getD 0) = none ∧ s.launch? k.gang.launch = none) ∧
    (∃ (s : State) (x : Nat) (w : Workgroup) (q : Squad) (g : Group), s.input = .poolEntryReclaim x ∧ (s.tile x).wg = some w ∧
      s.yielder x w = some (q, g)) ∧
    ∃ (s : State) (x slot t0 : Nat), s.input = .skewHoldTimeout x ∧ (s.tile x).skew = some (slot, t0) ∧ t0 + 2048 ≤ s.coreCycles := by
  let e : EngineTrap := ⟨16, 0, 0, 0, 1⟩
  let wounded (s : State) : State := { s.updSquad 0 0 fun q => { q with wound := true } with locks := [] }
  let parked (q : Squad) : Squad := { q with
    groups := [held 0xF 0 (.pool 0) (some (.qpop 5)) 0, held 0xFFFFFFF0 64 (.parked 0) none 0] }
  let back (o : Outstanding) : State := given (lab fun q => { q with outstanding := [o] }) (.resultWriteback 0 0 0 0x80000000)
  let unhandled (b : Bool) (q : Squad) : Squad := { q with spanned := b, span := some ⟨1, 8, 3, 1⟩ }
  refine ⟨⟨back coming, 0, 0, 0, _, _, coming, rfl, rfl, rfl, 7, rfl, rfl, rfl⟩,
    ⟨back comingPair, 0, 0, 0, _, _, comingPair, rfl, rfl, rfl, 6, 7, rfl, rfl, rfl, rfl⟩,
    ⟨back comingWhole, 0, 0, 0, _, _, comingWhole, rfl, rfl, rfl, 7, rfl, rfl, rfl⟩,
    ⟨given { lab (waiting (.sleep 5 false)) with devclk := 5 } (.sleepTimer 0 0), 0, 0, _, _, rfl, rfl, rfl, 5, rfl, ?_⟩,
    ⟨given (wounded bench) (.woundTrap 0 0), 0, 0, _, _, rfl, rfl, rfl, rfl, rfl, rfl, ?_, ?_⟩,
    ⟨given { wounded (guarded id) with locks := [tensorEntry me .x] } (.woundTrap 0 0), 0, 0, _, _,
      held fullMask 0 .home none 0, 0x800, rfl, rfl, rfl, rfl, rfl, rfl, ?_, ?_, ?_, ?_⟩,
    fun b => ⟨given { wounded (lab (unhandled b)) with locks := [tensorEntry me .x] } (.woundTrap 0 0), 0, 0, _, _,
      held fullMask 0 .home none 0, rfl, rfl, rfl, rfl, rfl, rfl, by cases b <;> decide +kernel, ⟨by cases b <;> decide +kernel, by cases b <;> decide +kernel⟩, by cases b <;> decide +kernel,
      by cases b <;> decide +kernel, by cases b <;> decide +kernel, by cases b <;> decide +kernel, by cases b <;> decide +kernel, rfl, rfl⟩,
    ⟨given (guarded fun q => { q with late := some e }) (.asyncTrapEntry 0 0), 0, 0, _, _, held fullMask 0 .home none 0, e, 0x800,
      rfl, rfl, rfl, rfl, rfl, ?_, ?_, .inr ⟨rfl, rfl⟩, ?_, ?_⟩,
    ⟨given bench (.engineTrapArrival me e), me, e, 0, 0, _, _, rfl, ?_, rfl, rfl, rfl, rfl, ?_⟩,
    ⟨given (lab fun q => { q with engine := some e }) (.engineTrapArrival me e), me, e, 0, 0, _, _, e, rfl, ?_, rfl, rfl, rfl, ?_⟩,
    ⟨given bench (.engineTrapArrival goneSquad e), goneSquad, e, rfl, ?_, ?_, ?_, ?_⟩,
    ⟨given { lab parked with coreCycles := 4096 } (.poolEntryReclaim 0), 0, _, parked (bootSquad 0),
      held 0xF 0 (.pool 0) (some (.qpop 5)) 0, rfl, rfl, ?_⟩,
    ⟨given { bench with tiles := [(0, { bench.tile 0 with skew := some (0, 0) })], coreCycles := 2048 } (.skewHoldTimeout 0), 0, 0, 0, rfl,
      rfl, ?_⟩⟩
  all_goals decide +kernel

/-- A walk of the bench's tenant at a virtual address, to be made again. -/
def walked (va level : Nat) (retry : Bool) : Walk := ⟨0, va, false, false, level, 0, retry, { FaultRecord.blank with num := 9 }, 0⟩

/-- The bench with one walk, whose record was raised at 0. -/
def walking (va level : Nat) (retry : Bool) : State := { bench with walks := [walked va level retry] }

theorem ex_ok' {α β : Type} {p : Except α β} (h : p.toOption.isSome = true) : ∃ b, p = .ok b := by cases p <;> simp_all [Except.toOption]
theorem ex_error' {α β : Type} {p : Except α β} {e : α} (h : errorOf p = some e) : p = .error e := by cases p <;> simp_all [errorOf]

/-- The bench with line 8 in the L1 of a tile. -/
def copied (t : Nat) : State :=
  bench.updTile t fun tl => { tl with wg := (bench.tile 0).wg, l1 := [⟨8, List.replicate 128 1, false, 0⟩] }

/-- A walk's answer at its first try again. -/
def walkAnswer (s : State) (k : Walk) : Except MemFault Page := (s.walkFor k.record.tile k.tenant k.mode k.va).2
/-- A walk is made again, where more holds. -/
def rewalked (more : State → Walk → Prop) : Prop :=
  ∃ (s : State) (n : Nat) (k : Walk), s.input = .pageWalkDone n ∧ s.walks[n]? = some k ∧ k.retry = true ∧ more s k

theorem witness_WalkEvents_walks :
    rewalked (fun s k => ∃ p, walkAnswer s k = .ok p) ∧
    (∀ b, rewalked fun s k => s.hostBias = [] ∧ s.walkCarried k.record.tile k.tenant k.va = b) ∧
    rewalked (fun s k => ∃ f, walkAnswer s k = .error f ∧ f.replay = none) ∧
    rewalked (fun s k => ∃ f, walkAnswer s k = .error f ∧ f.replay = some k.level) ∧
    rewalked (fun s k => ∃ f v, walkAnswer s k = .error f ∧ f.replay = some v ∧ v ≠ k.level) :=
  ⟨⟨given (walking 0 3 true) (.pageWalkDone 0), 0, _, rfl, rfl, rfl, ex_ok' (by decide +kernel)⟩,
    fun b => ⟨given { walking 0 3 true with placement := if b then [0] else [1] } (.pageWalkDone 0), 0, _, rfl, rfl, rfl, rfl,
      by cases b <;> decide +kernel⟩,
    ⟨given ((walking 0x40000000 3 true).pokeNum (bootTable + 8) 8 (Config.hbmEnd + 7)) (.pageWalkDone 0), 0, _, rfl, rfl, rfl,
      ⟨9, 128, 0x40000000, none⟩, ex_error' (by decide +kernel), rfl⟩,
    ⟨given (walking 0x40000000 3 true) (.pageWalkDone 0), 0, _, rfl, rfl, rfl, ⟨9, 26, 0x40000000, some 3⟩, ex_error' (by decide +kernel), rfl⟩,
    ⟨given (walking 0x40000000 2 true) (.pageWalkDone 0), 0, _, rfl, rfl, rfl, ⟨9, 26, 0x40000000, some 3⟩, 3, ex_error' (by decide +kernel),
      rfl, by decide⟩⟩

/-- A group of the squad of a tile waits for the page of the walk. -/
def pageWaits (s : State) (k : Walk) (x : Nat) (q : Squad) : Prop :=
  (∃ w, (s.tile x).wg = some w ∧ (s.launch? w.gang.launch).map (·.tenant) = some k.tenant ∧ q ∈ w.squads) ∧
    ∃ g ∈ q.groups, ∃ r, g.blocked = some (.page (k.va / 4096) r)
/-- The walk's time has come. -/
def timedWalk (f : Squad → Squad) : State := given { guarded f with
  walks := [walked 0x40000000 3 false], devclk := 1000000000 } (.replayableFaultTimeout 0)
/-- The bench's group is at no page. -/
def atNoPage (s : State) : Bool := s.tiles.all fun e => e.2.wg.all fun w => w.squads.all fun q => q.groups.all fun g => g.blocked.isNone
/-- The registers of a trap at that page. -/
def pageRegs : TrapRegs := { (bootSquad 0).trap with num := 9, addr := 0x40000000 }

theorem witness_WalkEvents_timeouts :
    (∃ (s : State) (n : Nat) (k : Walk), s.input = .replayableFaultTimeout n ∧ s.walks[n]? = some k ∧ k.raised + 10 ^ 9 ≤ s.devclk.toNat ∧
      ∀ x q, ¬pageWaits s k x q) ∧
    ∃ (s : State) (n : Nat) (k : Walk) (x : Nat) (w : Workgroup) (q : Squad) (g : Group) (r : TrapRegs) (pc : DWord),
      s.input = .replayableFaultTimeout n ∧ s.walks[n]? = some k ∧ k.raised + 10 ^ 9 ≤ s.devclk.toNat ∧ (s.tile x).wg = some w ∧
      (s.launch? w.gang.launch).map (·.tenant) = some k.tenant ∧ w.squad? q.slot = some q ∧ q.stopped = false ∧
      (∀ y p, pageWaits s k y p → y = x ∧ p.slot = q.slot) ∧
      (q.groups.findSome? fun h => if q.runs h then (h.pageTrap (k.va / 4096)).map fun r => (h, r) else none) = some (g, r) ∧
      q.group? g.pc = some g ∧ handlerPc (s.launch? w.gang.launch) q r.num.toNat = some pc := by
  let b : Blocked := .page (0x40000000 / 4096) pageRegs
  refine ⟨⟨timedWalk id, 0, _, rfl, rfl, by decide +kernel, fun x q ⟨⟨w, hw, _, hq⟩, g, hg, r, hr⟩ => ?_⟩,
    ⟨timedWalk (waiting b), 0, _, 0, _, waiting b (bootSquad 0), ⟨fullMask, 0, .home, none, some b, 0, 0, 0, [], 0, some (bootSquad 0).sources⟩,
      pageRegs, 0x800, rfl, rfl, by decide +kernel, rfl, by decide +kernel, rfl, rfl, fun y p ⟨⟨w, hw, _, hp⟩, _⟩ => ?_, by decide +kernel,
      by decide +kernel, by decide +kernel⟩⟩
  · have h := every_wg (fun _ w => w.squads.all fun q => q.groups.all fun g => g.blocked.isNone)
      (show atNoPage (timedWalk id) = true by decide +kernel) x w hw
    have := List.all_eq_true.1 (List.all_eq_true.1 h q hq) g hg
    simp [hr] at this
  · have h := every_wg (fun y w => y == 0 && w.squads.all fun q => q.slot == 0)
      (show ((timedWalk (waiting b)).tiles.all fun e => e.2.wg.all fun w => e.1 == 0 && w.squads.all fun q => q.slot == 0) = true by
        decide +kernel) y w hw
    simp only [Bool.and_eq_true, beq_iff_eq] at h
    exact ⟨h.1, by simpa [waiting, bootSquad] using List.all_eq_true.1 h.2 p hp⟩

theorem witness_WalkEvents_probes :
    (∃ (s : State) (x a peer : Nat) (w : Workgroup), s.input = .peerProbe x a peer false ∧ (s.tile x).wg = some w ∧
      (s.l1Copy x (s.tenantOf w) a false).isSome = true) ∧
    ∃ (s : State) (x a peer : Nat) (w : Workgroup) (l : L1Line), s.input = .peerProbe x a peer true ∧ (s.tile x).wg = some w ∧
      s.l1Copy x (s.tenantOf w) a true = none ∧ s.peerLine peer (s.tenantOf w) (a / 128) = some l :=
  ⟨⟨given (copied 0) (.peerProbe 0 1151 1 false), 0, 1151, 1, _, rfl, rfl, by decide +kernel⟩,
    ⟨given (copied 1) (.peerProbe 0 1151 1 true), 0, 1151, 1, _, ⟨8, List.replicate 128 1, false, 0⟩, rfl, rfl, by decide +kernel, by decide +kernel⟩⟩

/-- A replicated entry of the first region with its home at tile 0. -/
def entry (st : RegionState) : RegionEntry := { RegionEntry.fresh ⟨0, 0⟩ 0 0 with state := st, rptr := [5, 63, 63, 63] }
/-- The bench with region entries. -/
def regional (es : List RegionEntry) : State := { bench with regions := es, fabricCycles := 65536 }
/-- An entry that its reticle 1 accesses most, both halves written. -/
def drawn : RegionEntry := { RegionEntry.fresh ⟨0, 0⟩ 0 0 with wlo := true, whi := true, cnt := [64, 0, 0, 0], cret := [1, 63, 63, 63] }

/-- An entry that its hint does not keep, and that no change holds. -/
def free (e : RegionEntry) : Prop := e.state ≠ .pinned ∧ e.state ≠ .streaming ∧ e.hold = false
/-- A region is evaluated where more holds. -/
def evaluates (more : State → RegionEntry → Prop) : Prop :=
  ∃ (s : State) (k : RegionKey) (e : RegionEntry), s.input = .regionEvaluation k ∧ s.regionOf? k = some e ∧
    e.evaluated + 2 ^ 16 ≤ s.fabricCycles ∧ (∀ r ∈ s.regions, r.key ≠ k → r.quiet ≠ 15) ∧ 2 * s.regions.length ≤ 32768 ∧ more s e
/-- An entry that two reticles read, with writes to its halves. -/
def shared (lo hi : Bool) : RegionEntry :=
  { RegionEntry.fresh ⟨0, 0⟩ 0 0 with wlo := lo, whi := hi, cnt := [16, 16, 0, 0], cret := [0, 1, 63, 63] }

theorem witness_RegionEvents_merge :
    ∃ (s : State) (k : RegionKey) (e o : RegionEntry), s.input = .regionEvaluation k ∧ s.regionOf? k = some e ∧
      e.evaluated + 2 ^ 16 ≤ s.fabricCycles ∧ s.evaluate e = s.setRegion (e.endEval false s.fabricCycles) ∧
      (s.regions.map (·.key)).Nodup ∧ 14 ≤ e.quiet ∧ o ∈ s.regions ∧ o.quiet = 15 ∧ e.hold = false ∧ o.hold = false ∧
      k.level ≠ 0 ∧ o.key.level = k.level ∧ o.key.base ≠ k.base ∧ o.key.base / (2 * k.size) = k.base / (2 * k.size) ∧
      (∀ r ∈ s.regions, r.key.level = k.level → r.key.base / (2 * k.size) = k.base / (2 * k.size) → r = e ∨ r = o) ∧
      o.state = e.state ∧ o.loc = e.loc ∧ o.rptr = e.rptr ∧ o.coarse = e.coarse ∧ o.rhint = e.rhint ∧ o.owner = e.owner ∧
      0 < e.cnt.getD 0 0 ∧ 0 < o.cnt.getD 0 0 :=
  let e : RegionEntry := { RegionEntry.fresh ⟨32768, 1⟩ 0 0 with quiet := 14, wlo := true, whi := true, cnt := [9, 0, 0, 0], cret := [0, 63, 63, 63] }
  let o : RegionEntry := { RegionEntry.fresh ⟨0, 1⟩ 0 0 with quiet := 15, cnt := [9, 5, 0, 0], cret := [41, 0, 63, 63] }
  ⟨given (regional [o, e]) (.regionEvaluation ⟨32768, 1⟩), ⟨32768, 1⟩, e, o, rfl, rfl, by decide, by decide +kernel, by decide +kernel, by decide,
    .head _, rfl, rfl, rfl, by decide, rfl, by decide, by decide +kernel, by decide +kernel, rfl, rfl, rfl, rfl, rfl, rfl, by decide, by decide⟩

theorem witness_RegionEvents :
    (∃ (s : State) (a : Access), s.input = .anchorRequest a ∧ s.verdict a.tile a.address false = .ok ∧ Inv s ∧ a.kind = .load) ∧
    (∃ (s : State) (a : Access) (bs : List Byte), s.input = .anchorRequest a ∧ s.verdict a.tile a.address false = .ok ∧ Inv s ∧ a.kind = .store bs) ∧
    (∃ (s : State) (a : Access) (l : Nat), s.input = .anchorRequest a ∧ s.verdict a.tile a.address false = .wait l) ∧
    evaluates (fun _ e => e.state = .pinned) ∧
    evaluates (fun s e => free e ∧ e.wlo = false ∧ e.whi = false ∧ 2 ≤ e.readers.length ∧ e.rptr.length = 4 ∧ (∀ q ∈ e.readers, q < 42) ∧
      ∃ q ∈ e.readers, q ≠ reticleOf e.loc ∧ (s.targetBank q e.loc).isSome = true ∧ e.covers q = false) ∧
    evaluates (fun s e => free e ∧ e.wlo ≠ e.whi ∧ 2 ≤ e.readers.length ∧ e.key.level < 9 ∧
      ∃ l ∈ s.wc, (⟨e.key.base, e.key.level + 1⟩ : RegionKey).has (128 * l.line) = true) ∧
    evaluates (fun s e => free e ∧ e.wlo = true ∧ e.whi = true ∧ ∃ b, s.moveTarget e = some b) ∧
    evaluates (fun s e => free e ∧ e.wlo = true ∧ e.whi = true ∧ s.moveTarget e = none) ∧
    (∃ (s : State) (k : RegionKey) (e : RegionEntry) (b : Nat), s.input = .moveOrder k ∧ e ∈ s.regions ∧ e.key = k ∧ 0 < k.size ∧ e.moveTo = some b) ∧
    (∃ (s : State) (k : RegionKey) (e : RegionEntry) (b : Nat), s.input = .migrationTransfer k ∧ e ∈ s.regions ∧ e.key = k ∧ 0 < k.size ∧
      e.moveTo = some b) ∧
    (∃ (s : State) (k : RegionKey) (e : RegionEntry) (b : Nat), s.input = .moveAck k ∧ s.regions[0]? = some e ∧ e.key.meets k = true ∧
      e.moveTo = some b ∧ s.wc.length + s.replicas.length ≤ 16 ∧ ∃ l, e.key.has (128 * l) = true ∧ (∃ x ∈ s.wc, x.line = l)) ∧
    (∃ (s : State) (k : RegionKey) (r : Nat), s.input = .replicaInvalidate k r) ∧
    (∃ (s : State) (k : RegionKey) (r : Nat) (e : RegionEntry), s.input = .invalidationAck k r ∧ s.regions[0]? = some e ∧ e.key.meets k = true ∧
      r ∈ e.acks) ∧
    (∃ (s : State) (k : RegionKey) (r line : Nat) (e : RegionEntry), s.input = .replicaFillArrival k r line ∧ s.region? (128 * line) = some e ∧
      e.state = .replicated ∧ e.hold = false ∧ e.covers r = true ∧ s.lineBad (128 * line) = false ∧ s.inHostBias (128 * line) = false ∧
      s.wc.length + s.replicas.length < 16) ∧
    ∃ (s : State) (k : RegionKey) (r line : Nat) (e : RegionEntry), s.input = .replicaFillArrival k r line ∧ s.region? (128 * line) = some e ∧
      e.state ≠ .replicated := by
  let k : RegionKey := ⟨0, 0⟩
  let moving : RegionEntry := { drawn with moveTo := some 3, hold := true }
  let map := bench.street ++ [(reticleTile 1 (localIndex 0), 0x2007#32)]
  let wide (e : RegionEntry) : State := { regional [e] with street := map, streetNext := map, wc := [line8] }
  refine ⟨⟨given bench (.anchorRequest ⟨0, 4092, 4, .load⟩), _, rfl, ?_, ⟨?_, ?_⟩, rfl⟩,
    ⟨given bench (.anchorRequest ⟨0, 4092, 4, .store [1, 2, 3, 4]⟩), _, _, rfl, ?_, ⟨?_, ?_⟩, rfl⟩,
    ⟨given { bench with flipping := [0] } (.anchorRequest ⟨0, 4092, 4, .load⟩), _, 31, rfl, ?_⟩,
    ⟨given (regional [entry .pinned]) (.regionEvaluation k), _, _, rfl, rfl, ?_, ?_, ?_, rfl⟩,
    ⟨given (wide (shared false false)) (.regionEvaluation k), _, shared false false, rfl, rfl, ?_, ?_, ?_, ⟨?_, ?_, rfl⟩, rfl, rfl, ?_⟩,
    ⟨given (wide (shared true false)) (.regionEvaluation k), _, shared true false, rfl, rfl, ?_, ?_, ?_, ⟨?_, ?_, rfl⟩, ?_⟩,
    ⟨given (wide drawn) (.regionEvaluation k), _, drawn, rfl, rfl, ?_, ?_, ?_, ⟨?_, ?_, rfl⟩, rfl, rfl, reticleTile 1 (localIndex 0), ?_⟩,
    ⟨given (regional [shared true true]) (.regionEvaluation k), _, shared true true, rfl, rfl, ?_, ?_, ?_, ⟨?_, ?_, rfl⟩, rfl, rfl, ?_⟩,
    ⟨given (regional [moving]) (.moveOrder k), _, moving, 3, rfl, List.mem_cons_self, rfl, ?_, rfl⟩,
    ⟨given (regional [moving]) (.migrationTransfer k), _, moving, 3, rfl, List.mem_cons_self, rfl, ?_, rfl⟩,
    ⟨given { regional [moving] with wc := [line8] } (.moveAck k), _, moving, 3, rfl, rfl, ?_, rfl, ?_, 8, ?_, line8, ?_, rfl⟩, ⟨given (regional []) (.replicaInvalidate k 41), _, 41, rfl⟩,
    ⟨given (regional [{ entry .replicated with acks := [5], hold := true }]) (.invalidationAck k 5), _, 5, _, rfl, rfl, ?_, ?_⟩,
    ⟨given (regional [entry .replicated]) (.replicaFillArrival k 5 511), _, 5, 511, _, rfl, rfl, rfl, rfl, ?_, ?_, ?_, ?_⟩,
    ⟨given (regional [entry .resident]) (.replicaFillArrival k 5 511), _, 5, 511, _, rfl, rfl, ?_⟩⟩
  all_goals decide +kernel

/-- A job of a kind at a stage, with writes to land. -/
def job (id : Nat) (kind : JobKind) (st : JobStage) (ws : List JobWrite) : Job :=
  { id := id, slot := 0, seq := 1, site := 0, kind := kind, stage := st, waitSince := none, writes := ws, segs := (bootSquad 0).segs
    read := [], fills := [] }
/-- The bench with jobs. -/
def tasked (js : List Job) : State := inGroup (fun w => { w with jobs := js, nextJob := js.length }) id
/-- The context of a job of the bench. -/
def ctxOf (j : Job) : JobCtx := ⟨0, { bootWorkgroup 0 with jobs := [j], nextJob := 1 }, j, 0⟩
/-- One group of the junction table, of the bench's tenant. -/
def junction (reduced : Bool) (ms : List Joined) : Junction :=
  { tenant := 0, key := 5, op := 0, len := 128, chunk := 1, nlocal := 1, npeer := 0, peers := 0, members := ms, contributions := []
    reduced := reduced, failed := false, rebuilds := 0 }

theorem witness_JobEvents :
    (∃ (s : State) (x id : Nat) (w : Workgroup) (j : Job) (c : BitVec 1024) (ws : List JobWrite), s.input = .jobStart x id ∧
      s.job? x id = some (w, j) ∧ j.kind = .copy c ∧ s.mayStart w j = true ∧ ∃ e, (⟨x, w, j, s.tenantOf w⟩ : JobCtx).plan s c = (e, .ok ws)) ∧
    (∃ (s : State) (x id : Nat) (w : Workgroup) (j : Job) (c : BitVec 1024) (f : MemFault) (p : Bool), s.input = .jobStart x id ∧
      s.job? x id = some (w, j) ∧ j.kind = .copy c ∧ s.mayStart w j = true ∧ f.replay = none ∧
      ∃ e, (⟨x, w, j, s.tenantOf w⟩ : JobCtx).plan s c = (e, .fault f p)) ∧
    (∃ (s : State) (x id : Nat) (w : Workgroup) (j : Job) (y : JobWrite) (r : List JobWrite), s.input = .jobWriteLand x id ∧
      (∃ c, j.kind = .copy c) ∧ s.job? x id = some (w, j) ∧ j.stage = .started ∧ j.writes = y :: r ∧ y.copy = none ∧ y.bytes ≠ [] ∧
      ∃ e, s.engineWrite (s.writeSource x w y) w j.segs (s.tenantOf w) y.space j.swz y.member y.offset y.bytes = (e, .ok [])) ∧
    (∃ (s : State) (x id : Nat) (w : Workgroup) (j : Job) (y : JobWrite) (r : List JobWrite), s.input = .collectiveChunkLand x id ∧
      (∃ c, j.kind = .collective c) ∧ s.job? x id = some (w, j) ∧ j.stage = .started ∧ j.writes = y :: r ∧ y.copy = none ∧ y.bytes ≠ [] ∧
      ∃ e, s.engineWrite (s.writeSource x w y) w j.segs (s.tenantOf w) y.space j.swz y.member y.offset y.bytes = (e, .ok [])) ∧
    (∃ (s : State) (x id : Nat) (w : Workgroup) (j : Job) (c : BitVec 1024), s.input = .jobComplete x id ∧ Inv s ∧ s.job? x id = some (w, j) ∧
      j.stage = .started ∧ j.writes = [] ∧ j.kind = .copy c ∧ cardEvt c = false) ∧
    (∃ (s : State) (x id : Nat) (w : Workgroup) (j : Job) (c : BitVec 1024), s.input = .jobComplete x id ∧ Inv s ∧ s.job? x id = some (w, j) ∧
      j.stage = .started ∧ j.writes = [] ∧ j.kind = .copy c ∧ cardEvt c = true ∧ w.q3.count = 63 ∧ w.q3.bind = none) ∧
    (∃ (s : State) (x id : Nat) (w : Workgroup) (j : Job) (c : BitVec 1024), s.input = .jobComplete x id ∧ Inv s ∧ s.job? x id = some (w, j) ∧
      j.stage = .started ∧ j.writes = [] ∧ j.kind = .copy c ∧ cardEvt c = true ∧ w.q3.count = 64) ∧
    (∃ (s : State) (x id : Nat) (w : Workgroup) (j : Job) (c : BitVec 1024), s.input = .jobComplete x id ∧ s.job? x id = some (w, j) ∧
      j.stage = .started ∧ j.writes = [] ∧ j.kind = .collective c ∧ s.reducedJob x id = true) ∧
    (∃ (s : State) (x id num detail addr : Nat) (w : Workgroup) (j : Job), s.input = .jobStop x id ∧ s.job? x id = some (w, j) ∧
      j.stage = .faulted num detail addr) ∧
    (∃ (s : State) (x id n : Nat) (w : Workgroup) (j : Job) (c : MatrixCmd), s.input = .followOnIssue x id ∧ (s.tile x).wg = some w ∧
      w.nextCommand = some (j, c, some n) ∧ j.id = id ∧ ∀ k ∈ w.jobs, k.id ≠ n) ∧
    ∃ (bs : List Byte) (k i : Nat), bs.length = 128 ∧ k < 32 ∧ i < 32 := by
  let copy := job 0 (.copy (copyCard 0)) .queued []
  let far := job 0 (.copy (copyCard 0 + BitVec.ofNat 1024 (2 ^ 64 * 3969))) .queued []
  let y : JobWrite := ⟨2, 4095, none, [7], 1, [], none⟩
  let done (c : BitVec 1024) := job 0 (.copy c) .started []
  let full (n : Nat) (j : Job) : State := inGroup (fun w => { w with jobs := [j], nextJob := 1, q3 := ⟨n, 63, 0, 0, none⟩ }) id
  refine ⟨⟨given (tasked [copy]) (.jobStart 0 0), 0, 0, _, copy, copyCard 0, [⟨2, 256, none, List.replicate 128 0, 128, [], none⟩], rfl, rfl, rfl, ?_, ex_served _ _ ?_⟩,
    ⟨given (tasked [far]) (.jobStart 0 0), 0, 0, _, far, _, ⟨5, 0, 3969, none⟩, false, rfl, rfl, rfl, ?_, rfl, ex_fault _ _ _ ?_⟩,
    ⟨given (tasked [job 0 (.copy (copyCard 0)) .started [y]]) (.jobWriteLand 0 0), 0, 0, _, _, y, [], rfl, ⟨_, rfl⟩, rfl, rfl, rfl, rfl, ?_,
      ex_served _ _ ?_⟩,
    ⟨given (tasked [job 0 (.collective collectiveCard) .started [y]]) (.collectiveChunkLand 0 0), 0, 0, _, _, y, [], rfl, ⟨_, rfl⟩, rfl, rfl, rfl, rfl,
      ?_, ex_served _ _ ?_⟩,
    ⟨given (tasked [done (copyCard 0)]) (.jobComplete 0 0), 0, 0, _, _, _, rfl, ⟨?_, ?_⟩, rfl, rfl, rfl, rfl, ?_⟩,
    ⟨given (full 63 (done (copyCard 0x10))) (.jobComplete 0 0), 0, 0, _, _, _, rfl, ⟨?_, ?_⟩, rfl, rfl, rfl, rfl, ?_, rfl, rfl⟩,
    ⟨given (full 64 (done (copyCard 0x10))) (.jobComplete 0 0), 0, 0, _, _, _, rfl, ⟨?_, ?_⟩, rfl, rfl, rfl, rfl, ?_, rfl⟩,
    ⟨given { tasked [job 0 (.collective collectiveCard) .started []] with junctions := [(0, junction true [⟨0, 0, 0, []⟩])] } (.jobComplete 0 0), 0, 0,
      _, _, _, rfl, rfl, rfl, rfl, rfl, ?_⟩,
    ⟨given (tasked [job 0 (.copy (copyCard 0)) (.faulted 5 0 4096) []]) (.jobStop 0 0), 0, 0, 5, 0, 4096, _, _, rfl, rfl, rfl⟩,
    ⟨given (tasked [job 1 (.matrix ⟨.zero, 0, 0, 0⟩ (some 0)) .queued []]) (.followOnIssue 0 1), 0, 1, 0, _, _, _, rfl, rfl, rfl, rfl, ?_⟩,
    ⟨List.replicate 128 0, 31, 31, ?_, ?_, ?_⟩⟩
  all_goals decide +kernel

theorem witness_JobEvents_block :
    ∃ (s : State) (k : JobCtx) (w : Workgroup) (j : Job) (sp : Nat) (e : Int) (bs : List Byte), s.job? k.tile k.job.id = some (w, j) ∧
      (j.read.find? fun x => x.1 = sp ∧ x.2.1 = engineStart k.job.segs sp e / (if 2 ≤ sp then 64 else 128)) =
        some (sp, engineStart k.job.segs sp e / (if 2 ≤ sp then 64 else 128), bs) :=
  let j : Job := { job 0 (.copy (copyCard 0)) .queued [] with read := [(2, 0, List.replicate 64 7)] }
  ⟨tasked [j], ctxOf j, _, j, 2, 63, List.replicate 64 7, rfl, by decide +kernel⟩

/-- The bench's array with a command, and the state of accumulator tile 7. -/
def arrayed (op : MatrixOp) (av bv : Word) (a : AccTile) : State :=
  inGroup (fun w => { w with accs := w.accs.set 7 a, jobs := [job 0 (.matrix ⟨op, 7, av, bv⟩ none) .queued []], nextJob := 1 }) id

theorem ex_pair {α β : Type} (p : α × β) : ∃ a b, p = (a, b) := ⟨p.1, p.2, rfl⟩

/-- The clauses on the state table name every state and command; their boundary values are those of `mxchBegin`. -/
theorem witness_MatrixEvents :
    (∃ (s : State) (x : Nat) (w : Workgroup) (j : Job) (c : MatrixCmd), s.input = .matrixCommandAct x ∧ (s.tile x).wg = some w ∧
      w.mayAct = some (j, c) ∧ ∃ e r, s.matrixAct x w c = (e, r)) ∧
    (∃ (s : State) (w : Workgroup) (c : MatrixCmd), (s.tile 0).wg = some w ∧ c.op = .openChain ∧ (w.acc c.tile).st = .idle ∧ -1024 ≤ c.av.toInt ∧
      c.av.toInt ≤ 1023 ∧ c.bv.toNat % 256 < 6) ∧
    (∃ c : MatrixCmd, c.op = .openChain ∧ (c.av.toInt < -1024 ∨ 1023 < c.av.toInt)) ∧
    (∃ c : MatrixCmd, c.op = .openChain ∧ -1024 ≤ c.av.toInt ∧ c.av.toInt ≤ 1023 ∧ 6 ≤ c.bv.toNat % 256) ∧
    ∃ (s : State) (x k : Nat) (w : Workgroup), s.input = .mxstSumsArrive x ∧ (s.tile x).wg = some w ∧ k < 8 ∧ (w.acc k).sums ≠ [] ∧
      ∀ i, i < k → (w.acc i).sums = [] :=
  let s := given (arrayed .openChain 1023 5 AccTile.idle) (.matrixCommandAct 0)
  ⟨⟨s, 0, _, _, _, rfl, rfl, rfl, ex_pair _⟩, ⟨s, _, ⟨.openChain, 7, -1024, 5⟩, rfl, rfl, rfl, by decide, by decide, by decide⟩,
    ⟨⟨.openChain, 7, -1025, 5⟩, rfl, by decide⟩, ⟨⟨.openChain, 7, 1023, 6⟩, rfl, by decide⟩,
    ⟨given (arrayed .zero 0 0 { AccTile.idle with sums := [(65535, 1)] }) (.mxstSumsArrive 0), 0, 7, _, rfl, rfl, by decide, by decide +kernel,
      by decide +kernel⟩⟩

/-- The workgroup of the bench with accumulator tile 7, a latch and a scratchpad that begins with a block's header. -/
def blocked (head : Nat) (a : AccTile) (l : Option Latch) : State :=
  (inGroup (fun w => { w with accs := w.accs.set 7 a, latch := l }) id).pokeNum (spadKey 0 0x400) 4 head
/-- A block of one BF16 column of zeros, as it stands in scratchpad. -/
def zeroBlock : List Byte := [1, 0, 1, 4] ++ List.replicate 92 0
/-- Tile 7 in a chain of BF16. -/
def chained (st : AccState) : AccTile := { AccTile.idle with st := st, format := 4 }
/-- A tile with one row sum that its elements do not have, and one with two. -/
def unsound (n : Nat) : AccTile := { AccTile.idle with cr := (List.range n).map fun j => (j, 1) }

theorem block_of {e : Except MatrixFault (List Byte)} {bs : List Byte} (h : e.toOption = some bs) : e = .ok bs := by
  cases e <;> simp_all [Except.toOption]

theorem latch_of {e : Except MatrixFault Latch} {l : Latch} (h : e.toOption = some l) : e = .ok l := by
  cases e <;> simp_all [Except.toOption]

/-- The checks of a block at their boundaries, a block that passes, and each state that a block is latched in. -/
theorem witness_MatrixEvents_blocks :
    (∃ (s : State) (w : Workgroup) (off : Nat), (s.tile 0).wg = some w ∧ (nth (s.ownBytes w off 32) 3).toNat = 6) ∧
    (∃ (s : State) (w : Workgroup) (off : Nat) (format : BitVec 8), (s.tile 0).wg = some w ∧
      (nth (s.ownBytes w off 32) 3).toNat = 5 ∧ format.toNat = 5 ∧
      leValue ((s.ownBytes w off 32).take 2) = 257) ∧
    (∃ (s : State) (w : Workgroup) (off : Nat) (format : BitVec 8), (s.tile 0).wg = some w ∧
      (nth (s.ownBytes w off 32) 3).toNat = 0 ∧ format.toNat = 0 ∧
      (nth (s.ownBytes w off 32) 2).toNat = 9) ∧
    (∀ st : AccState, st = .openChain ∨ st = .loaded →
      (∃ (s : State) (w : Workgroup) (c : MatrixCmd) (f : MatrixFault), (s.tile 0).wg = some w ∧ c.tile < w.accs.length ∧ c.op = .loadWeights ∧
        (w.acc c.tile).st = st ∧ s.readBlock w c.av.toNat (w.acc c.tile).format = .error f) ∧
      ∃ (s : State) (w : Workgroup) (c : MatrixCmd) (bs : List Byte), (s.tile 0).wg = some w ∧ c.tile < w.accs.length ∧ c.op = .loadWeights ∧
        (w.acc c.tile).st = st ∧ s.readBlock w c.av.toNat (w.acc c.tile).format = .ok bs) := by
  refine ⟨⟨blocked 0x06010001 AccTile.idle none, _, 0, rfl, ?_⟩, ⟨blocked 0x05010101 AccTile.idle none, _, 0, 5, rfl, ?_, rfl, ?_⟩,
    ⟨blocked 0x00090001 AccTile.idle none, _, 0, 0, rfl, ?_, rfl, ?_⟩, ?_⟩
  rotate_right
  · rintro st (rfl | rfl)
    · exact ⟨⟨blocked 0 (chained .openChain) none, _, ⟨.loadWeights, 7, 0, 0⟩, matrixFault MatrixCode.fmt 0, rfl, by decide +kernel, rfl,
        by decide +kernel, by rfl⟩, blocked 0x04010001 (chained .openChain) none, _, ⟨.loadWeights, 7, 0, 0⟩, zeroBlock, rfl, by decide +kernel,
        rfl, by decide +kernel, block_of (by decide +kernel)⟩
    · exact ⟨⟨blocked 0 (chained .loaded) none, _, ⟨.loadWeights, 7, 0, 0⟩, matrixFault MatrixCode.fmt 0, rfl, by decide +kernel, rfl,
        by decide +kernel, by rfl⟩, blocked 0x04010001 (chained .loaded) none, _, ⟨.loadWeights, 7, 0, 0⟩, zeroBlock, rfl, by decide +kernel,
        rfl, by decide +kernel, block_of (by decide +kernel)⟩
  all_goals decide +kernel

/-- A stream of one row of zeros, and drains of a row: with and without an object, of a sound, a correctable and a lost tile. -/
theorem witness_MatrixEvents_runs :
    (∃ (s : State) (w : Workgroup) (c : MatrixCmd) (l : Latch), (s.tile 0).wg = some w ∧ c.tile < w.accs.length ∧ c.op = .stream ∧
      (w.acc c.tile).st = .loaded ∧ c.bv.toNat % 256 = (w.acc c.tile).format.toNat ∧ bitsOf c.bv.toNat 13 8 = 32 ∧
      bitsOf c.bv.toNat 18 14 = 0 ∧ w.latch = some l ∧ l.offset = (w.acc c.tile).waddr ∧ l.format = (w.acc c.tile).format ∧
      w.pastEnd c.av.toNat (32 * (blockShape l.bytes).rb) = false ∧
      ∀ i, i < 32 → (streamRow (blockShape l.bytes) (s.ownBytes w c.av.toNat (32 * (blockShape l.bytes).rb)) i).badScale = false ∧
        (streamRow (blockShape l.bytes) (s.ownBytes w c.av.toNat (32 * (blockShape l.bytes).rb)) i).badValue = false) ∧
    ∀ (n : Nat) (object : Bool), n < 3 →
      ∃ (s : State) (w : Workgroup) (c : MatrixCmd), (s.tile 0).wg = some w ∧ c.tile < w.accs.length ∧ c.op = .drain ∧
        (w.acc c.tile).st ≠ .uncfg ∧ bitsOf c.bv.toNat 12 7 = 1 ∧ bitsOf c.bv.toNat 6 2 = 31 ∧
        w.pastEnd c.av.toNat (1 * 256 * drainSize (c.bv.toNat % 4)) = false ∧ bitOf c.bv.toNat 14 = object ∧
        (s.drainObject w c.bv.toNat).isSome = true ∧ Inv s ∧
        (w.acc c.tile).check.map (·.2) = (if n = 0 then some false else if n = 1 then some true else none) := by
  refine ⟨⟨blocked 0 (chained .loaded) (some ⟨0, zeroBlock, 4⟩), _, ⟨.stream, 7, 0, 0x2004⟩, ⟨0, zeroBlock, 4⟩, rfl, ?_, rfl, ?_, ?_, rfl, rfl, rfl, ?_, ?_,
    ?_, ?_⟩, fun n object h => ⟨(blocked 0 (unsound n) none).setBarrier (spadKey 0 (0x400 + 2048)) ⟨0, 1, 0, 0, 0, 1, false, false⟩, _,
    ⟨.drain, 7, 0, if object then 0x0020_40FC else 0x0020_00FC⟩, rfl, ?_, rfl, ?_, ?_, ?_, ?_,
    ?_, ?_, ⟨?_, ?_⟩, ?_⟩⟩
  all_goals first
    | decide +kernel
    | (revert object; revert h; revert n; decide +kernel)

/-- A stream whose tile's block is not in force is checked again: it fails, or is latched; and rows past the allocation's end. -/
theorem witness_MatrixEvents_relatch :
    (∀ l : Option Latch, l = none ∨ l = some ⟨0, zeroBlock, 5⟩ → ∃ (s : State) (w : Workgroup) (a : AccTile), w.latch = l ∧
      (∀ l, w.latch = some l → l.offset ≠ a.waddr ∨ l.format ≠ a.format) ∧ ∃ bs, s.readBlock w a.waddr a.format = .ok bs) ∧
    ∀ bad : Bool, ∃ (s : State) (w : Workgroup) (c : MatrixCmd), (s.tile 0).wg = some w ∧ c.tile < w.accs.length ∧ c.op = .stream ∧
      (w.acc c.tile).st = .loaded ∧ c.bv.toNat % 256 = (w.acc c.tile).format.toNat ∧ bitsOf c.bv.toNat 13 8 = 1 ∧ bitsOf c.bv.toNat 18 14 = 0 ∧
      (if bad then ∃ f, s.latched w (w.acc c.tile) = .error f
        else ∃ l, s.latched w (w.acc c.tile) = .ok l ∧ w.pastEnd c.av.toNat (1 * (blockShape l.bytes).rb) = true) := by
  let s := blocked 0x04010001 (chained .loaded) none
  refine ⟨fun l h => ⟨s, { bootWorkgroup 0 with latch := l }, chained .loaded, rfl, ?_, zeroBlock, block_of ?_⟩, fun bad => ?_⟩
  · rcases h with rfl | rfl
    · intro l h; cases h
    · intro l h; cases h; exact .inr (by decide)
  · rcases h with rfl | rfl <;> decide +kernel
  · cases bad
    · exact ⟨s, _, ⟨.stream, 7, 4064, 0x104⟩, rfl, by decide +kernel, rfl, by decide +kernel, by decide +kernel, rfl, rfl,
        ⟨0, zeroBlock, 4⟩, latch_of (by decide +kernel), by decide +kernel⟩
    · exact ⟨blocked 0 (chained .loaded) none, _, ⟨.stream, 7, 0, 0x104⟩, rfl, by decide +kernel, rfl, by decide +kernel, by decide +kernel, rfl,
        rfl, matrixFault MatrixCode.fmt 0, by rfl⟩

/-- The bench with a collective job that waits, and the junction table. -/
def grouped (js : List (Nat × Junction)) : State := { tasked [job 0 (.collective collectiveCard) .queued []] with junctions := js }
/-- Peer 3 is up through port 14. -/
def peered (js : List (Nat × Junction)) : State := { online with junctions := js, peers := [(3, ⟨true, 1#32 <<< 14, 7⟩)] }
/-- What peer 3 sends to the group of key 5. -/
def chunk : PeerChunk := ⟨3, 0, 5, 0, 1, 0, [1]⟩

theorem witness_CollectiveEvents :
    (∃ (s : State) (x id : Nat) (w : Workgroup) (j : Job) (c : BitVec 1024) (bs : List Byte), s.input = .collectiveJoin x id ∧
      s.job? x id = some (w, j) ∧ j.kind = .collective c ∧ s.mayStart w j = true ∧ tabFind (collEntry c) s.junctions = none ∧
      ∃ e, (⟨x, w, j, s.tenantOf w⟩ : JobCtx).read s (collSsp c) (cardField c 0x20 63 0 : Int) (collLen c) = (e, .ok bs)) ∧
    (∃ (s : State) (x id : Nat) (w : Workgroup) (j : Job) (c : BitVec 1024) (g : Junction), s.input = .collectiveJoin x id ∧
      s.job? x id = some (w, j) ∧ j.kind = .collective c ∧ s.mayStart w j = true ∧ tabFind (collEntry c) s.junctions = some g ∧
      g.key ≠ BitVec.ofNat 64 (cardField c 0x08 63 0)) ∧
    (∃ (s : State) (x id : Nat) (w : Workgroup) (j : Job) (c : BitVec 1024) (g : Junction), s.input = .collectiveJoin x id ∧
      s.job? x id = some (w, j) ∧ j.kind = .collective c ∧ s.mayStart w j = true ∧ tabFind (collEntry c) s.junctions = some g ∧
      g.tenant = s.tenantOf w ∧ g.key = BitVec.ofNat 64 (cardField c 0x08 63 0) ∧ ∃ m ∈ g.members, m.rank = collRank c) ∧
    (∃ (s : State) (x id t0 : Nat) (w : Workgroup) (j : Job), s.input = .collectiveJoinTimeout x id ∧ s.job? x id = some (w, j) ∧
      j.stage = .queued ∧ j.waitSince = some t0 ∧ t0 + 2 ^ 20 ≤ s.fabricCycles) ∧
    (∃ (s : State) (n : Nat) (g : Junction), s.input = .collectiveGroupFail n ∧ tabFind n s.junctions = some g ∧
      ∃ m ∈ g.members, s.job? m.tile m.job = none) ∧
    (∃ (s : State) (n : Nat), s.input = .collectiveTreeRebuild n) ∧
    (∃ (s : State) (x : PeerChunk), s.input = .peerChunkArrival x ∧ s.peerUp x.peer = false) ∧
    (∃ (s : State) (x : PeerChunk), s.input = .peerChunkArrival x ∧ s.peerUp x.peer = true ∧ s.checkpoint ≠ none) ∧
    (∃ (s : State) (x : PeerChunk), s.input = .peerChunkArrival x ∧ s.peerUp x.peer = true ∧ s.checkpoint = none ∧ s.groupOf x = none) ∧
    (∃ (s : State) (x : PeerChunk) (n : Nat) (g : Junction), s.input = .peerChunkArrival x ∧ s.peerUp x.peer = true ∧ s.checkpoint = none ∧
      s.groupOf x = some (n, g)) ∧
    (∃ (s : State) (n : Nat) (g : Junction), tabFind n s.junctions = some g ∧ g.reduced = false ∧ g.failed = false ∧
      g.members.length = g.nlocal ∧ g.peersIn = true ∧ ∃ m ∈ g.members, (s.job? m.tile m.job).isSome = true) ∧
    (∃ (s : State) (n : Nat) (g : Junction), s.input = .collectiveGroupFail n ∧ tabFind n s.junctions = some g ∧ g.failed = true ∧
      ∃ m ∈ g.members, (s.job? m.tile m.job).isSome = true) ∧
    (∀ all : Bool, ∃ (s : State) (p : Nat → Bool) (n : Nat) (g : Junction), (s.junctions.map (·.1)).Nodup ∧ tabFind n s.junctions = some g ∧
      (∃ m ∈ g.members, p m.tile = true) ∧ (if all then ∀ m ∈ g.members, p m.tile = true else ∃ m ∈ g.members, p m.tile = false)) ∧
    ∃ c : BitVec 1024, 0 < collChunk c := by
  let peer : Junction := { junction false [] with npeer := 1, peers := 8 }
  refine ⟨⟨given (grouped []) (.collectiveJoin 0 0), 0, 0, _, _, collectiveCard, List.replicate 128 0, rfl, rfl, rfl, ?_, ?_, ex_served _ _ ?_⟩,
    ⟨given (grouped [(0, { junction false [] with key := 6 })]) (.collectiveJoin 0 0), 0, 0, _, _, collectiveCard, _, rfl, rfl, rfl, ?_, rfl, ?_⟩,
    ⟨given (grouped [(0, junction false [⟨0, 5, 5, []⟩])]) (.collectiveJoin 0 0), 0, 0, _, _, collectiveCard, _, rfl, rfl, rfl, ?_, rfl, ?_, ?_, ?_⟩,
    ⟨given { tasked [{ job 0 (.collective collectiveCard) .queued [] with waitSince := some 0 }] with fabricCycles := 2 ^ 20 }
      (.collectiveJoinTimeout 0 0), 0, 0, 0, _, _, rfl, rfl, rfl, rfl, ?_⟩,
    ⟨given (grouped [(255, junction false [⟨0, 0, 9, []⟩])]) (.collectiveGroupFail 255), 255, _, rfl, rfl, _, List.mem_cons_self, ?_⟩,
    ⟨given bench (.collectiveTreeRebuild 255), 255, rfl⟩, ⟨given bench (.peerChunkArrival chunk), _, rfl, ?_⟩,
    ⟨given { peered [] with checkpoint := some ⟨0, 0⟩ } (.peerChunkArrival chunk), _, rfl, ?_, ?_⟩,
    ⟨given (peered []) (.peerChunkArrival chunk), _, rfl, ?_, rfl, ?_⟩,
    ⟨given (peered [(255, peer)]) (.peerChunkArrival chunk), _, 255, peer, rfl, ?_, rfl, ?_⟩,
    ⟨grouped [(0, junction false [⟨0, 0, 0, List.replicate 128 1⟩])], 0, _, rfl, rfl, rfl, rfl, ?_, _, List.mem_cons_self, ?_⟩,
    ⟨given (grouped [(255, { junction false [⟨0, 0, 0, []⟩] with failed := true })]) (.collectiveGroupFail 255), 255, _, rfl, rfl, rfl, _,
      List.mem_cons_self, ?_⟩,
    fun all => ⟨grouped [(255, junction false [⟨0, 0, 0, []⟩, ⟨1, 1, 0, []⟩])], (fun t => all || t = 0), 255, _, ?_, rfl, ⟨_, List.mem_cons_self, ?_⟩,
      ?_⟩,
    ⟨collectiveCard, ?_⟩⟩
  all_goals first | decide +kernel | (cases all <;> decide +kernel)

/-- A job comes to a group of its tenant and key that another rank has entered. -/
def joins (g : Junction) (more : State → BitVec 1024 → JobCtx → Junction → Prop) : Prop :=
  ∃ (s : State) (x id : Nat) (w : Workgroup) (j : Job) (c : BitVec 1024), s.input = .collectiveJoin x id ∧ s.job? x id = some (w, j) ∧
    j.kind = .collective c ∧ s.mayStart w j = true ∧ tabFind (collEntry c) s.junctions = some g ∧ g.tenant = s.tenantOf w ∧
    g.key = BitVec.ofNat 64 (cardField c 0x08 63 0) ∧ more s c ⟨x, w, j, s.tenantOf w⟩ g
/-- The card claims what the group has. -/
def agreed (c : BitVec 1024) (g : Junction) : Bool :=
  g.op = cardField c 0 3 0 && g.len = collLen c && g.chunk = collChunk c && g.nlocal = collLocal c && g.npeer = collPeers c
    && g.peers = BitVec.ofNat 64 (collPeerSet c)

theorem ex_read {α β : Type} {p : α × Served β} {b : β} (h : servedOf p.2 = some b) : ∃ a b, p = (a, .ok b) :=
  (ex_served p b h).elim fun a e => ⟨a, b, e⟩

theorem witness_CollectiveEvents_matches :
    (∃ g, joins g fun s c k g => g.reduced = false ∧ agreed c g = true ∧ (∀ m ∈ g.members, m.rank ≠ collRank c) ∧
      ∃ e bs, k.read s (collSsp c) (cardField c 0x20 63 0 : Int) (collLen c) = (e, .ok bs)) ∧
    joins (junction true []) (fun _ _ _ g => g.reduced = true) ∧
    ∀ g : Junction, g ∈ [{ junction false [] with op := 1 }, { junction false [] with len := 256 }, { junction false [] with chunk := 2 },
      { junction false [] with nlocal := 2 }, { junction false [] with npeer := 1 }, { junction false [] with peers := 1 }] →
        joins g fun _ c _ g => g.reduced = false ∧ agreed c g = false := by
  let card := collectiveCard
  let s (g : Junction) : State := given (grouped [(0, g)]) (.collectiveJoin 0 0)
  refine ⟨⟨junction false [⟨1, 5, 5, []⟩], s (junction false [⟨1, 5, 5, []⟩]), 0, 0, _, _, card, rfl, rfl, rfl, ?_, ?_, rfl, ?_, rfl, ?_, ?_, ?_⟩,
    ⟨s (junction true []), 0, 0, _, _, card, rfl, rfl, rfl, ?_, ?_, rfl, ?_, rfl⟩, ?_⟩
  rotate_left 5
  · exact ex_read (b := List.replicate 128 0) (by decide +kernel)
  rotate_left 3
  · intro g h
    refine ⟨s g, 0, 0, _, _, card, rfl, rfl, rfl, ?_, ?_, ?_, ?_, ?_, ?_⟩
    all_goals (revert g; decide +kernel)
  all_goals decide +kernel

/-- A message area at offset 0 of the first page, with counts. -/
def messaging (items : List DWord) (outTail inTail : Nat) (room : List DWord) : State :=
  (inGroup (fun w => { (w.setBox 5 ⟨room, 0, none⟩) with area := ⟨true, 0, 0, BitVec.ofNat 32 outTail, 0, 0⟩, q4 := ⟨items, 0, none⟩ })
    (withSeg .gseg 0x8000 4096)).pokeNum 0x8080 4 inTail
/-- A sample that tile 0 has taken. -/
def taken : Issued := ⟨0, 0, false, 0, 0, 0, 0, bootGang, 0, 32, 0, 1, false, 0⟩
/-- A lock request for the tensor, and a grant of it. -/
def grant : Grant := ⟨me, tensor, 7, 0⟩

theorem witness_SampleEvents :
    (∃ (s : State) (x : Nat) (y : Issued), s.input = .sample x ∧ (s.sampler.taken.find? fun z => z.tile = x) = some y ∧ Inv s ∧
      s.hostPort s.sampler.setting.port = false) ∧
    ∃ (s : State) (x : Nat) (y : Issued), s.input = .sample x ∧ (s.sampler.taken.find? fun z => z.tile = x) = some y ∧ Inv s ∧
      s.hostPort s.sampler.setting.port = true :=
  let z : Sampler := ⟨⟨0x1000, 6, 1, 10, 1, 0⟩, 2 ^ 32 - 1, [], 0, [taken]⟩
  ⟨⟨given { bench with sampler := z } (.sample 0), 0, taken, rfl, rfl, ⟨by decide +kernel, by decide +kernel⟩, by decide +kernel⟩,
    ⟨given { online with sampler := z } (.sample 0), 0, taken, rfl, rfl, ⟨by decide +kernel, by decide +kernel⟩, by decide +kernel⟩⟩

theorem witness_MessageEvents_reads :
    (∃ (s : State) (x : Nat) (bs : List (Nat × Byte)) (w : Workgroup) (v : List Byte), s.input = .outheadReread x bs ∧ (s.tile x).wg = some w ∧
      w.area.bound = true ∧ w.outRoom = 0 ∧ ∃ s1, (s.windowStores bs).areaBytes x w 0x40 4 = (s1, .ok v)) ∧
    (∃ (s : State) (x : Nat) (bs : List (Nat × Byte)) (w : Workgroup) (v : List Byte), s.input = .intailPoll x bs ∧ (s.tile x).wg = some w ∧
      w.area.bound = true ∧ (w.box 5).items.length < 16 ∧ (BitVec.ofNat 32 (leValue v) - w.area.inHead).toNat = 0 ∧
      ∃ s1, (s.windowStores bs).areaBytes x w 0x80 4 = (s1, .ok v)) ∧
    (∃ (s : State) (x : Nat) (bs : List (Nat × Byte)) (w : Workgroup) (v : List Byte), s.input = .intailPoll x bs ∧ (s.tile x).wg = some w ∧
      w.area.bound = true ∧ (w.box 5).items.length < 16 ∧ (BitVec.ofNat 32 (leValue v) - w.area.inHead).toNat = 17 ∧
      ∃ s1, (s.windowStores bs).areaBytes x w 0x80 4 = (s1, .ok v)) ∧
    (∃ (s : State) (x : Nat) (bs : List (Nat × Byte)) (w : Workgroup) (v : List Byte), s.input = .intailPoll x bs ∧ (s.tile x).wg = some w ∧
      w.area.bound = true ∧ (w.box 5).items.length < 16 ∧ (BitVec.ofNat 32 (leValue v) - w.area.inHead).toNat = 16 ∧
      ∃ s1, (s.windowStores bs).areaBytes x w 0x80 4 = (s1, .ok v)) ∧
    ∃ (s : State) (x : Nat) (w : Workgroup) (v : List Byte), (s.tile x).wg = some w ∧ w.boxes.length = 9 ∧
      ∃ s1, s.areaBytes x w (0x180 + 8 * (w.area.inHead.toNat % 16)) 8 = (s1, .ok v) := by
  let room : List DWord := List.replicate 15 0
  refine ⟨⟨given (messaging [] 16 0 []) (.outheadReread 0 []), 0, [], _, List.replicate 4 0, rfl, rfl, rfl, ?_, ex_served _ _ ?_⟩,
    ⟨given (messaging [] 0 0 room) (.intailPoll 0 []), 0, [], _, [0, 0, 0, 0], rfl, rfl, rfl, ?_, ?_, ex_served _ _ ?_⟩,
    ⟨given (messaging [] 0 17 room) (.intailPoll 0 []), 0, [], _, [17, 0, 0, 0], rfl, rfl, rfl, ?_, ?_, ex_served _ _ ?_⟩,
    ⟨given (messaging [] 0 16 room) (.intailPoll 0 []), 0, [], _, [16, 0, 0, 0], rfl, rfl, rfl, ?_, ?_, ex_served _ _ ?_⟩,
    ⟨messaging [] 0 1 [], 0, _, List.replicate 8 0, rfl, rfl, ex_served _ _ ?_⟩⟩
  all_goals decide +kernel

theorem witness_LockEvents :
    (∃ (s : State) (r : LockRequest), s.input = .lockRequestArrival r ∧ s.requestCheck r = none) ∧
    (∃ (s : State) (r : LockRelease), s.input = .lockReleaseArrival r ∧ s.releaseCheck r = none) ∧
    (∃ (s : State) (g : Grant), s.input = .lockGrant g ∧ ∀ y ∈ s.sentGrants, y.grant ≠ g) ∧
    (∃ (s : State) (g : Grant) (x slot : Nat), s.input = .lockGrant g ∧ (∃ y ∈ s.sentGrants, y.grant = g) ∧ s.locate g.squad = some (x, slot) ∧ Inv s) ∧
    (∃ (s : State) (g : Grant), s.input = .lockGrant g ∧ (∃ y ∈ s.sentGrants, y.grant = g) ∧ s.locate g.squad = none) ∧
    (∃ (s : State) (n : Nat) (g : SentGrant), s.input = .grantResendTimeout n ∧ s.sentGrants[n]? = some g ∧ g.sent + 2 ^ 16 ≤ s.fabricCycles ∧
      g.resends < 3) ∧
    (∃ (s : State) (n : Nat) (g : SentGrant) (k : SquadKey), s.input = .grantResendTimeout n ∧ s.sentGrants[n]? = some g ∧
      g.sent + 2 ^ 16 ≤ s.fabricCycles ∧ 3 ≤ g.resends ∧ g.grant.squad = k) ∧
    ∃ (s : State) (k : SquadKey), s.input = .revocation k ∧ (s.lockSquad k).woundLeft = some 0 := by
  let sent (n : Nat) : State := { bench with sentGrants := [⟨grant, 0, n⟩], fabricCycles := 65536 }
  refine ⟨⟨given bench (.lockRequestArrival (wanting 0)), _, rfl, ?_⟩,
    ⟨given { bench with locks := [tensorEntry me .x] } (.lockReleaseArrival ⟨tensor, me, none, 1⟩), _, rfl, ?_⟩,
    ⟨given bench (.lockGrant grant), _, rfl, ?_⟩, ⟨given (sent 0) (.lockGrant grant), _, 0, 0, rfl, ?_, ?_, ⟨?_, ?_⟩⟩,
    ⟨given { sent 0 with tiles := [] } (.lockGrant grant), _, rfl, ?_, ?_⟩,
    ⟨given (sent 2) (.grantResendTimeout 0), 0, _, rfl, rfl, ?_, ?_⟩, ⟨given (sent 3) (.grantResendTimeout 0), 0, _, _, rfl, rfl, ?_, ?_, rfl⟩,
    ⟨given { bench with lockSquads := [⟨me, 0, none, false, false, false, some 0, []⟩] } (.revocation me), _, rfl, ?_⟩⟩
  all_goals decide +kernel

/-- The cursor of the bench's one group, at whose PC a word stands. -/
def k0 : Cursor := ⟨0, 0, 0⟩
/-- A machine with an instruction to issue next, and one that holds a trap at that boundary. -/
def fetched (w : Word) (f : Squad → Squad) : State := { (State.reset.withFetchWord 32 w.toNat).updSquad 0 0 f with sched := [.issue 0] }

theorem witness_StepRunsDecoded :
    (∃ (s : State) (k : Cursor) (x : Ctx) (w : Word) (i : Instr), s.settle.move = .issue k ∧ (s.settle.select k).ctx = some x ∧
      decodeWord w = .ok i ∧ ∃ s1, (s.settle.select k).fetch x = (s1, .ok w) ∧ s1.heldAt k = false) ∧
    (∃ (s : State) (k : Cursor) (x : Ctx) (w : Word) (i : Instr), s.settle.move = .issue k ∧ (s.settle.select k).ctx = some x ∧
      decodeWord w = .ok i ∧ ∃ s1, (s.settle.select k).fetch x = (s1, .ok w) ∧ s1.heldAt k = true ∧
      ∃ t, exec i (s1.noteIssue i) = .next t) ∧
    (∃ (s : State) (k : Cursor) (x : Ctx) (w : Word), s.settle.move = .issue k ∧ (s.settle.select k).ctx = some x ∧
      decodeWord w = .error .reservedOpcode ∧ ∃ s1, (s.settle.select k).fetch x = (s1, .ok w) ∧ s1.heldAt k = false) ∧
    (∃ (s : State) (k : Cursor) (x : Ctx) (w : Word), s.settle.move = .issue k ∧ (s.settle.select k).ctx = some x ∧
      decodeWord w = .error .illegalField ∧ ∃ s1, (s.settle.select k).fetch x = (s1, .ok w) ∧ s1.heldAt k = false) ∧
    (∃ (s : State) (k : Cursor) (x : Ctx), s.settle.move = .issue k ∧ (s.settle.select k).ctx = some x ∧
      ∃ s1 r, (s.settle.select k).fetch x = (s1, r) ∧ ∀ w, r ≠ .ok w) ∧
    (∃ (s : State) (p : Pending), s.settle.move = .event p) ∧ ∃ s : State, s.settle.move = .idle :=
  let s1 := fetched 0xFE000000 id
  let s2 := fetched 0xFE000000 (fun q => { q with engine := some ⟨16, 0, 0, 0, 1⟩ })
  let s3 := fetched 0xDC000000 id
  let s4 := fetched 0xF5000064 id
  let s5 := fetched 0xFE000000 (withSeg .iseg 0 0)
  have unread {p : State × Served Word} (h : servedOf p.2 = none) : ∃ s1 r, p = (s1, r) ∧ ∀ w, r ≠ .ok w := by
    obtain ⟨a, r⟩ := p
    exact ⟨a, r, rfl, fun w e => by subst e; cases h⟩
  have next {i : Instr} {s : State} (h : (exec i s matches .next _) = true) : ∃ t, exec i s = .next t := by
    cases e : exec i s <;> simp_all
  ⟨⟨s1, k0, issuer (.hintNop 0) (s1.settle.select k0), 0xFE000000, .hintNop 0, by decide +kernel, by rfl, by rfl,
      ex_served_and _ _ _ (by decide +kernel) (by decide +kernel)⟩,
    ⟨s2, k0, issuer (.hintNop 0) (s2.settle.select k0), 0xFE000000, .hintNop 0, by decide +kernel, by rfl, by rfl,
      ex_served_and _ _ _ (by decide +kernel) ⟨by decide +kernel, next (by decide +kernel)⟩⟩,
    ⟨s3, k0, issuer (.hintNop 0) (s3.settle.select k0), 0xDC000000, by decide +kernel, by rfl, by rfl,
      ex_served_and _ _ _ (by decide +kernel) (by decide +kernel)⟩,
    ⟨s4, k0, issuer (.hintNop 0) (s4.settle.select k0), 0xF5000064, by decide +kernel, by rfl, by rfl,
      ex_served_and _ _ _ (by decide +kernel) (by decide +kernel)⟩,
    ⟨s5, k0, issuer (.hintNop 0) (s5.settle.select k0), by decide +kernel, by rfl, unread (by decide +kernel)⟩,
    ⟨{ bench with agenda := [⟨.powerSample, .powerSample 1 1⟩] }, ⟨.powerSample, .powerSample 1 1⟩, by decide +kernel⟩,
    ⟨{ State.reset with flash := { Flash.blank with torn := true }, bringUp := { State.reset.bringUp with phase := 1 } }, by decide +kernel⟩⟩

/-! ### Accesses whose translation may come from a TLB or from a walk (LOG 7) -/

/-- The state after a translation that a TLB answered. -/
def hitTlb (s : State) : State := { s with freeCtr := s.freeCtr + 1 }

/-- A walk of the walker of a tile finds a page. -/
abbrev walksTo (s : State) (t tn va : Nat) (m : AccessMode) (e : TlbEntry) : Prop :=
  s.hostBias = [] ∧ s.walkCarried t tn va = true ∧ s.walk tn m va = .ok e.page

theorem translate_warm (s : State) (t tn va : Nat) (m : AccessMode) (pool : Bool) (e : TlbEntry) (pa : Nat) (hv : va < 2 ^ 48)
    (hf : ((s.tile t).tlb.find? fun e => e.covers tn va) = some e) (hw : walksTo s t tn va m e)
    (hc : s.pageCheck m pool va e.page = .ok pa) :
    s.translate t tn m pool va = (hitTlb s, .ok pa) ∨ s.translate t tn m pool va = (s.tlbFill t tn e.page, .ok pa) := by
  have hn : ¬ va ≥ 2 ^ 48 := by omega
  have ht : s.tlbHit t tn va = if Config.freeBool s.freeCtr then some e.page else none := by simp [State.tlbHit, hf]
  rw [State.translate, if_neg hn, ht]
  cases Config.freeBool s.freeCtr
  · have hf : s.walkFor t tn m va = (s, .ok e.page) := by simp [State.walkFor, State.obtainEntries, hw.1, hw.2.1, hw.2.2]
    right; simp [hf, hc]
  · left; simp [hc, hitTlb]

theorem engineRead_one (s s' : State) (t : Nat) (w : Workgroup) (segs : Vector Seg 8) (tn swz : Nat) (e : Int) (n pa : Nat)
    (hin : engineInside w segs 0 none e n = true) (hp : pieces (engineStart segs 0 e) n 0 n = [(0, n)])
    (ht : s.translate t tn .read false (engineStart segs 0 e) = (s', .ok pa)) (hv : s'.verdict t pa false = .ok) (hl : s'.answerLost t [.phys pa] = false) :
    ∃ v, s.engineRead t w segs tn 0 swz e n = ((s'.bankLoad t tn pa n ⟨false, false, false, false, true⟩).1, .ok v) := by
  refine ⟨(s'.bankLoad t tn pa n ⟨false, false, false, false, true⟩).2, ?_⟩
  have h0 : spaceSeg 0 ≠ .sseg := by decide
  simp [State.engineRead, hin, hp, State.engineTarget, h0, ht, State.targetVerdict, hv, hl]

theorem engineWrite_one (s s' : State) (t : Nat) (w : Workgroup) (segs : Vector Seg 8) (tn swz : Nat) (e : Int) (bs : List Byte) (pa : Nat)
    (hin : engineInside w segs 0 none e bs.length = true) (hp : pieces (engineStart segs 0 e) bs.length 0 bs.length = [(0, bs.length)])
    (ht : s.translate t tn .write false (engineStart segs 0 e) = (s', .ok pa)) (hv : s'.verdict t pa false = .ok) (hl : s'.answerLost t [.phys pa] = false) :
    ∃ u v, s.engineWrite t w segs tn 0 swz none e bs = (u, .ok v) := by
  have h0 : spaceSeg 0 ≠ .sseg := by decide
  simp [State.engineWrite, State.engineRun, hin, hp, State.engineTarget, h0, ht, State.targetVerdict, hv, hl]

/-- The page of the bench's tenant, as its TLBs hold it. -/
def thePage : TlbEntry := ⟨0, 0, 0, 30, true, true⟩

/-- Four bytes at an offset of the message area at address 0x8000 can be read whether or not a TLB answers. -/
abbrev warm (s : State) (off : Nat) : Prop :=
  ((s.tile 0).tlb.find? fun e => e.covers 0 (0x8000 + off)) = some thePage ∧ walksTo s 0 0 (0x8000 + off) .read thePage ∧
    s.pageCheck .read false (0x8000 + off) thePage.page = .ok (0x8000 + off) ∧ (hitTlb s).verdict 0 (0x8000 + off) false = .ok ∧
    (s.tlbFill 0 0 thePage.page).verdict 0 (0x8000 + off) false = .ok ∧
    (hitTlb s).answerLost 0 [.phys (0x8000 + off)] = false ∧ (s.tlbFill 0 0 thePage.page).answerLost 0 [.phys (0x8000 + off)] = false
/-- The state after such a read, by where the translation came from. -/
def readBy (s : State) (off : Nat) (hit : Bool) : State :=
  ((if hit then hitTlb s else s.tlbFill 0 0 thePage.page).bankLoad 0 0 (0x8000 + off) 4 ⟨false, false, false, false, true⟩).1

theorem areaRead_warm (s : State) (c : Ctx) (e : DWord) (off : Nat) (h : warm s off) (ht : c.tile = 0) (hn : c.tenant s = 0)
    (hs : engineStart c.sq.segs 0 ((e.toNat + off : Nat) : Int) = 0x8000 + off)
    (hin : engineInside (s.wgOf c) c.sq.segs 0 none ((e.toNat + off : Nat) : Int) 4 = true)
    (hp : pieces (0x8000 + off) 4 0 4 = [(0, 4)]) (hv : 0x8000 + off < 2 ^ 48) :
    ∃ b v, s.areaRead c e off 4 = (readBy s off b, .ok v) := by
  obtain ⟨h1, h2, h3, h4, h5, l4, l5⟩ := h
  have key (s') (ht : s.translate 0 0 .read false (0x8000 + off) = (s', .ok (0x8000 + off))) (hv : s'.verdict 0 (0x8000 + off) false = .ok)
      (hl : s'.answerLost 0 [.phys (0x8000 + off)] = false) :=
    engineRead_one s s' 0 (s.wgOf c) c.sq.segs 0 0 ((e.toNat + off : Nat) : Int) 4 (0x8000 + off) hin (by rw [hs]; exact hp)
      (by rw [hs]; exact ht) hv hl
  rcases translate_warm s 0 0 (0x8000 + off) .read false thePage _ hv h1 h2 h3 with h | h
  · obtain ⟨v, k⟩ := key _ h h4 l4
    exact ⟨true, leValue v, by rw [State.areaRead, ht, hn, k]; rfl⟩
  · obtain ⟨v, k⟩ := key _ h h5 l5
    exact ⟨false, leValue v, by rw [State.areaRead, ht, hn, k]; rfl⟩

/-- The bench with a message area's segment and the area's offset in v4:v5. -/
def boxed : State := lab fun q => withSeg .gseg 0x8000 4096 (withRegs [(4, .uniform 0), (5, .uniform 0)] q)
/-- A bind of `q4`, and its issuer. -/
def binding : QForm := q4 4
def binder : Ctx := issuer (.qbnd binding) boxed
/-- The state after the first of its three reads, which no TLB can answer. -/
def firstRead : State := ((ready boxed binder).areaRead binder 0 0 4).1

theorem three_reads : ∃ (s1 s2 s3 : State) (x y z : Nat), (ready boxed binder).areaRead binder (binder.pair binding.a 0) 0 4 = (s1, .ok x) ∧
    s1.areaRead binder (binder.pair binding.a 0) 0xC0 4 = (s2, .ok y) ∧ s2.areaRead binder (binder.pair binding.a 0) 0x40 4 = (s3, .ok z) := by
  have ho : binder.pair binding.a 0 = 0 := by decide +kernel
  rw [ho]
  obtain ⟨b, y, h2⟩ := areaRead_warm firstRead binder 0 0xC0 (by decide +kernel) (by decide +kernel) (by decide +kernel) (by decide +kernel)
    (by decide +kernel) (by decide +kernel) (by decide)
  have h3 : ∃ b' z, (readBy firstRead 0xC0 b).areaRead binder 0 0x40 4 = (readBy (readBy firstRead 0xC0 b) 0x40 b', .ok z) := by
    cases b <;> exact areaRead_warm _ binder 0 0x40 (by decide +kernel) (by decide +kernel) (by decide +kernel) (by decide +kernel)
      (by decide +kernel) (by decide +kernel) (by decide)
  obtain ⟨b', z, h3⟩ := h3
  exact ⟨firstRead, _, _, 0, y, z, served_of (by decide +kernel), h2, h3⟩

theorem witness_MessageAreas :
    (∃ f s c, Inv s ∧ Issues (.qbnd f) s c ∧ f.q = 4 ∧ f.a = .zero ∧ (wgNow (ready s c) c).q4.items = []) ∧
    ∃ (f : QForm) (s : State) (c : Ctx) (s1 s2 s3 : State) (outTail inHead outHead : Nat), Inv s ∧ Issues (.qbnd f) s c ∧ f.q = 4 ∧
      f.a ≠ .zero ∧ segCheck c.sq .gseg (c.pair f.a 0).toNat 512 = true ∧ (c.pair f.a 0).toNat % 512 = 0 ∧
      (wgNow (ready s c) c).q4.items = [] ∧
      ¬ ((wgNow (ready s c) c).area.bound = true ∧ (wgNow (ready s c) c).area.offset = c.pair f.a 0 ∧
        (wgNow (ready s c) c).area.slot = c.sq.slot) ∧
      (ready s c).areaRead c (c.pair f.a 0) 0 4 = (s1, .ok outTail) ∧
      s1.areaRead c (c.pair f.a 0) 0xC0 4 = (s2, .ok inHead) ∧ s2.areaRead c (c.pair f.a 0) 0x40 4 = (s3, .ok outHead) := by
  obtain ⟨s1, s2, s3, x, y, z, h1, h2, h3⟩ := three_reads
  exact ⟨⟨⟨true, 0, 4, .zero, .zero⟩, bench, _, ⟨by decide +kernel, by decide +kernel⟩, issues_of (by decide +kernel), rfl, rfl, by decide +kernel⟩,
    ⟨binding, boxed, binder, s1, s2, s3, x, y, z, ⟨by decide +kernel, by decide +kernel⟩, by exact issues_of (by decide +kernel), rfl,
      by decide, by decide +kernel, by decide +kernel, by decide +kernel, by decide +kernel, h1, h2, h3⟩⟩

/-- The write of a host message to the area, and its count, find the page in no TLB and then in both (LOG 7). -/
def writing : State := given (messaging [7] 0 0 []) (.hostMsgWrite 0)
/-- The state after the first write. -/
def firstWrite : State := (writing.areaWrite 0 ((writing.tile 0).wg.getD (bootWorkgroup 0)) 0x100 (leBytes 8 7)).1

theorem witness_MessageEvents_writes :
    ∃ (s s1 s2 : State) (x : Nat) (w : Workgroup) (y : DWord) (ys : List DWord) (r1 r2 : List RegionKey), s.input = .hostMsgWrite x ∧
      (s.tile x).wg = some w ∧ w.area.bound = true ∧ w.q4.items = y :: ys ∧
      s.areaWrite x w (0x100 + 8 * (w.area.outTail.toNat % 16)) (leBytes 8 y.toNat) = (s1, .ok r1) ∧
      s1.areaWrite x w 0 (leBytes 4 (w.area.outTail + 1).toNat ++ List.replicate 60 0) = (s2, .ok r2) := by
  have second : ∃ u v, firstWrite.areaWrite 0 ((writing.tile 0).wg.getD (bootWorkgroup 0)) 0 (leBytes 4 1 ++ List.replicate 60 0) = (u, .ok v) := by
    rcases translate_warm firstWrite 0 0 0x8000 .write false thePage 0x8000 (by decide) (by decide +kernel) (by decide +kernel)
      (by decide +kernel) with h | h
    · exact engineWrite_one _ _ _ _ _ _ _ _ _ _ (by decide +kernel) (by decide +kernel) h (by decide +kernel) (by decide +kernel)
    · exact engineWrite_one _ _ _ _ _ _ _ _ _ _ (by decide +kernel) (by decide +kernel) h (by decide +kernel) (by decide +kernel)
  obtain ⟨u, v, h⟩ := second
  exact ⟨writing, firstWrite, u, 0, _, 7, [], [], v, rfl, rfl, rfl, rfl, served_of (by decide +kernel), h⟩

/-! ### Words of every row, by the positions of R239 and the numbers of R248 and R249 -/

def rWord (op u d a b ka kb x : Nat) : Word :=
  BitVec.ofNat 32 (op * 2 ^ 25 + u * 2 ^ 24 + d * 2 ^ 17 + a * 2 ^ 10 + b * 2 ^ 3 + ka * 2 ^ 2 + kb * 2 + x)
def iWord (op u d a imm : Nat) : Word := BitVec.ofNat 32 (op * 2 ^ 25 + u * 2 ^ 24 + d * 2 ^ 17 + a * 2 ^ 10 + imm)
def mWord (op u la t o sz bs sx : Nat) : Word :=
  BitVec.ofNat 32 (op * 2 ^ 25 + u * 2 ^ 24 + la * 2 ^ 20 + t * 2 ^ 13 + o * 2 ^ 6 + sz * 2 ^ 4 + bs * 2 + sx)
def aWord (op u la t o scope space w : Nat) : Word :=
  BitVec.ofNat 32 (op * 2 ^ 25 + u * 2 ^ 24 + la * 2 ^ 20 + t * 2 ^ 13 + o * 2 ^ 6 + scope * 2 ^ 3 + space * 2 + w)
def lWord (op u mode level a b : Nat) : Word :=
  BitVec.ofNat 32 (op * 2 ^ 25 + u * 2 ^ 24 + mode * 2 ^ 21 + level * 2 ^ 19 + a * 2 ^ 12 + b * 2 ^ 5)
def qWord (op u la q a b sub : Nat) : Word :=
  BitVec.ofNat 32 (op * 2 ^ 25 + u * 2 ^ 24 + la * 2 ^ 20 + q * 2 ^ 16 + a * 2 ^ 9 + b * 2 ^ 2 + sub)
def bWord (op u a off : Nat) : Word := BitVec.ofNat 32 (op * 2 ^ 25 + u * 2 ^ 24 + a * 2 ^ 17 + off)
def jWord (op p : Nat) : Word := BitVec.ofNat 32 (op * 2 ^ 25 + p)
def sWord (op sub a imm : Nat) : Word := BitVec.ofNat 32 (op * 2 ^ 25 + sub * 2 ^ 17 + a * 2 ^ 10 + imm)
def hWord (kind p : Nat) : Word := BitVec.ofNat 32 (0x7F * 2 ^ 25 + kind * 2 ^ 22 + p)

/-- Every word decodes to its instruction, and every instruction encodes to its word. -/
def decodes (l : List (Word × Instr)) : Bool :=
  l.all fun e => (decodeWord e.1).toOption == some e.2 && encode e.2 == some e.1

/-- R format: integer instructions. -/
theorem decode_integer : decodes [
    (rWord 0x00 0 8 4 6 1 0 0, .iadd ⟨false, .v 8, .v 4, .v 6, true, false⟩),
    (rWord 0x00 0 8 4 6 1 0 1, .iadds ⟨false, .v 8, .v 4, .v 6, true, false⟩),
    (rWord 0x01 1 8 4 6 1 0 0, .isub ⟨true, .v 8, .v 4, .v 6, true, false⟩),
    (rWord 0x01 1 8 4 6 1 0 1, .isubs ⟨true, .v 8, .v 4, .v 6, true, false⟩),
    (rWord 0x02 0 8 4 6 1 0 0, .imul ⟨false, .v 8, .v 4, .v 6, true, false⟩),
    (rWord 0x02 0 8 4 6 1 0 1, .imulh ⟨false, .v 8, .v 4, .v 6, true, false⟩),
    (rWord 0x03 1 8 4 6 1 0 0, .imad ⟨true, .v 8, .v 4, .v 6, true, false⟩),
    (rWord 0x03 1 8 4 6 1 0 1, .imadh ⟨true, .v 8, .v 4, .v 6, true, false⟩),
    (rWord 0x04 0 8 4 6 1 0 0, .imin ⟨false, .v 8, .v 4, .v 6, true, false⟩),
    (rWord 0x04 0 8 4 6 1 0 1, .iminn ⟨false, .v 8, .v 4, .v 6, true, false⟩),
    (rWord 0x05 1 8 4 6 1 0 0, .imax ⟨true, .v 8, .v 4, .v 6, true, false⟩),
    (rWord 0x05 1 8 4 6 1 0 1, .imaxn ⟨true, .v 8, .v 4, .v 6, true, false⟩),
    (rWord 0x06 0 8 4 6 1 0 0, .andB ⟨false, .v 8, .v 4, .v 6, true, false⟩),
    (rWord 0x06 0 8 4 6 1 0 1, .andn ⟨false, .v 8, .v 4, .v 6, true, false⟩),
    (rWord 0x07 1 8 4 6 1 0 0, .orB ⟨true, .v 8, .v 4, .v 6, true, false⟩),
    (rWord 0x07 1 8 4 6 1 0 1, .orn ⟨true, .v 8, .v 4, .v 6, true, false⟩),
    (rWord 0x08 0 8 4 6 1 0 0, .xorB ⟨false, .v 8, .v 4, .v 6, true, false⟩),
    (rWord 0x08 0 8 4 6 1 0 1, .xnor ⟨false, .v 8, .v 4, .v 6, true, false⟩),
    (rWord 0x09 1 8 4 6 1 0 0, .shl ⟨true, .v 8, .v 4, .v 6, true, false⟩),
    (rWord 0x09 1 8 4 6 1 0 1, .rol ⟨true, .v 8, .v 4, .v 6, true, false⟩),
    (rWord 0x0A 0 8 4 6 1 0 0, .shr ⟨false, .v 8, .v 4, .v 6, true, false⟩),
    (rWord 0x0A 0 8 4 6 1 0 1, .sar ⟨false, .v 8, .v 4, .v 6, true, false⟩),
    (rWord 0x0B 1 8 4 6 1 0 0, .cseq ⟨true, .v 8, .v 4, .v 6, true, false⟩),
    (rWord 0x0B 1 8 4 6 1 0 1, .csne ⟨true, .v 8, .v 4, .v 6, true, false⟩),
    (rWord 0x0C 0 8 4 6 1 0 0, .cslt ⟨false, .v 8, .v 4, .v 6, true, false⟩),
    (rWord 0x0C 0 8 4 6 1 0 1, .csltn ⟨false, .v 8, .v 4, .v 6, true, false⟩),
    (rWord 0x0D 1 8 4 6 1 0 0, .csle ⟨true, .v 8, .v 4, .v 6, true, false⟩),
    (rWord 0x0D 1 8 4 6 1 0 1, .cslen ⟨true, .v 8, .v 4, .v 6, true, false⟩),
    (rWord 0x0E 0 8 4 6 1 0 0, .sel ⟨false, .v 8, .v 4, .v 6, true, false⟩),
    (rWord 0x0F 0 8 4 124 1 0 0, .popc ⟨false, .v 8, .v 4, .zero, true, false⟩),
    (rWord 0x0F 0 8 4 124 1 0 1, .clz ⟨false, .v 8, .v 4, .zero, true, false⟩),
    (rWord 0x10 0 8 4 124 1 0 0, .brev ⟨false, .v 8, .v 4, .zero, true, false⟩),
    (rWord 0x10 0 8 4 124 1 0 1, .ffs ⟨false, .v 8, .v 4, .zero, true, false⟩),
    (rWord 0x11 1 8 4 6 1 0 0, .bfx ⟨true, .v 8, .v 4, .v 6, true, false⟩),
    (rWord 0x11 1 8 4 6 1 0 1, .bfxs ⟨true, .v 8, .v 4, .v 6, true, false⟩),
    (rWord 0x12 0 8 4 6 1 0 0, .bfi ⟨false, .v 8, .v 4, .v 6, true, false⟩),
    (rWord 0x13 1 8 4 6 1 0 0, .wadd ⟨true, .v 8, .v 4, .v 6, true, false⟩),
    (rWord 0x13 1 8 4 6 1 0 1, .wsub ⟨true, .v 8, .v 4, .v 6, true, false⟩),
    (rWord 0x14 0 8 4 6 1 0 0, .wmul ⟨false, .v 8, .v 4, .v 6, true, false⟩),
    (rWord 0x14 0 8 4 6 1 0 1, .wmulh ⟨false, .v 8, .v 4, .v 6, true, false⟩),
    (rWord 0x15 1 8 4 6 1 0 0, .wshl ⟨true, .v 8, .v 4, .v 6, true, false⟩),
    (rWord 0x15 1 8 4 6 1 0 1, .wshr ⟨true, .v 8, .v 4, .v 6, true, false⟩),
    (rWord 0x16 0 8 4 124 1 0 0, .mov ⟨false, .v 8, .v 4, .zero, true, false⟩),
    (rWord 0x16 0 8 4 6 1 0 1, .movg ⟨false, .v 8, .v 4, .v 6, true, false⟩),
    (rWord 0x17 0 8 4 124 1 0 0, .iabs ⟨false, .v 8, .v 4, .zero, true, false⟩),
    (rWord 0x17 0 8 4 124 1 0 1, .ineg ⟨false, .v 8, .v 4, .zero, true, false⟩)] = true := by decide +kernel

/-- I format. -/
theorem decode_immediate : decodes [
    (iWord 0x18 1 3 4 0x3FE, .iaddi ⟨true, .v 3, .v 4, 0x3FE⟩),
    (iWord 0x19 1 3 4 0x3FE, .imuli ⟨true, .v 3, .v 4, 0x3FE⟩),
    (iWord 0x1A 1 3 4 0x3FE, .andi ⟨true, .v 3, .v 4, 0x3FE⟩),
    (iWord 0x1B 1 3 4 0x3FE, .ori ⟨true, .v 3, .v 4, 0x3FE⟩),
    (iWord 0x1C 1 3 4 0x3FE, .xori ⟨true, .v 3, .v 4, 0x3FE⟩),
    (iWord 0x1D 1 3 4 0x1F, .shli ⟨true, .v 3, .v 4, 0x1F⟩),
    (iWord 0x1E 1 3 4 0x21F, .shri ⟨true, .v 3, .v 4, 0x21F⟩),
    (iWord 0x1F 1 3 124 0x3FE, .movi ⟨true, .v 3, .zero, 0x3FE⟩)] = true := by decide +kernel

/-- R format: floating-point and conversion instructions. -/
theorem decode_float : decodes [
    (rWord 0x20 0 8 4 6 1 0 0, .fadd ⟨false, .v 8, .v 4, .v 6, true, false⟩),
    (rWord 0x20 0 8 4 6 1 0 1, .fsub ⟨false, .v 8, .v 4, .v 6, true, false⟩),
    (rWord 0x21 1 8 4 6 1 0 0, .fmul ⟨true, .v 8, .v 4, .v 6, true, false⟩),
    (rWord 0x21 1 8 4 6 1 0 1, .fscl ⟨true, .v 8, .v 4, .v 6, true, false⟩),
    (rWord 0x22 0 8 4 6 1 0 0, .ffma ⟨false, .v 8, .v 4, .v 6, true, false⟩),
    (rWord 0x22 0 8 4 6 1 0 1, .ffms ⟨false, .v 8, .v 4, .v 6, true, false⟩),
    (rWord 0x23 1 8 4 6 1 0 0, .fmin ⟨true, .v 8, .v 4, .v 6, true, false⟩),
    (rWord 0x23 1 8 4 6 1 0 1, .fmax ⟨true, .v 8, .v 4, .v 6, true, false⟩),
    (rWord 0x24 0 8 4 6 1 0 0, .fcseq ⟨false, .v 8, .v 4, .v 6, true, false⟩),
    (rWord 0x24 0 8 4 6 1 0 1, .fcsne ⟨false, .v 8, .v 4, .v 6, true, false⟩),
    (rWord 0x25 1 8 4 6 1 0 0, .fcslt ⟨true, .v 8, .v 4, .v 6, true, false⟩),
    (rWord 0x25 1 8 4 6 1 0 1, .fcsle ⟨true, .v 8, .v 4, .v 6, true, false⟩),
    (rWord 0x26 0 8 4 6 1 0 0, .fcsun ⟨false, .v 8, .v 4, .v 6, true, false⟩),
    (rWord 0x26 0 8 4 6 1 0 1, .fcsor ⟨false, .v 8, .v 4, .v 6, true, false⟩),
    (rWord 0x27 0 8 4 124 1 0 0, .fabs ⟨false, .v 8, .v 4, .zero, true, false⟩),
    (rWord 0x27 0 8 4 124 1 0 1, .fneg ⟨false, .v 8, .v 4, .zero, true, false⟩),
    (rWord 0x28 0 8 4 124 1 0 0, .frcp ⟨false, .v 8, .v 4, .zero, true, false⟩),
    (rWord 0x28 0 8 4 124 1 0 1, .frsq ⟨false, .v 8, .v 4, .zero, true, false⟩),
    (rWord 0x29 0 8 4 124 1 0 0, .fex2 ⟨false, .v 8, .v 4, .zero, true, false⟩),
    (rWord 0x29 0 8 4 124 1 0 1, .flg2 ⟨false, .v 8, .v 4, .zero, true, false⟩),
    (rWord 0x2A 0 8 4 124 1 0 0, .fsin ⟨false, .v 8, .v 4, .zero, true, false⟩),
    (rWord 0x2A 0 8 4 124 1 0 1, .fcos ⟨false, .v 8, .v 4, .zero, true, false⟩),
    (rWord 0x2B 1 8 4 6 1 0 0, .hadd2 ⟨true, .v 8, .v 4, .v 6, true, false⟩),
    (rWord 0x2B 1 8 4 6 1 0 1, .badd2 ⟨true, .v 8, .v 4, .v 6, true, false⟩),
    (rWord 0x2C 0 8 4 6 1 0 0, .hmul2 ⟨false, .v 8, .v 4, .v 6, true, false⟩),
    (rWord 0x2C 0 8 4 6 1 0 1, .bmul2 ⟨false, .v 8, .v 4, .v 6, true, false⟩),
    (rWord 0x2D 1 8 4 6 1 0 0, .hfma2 ⟨true, .v 8, .v 4, .v 6, true, false⟩),
    (rWord 0x2D 1 8 4 6 1 0 1, .bfma2 ⟨true, .v 8, .v 4, .v 6, true, false⟩),
    (rWord 0x2E 0 8 4 6 1 0 0, .dadd ⟨false, .v 8, .v 4, .v 6, true, false⟩),
    (rWord 0x2E 0 8 4 6 1 0 1, .dsub ⟨false, .v 8, .v 4, .v 6, true, false⟩),
    (rWord 0x2F 1 8 4 6 1 0 0, .dmul ⟨true, .v 8, .v 4, .v 6, true, false⟩),
    (rWord 0x2F 1 8 4 6 1 0 1, .dfma ⟨true, .v 8, .v 4, .v 6, true, false⟩),
    (rWord 0x30 0 8 4 124 1 0 0, .cvtfi ⟨false, .v 8, .v 4, .zero, true, false⟩),
    (rWord 0x30 0 8 4 124 1 0 1, .cvtfn ⟨false, .v 8, .v 4, .zero, true, false⟩),
    (rWord 0x31 0 8 4 124 1 0 0, .cvtif ⟨false, .v 8, .v 4, .zero, true, false⟩),
    (rWord 0x31 0 8 4 124 1 0 1, .cvtnf ⟨false, .v 8, .v 4, .zero, true, false⟩),
    (rWord 0x32 0 8 4 6 1 0 0, .narh ⟨false, .v 8, .v 4, .v 6, true, false⟩),
    (rWord 0x32 0 8 4 6 1 0 1, .narb ⟨false, .v 8, .v 4, .v 6, true, false⟩),
    (rWord 0x33 1 8 4 6 1 0 0, .widh ⟨true, .v 8, .v 4, .v 6, true, false⟩),
    (rWord 0x33 1 8 4 6 1 0 1, .widb ⟨true, .v 8, .v 4, .v 6, true, false⟩),
    (rWord 0x34 0 8 4 6 1 0 0, .e4pk ⟨false, .v 8, .v 4, .v 6, true, false⟩),
    (rWord 0x34 0 8 4 6 1 0 1, .e5pk ⟨false, .v 8, .v 4, .v 6, true, false⟩),
    (rWord 0x35 1 8 4 6 1 0 0, .e4up ⟨true, .v 8, .v 4, .v 6, true, false⟩),
    (rWord 0x35 1 8 4 6 1 0 1, .e5up ⟨true, .v 8, .v 4, .v 6, true, false⟩),
    (rWord 0x36 0 8 4 6 1 0 0, .q4pk ⟨false, .v 8, .v 4, .v 6, true, false⟩),
    (rWord 0x37 1 8 4 6 1 0 0, .q4up ⟨true, .v 8, .v 4, .v 6, true, false⟩)] = true := by decide +kernel

/-- R format: cross-lane, barrier and register branch instructions. -/
theorem decode_lanes : decodes [
    (rWord 0x38 0 8 4 6 1 0 0, .shfl ⟨false, .v 8, .v 4, .v 6, true, false⟩),
    (rWord 0x38 0 8 4 6 1 0 1, .shfx ⟨false, .v 8, .v 4, .v 6, true, false⟩),
    (rWord 0x39 0 8 4 6 1 0 0, .bcst ⟨false, .v 8, .v 4, .v 6, true, false⟩),
    (rWord 0x3A 0 8 4 124 1 0 0, .sqrd ⟨false, .v 8, .v 4, .zero, true, false⟩),
    (rWord 0x3A 0 8 4 124 1 0 1, .sqrf ⟨false, .v 8, .v 4, .zero, true, false⟩),
    (rWord 0x3B 0 8 4 124 1 0 0, .sqmx ⟨false, .v 8, .v 4, .zero, true, false⟩),
    (rWord 0x3B 0 8 4 124 1 0 1, .sqmf ⟨false, .v 8, .v 4, .zero, true, false⟩),
    (rWord 0x3C 0 8 4 124 1 0 0, .scan ⟨false, .v 8, .v 4, .zero, true, false⟩),
    (rWord 0x3C 0 8 4 124 1 0 1, .scnx ⟨false, .v 8, .v 4, .zero, true, false⟩),
    (rWord 0x3D 0 8 4 124 1 0 0, .balt ⟨false, .v 8, .v 4, .zero, true, false⟩),
    (rWord 0x3D 0 8 4 124 1 0 1, .bcnt ⟨false, .v 8, .v 4, .zero, true, false⟩),
    (rWord 0x3E 0 8 4 124 1 0 0, .rank ⟨false, .v 8, .v 4, .zero, true, false⟩),
    (rWord 0x3E 0 8 4 124 1 0 1, .ranka ⟨false, .v 8, .v 4, .zero, true, false⟩),
    (rWord 0x3F 0 8 4 6 1 0 0, .iota ⟨false, .v 8, .v 4, .v 6, true, false⟩),
    (rWord 0x59 0 9 4 6 1 1 0, .binit ⟨false, .v 9, .v 4, .v 6, true, true⟩),
    (rWord 0x5A 0 124 4 124 1 0 0, .arrv ⟨false, .zero, .v 4, .zero, true, false⟩),
    (rWord 0x5A 0 124 4 6 1 0 1, .arrx ⟨false, .zero, .v 4, .v 6, true, false⟩),
    (rWord 0x5B 0 8 4 6 1 0 0, .waitp ⟨false, .v 8, .v 4, .v 6, true, false⟩),
    (rWord 0x5C 0 8 4 6 1 0 0, .tstp ⟨false, .v 8, .v 4, .v 6, true, false⟩),
    (rWord 0x5D 0 124 4 6 1 0 0, .bxpb ⟨false, .zero, .v 4, .v 6, true, false⟩),
    (rWord 0x5E 0 124 124 124 0 0 0, .yield ⟨false, .zero, .zero, .zero, false, false⟩),
    (rWord 0x5F 0 124 4 124 1 0 0, .binv ⟨false, .zero, .v 4, .zero, true, false⟩),
    (rWord 0x78 0 124 4 124 1 0 0, .jmpr ⟨false, .zero, .v 4, .zero, true, false⟩),
    (rWord 0x78 0 8 4 124 1 0 1, .callr ⟨false, .v 8, .v 4, .zero, true, false⟩)] = true := by decide +kernel

/-- M and A formats. -/
theorem decode_memory : decodes [
    (mWord 0x40 0 9 11 5 1 5 1, .ldg ⟨false, 9, .v 11, .v 5, 1, 5, true⟩),
    (mWord 0x41 0 9 10 5 3 5 0, .stg ⟨false, 9, .v 10, .v 5, 3, 5, false⟩),
    (mWord 0x42 0 9 11 5 1 5 1, .lds ⟨false, 9, .v 11, .v 5, 1, 5, true⟩),
    (mWord 0x43 0 9 10 5 3 5 0, .sts ⟨false, 9, .v 10, .v 5, 3, 5, false⟩),
    (mWord 0x44 0 9 10 5 3 5 0, .ldk ⟨false, 9, .v 10, .v 5, 3, 5, false⟩),
    (mWord 0x45 0 9 10 5 3 5 0, .ldp ⟨false, 9, .v 10, .v 5, 3, 5, false⟩),
    (mWord 0x46 0 9 10 5 3 5 0, .stp ⟨false, 9, .v 10, .v 5, 3, 5, false⟩),
    (mWord 0x47 0 9 10 5 3 0 0, .ldx ⟨false, 9, .v 10, .v 5, 3, 0, false⟩),
    (mWord 0x48 0 9 10 5 3 0 0, .stx ⟨false, 9, .v 10, .v 5, 3, 0, false⟩),
    (mWord 0x49 0 9 10 5 3 5 0, .ldaq ⟨false, 9, .v 10, .v 5, 3, 5, false⟩),
    (mWord 0x4A 0 9 10 5 3 5 0, .strl ⟨false, 9, .v 10, .v 5, 3, 5, false⟩),
    (mWord 0x4B 0 9 124 5 0 5 0, .pref ⟨false, 9, .zero, .v 5, 0, 5, false⟩),
    (mWord 0x4C 0 9 124 5 0 5 0, .flsh ⟨false, 9, .zero, .v 5, 0, 5, false⟩),
    (mWord 0x4C 0 9 124 5 0 5 1, .flshd ⟨false, 9, .zero, .v 5, 0, 5, true⟩),
    (mWord 0x4D 1 9 10 5 0 5 0, .place ⟨true, 9, .v 10, .v 5, 0, 5, false⟩),
    (mWord 0x4E 0 9 10 5 2 5 0, .psts ⟨false, 9, .v 10, .v 5, 2, 5, false⟩),
    (mWord 0x4F 0 9 10 5 2 5 0, .plds ⟨false, 9, .v 10, .v 5, 2, 5, false⟩),
    (aWord 0x50 0 6 12 5 3 2 1, .aadd ⟨false, 6, .v 12, .v 5, 3, 2, true⟩),
    (aWord 0x51 0 6 12 5 3 2 1, .amin ⟨false, 6, .v 12, .v 5, 3, 2, true⟩),
    (aWord 0x52 0 6 12 5 3 2 1, .amax ⟨false, 6, .v 12, .v 5, 3, 2, true⟩),
    (aWord 0x53 0 6 12 5 3 2 1, .aand ⟨false, 6, .v 12, .v 5, 3, 2, true⟩),
    (aWord 0x54 0 6 12 5 3 2 1, .aor ⟨false, 6, .v 12, .v 5, 3, 2, true⟩),
    (aWord 0x55 0 6 12 5 3 2 1, .afadd ⟨false, 6, .v 12, .v 5, 3, 2, true⟩),
    (aWord 0x56 0 6 12 5 3 2 1, .axch ⟨false, 6, .v 12, .v 5, 3, 2, true⟩),
    (aWord 0x57 0 6 12 5 3 2 1, .acas ⟨false, 6, .v 12, .v 5, 3, 2, true⟩)] = true := by decide +kernel

/-- L, Q and X formats. -/
theorem decode_locks : decodes [
    (lWord 0x60 1 5 2 4 5, .lock ⟨5, 2, .v 4, .v 5⟩),
    (lWord 0x61 1 0 2 4 5, .unlk ⟨0, 2, .v 4, .v 5⟩),
    (lWord 0x62 1 5 2 4 5, .lkup ⟨5, 2, .v 4, .v 5⟩),
    (lWord 0x63 1 5 2 4 5, .lkdn ⟨5, 2, .v 4, .v 5⟩),
    (lWord 0x64 1 0 0 124 124, .lkra ⟨0, 0, .zero, .zero⟩),
    (lWord 0x65 1 0 2 4 5, .lkqy ⟨0, 2, .v 4, .v 5⟩),
    (lWord 0x66 1 0 0 4 124, .lkag ⟨0, 0, .v 4, .zero⟩),
    (lWord 0x67 1 0 0 4 6, .lkmx ⟨0, 0, .v 4, .v 6⟩),
    (qWord 0x68 1 3 13 4 124 0, .qpsh ⟨true, 3, 13, .v 4, .zero⟩),
    (qWord 0x69 1 3 13 4 124 0, .qpop ⟨true, 3, 13, .v 4, .zero⟩),
    (qWord 0x6A 1 3 13 4 124 0, .qcnt ⟨true, 3, 13, .v 4, .zero⟩),
    (qWord 0x6B 1 3 13 4 7 0, .cpyj ⟨true, 3, 13, .v 4, .v 7⟩),
    (qWord 0x6C 1 3 13 4 7 0, .colj ⟨true, 3, 13, .v 4, .v 7⟩),
    (qWord 0x6D 1 3 13 4 124 0, .qbnd ⟨true, 3, 13, .v 4, .zero⟩),
    (qWord 0x70 0 2 7 124 124 0, .mxcfConfig ⟨false, 2, 7, .zero, .zero⟩),
    (qWord 0x70 0 2 7 124 124 1, .mxcfRelease ⟨false, 2, 7, .zero, .zero⟩),
    (qWord 0x71 0 2 7 4 124 0, .mxlw ⟨false, 2, 7, .v 4, .zero⟩),
    (qWord 0x72 0 2 7 4 5 0, .mxst ⟨false, 2, 7, .v 4, .v 5⟩),
    (qWord 0x73 0 2 7 4 5 0, .mxchBegin ⟨false, 2, 7, .v 4, .v 5⟩),
    (qWord 0x73 0 2 7 124 124 1, .mxchEnd ⟨false, 2, 7, .zero, .zero⟩),
    (qWord 0x73 0 2 7 4 5 2, .mxchDrain ⟨false, 2, 7, .v 4, .v 5⟩),
    (qWord 0x73 0 2 7 124 124 3, .mxchZero ⟨false, 2, 7, .zero, .zero⟩)] = true := by decide +kernel

/-- J, B, S and H formats. -/
theorem decode_control : decodes [
    (jWord 0x74 0x1FFFFFF, .bra 0x1FFFFFF),
    (bWord 0x75 1 4 0x1FFFE, .bz ⟨true, .v 4, 0x1FFFE⟩),
    (bWord 0x76 0 4 2, .bnz ⟨false, .v 4, 2⟩),
    (jWord 0x77 5, .call 5),
    (jWord 0x79 0, .exit 0),
    (jWord 0x7A 0xFFFF, .span 0xFFFF),
    (sWord 0x7B 0 4 1023, .trapc ⟨0, .v 4, 1023⟩),
    (sWord 0x7D 0 4 200, .trap ⟨0, .v 4, 200⟩),
    (sWord 0x7E 0 124 1023, .brk ⟨0, .zero, 1023⟩),
    (sWord 0x58 27 124 0, .fence ⟨27, .zero, 0⟩),
    (hWord 0 0x2AAAAA, .hintNop 0x2AAAAA),
    (hWord 1 0x2AAAAA, .hintImm 0x2AAAAA),
    (hWord 2 0x2AAAAA, .hintMem 0x2AAAAA),
    (hWord 3 0x2AAAAA, .hintArith 0x2AAAAA),
    (hWord 4 0x2AAAAA, .hintSched 0x2AAAAA),
    (hWord 5 0x2AAAAA, .hintKill 0x2AAAAA),
    (hWord 6 0x2AAAAA, .hintProf 0x2AAAAA)] = true := by decide +kernel

/-- S format: the sub-operations of SYS. -/
theorem decode_sys : decodes [
    (sWord 0x7C 0 8 383, .sysMfs ⟨0, .v 8, 383⟩),
    (sWord 0x7C 1 8 256, .sysMts ⟨1, .v 8, 256⟩),
    (sWord 0x7C 2 8 0, .sysClkr ⟨2, .v 8, 0⟩),
    (sWord 0x7C 3 8 0, .sysCycr ⟨3, .v 8, 0⟩),
    (sWord 0x7C 4 8 0, .sysSqid ⟨4, .v 8, 0⟩),
    (sWord 0x7C 5 8 0, .sysWgid ⟨5, .v 8, 0⟩),
    (sWord 0x7C 6 8 0, .sysGngid ⟨6, .v 8, 0⟩),
    (sWord 0x7C 7 8 4, .sysLnch ⟨7, .v 8, 4⟩),
    (sWord 0x7C 8 4 0, .sysWardCreate ⟨8, .v 4, 0⟩),
    (sWord 0x7C 8 4 1, .sysWardModify ⟨8, .v 4, 1⟩),
    (sWord 0x7C 8 4 2, .sysWardDelete ⟨8, .v 4, 2⟩),
    (sWord 0x7C 8 4 3, .sysWardRead ⟨8, .v 4, 3⟩),
    (sWord 0x7C 8 4 4, .sysWardReset ⟨8, .v 4, 4⟩),
    (sWord 0x7C 8 4 5, .sysWardClear ⟨8, .v 4, 5⟩),
    (sWord 0x7C 9 4 0, .sysAmskRead ⟨9, .v 4, 0⟩),
    (sWord 0x7C 9 4 1, .sysAmskSwap ⟨9, .v 4, 1⟩),
    (sWord 0x7C 10 8 0, .sysXmsk ⟨10, .v 8, 0⟩),
    (sWord 0x7C 11 8 15, .sysSegrd ⟨11, .v 8, 15⟩),
    (sWord 0x7C 12 8 7, .sysSegld ⟨12, .v 8, 7⟩),
    (sWord 0x7C 13 124 0, .sysSavep ⟨13, .zero, 0⟩),
    (sWord 0x7C 14 8 0, .sysPrio ⟨14, .v 8, 0⟩),
    (sWord 0x7C 15 124 0, .sysIbinv ⟨15, .zero, 0⟩),
    (sWord 0x7C 16 124 0, .sysL1inv ⟨16, .zero, 0⟩),
    (sWord 0x7C 17 8 255, .sysTlbi ⟨17, .v 8, 255⟩),
    (sWord 0x7C 18 8 10, .sysCapr ⟨18, .v 8, 10⟩),
    (sWord 0x7C 19 8 0, .sysFtst ⟨19, .v 8, 0⟩),
    (sWord 0x7C 20 124 0, .sysFclr ⟨20, .zero, 0⟩),
    (sWord 0x7C 21 8 0, .sysPstat ⟨21, .v 8, 0⟩),
    (sWord 0x7C 22 8 111, .sysTags ⟨22, .v 8, 111⟩),
    (sWord 0x7C 23 8 0, .sysTagc ⟨23, .v 8, 0⟩),
    (sWord 0x7C 24 8 1023, .sysSnap ⟨24, .v 8, 1023⟩),
    (sWord 0x7C 25 8 111, .sysCsum ⟨25, .v 8, 111⟩),
    (sWord 0x7C 26 8 0, .sysRtbl ⟨26, .v 8, 0⟩),
    (sWord 0x7C 27 8 0, .sysWtbl ⟨27, .v 8, 0⟩),
    (sWord 0x7C 28 8 0, .sysDmap ⟨28, .v 8, 0⟩),
    (sWord 0x7C 29 8 0, .sysPmap ⟨29, .v 8, 0⟩),
    (sWord 0x7C 30 8 0, .sysHalt ⟨30, .v 8, 0⟩),
    (sWord 0x7C 31 124 0, .sysResm ⟨31, .zero, 0⟩),
    (sWord 0x7C 31 4 1, .sysResmHalted ⟨31, .v 4, 1⟩),
    (sWord 0x7C 31 124 2, .sysResmDefault ⟨31, .zero, 2⟩),
    (sWord 0x7C 32 8 1023, .sysEvpst ⟨32, .v 8, 1023⟩),
    (sWord 0x7C 33 8 0, .sysSleep ⟨33, .v 8, 0⟩),
    (sWord 0x7C 34 8 0, .sysShpr ⟨34, .v 8, 0⟩),
    (sWord 0x7C 35 8 103, .sysDead ⟨35, .v 8, 103⟩)] = true := by decide +kernel

/-! ### Ill-formed terms and reserved words (R136, R240, R241, R249, R252) -/

/-- No term is an instruction. -/
def noneWf (l : List Instr) : Bool := l.all fun i => !i.wf
/-- Every word is refused for the reason beside it. -/
def allRefused (l : List (Word × DecodeError)) : Bool := l.all fun e => match decodeWord e.1 with | .ok _ => false | .error r => r == e.2

/-- Specifier 127 in any field; `lane` and `himm` as destinations. -/
theorem refused_specifiers : noneWf [
    .iadd ⟨false, .bad, .v 4, .v 5, false, false⟩, .iadd ⟨false, .v 3, .bad, .v 5, false, false⟩, .iadd ⟨false, .v 3, .v 4, .bad, false, false⟩,
    .iadd ⟨false, .lane, .v 4, .v 5, false, false⟩, .iaddi ⟨false, .himm, .v 4, 1⟩, .imad ⟨false, .bad, .v 4, .v 5, false, false⟩,
    .bz ⟨false, .bad, 0⟩, .ldg ⟨false, 0, .v 3, .bad, 2, 0, false⟩] = true := by decide +kernel
/-- Pair operands: odd, not in the file, or past v110. -/
theorem refused_pairs : noneWf [
    .wadd ⟨false, .v 3, .v 4, .v 6, false, false⟩, .wadd ⟨false, .v 8, .v 5, .v 6, false, false⟩, .wmul ⟨false, .v 8, .v 4, .v 7, false, false⟩,
    .wshl ⟨false, .v 8, .oc 0, .v 6, false, false⟩, .dfma ⟨false, .v 8, .v 4, .lane, false, false⟩, .dadd ⟨false, .lt 0, .v 4, .v 6, false, false⟩,
    .ldg ⟨false, 0, .v 3, .v 5, 3, 0, false⟩, .stg ⟨false, 0, .v 111, .v 5, 3, 0, false⟩, .qpsh ⟨true, 0, 5, .v 5, .zero⟩,
    .lkag ⟨0, 0, .v 3, .zero⟩, .lkmx ⟨0, 0, .v 4, .v 5⟩] = true := by decide +kernel
/-- Fields of the R, I, B, J and H formats that an instruction does not read, and reserved values of those it reads. -/
theorem refused_fields : noneWf [
    .popc ⟨false, .v 3, .v 4, .v 5, false, false⟩, .mov ⟨false, .v 3, .v 4, .zero, false, true⟩, .shli ⟨false, .v 3, .v 4, 32⟩,
    .shri ⟨false, .v 3, .v 4, 0x20⟩, .shri ⟨false, .v 3, .v 4, 0x11F⟩, .movi ⟨false, .v 3, .v 4, 1⟩, .jmpr ⟨false, .v 3, .v 4, .zero, false, false⟩,
    .jmpr ⟨false, .zero, .v 4, .v 5, false, false⟩, .exit 1, .span 0x10000, .shfl ⟨true, .v 3, .v 4, .v 5, false, false⟩,
    .scan ⟨true, .v 3, .v 4, .zero, false, false⟩, .rank ⟨false, .v 3, .v 4, .v 5, false, false⟩, .binit ⟨true, .zero, .v 4, .v 5, false, false⟩,
    .binv ⟨false, .v 3, .v 4, .zero, false, false⟩, .arrv ⟨false, .zero, .v 4, .v 5, false, false⟩, .waitp ⟨false, .oc 0, .v 4, .v 5, false, false⟩,
    .tstp ⟨false, .lt 1, .v 4, .v 5, false, false⟩, .yield ⟨false, .zero, .v 4, .zero, false, false⟩] = true := by decide +kernel
/-- The M format. -/
theorem refused_memory : noneWf [
    .ldg ⟨false, 0, .v 4, .v 5, 2, 0, true⟩, .ldg ⟨false, 0, .oc 0, .v 5, 2, 0, false⟩, .sts ⟨false, 0, .v 4, .v 5, 0, 0, true⟩,
    .ldx ⟨false, 0, .v 4, .v 5, 2, 1, false⟩, .ldx ⟨true, 0, .v 4, .v 5, 2, 0, false⟩, .stx ⟨false, 0, .v 4, .v 5, 2, 1, false⟩,
    .pref ⟨false, 0, .v 4, .v 5, 0, 0, false⟩, .pref ⟨true, 0, .zero, .v 5, 0, 0, false⟩, .flsh ⟨false, 0, .zero, .v 5, 0, 0, true⟩,
    .flshd ⟨false, 0, .zero, .v 5, 0, 0, false⟩, .place ⟨false, 0, .v 4, .v 5, 0, 0, false⟩, .place ⟨true, 0, .v 4, .v 5, 1, 0, false⟩,
    .psts ⟨false, 0, .v 4, .v 5, 1, 0, false⟩, .plds ⟨false, 0, .oc 1, .v 5, 2, 0, false⟩, .plds ⟨true, 0, .v 4, .v 5, 2, 0, false⟩] = true := by
  decide +kernel
/-- The A, L, Q and X formats. -/
theorem refused_services : noneWf [
    .aadd ⟨false, 0, .v 4, .v 5, 0, 3, false⟩, .aadd ⟨false, 0, .v 5, .v 5, 0, 0, true⟩, .aadd ⟨false, 0, .lane, .v 5, 0, 0, false⟩,
    .acas ⟨false, 0, .v 6, .v 5, 0, 0, true⟩, .acas ⟨false, 0, .v 111, .v 5, 0, 0, false⟩, .lock ⟨6, 0, .v 4, .zero⟩, .lock ⟨0, 3, .v 4, .v 5⟩,
    .lock ⟨0, 0, .v 4, .v 5⟩, .unlk ⟨1, 0, .v 4, .zero⟩, .lkra ⟨0, 0, .v 4, .zero⟩, .lkqy ⟨0, 0, .v 4, .zero⟩, .lkqy ⟨1, 1, .v 4, .v 5⟩,
    .qpop ⟨true, 0, 5, .v 4, .v 6⟩, .qcnt ⟨true, 0, 5, .lt 0, .zero⟩, .qbnd ⟨true, 0, 5, .v 4, .v 6⟩, .cpyj ⟨true, 0, 0, .v 4, .oc 0⟩,
    .mxcfConfig ⟨false, 0, 8, .zero, .zero⟩, .mxcfRelease ⟨false, 0, 0, .v 4, .zero⟩, .mxlw ⟨false, 0, 0, .v 4, .v 5⟩] = true := by decide +kernel
/-- The S format. -/
theorem refused_system : noneWf [
    .fence ⟨0x20, .zero, 0⟩, .fence ⟨0, .v 4, 0⟩, .fence ⟨0, .zero, 1⟩, .trap ⟨1, .v 4, 0⟩, .trapc ⟨1, .v 4, 0⟩, .brk ⟨0, .v 4, 0⟩,
    .sysMfs ⟨1, .v 4, 0⟩, .sysMfs ⟨0, .oc 0, 0⟩, .sysMfs ⟨0, .v 4, 2⟩, .sysMts ⟨1, .v 4, 7⟩, .sysMfs ⟨0, .v 4, 0x180⟩, .sysClkr ⟨2, .v 5, 0⟩,
    .sysLnch ⟨7, .v 4, 5⟩, .sysWardCreate ⟨8, .v 4, 1⟩, .sysAmskSwap ⟨9, .v 4, 2⟩, .sysSegrd ⟨11, .v 4, 16⟩, .sysSegld ⟨12, .v 6, 0⟩,
    .sysSegld ⟨12, .v 4, 1⟩, .sysSegld ⟨12, .v 4, 5⟩, .sysSavep ⟨13, .v 4, 0⟩, .sysTlbi ⟨17, .v 4, 256⟩, .sysCapr ⟨18, .v 4, 0⟩,
    .sysCapr ⟨18, .v 4, 11⟩, .sysTags ⟨22, .v 4, 112⟩, .sysTagc ⟨23, .zero, 0⟩, .sysCsum ⟨25, .v 4, 112⟩, .sysPmap ⟨29, .v 108, 0⟩,
    .sysHalt ⟨30, .v 4, 1⟩, .sysResm ⟨31, .v 4, 0⟩, .sysResmDefault ⟨31, .zero, 3⟩, .sysDead ⟨35, .v 100, 12⟩] = true := by decide +kernel
/-- Words: reserved opcodes, sub-operations, kinds and selectors are no row; the others are rows with a field that the row does not allow. -/
theorem refused_words : allRefused [
    (jWord 0x6E 0, .reservedOpcode), (jWord 0x6F 0, .reservedOpcode), (sWord 0x7C 36 124 0, .reservedOpcode), (hWord 7 0, .reservedOpcode),
    (qWord 0x70 0 0 0 124 124 2, .reservedOpcode), (qWord 0x68 1 0 5 4 124 1, .reservedOpcode), (rWord 0x0E 0 3 4 5 0 0 1, .reservedOpcode),
    (lWord 0x60 0 0 0 4 124, .reservedOpcode), (rWord 0x00 0 3 127 5 0 0 0, .illegalField), (rWord 0x13 0 3 4 6 0 0 0, .illegalField),
    (iWord 0x1D 0 3 4 32, .illegalField), (jWord 0x79 1, .illegalField), (jWord 0x7A 0x1000064, .illegalField)] = true := by decide +kernel

/-! ### Floating-point and conversion instructions (R223-R228, R271-R277) -/

theorem test_fadd : after (.fadd dab) (three 0 0x3F800000 0x40000000) 3 0 = some 0x40400000 := by decide +kernel
theorem test_fsub_of_infinities : after (.fsub dab) (three 0 0x7F800000 0x7F800000) 3 0 = some 0x7FC00000 := by decide +kernel
theorem test_fmul_rounds_to_even : after (.fmul dab) (three 0 0x3F800001 0x3F800001) 3 0 = some 0x3F800002 := by decide +kernel
theorem test_fmul_subnormal : after (.fmul dab) (three 0 0x00800000 0x3F000000) 3 0 = some 0x00400000 := by decide +kernel
theorem test_fscl : after (.fscl dab) (three 0 0x3F800000 0xFFFFFFFF) 3 0 = some 0x3F000000 := by decide +kernel
theorem test_ffms_is_fused : after (.ffms dab) (three 0x3F800002 0x3F800001 0x3F800001) 3 0 = some 0x28800000 := by decide +kernel
theorem test_fmin_of_zeros : after (.fmin dab) (three 0 0 0x80000000) 3 0 = some 0x80000000 := by decide +kernel
theorem test_fmax_drops_nan : after (.fmax dab) (three 0 0x7FC00000 0xBF800000) 3 0 = some 0xBF800000 := by decide +kernel
theorem test_fcseq_of_zeros : after (.fcseq dab) (three 0 0 0x80000000) 3 0 = some 1 := by decide +kernel
theorem test_fcsne_of_nan : after (.fcsne dab) (three 0 0x7FC00000 0x7FC00000) 3 0 = some 1 := by decide +kernel
theorem test_fcslt_negative : after (.fcslt dab) (three 0 0xBF800000 0xBF000000) 3 0 = some 1 := by decide +kernel
theorem test_fcsle_of_nan : after (.fcsle dab) (three 7 0x7FC00000 0) 3 0 = some 0 := by decide +kernel
theorem test_fcsun : after (.fcsun dab) (three 0 0 0x7FC00000) 3 0 = some 1 := by decide +kernel
theorem test_fcsor : after (.fcsor dab) (three 0 0 0x7FC00000) 3 0 = some 0 := by decide +kernel
theorem test_fneg_of_nan : after (.fneg da) (three 0 0xFFC00001 0) 3 0 = some 0x7FC00000 := by decide +kernel
theorem test_frcp_of_minus_zero : after (.frcp da) (three 0 0x80000000 0) 3 0 = some 0xFF800000 := by decide +kernel
theorem test_frcp_of_three : after (.frcp da) (three 0 0x40400000 0) 3 0 = some 0x3EAAAAAB := by decide +kernel
theorem test_frsq_of_four : after (.frsq da) (three 0 0x40800000 0) 3 0 = some 0x3F000000 := by decide +kernel
theorem test_fex2_of_minus_149 : after (.fex2 da) (three 0 0xC3150000 0) 3 0 = some 1 := by decide +kernel
theorem test_fex2_of_minus_150 : after (.fex2 da) (three 0 0xC3160000 0) 3 0 = some 0 := by decide +kernel
theorem test_flg2_of_eighth : after (.flg2 da) (three 0 0x3E000000 0) 3 0 = some 0xC0400000 := by decide +kernel
theorem test_fsin_of_minus_zero : after (.fsin da) (three 0 0x80000000 0) 3 0 = some 0x80000000 := by decide +kernel
theorem test_fcos_of_infinity : after (.fcos da) (three 0 0x7F800000 0) 3 0 = some 0x7FC00000 := by decide +kernel
theorem test_hadd2 : after (.hadd2 dab) (three 0 0x3C00C000 0x40004000) 3 0 = some 0x42000000 := by decide +kernel
theorem test_bmul2 : after (.bmul2 dab) (three 0 0x3F804000 0x40404000) 3 0 = some 0x40404080 := by decide +kernel
theorem test_hfma2 : after (.hfma2 dab) (three 0x3C003C00 0x3C004000 0x3C004000) 3 0 = some 0x40004500 := by decide +kernel
theorem test_dadd : after2 (.dadd wide) (pairs 0x3FF00000 0 0x3FF00000 1) 8 0 = some (0, 0x40000000) := by decide +kernel
theorem test_dmul : after2 (.dmul wide) (pairs 0xC0080000 0 0x40000000 0) 8 0 = some (0, 0xC0180000) := by decide +kernel
theorem test_cvtif : after (.cvtif da) (three 0 0xFFFFFFFE 0) 3 0 = some 0xC0000000 := by decide +kernel
theorem test_cvtnf_rounds : after (.cvtnf da) (three 0 0xFFFFFFFF 0) 3 0 = some 0x4F800000 := by decide +kernel
theorem test_cvtfi_of_two : after (.cvtfi da) (three 0 0xC0000000 0) 3 0 = some 0xFFFFFFFE := by decide +kernel
theorem test_narh : after (.narh dab) (three 0 0x3F800000 0xC0000000) 3 0 = some 0xC0003C00 := by decide +kernel
theorem test_narb_ties_to_even : after (.narb dab) (three 0 0x3F818000 0x3F808000) 3 0 = some 0x3F803F82 := by decide +kernel
theorem test_widh_high : after (.widh dab) (three 0 0x3C000000 0xFFFFFFFF) 3 0 = some 0x3F800000 := by decide +kernel
theorem test_widb_low : after (.widb dab) (three 0 0x00003F80 2) 3 0 = some 0x3F800000 := by decide +kernel
/-- The worked example of chapter 11: 300.0 and -0.01, then 500.0 and 0.0390625. -/
theorem test_e4pk_first : after (.e4pk dab) (three 0 0x43960000 0xBC23D70A) 3 0 = some 0x85790000 := by decide +kernel
theorem test_e4pk_second : after (.e4pk dab) (three 0x85790000 0x43FA0000 0x3D200000) 3 0 = some 0x127E8579 := by decide +kernel
theorem test_e4up : after (.e4up dab) (three 0 0x127E8579 3) 3 0 = some 0x3D200000 := by decide +kernel
theorem test_e5up_infinity : after (.e5up dab) (three 0 0x000000FC 0) 3 0 = some 0xFF800000 := by decide +kernel

/-! ### Cross-lane instructions: the worked example of chapter 11 (R279) -/

/-- v8 in lanes 0, 1, 2 and 5, which are the group. -/
def ranked : State := lab fun q =>
  { withRegs [(8, .general (Vector.ofFn fun j : Fin 32 => if j.val = 1 then 0xFFFFFFFE else if j.val = 5 then 3 else if j.val = 3 then 100 else 7)),
      (9, .uniform 0)] q with groups := [⟨0x27, 0, .home, none, none, 0, 0, 0, [], 0, none⟩, ⟨0xFFFFFFD8, 64, .pool 0, none, none, 0, 0, 0, [], 0, none⟩] }
/-- v9 in lanes 0, 1, 2, 5 and 3. -/
def lanes (i : Instr) : List (Option Word) := [0, 1, 2, 5, 3].map fun j => after i ranked 9 j
/-- v9 from v8. -/
def of8 (b : Operand) : RForm := ⟨false, .v 9, .v 8, b, false, false⟩
theorem test_ranka : lanes (.ranka (of8 .zero)) = [some 2, some 0, some 3, some 1, some 0] := by decide +kernel
theorem test_rank : lanes (.rank (of8 .zero)) = [some 2, some 0, some 2, some 1, some 0] := by decide +kernel
theorem test_scan : lanes (.scan (of8 .zero)) = [some 7, some 5, some 12, some 15, some 0] := by decide +kernel
theorem test_scnx : lanes (.scnx (of8 .zero)) = [some 0, some 7, some 5, some 12, some 0] := by decide +kernel
theorem test_balt : lanes (.balt (of8 .zero)) = [some 0x27, some 0x27, some 0x27, some 0x27, some 0] := by decide +kernel
theorem test_bcnt : lanes (.bcnt (of8 .zero)) = [some 4, some 4, some 4, some 4, some 0] := by decide +kernel
theorem test_sqrd : lanes (.sqrd (of8 .zero)) = [some 15, some 15, some 15, some 15, some 0] := by decide +kernel
theorem test_sqmx : lanes (.sqmx (of8 .zero)) = [some 7, some 7, some 7, some 7, some 0] := by decide +kernel
theorem test_shfl_of_an_idle_lane : after (.shfl dab) (lab (withRegs [(3, .uniform 0), (4, ramp 100 1), (5, .uniform 35)])) 3 9 = some 103 := by decide +kernel
theorem test_shfx : after (.shfx dab) (lab (withRegs [(3, .uniform 0), (4, ramp 100 1), (5, .uniform 1)])) 3 9 = some 108 := by decide +kernel
theorem test_iota : after (.iota dab) (three 0 10 0xFFFFFFFF) 3 11 = some 0xFFFFFFFF := by decide +kernel
theorem test_sqrf : after (.sqrf da) (three 0 0x3F800000 0) 3 0 = some 0x42000000 := by decide +kernel

/-! ### Wards (R86, R89) -/

/-- A root has no parent, so that ward 4,095 has no child in it. -/
theorem test_ward_4095_is_free : State.wardInUse { bench with wards := bench.wards ++ [(4095, { Ward.bringUp with parent := 0xFFF })] } 4095 = false := by
  decide +kernel

/-! ### Words that the specification's own examples give (chapters 11 to 14) -/

theorem decode_examples : decodes [
    (0x68181028, .e4pk ⟨false, .v 12, .v 4, .v 5, false, false⟩), (0xB831F3E0, .tstp ⟨false, .v 24, .zero, .zero, false, false⟩),
    (0xC121EF80, .lock ⟨1, 0, .v 30, .zero⟩), (0xC1A9E3E0, .lock ⟨5, 1, .v 30, .v 31⟩),
    (0xB6F9F0C0, .waitp ⟨false, .zero, .zero, .v 24, false, false⟩), (0xC309E3E0, .unlk ⟨0, 1, .v 30, .v 31⟩),
    (0xC301EF80, .unlk ⟨0, 0, .v 30, .zero⟩), (0xF2000000, .exit 0), (0xFC01F007, .brk ⟨0, .zero, 7⟩),
    (0xE102F9F0, .mxcfConfig ⟨true, 0, 2, .zero, .zero⟩), (0xE707F9F3, .mxchZero ⟨true, 0, 7, .zero, .zero⟩)] = true := by decide +kernel

/-! ### Control flow, traps and system operations (R311-R333) -/

/-- The state after an instruction. -/
def next (i : Instr) (s : State) : State := match exec i s with | .next t => t | .fault _ | .refused _ => s
/-- The bench's squad. -/
def sq (s : State) : Squad := (s.squad? 0 0).getD (bootSquad 0)
/-- The groups of the squad: their PCs and threads. -/
def groups (s : State) : List (Nat × Mask) := (sq s).groups.map fun g => (g.pc.toNat, g.threads)
/-- The bench with its one group at a PC. -/
def poised (n : Nat) (f : Squad → Squad) : State :=
  { guarded (fun q => { f q with groups := q.groups.map fun g => { g with pc := BitVec.ofNat 64 n } }) with cur := some ⟨0, 0, BitVec.ofNat 64 n⟩ }
/-- The trap number and DETAIL that an instruction leaves in the handler, and where the group stands. -/
def trapped (i : Instr) (s : State) : Nat × Word × DWord × List (Nat × Mask) :=
  let t := next i s
  ((sq t).trap.num.toNat, (sq t).trap.det, (sq t).trap.pc, groups t)

theorem test_bra_backwards : groups (next (.bra 0x1FFFFFE) (poised 64 id)) = [(56, fullMask)] := by decide +kernel
theorem test_bz_splits : (groups (next (.bz ⟨false, .v 4, 4⟩) (poised 64 (withRegs [(4, ramp 0 1)])))).length = 2 := by decide +kernel
theorem test_bz_lane : (80, 1#32) ∈ groups (next (.bz ⟨false, .v 4, 4⟩) (poised 64 (withRegs [(4, ramp 0 1)]))) := by decide +kernel
theorem test_bnz_uniform : groups (next (.bnz ⟨true, .v 4, 4⟩) (poised 64 (withRegs [(4, .uniform 0)]))) = [(68, fullMask)] := by decide +kernel
theorem test_call_links : after (.call 4) (poised 64 id) 111 7 = some 68 := by decide +kernel
theorem test_callr : groups (next (.callr ⟨false, .v 3, .v 4, .zero, false, false⟩) (poised 64 (withRegs [(4, .uniform 256)]))) =
    [(256, fullMask)] := by decide +kernel
theorem test_jmpr_misaligned : trapped (.jmpr ⟨false, .zero, .v 4, .zero, false, false⟩) (poised 64 (withRegs [(4, .uniform 258)])) =
    (8, 0, 64, [(0x800, fullMask)]) := by decide +kernel
theorem test_bra_outside : (trapped (.bra 1024) (poised 64 id)).1 = 5 := by decide +kernel
theorem test_exit_ends : (sq (next (.exit 0) bench)).live = 0 ∧ (sq (next (.exit 0) bench)).ended = true := by decide +kernel
theorem test_trap : trapped (.trap ⟨0, .v 4, 513⟩) (poised 64 (withRegs [(4, .uniform 9)])) = (18, 513, 68, [(0x800, fullMask)]) := by
  decide +kernel
theorem test_trapc_argument : (sq (next (.trapc ⟨0, .v 4, 5⟩) (poised 64 (withRegs [(4, ramp 0 1)])))).trap.arg = 0xFFFFFFFE := by decide +kernel
theorem test_trapc_of_zero : groups (next (.trapc ⟨0, .v 4, 5⟩) (poised 64 (withRegs [(4, .uniform 0)]))) = [(68, fullMask)] := by decide +kernel
theorem test_brk : trapped (.brk ⟨0, .zero, 7⟩) (poised 64 id) = (19, 7, 68, [(0x800, fullMask)]) := by decide +kernel
theorem test_resm : groups (next (.sysResm ⟨31, .zero, 0⟩) (poised 64 fun q => { q with intrap := true, trap := { q.trap with pc := 0x100 } })) =
    [(0x100, fullMask)] := by decide +kernel
theorem test_ranka_on_a0 : (trapped (.ranka da) { poised 64 (withRegs [(4, .uniform 1)]) with flash := { bench.flash with stepping := 0 } }).1 = 1 := by
  decide +kernel
theorem test_himm_without_hint : (trapped (.iadd ⟨false, .v 3, .himm, .v 4, false, false⟩) (poised 64 (withRegs [(4, .uniform 1)]))).1 = 1 := by
  decide +kernel
theorem test_hint_imm_governs : after (.iadd ⟨false, .v 3, .himm, .v 4, false, false⟩) { next (.hintImm 0xFFFFF) (three 0 1 0) with cur := some ⟨0, 0, 4⟩ } 3 0 = some 0 := by
  decide +kernel
theorem test_sysMfs_selector : after (.sysMfs ⟨0, .v 3, 0x0A⟩) (lab fun q => { q with trap := { q.trap with det := 77 } }) 3 31 = some 77 := by
  decide +kernel
theorem test_sysAmskSwap : (sq (next (.sysAmskSwap ⟨9, .v 4, 1⟩) (three 0 0xFFFFFFFF 0))).hmsk = 0x7FFFFE := by decide +kernel
theorem test_sysAmskSwap_result : after (.sysAmskSwap ⟨9, .v 4, 1⟩) (three 0 2 0) 4 0 = some 0x7FFFFE := by decide +kernel
theorem test_sysXmsk : after (.sysXmsk ⟨10, .v 3, 0⟩) ranked 3 2 = some 0x27 := by decide +kernel
theorem test_sysSegrd : after2 (.sysSegrd ⟨11, .v 4, 8⟩) (lab (withSeg .gseg 0x8000 4096)) 4 0 = some (4096, 0) := by decide +kernel
theorem test_sysTags : after (.sysTags ⟨22, .v 3, 4⟩) (lab (withRegs [(4, ramp 0 1)])) 3 0 = some 2 := by decide +kernel
theorem test_sysClkr : after2 (.sysClkr ⟨2, .v 4, 0⟩) { bench with devclk := 0x500000007 } 4 0 = some (7, 5) := by decide +kernel
/-- CRC-32C of 128 zero bytes from 0 is 0. -/
theorem test_sysCsum : after (.sysCsum ⟨25, .v 4, 5⟩) (three 0 0 0) 4 0 = some 0 := by decide +kernel

/-! ### Memory and synchronisation (R281-R294, R333) -/

/-- The bytes of a number at a key. -/
def numAt (s : State) (k n : Nat) : Nat := s.num k n
/-- The key of an offset in the allocation, which starts after the reserved kilobyte (R102). -/
def gangKey (o : Nat) : Nat := spadKey 0 (1024 + o)
/-- The value that a lane of the oldest result on its way holds. -/
def onItsWay (s : State) (j : Nat) : Option Word := (sq s).outstanding[0]?.map fun o => o.lo.toList.getD j 0
/-- The scratchpad form of LDS and STS: v5 at offset v4. -/
def spad (sz : BitVec 2) (sx : Bool) : MForm := ⟨false, 0, .v 5, .v 4, sz, 0, sx⟩

theorem test_sts_word : numAt (next (.sts (spad 2 false)) (lab (withRegs [(4, ramp 1024 4), (5, ramp 7 1)]))) (gangKey (1024 + 4 * 31)) 4 = 38 := by
  decide +kernel
theorem test_sts_highest_lane : numAt (next (.sts (spad 0 false)) (lab (withRegs [(4, .uniform 1030), (5, ramp 7 1)]))) (gangKey 1028) 4 = 38 * 2 ^ 16 := by
  decide +kernel
theorem test_sts_misaligned : (trapped (.sts (spad 2 false)) (poised 64 (withRegs [(4, .uniform 1026), (5, .uniform 7)]))).1 = 8 := by decide +kernel
theorem test_sts_outside : (trapped (.sts (spad 2 false)) (poised 64 (withRegs [(4, .uniform 4096), (5, .uniform 7)]))).1 = 5 := by decide +kernel
theorem test_lds_sign : onItsWay (next (.lds (spad 0 true)) ((lab (withRegs [(4, .uniform 1024)])).pokeNum (gangKey 1024) 1 0x80)) 3 =
    some 0xFFFFFF80 := by decide +kernel
theorem test_ldg_scales : onItsWay (next (.ldg ⟨true, 0, .v 5, .v 4, 1, 0, false⟩)
    ((lab fun q => withSeg .gseg 0x8000 4096 (withRegs [(4, .uniform 8)] q)).pokeNum 0x8010 4 0xAAAAFFFE)) 0 = some 0xFFFE := by decide +kernel
theorem test_stg : numAt (next (.stg ⟨true, 0, .v 6, .v 4, 3, 0, false⟩)
    (lab fun q => withSeg .gseg 0x8000 4096 (withRegs [(4, .uniform 2), (6, .uniform 5), (7, .uniform 6)] q))) 0x8010 8 = 0x600000005 := by decide +kernel
theorem test_stg_outside : (trapped (.stg ⟨false, 0, .v 6, .v 4, 2, 0, false⟩)
    (poised 64 fun q => withSeg .gseg 0x8000 4096 (withRegs [(4, .uniform 1024), (6, .uniform 5)] q))).1 = 5 := by decide +kernel

/-- The scratchpad form of an atomic on v6 at offset v4. -/
def atomic (w : Bool) : AForm := ⟨false, 0, .v 6, .v 4, 1, 2, w⟩
/-- One word at offset 1024 for every lane. -/
def oneWord (v t : Nat) : State := (lab (withRegs [(4, .uniform 1024), (6, .uniform (BitVec.ofNat 32 t)), (7, .uniform 9)])).pokeNum (gangKey 1024) 8 v
theorem test_aadd_memory : numAt (next (.aadd (atomic false)) (oneWord 100 2)) (gangKey 1024) 4 = 164 := by decide +kernel
theorem test_aadd_lane : onItsWay (next (.aadd (atomic false)) (oneWord 100 2)) 31 = some 162 := by decide +kernel
theorem test_amin_signed : numAt (next (.amin (atomic false)) (oneWord 5 0xFFFFFFFF)) (gangKey 1024) 4 = 0xFFFFFFFF := by decide +kernel
theorem test_amax_signed : numAt (next (.amax (atomic false)) (oneWord 5 0xFFFFFFFF)) (gangKey 1024) 4 = 5 := by decide +kernel
theorem test_axch_lane : onItsWay (next (.axch (atomic false)) (oneWord 5 6)) 1 = some 6 := by decide +kernel
theorem test_acas : numAt (next (.acas (atomic false)) (oneWord 6 6)) (gangKey 1024) 4 = 9 := by decide +kernel
theorem test_acas_differs : numAt (next (.acas (atomic false)) (oneWord 5 6)) (gangKey 1024) 4 = 5 := by decide +kernel
theorem test_afadd : numAt (next (.afadd (atomic false)) (oneWord 0 0x3F800000)) (gangKey 1024) 4 = 0x42000000 := by decide +kernel
theorem test_aor_wide : numAt (next (.aor (atomic true)) (oneWord 0 1)) (gangKey 1024) 8 = 0x900000001 := by decide +kernel

/-- A barrier object at offset 1024 that expects 32 arrivals and 0 bytes, in a gang. -/
def object (arrived : Nat) : State :=
  (lab (withRegs [(4, .uniform 1024), (5, .uniform 0)])).pokeN (gangKey 1024)
    (leBytes 4 7 ++ leBytes 2 32 ++ leBytes 2 arrived ++ leBytes 8 0 ++ leBytes 8 0 ++ leBytes 4 1 ++ leBytes 4 0)
theorem test_arrv_completes : numAt (next (.arrv ⟨false, .zero, .v 4, .zero, false, false⟩) (object 0)) (gangKey 1024) 8 = 8 + 2 ^ 32 * 32 := by
  decide +kernel
theorem test_arrx_saturates : numAt (next (.arrx ⟨false, .zero, .v 4, .v 5, false, false⟩) (object 3)) (gangKey 1030) 2 = 3 := by decide +kernel
theorem test_binit : numAt (next (.binit ⟨false, .v 3, .v 4, .v 5, false, false⟩)
    (lab (withRegs [(3, .uniform 256), (4, .uniform 1024), (5, .uniform 0x20003)]))) (gangKey 1024) 16 = 3 * 2 ^ 32 + 256 * 2 ^ 64 := by decide +kernel
theorem test_tstp : after (.tstp ⟨false, .v 3, .v 4, .v 5, false, false⟩) (object 0) 3 0 = some 7 := by decide +kernel
theorem test_binv_keeps_phase : numAt (next (.binv ⟨false, .zero, .v 4, .zero, false, false⟩) (object 5)) (gangKey 1024) 8 = 7 := by decide +kernel
theorem test_fence_acq : groups (next (.fence ⟨1, .zero, 0⟩) (poised 64 id)) = [(68, fullMask)] := by decide +kernel

/-- The items of an internal queue after an instruction. -/
def items (i : Instr) (s : State) (n : Nat) : Option (List DWord) := ((next i s).tile 0).wg.map fun w => (w.box n).items
theorem test_qpsh : items (.qpsh ⟨true, 0, 13, .v 4, .zero⟩) (lab (withRegs [(4, .uniform 1), (5, .uniform 2)])) 13 = some [0x200000001] := by
  decide +kernel
theorem test_qpop : items (.qpop ⟨true, 0, 13, .v 4, .zero⟩) (bench.updWg 0 fun w => w.setBox 13 ⟨[7, 8], 2, none⟩) 13 = some [8] := by decide +kernel
theorem test_qpop_waits : groups (next (.qpop ⟨true, 0, 13, .v 4, .zero⟩) (poised 64 id)) = [(64, fullMask)] := by decide +kernel
theorem test_mxcf_queues : (((next (.mxcfConfig ⟨true, 0, 2, .zero, .zero⟩) bench).tile 0).wg.map fun w => w.jobs.length) = some 1 := by decide +kernel

/-! ### Resets (R27) -/

theorem test_power_on_clears_devclk : (next .powerOnReset { bench with devclk := 5 }).devclk = 0 := by decide +kernel
theorem test_device_reset_keeps_devclk : (next .deviceReset { bench with devclk := 5 }).devclk = 5 := by decide +kernel
theorem test_device_reset_empties_tiles : ((next .deviceReset bench).tile 0).wg = none := by decide +kernel

/-! ### SHA-256: the examples of its standard -/

theorem test_sha256_abc : sha256 [0x61, 0x62, 0x63] = 0xba7816bf8f01cfea414140de5dae2223b00361a396177a9cb410ff61f20015ad#256 := by decide +kernel
theorem test_sha256_two_blocks : sha256 (leBytes 56 0x71706f6e706f6e6d6f6e6d6c6e6d6c6b6d6c6b6a6c6b6a696b6a69686a696867696867666867666567666564666564636564636264636261) =
    0x248d6a61d20638b8e5c026930c3e6039a33ce45964ff2167f6ecedd419db06c1#256 := by decide +kernel

end Sys2Proof.Tests
end

section
/-! PROOFS. Instructions whose effect lies in the state outside the squad or in its fields beside storage (R324, R325): the state that
the meaning leaves before it retires is that of the rule's table, with the squad put in its place. -/

namespace Sys2Proof.Proofs

open Sys2Proof Sys2Proof.Machine Sys2Proof.Safety Sys2Proof.Rules Sys2Proof.Laws

/-! ### A squad put in its place -/

theorem squad?_updSquad {e : State} {t n : Nat} {q : Squad} {f : Squad → Squad} (h : e.squad? t n = some q)
    (hf : ∀ q, q.slot = n → (f q).slot = n) : (e.updSquad t n f).squad? t n = some (f q) := by
  obtain ⟨w, hw, hq⟩ := squad?_eq h
  simp [State.squad?, hw, squad_updSquad _ _ _ _ hf, hq]

/-- Changing the issuing squad where its due results are written is putting the changed squad in its place. -/
theorem ready_updSquad (s : State) (c : Ctx) (f : Squad → Squad) :
    (ready s c).updSquad c.tile c.sq.slot f = s.updSquad c.tile c.sq.slot fun _ => f c.sq := by
  have hl : ∀ l : List Squad, mapIf (fun q => q.slot = c.sq.slot) f (mapIf (fun q => q.slot = c.sq.slot) (fun _ => c.sq) l) =
      mapIf (fun q => q.slot = c.sq.slot) (fun _ => f c.sq) l := by
    intro l
    simp only [mapIf, List.map_map]
    refine List.map_congr_left fun q _ => ?_
    by_cases hq : q.slot = c.sq.slot <;> simp [hq]
  have hw : ∀ tl : Tile, (tl.updWg fun w => w.updSquad c.sq.slot fun _ => c.sq).updWg (fun w => w.updSquad c.sq.slot f) =
      tl.updWg fun w => w.updSquad c.sq.slot fun _ => f c.sq := by
    intro tl
    cases tl with | mk wg => cases wg <;> simp [Tile.updWg, Workgroup.updSquad, hl]
  unfold ready State.updSquad State.updWg State.updTile
  rw [tile_setTile_same]
  dsimp only
  rw [hw]
  simp only [State.setTile, tabSet_tabSet]

theorem issues_squad_before {i : Instr} {s : State} {c : Ctx} (h : Issues i s c) : ∃ q, s.squad? c.tile c.sq.slot = some q := by
  obtain ⟨y, hy, _, _, rfl⟩ := h
  simpa using squad_before hy

/-- An instruction that completes from e, with the squad b in its place, and writes its results with f. -/
theorem acts_of_put {i : Instr} {s e : State} {c : Ctx} {b : Squad} {f : Squad → Squad} {dst : List Operand} (h : Issues i s c)
    (he : exec i s = .next ((e.updSquad c.tile c.sq.slot fun _ => b).retire i c f))
    (hq : e.squad? c.tile c.sq.slot = s.squad? c.tile c.sq.slot) (hb : b.slot = c.sq.slot)
    (hf : storageFrom i c b dst (f (c.mark i b))) (hr : SameRest (f (c.mark i b)) (c.mark i b)) :
    ∃ t q, Acts i s c e b dst (fallsThrough c) t q ∧
      ∀ o j, laneVal q o j = laneVal (f (c.mark i b)) o j ∧ laneValid q o j = laneValid (f (c.mark i b)) o j := by
  obtain ⟨q0, h0⟩ := issues_squad_before h
  have hp := squad?_updSquad (f := fun _ => b) (hq.trans h0) fun _ _ => hb
  obtain ⟨ht, ho⟩ := updSquad_kept e c.tile c.sq.slot (fun _ => b) fun _ _ => hb
  obtain ⟨q, ⟨h1, h2, h3⟩, h4, h5⟩ :=
    retireTo_spec (after := 0) hp hb (issues_quiet h) hf (SameRest.alike hr (mark_alike i c b)) fun _ _ => rfl
  exact ⟨_, q, ⟨he, ⟨h1, tileKept_trans ht h2, outsideKept_trans ho h3⟩, h4⟩, h5⟩

/-- One without a result has the effect e and b. -/
theorem effect_of_put {i : Instr} {s e : State} {c : Ctx} {b : Squad} (h : Issues i s c)
    (he : exec i s = .next ((e.updSquad c.tile c.sq.slot fun _ => b).retire i c id))
    (hq : e.squad? c.tile c.sq.slot = s.squad? c.tile c.sq.slot) (hb : b.slot = c.sq.slot) : Effect i s c e b := by
  obtain ⟨t, q, h1, _⟩ := acts_of_put h he hq hb (mark_spec i c b).1 rfl
  exact ⟨t, q, h1⟩

/-- One that writes one register has it as its result; b has the storage of the squad that issues. -/
theorem result_of_put {i : Instr} {s e : State} {c : Ctx} {b : Squad} {d : Operand} {r : RegVal} (h : Issues i s c)
    (he : exec i s = .next ((e.updSquad c.tile c.sq.slot fun _ => b).retire i c fun q => c.write q d r))
    (hq : e.squad? c.tile c.sq.slot = s.squad? c.tile c.sq.slot) (hb : b.slot = c.sq.slot) (hd : d.isDest = true)
    (hl : ∀ j, laneVal b d j = laneVal c.sq d j) : Result i s c e b d r.lane := by
  obtain ⟨t, q, h1, h2⟩ := acts_of_put h he hq hb (put_kept d c.g.threads c.whole r (mark_spec i c b).1) (put_rest _ _ _ _ _)
  refine ⟨t, q, h1, fun hz j hj => ?_, fun hw j hj hm => ?_⟩
  · obtain ⟨hj, hm⟩ := mem_lanesOf.1 hj
    obtain ⟨e1, e2⟩ := put_laneVal (q := c.mark i b) (whole := c.whole) (r := r) hd hz hj hm
    exact ⟨(h2 d j).1.trans e1, (h2 d j).2.trans e2⟩
  · have hk : c.write (c.mark i b) d r = b.put d c.g.threads false r := by simp [Ctx.write, Ctx.mark, hw]
    rw [(h2 d j).1, hk, put_laneVal_other hj hm, hl]

/-- The same for a sub-operation that only acts. -/
theorem effect_of_sysDo {i : Instr} {s e : State} {c : Ctx} {b : Squad} {act : State → Ctx → State} (h : Issues i s c)
    (hx : exec i s = s.sysDo i act) (ha : act (ready s c) c = e.updSquad c.tile c.sq.slot fun _ => b)
    (hq : e.squad? c.tile c.sq.slot = s.squad? c.tile c.sq.slot) (hb : b.slot = c.sq.slot) : Effect i s c e b :=
  effect_of_put h (by rw [hx, ← ha]; exact issue_acts h) hq hb

/-! ### Effects outside the squad: each does the same before and after the squad is put in its place -/

theorem ready_requestCommit (s : State) (c : Ctx) : (ready s c).requestCommit = ready s.requestCommit c := by
  have hr : (ready s c).rt = s.rt := rfl
  have ht : checkTables (ready s c).street (ready s c).staging = checkTables s.street s.staging := rfl
  unfold State.requestCommit
  rw [hr, ht]
  by_cases h1 : s.rt.state = 0
  · cases h2 : checkTables s.street s.staging with
    | some x => simp only [h1, ne_eq, not_true_eq_false, if_false]; rfl
    | none => by_cases h3 : s.rt.want = true <;> simp only [h1, h3, ne_eq, not_true_eq_false, if_false, if_true] <;> rfl
  · simp only [h1, ne_eq, not_false_eq_true, if_true]; rfl

theorem ready_writeStaging (s : State) (c : Ctx) (a v : Nat) : (ready s c).writeStaging a v = ready (s.writeStaging a v) c := by
  have hr : (ready s c).rt = s.rt := rfl
  unfold State.writeStaging
  rw [hr]
  dsimp only
  split
  · rfl
  · split <;> rfl

theorem ready_writePtbase (s : State) (c : Ctx) (sel : Nat) (v : Word) :
    (ready s c).writePtbase sel v = ready (s.writePtbase sel v) c := by
  unfold State.writePtbase
  split <;> rfl

theorem setTile_setTile (s : State) (t : Nat) (x y : Tile) : (s.setTile t x).setTile t y = s.setTile t y := by
  simp only [State.setTile, tabSet_tabSet]

theorem ready_updTile_eq (s : State) (c : Ctx) (f : Tile → Tile) :
    ready (s.updTile c.tile f) c = s.setTile c.tile ((f (s.tile c.tile)).updWg fun w => w.updSquad c.sq.slot fun _ => c.sq) := by
  unfold ready State.updSquad State.updWg State.updTile
  rw [tile_setTile_same, setTile_setTile]

/-- A change of the tile that does the same whatever its squads. -/
theorem ready_updTile (s : State) (c : Ctx) (f : Tile → Tile)
    (hf : ∀ tl : Tile, f (tl.updWg fun w => w.updSquad c.sq.slot fun _ => c.sq) =
      (f tl).updWg fun w => w.updSquad c.sq.slot fun _ => c.sq) :
    (ready s c).updTile c.tile f = ready (s.updTile c.tile f) c := by
  rw [ready_updTile_eq, ← hf]
  unfold ready State.updSquad State.updWg State.updTile
  rw [tile_setTile_same, setTile_setTile]

theorem tabFind_map {α : Type} (f : α → α) (k : Nat) (l : List (Nat × α)) :
    tabFind k (l.map fun e => (e.1, f e.2)) = (tabFind k l).map f := by
  induction l with
  | nil => rfl
  | cons e r ih => by_cases h : e.1 = k <;> simp [tabFind, h, ih]

theorem tabSet_map {α : Type} (f : α → α) (k : Nat) (v : α) (l : List (Nat × α)) :
    (tabSet k v l).map (fun e => (e.1, f e.2)) = tabSet k (f v) (l.map fun e => (e.1, f e.2)) := by
  induction l with
  | nil => rfl
  | cons e r ih =>
    simp only [tabSet, List.map_cons]
    split
    · rfl
    · split
      · rfl
      · simp [ih]

/-- A tile without its TLB's entries for a page. -/
def withoutPage (tenant : Nat) (log : Option Nat) (page : Nat) (tl : Tile) : Tile :=
  { tl with tlb := tl.tlb.filter fun x => !(x.tenant = tenant && pageMeets log page x.va x.log) }

theorem tlbi_tiles (s : State) (tenant : Nat) (log : Option Nat) (page : Nat) :
    (s.tlbi tenant log page).tiles = s.tiles.map fun e => (e.1, withoutPage tenant log page e.2) := rfl

theorem tile_tlbi (s : State) (tenant : Nat) (log : Option Nat) (page n : Nat) :
    (s.tlbi tenant log page).tile n = withoutPage tenant log page (s.tile n) := by
  unfold State.tile
  rw [tlbi_tiles, tabFind_map]
  cases tabFind n s.tiles <;> rfl

theorem ready_tlbi (s : State) (c : Ctx) (tenant : Nat) (log : Option Nat) (page : Nat) :
    (ready s c).tlbi tenant log page = ready (s.tlbi tenant log page) c := by
  have ht : ((ready s c).tlbi tenant log page).tiles = (ready (s.tlbi tenant log page) c).tiles := by
    rw [tlbi_tiles]
    unfold ready State.updSquad State.updWg State.updTile
    rw [tile_tlbi]
    exact tabSet_map _ _ _ _
  exact congrArg (fun ts => ({ s.tlbi tenant log page with tiles := ts } : State)) ht

/-! ### Posting an event -/

theorem find?_tabSet_congr {α : Type} {p : Nat × α → Bool} {k : Nat} {v w : α} (h : p (k, v) = p (k, w)) (l : List (Nat × α)) :
    ((tabSet k v l).find? p).map (·.1) = ((tabSet k w l).find? p).map (·.1) := by
  induction l with
  | nil => simp only [tabSet, List.find?_cons, h]; cases p (k, w) <;> rfl
  | cons e r ih =>
    simp only [tabSet]
    split
    · simp only [List.find?_cons, h]; cases p (k, w) <;> rfl
    · split
      · simp only [List.find?_cons, h]; cases p (k, w) <;> rfl
      · simp only [List.find?_cons]; cases p e <;> simp [ih]

/-- Where the members of a gang lie depends on the gangs and members of the tiles' workgroups alone. -/
theorem memberTile_setTile (s : State) (t : Nat) {x y : Tile}
    (h : x.wg.map (fun w => (w.gang, w.member)) = y.wg.map fun w => (w.gang, w.member)) (g : GangKey) (m : Nat) :
    (s.setTile t x).memberTile g m = (s.setTile t y).memberTile g m := by
  refine find?_tabSet_congr ?_ s.tiles
  dsimp only
  cases hx : x.wg <;> cases hy : y.wg <;> simp_all

theorem memberTile_ready (s : State) (c : Ctx) (f : Tile → Tile) (g : GangKey) (m : Nat) :
    (ready (s.updTile c.tile f) c).memberTile g m = (s.updTile c.tile f).memberTile g m := by
  rw [ready_updTile_eq]
  refine memberTile_setTile s c.tile ?_ g m
  simp [Tile.updWg, Workgroup.updSquad, Function.comp_def]

theorem ready_pokeN (s : State) (c : Ctx) (a : Nat) (bs : List Byte) : (ready s c).pokeN a bs = ready (s.pokeN a bs) c := rfl

theorem ready_barrier (s : State) (c : Ctx) (k : Nat) : (ready s c).barrier k = s.barrier k := by
  have hm : (ready s c).mem = s.mem := rfl
  unfold State.barrier State.num
  rw [hm]

theorem ready_arriveAt (s : State) (c : Ctx) (k n : Nat) : (ready s c).arriveAt k n = ready (s.arriveAt k n) c := by
  simp only [State.arriveAt, State.setBarrier, ready_barrier, ready_pokeN]

theorem ready_notify (s : State) (c : Ctx) (f : Workgroup → Workgroup) (w : Workgroup) (b : Option Nat) (g : Squad → Squad) :
    (ready (s.updWg c.tile f) c).notify (w.updSquad c.sq.slot g) b = ready ((s.updWg c.tile f).notify w b) c := by
  cases b with
  | none => rfl
  | some off =>
    have hk : (ready (s.updWg c.tile f) c).gangKeyAt (w.updSquad c.sq.slot g) off = (s.updWg c.tile f).gangKeyAt w off := by
      simp only [State.gangKeyAt, State.spadTarget, Workgroup.updSquad, State.updWg, memberTile_ready]
    simp only [State.notify, hk, ready_arriveAt]

/-- A workgroup with one record more in its event queue (R341). -/
def posted (w : Workgroup) : Workgroup :=
  { w with q3 := { w.q3 with count := w.q3.count + 1, lost := 0, phase := w.q3.phase + 1 } }

theorem ready_posted (s : State) (c : Ctx) : (ready s c).updWg c.tile posted = ready (s.updWg c.tile posted) c :=
  ready_updTile s c (fun tl => tl.updWg posted) fun tl => by cases tl with | mk wg => cases wg <;> rfl

/-- What posting writes: the record's key and its value. -/
def postKey (t : Nat) (w : Workgroup) : Nat := spadKey t (0x200 + 8 * ((w.q3.head + w.q3.count) % 64))
def postRecord (w : Workgroup) (code slot kind val : Nat) : Nat :=
  code % 2 ^ 16 + 2 ^ 16 * slot + 2 ^ 20 * kind + 2 ^ 24 * w.q3.lost + 2 ^ 32 * val

theorem postEvent_eq {s : State} {t : Nat} {w : Workgroup} (h : (s.tile t).wg = some w) (code slot kind val : Nat) :
    s.postEvent t code slot kind val = if w.q3.count ≥ 64 then none else
      some (((s.pokeNum (postKey t w) 8 (postRecord w code slot kind val)).updWg t posted).notify w w.q3.bind) := by
  unfold State.postEvent
  rw [h]
  rfl

theorem postEvent_none {s : State} {t : Nat} (h : (s.tile t).wg = none) (code slot kind val : Nat) :
    s.postEvent t code slot kind val = none := by
  unfold State.postEvent
  rw [h]

theorem ready_postEvent (s : State) (c : Ctx) (code slot kind val : Nat) :
    (ready s c).postEvent c.tile code slot kind val = (s.postEvent c.tile code slot kind val).map fun e => ready e c := by
  have hr : ((ready s c).tile c.tile).wg = (s.tile c.tile).wg.map fun w => w.updSquad c.sq.slot fun _ => c.sq :=
    tile_updSquad_wg s c.tile c.sq.slot _
  cases hw : (s.tile c.tile).wg with
  | none => rw [postEvent_none hw, postEvent_none (by rw [hr, hw]; rfl)]; rfl
  | some w =>
    rw [postEvent_eq hw, postEvent_eq (by rw [hr, hw]; rfl)]
    change (if w.q3.count ≥ 64 then none else _) = _
    split
    · rfl
    · have hp := ready_posted (s.pokeNum (postKey c.tile w) 8 (postRecord w code slot kind val)) c
      have hn := ready_notify (s.pokeNum (postKey c.tile w) 8 (postRecord w code slot kind val)) c posted w w.q3.bind fun _ => c.sq
      rw [← hp] at hn
      exact congrArg some hn

/-! ### The effects of R324 -/

theorem squad?_of_tiles {s e : State} (h : e.tiles = s.tiles) (t n : Nat) : e.squad? t n = s.squad? t n := by
  simp only [State.squad?, State.tile, h]

theorem squad?_of_wg {s e : State} {t : Nat} (h : (e.tile t).wg = (s.tile t).wg) (n : Nat) : e.squad? t n = s.squad? t n := by
  simp only [State.squad?, h]

theorem notify_tiles (s : State) (w : Workgroup) (b : Option Nat) : (s.notify w b).tiles = s.tiles := by
  cases b with
  | none => rfl
  | some off => simp only [State.notify, State.arriveAt, State.setBarrier, pokeN_tiles]

theorem postEvent_squad? {s e : State} {t code slot kind val : Nat} (h : s.postEvent t code slot kind val = some e) (n : Nat) :
    e.squad? t n = s.squad? t n := by
  cases hw : (s.tile t).wg with
  | none => simp [postEvent_none hw] at h
  | some w =>
    rw [postEvent_eq hw] at h
    split at h
    · simp at h
    · simp only [Option.some.injEq] at h
      subst h
      rw [squad?_of_tiles (notify_tiles _ _ _)]
      have ht : (s.pokeNum (postKey t w) 8 (postRecord w code slot kind val)).tile t = s.tile t := rfl
      simp [State.squad?, State.updWg, Tile.updWg, ht, hw, posted, Workgroup.squad?]

theorem writeStaging_tiles (s : State) (a v : Nat) : (s.writeStaging a v).tiles = s.tiles := by
  unfold State.writeStaging
  dsimp only
  split
  · rfl
  · split <;> rfl

theorem ready_savep (s : State) (c : Ctx) (g : GangKey) (l : LaunchKey) (n : Nat) (f : Gang → Gang) :
    ((ready s c).updGang g f).updLaunch l (fun l => { l with waitSince := n }) =
      ready ((s.updGang g f).updLaunch l fun l => { l with waitSince := n }) c := rfl

theorem segld_effect {f : SForm} {s : State} {c : Ctx} (h : Issues (.sysSegld f) s c) :
    Effect (.sysSegld f) s c s
      { c.sq with segs := c.sq.segs.setIfInBounds f.imm.toNat ⟨c.pair f.a 0, c.pair (Operand.plus f.a 2) 0⟩ } :=
  effect_of_sysDo h (exec_sysSegld f s) (ready_updSquad s c _) rfl rfl

theorem fclr_effect {f : SForm} {s : State} {c : Ctx} (h : Issues (.sysFclr f) s c) :
    Effect (.sysFclr f) s c s { c.sq with engine := none } :=
  effect_of_sysDo h (exec_sysFclr f s) (ready_updSquad s c _) rfl rfl

theorem ibinv_effect {f : SForm} {s : State} {c : Ctx} (h : Issues (.sysIbinv f) s c) :
    Effect (.sysIbinv f) s c (s.updTile c.tile fun tl => { tl with icache := [] }) c.sq :=
  effect_of_sysDo h (exec_sysIbinv f s) (ready_updTile s c _ fun _ => rfl) (squad?_of_wg (by simp) _) rfl

theorem l1inv_effect {f : SForm} {s : State} {c : Ctx} (h : Issues (.sysL1inv f) s c) :
    Effect (.sysL1inv f) s c (s.updTile c.tile fun tl => { tl with l1 := [] }) c.sq :=
  effect_of_sysDo h (exec_sysL1inv f s) (ready_updTile s c _ fun _ => rfl) (squad?_of_wg (by simp) _) rfl

theorem tlbi_effect {f : SForm} {s : State} {c : Ctx} (h : Issues (.sysTlbi f) s c) :
    Effect (.sysTlbi f) s c (s.tlbi (f.imm.toNat / 4) (tlbiLog f.imm.toNat) (c.pair f.a 0).toNat) c.sq :=
  effect_of_sysDo h (exec_sysTlbi f s) (ready_tlbi s c _ _ _) (squad?_of_wg (by rw [tile_tlbi]; rfl) _) rfl

theorem wtbl_effect {f : SForm} {s : State} {c : Ctx} (h : Issues (.sysWtbl f) s c) :
    Effect (.sysWtbl f) s c (s.writeStaging ((c.pair f.a 0).toNat % 2 ^ 32) ((c.pair f.a 0).toNat / 2 ^ 32)) c.sq :=
  effect_of_sysDo h (exec_sysWtbl f s) (ready_writeStaging s c _ _) (squad?_of_tiles (writeStaging_tiles s _ _) _ _) rfl

/-- SAVEP's change of a gang, where it runs. -/
theorem updGang_requested (s : State) (k : GangKey) :
    s.updGang k (fun g => if g.stage = .running then { g with stage := .requested } else g) = { s with
      gangs := s.gangs.map fun g => if g.key = k ∧ g.stage = .running then { g with stage := .requested } else g } := by
  have hg : ∀ g : Gang, (if decide (g.key = k) = true then (if g.stage = .running then { g with stage := .requested } else g) else g) =
      if g.key = k ∧ g.stage = .running then { g with stage := .requested } else g := by
    intro g
    by_cases h1 : g.key = k <;> by_cases h2 : g.stage = .running <;> simp [h1, h2]
  simp only [State.updGang, mapIf, hg]

theorem savep_effect {f : SForm} {s : State} {c : Ctx} (h : Issues (.sysSavep f) s c) :
    Effect (.sysSavep f) s c ({ s with
      gangs := s.gangs.map fun g => if g.key = c.wg.gang ∧ g.stage = .running then { g with stage := .requested } else g
      launches := s.launches.map fun l => if l.key = c.wg.gang.launch then { l with waitSince := s.devclk.toNat } else l }) c.sq := by
  refine effect_of_sysDo h (exec_sysSavep f s) ((ready_savep s c _ _ _ _).trans ?_) rfl rfl
  rw [updGang_requested]
  simp only [State.updLaunch, mapIf, decide_eq_true_eq]
  rfl

theorem snap_effect {f : SForm} {s : State} {c : Ctx} (h : Issues (.sysSnap f) s c) (hz : (c.launch s).bind (·.snap) = none) :
    Effect (.sysSnap f) s c s c.sq := by
  have hr : (c.launch (ready s c)).bind (·.snap) = none := hz
  refine effect_of_put h (((exec_sysSnap f s).trans (issue_acts h)).trans ?_) rfl rfl
  rw [hr]
  rfl

theorem evpst_effect {f : SForm} {s e : State} {c : Ctx} (h : Issues (.sysEvpst f) s c)
    (hp : s.postEvent c.tile f.imm.toNat c.sq.slot 0 (c.uni f.a).toNat = some e) :
    Effect (.sysEvpst f) s c e c.sq := by
  have hr := ready_postEvent s c f.imm.toNat c.sq.slot 0 (c.uni f.a).toNat
  rw [hp] at hr
  refine effect_of_put h (((exec_sysEvpst f s).trans (issue_acts h)).trans ?_) (postEvent_squad? hp _) rfl
  rw [hr]
  rfl

/-- The sub-operations with an effect and no result do what the table of R163 and R324 says. -/
theorem effect_of_sysEffect {i : Instr} {s e : State} {c : Ctx} {b : Squad} (he : sysEffect s c i = some (e, b))
    (h : Issues i s c) : Effect i s c e b := by
  unfold sysEffect at he
  split at he
  case h_1 => cases he; exact segld_effect h
  case h_2 => cases he; exact savep_effect h
  case h_3 => cases he; exact ibinv_effect h
  case h_4 => cases he; exact l1inv_effect h
  case h_5 => cases he; exact tlbi_effect h
  case h_6 => cases he; exact fclr_effect h
  case h_7 => cases he; exact wtbl_effect h
  case h_8 =>
    split at he
    · rename_i hz
      cases he
      exact snap_effect h (Option.isNone_iff_eq_none.1 hz)
    · cases he
  case h_9 =>
    obtain ⟨x, hx, hy⟩ := Option.map_eq_some_iff.1 he
    cases hy
    exact evpst_effect h hx
  case h_10 => cases he

/-! ### MTS (R325) -/

theorem reading_priv (c : Ctx) (i : Instr) (s : State) : (c.reading i).priv s = c.priv s := by unfold Ctx.reading; split <;> rfl

/-- A need for privilege that the context has raises nothing. -/
theorem issueTrap_of_priv {i : Instr} {c : Ctx} {a0 priv need : Bool} (h : need = true → priv = true) :
    issueTrap i c a0 priv need = issueTrap i c a0 priv false := by
  have : (need && !priv) = false := by cases need <;> simp_all
  simp [issueTrap, this]

/-- MTS acts where its context has the privilege that its field needs. -/
theorem exec_mts {f : SForm} {s : State} {c : Ctx} (h : Issues (.sysMts f) s c) (hp : needsPriv (.sysMts f) = true → c.priv s = true) :
    exec (.sysMts f) s = .next (((ready s c).mts c f.imm.toNat (c.uni f.a)).retire (.sysMts f) c id) := by
  obtain ⟨y, hy, ht, _, rfl⟩ := h
  rw [reading_priv] at hp
  have hi : issueTrap (.sysMts f) y (s.flash.stepping = 0) (y.priv s) ((Instr.sysMts f).isPrivileged || mtsPriv f.imm.toNat) = none :=
    (issueTrap_of_priv hp).trans ht
  exact issueIf_acts (wrong := fun _ => false) (need := fun _ => mtsPriv f.imm.toNat)
    (body := fun s c => (s.mts c f.imm.toNat (c.uni f.a)).retire (.sysMts f) c id) hy (.inr ⟨rfl, hi⟩)

theorem ready_writeLkst (s : State) (c : Ctx) (k : SquadKey) (v : Word) : (ready s c).writeLkst k v = ready (s.writeLkst k v) c := by
  unfold State.writeLkst
  dsimp only
  split <;> rfl

/-- Each register that MTS writes, and what becomes of the others, which are read only or have no field to write. -/
theorem ready_mts (s : State) (c : Ctx) (sel : Nat) (v : Word) :
    (ready s c).mts c sel v = (mtsState s c sel v).updSquad c.tile c.sq.slot fun _ => mtsSquad c sel v := by
  unfold State.mts
  split
  case h_1 => exact ready_updSquad s c _
  case h_2 =>
    by_cases hv : v.getLsbD 24 = true
    · have he : mtsState s c 4 v = s.requestCommit := if_pos hv
      rw [if_pos hv, he]; exact ready_requestCommit s c
    · have he : mtsState s c 4 v = s := if_neg hv
      rw [if_neg hv, he]; rfl
  case h_3 =>
    by_cases hi : c.sq.intrap = true
    · have hb : mtsSquad c 8 v = { c.sq with trap := { c.sq.trap with pc := v.setWidth 64 } } := if_pos hi
      rw [if_pos hi, hb]; exact ready_updSquad s c _
    · have hb : mtsSquad c 8 v = c.sq := if_neg hi
      rw [if_neg hi, hb]; rfl
  case h_4 => exact ready_writeLkst s c _ _
  case h_5 h0 h4 h8 h40 =>
    have hs : mtsSquad c sel v = c.sq := by unfold mtsSquad; split <;> simp_all
    have he : mtsState s c sel v = if 0x100 ≤ sel then s.writePtbase sel v else s :=
      (if_neg h4).trans (if_neg h40)
    rw [hs, he]
    by_cases hn : sel < 0x100
    · rw [if_pos hn, if_neg (by omega)]; rfl
    · rw [if_neg hn, if_pos (by omega)]; exact ready_writePtbase s c sel v

theorem mtsSquad_slot (c : Ctx) (sel : Nat) (v : Word) : (mtsSquad c sel v).slot = c.sq.slot := by
  unfold mtsSquad
  split
  · rfl
  · split <;> rfl
  · rfl

theorem requestCommit_tiles (s : State) : s.requestCommit.tiles = s.tiles := by
  unfold State.requestCommit
  split
  · rfl
  · split
    · rfl
    · split <;> rfl

theorem mtsState_tiles (s : State) (c : Ctx) (sel : Nat) (v : Word) : (mtsState s c sel v).tiles = s.tiles := by
  unfold mtsState
  split
  · split
    · exact requestCommit_tiles s
    · rfl
  · split
    · split <;> rfl
    · split
      · unfold State.writePtbase; split <;> rfl
      · rfl

theorem mts_effect {f : SForm} {s : State} {c : Ctx} (h : Issues (.sysMts f) s c) (hp : needsPriv (.sysMts f) = true → c.priv s = true) :
    Effect (.sysMts f) s c (mtsState s c f.imm.toNat (c.uni f.a)) (mtsSquad c f.imm.toNat (c.uni f.a)) :=
  effect_of_put h (by rw [exec_mts h hp, ready_mts]) (squad?_of_tiles (mtsState_tiles s c _ _) _ _) (mtsSquad_slot c _ _)

/-! ### AMSK (R322) -/

/-- AMSK swap: the handler mask is the old A, and A is the old mask. -/
theorem amskSwap_result {f : SForm} {s : State} {c : Ctx} (h : Issues (.sysAmskSwap f) s c) :
    Result (.sysAmskSwap f) s c s { c.sq with hmsk := c.uni f.a &&& 0x7FFFFE#32 } f.a fun _ => c.sq.hmsk := by
  refine result_of_put (r := .uniform c.sq.hmsk) h ?_ rfl rfl (wf_dst (issues_wf h) rfl).2 fun j => by cases f.a <;> rfl
  have hm : BitVec.ofNat 32 c.sq.hmsk.toNat = c.sq.hmsk := by simp
  rw [← ready_updSquad s c fun q => { q with hmsk := c.uni f.a &&& 0x7FFFFE#32 }, ← hm]
  exact (exec_sysAmskSwap f s).trans (issue_acts h)

/-- Settles O15: every effect is the same before and after the squad is put in its place, so the instruction retires from the state of
the rule's table; MTS is judged for privilege by its field, and AMSK swap alone writes a register. -/
theorem sysEffects : Obligations.SysEffects := by
  unfold Obligations.SysEffects
  exact ⟨fun _ _ _ _ _ he h => effect_of_sysEffect he h, fun _ _ _ h hp => mts_effect h hp, fun _ _ _ h => amskSwap_result h⟩

end Sys2Proof.Proofs
end

section
/-! PROOFS. The statement on the traps of issue (R148) fails at a `WAITP` that stands blocked. -/

namespace Sys2Proof.Proofs

open Sys2Proof Sys2Proof.Machine Sys2Proof.Safety Sys2Proof.Rules Sys2Proof.Laws

/-- A group of all threads at PC 0 that is blocked in a `WAITP` on the lock-grant object, for a phase other than 1, and keeps nothing that
the instruction has read. -/
def unreadWait : Group := { Group.fresh fullMask 0 0 with blocked := some (.waitp none 1) }

/-- The machine of LOG 11 where that group comes to issue, in a launch that declares a trap handler at 0x800. -/
def waitingMachine : State :=
  { (State.reset.boot 0).updSquad 0 0 fun q => { q with groups := [unreadWait] } with
    cur := some ⟨0, 0, 0⟩, launches := [{ bootLaunch with header := { bootLaunch.header with trapPc := some 0x800 } }] }

/-- The issuing group of that machine. -/
def waitingCtx : Ctx :=
  ⟨0, waitingMachine.tile 0, { bootWorkgroup 0 with squads := [{ bootSquad 0 with groups := [unreadWait] }] },
    { bootSquad 0 with groups := [unreadWait] }, unreadWait⟩

/-- A `WAITP` with U = 1, which R252 makes ILLEGAL. -/
def illegalWaitp : Instr := .waitp ⟨true, .zero, .zero, .zero, false, false⟩

theorem waitingMachine_ctx : waitingMachine.ctx = some waitingCtx := by decide +kernel

/-- The same with its results of `WAITP` due written, as the statement takes it. -/
def waitingComer : Ctx := { waitingCtx with sq := waitingCtx.sq.settle illegalWaitp waitingCtx.g }

/-- What the outcome of an instruction leaves in INTRAP of a squad. -/
def intrapAfter (o : Host.Outcome State Fault Refusal) (t n : Nat) : Option Bool :=
  match o with
  | .next s => (s.squad? t n).map (·.intrap)
  | _ => none

theorem intrapAfter_of_enters {s t : State} {c : Ctx} {b : Squad} {r : TrapRegs} {pc : DWord} (h : Enters s c b r pc t) :
    intrapAfter (.next t) c.tile c.sq.slot = some true := by
  obtain ⟨q, ⟨hq, -⟩, -, he⟩ := h
  have hi : q.intrap = true := (congrArg Squad.intrap he :)
  exact (congrArg (Option.map (·.intrap)) hq).trans (congrArg some hi)

/-- The blocked group waits on: nothing of its instruction is judged, and no handler is entered. -/
theorem illegalWaitp_waits : intrapAfter (exec illegalWaitp waitingMachine) 0 0 = some false := by decide +kernel

theorem waitingComer_conditions : issueConditions waitingMachine waitingComer illegalWaitp =
    [] ++ (true, 1) :: [(false, 17), (false, 7), (false, 3), (false, 2), (false, 16)] := by decide +kernel

theorem waitingComer_handler : handlerOf waitingMachine waitingComer 1 = some 0x800 := by decide +kernel

/-- Refutes O26: a group that is blocked in `WAITP` is tried again without issuing, so none of the traps of issue is judged (R294, R330).
The first clause excludes it by `inWait = false` alone, which says that the group keeps no operands, and not that it is not blocked. With
a `WAITP` that R252 makes ILLEGAL and a handler declared, the squad of `waitingMachine` does not enter it. A group that the model blocks
keeps its operands (`State.block`); the clause quantifies over every state and lacks that premise. -/
theorem not_issueTraps : ¬ Obligations.IssueTraps := by
  unfold Obligations.IssueTraps
  rintro ⟨h, -⟩
  obtain ⟨t, ht, he⟩ := h illegalWaitp waitingMachine waitingComer [] _ 1 0x800 rfl rfl (by decide +kernel)
    ⟨waitingCtx, waitingMachine_ctx, rfl, rfl⟩ waitingComer_conditions (by simp) waitingComer_handler
  have h1 : intrapAfter (exec illegalWaitp waitingMachine) 0 0 = some true := ht ▸ intrapAfter_of_enters he
  exact absurd (illegalWaitp_waits.symm.trans h1) (by decide)

end Sys2Proof.Proofs
end

section
/-! PROOFS. The statement on prefetch, flush and placement (R286-R288) fails at an `FLSHD` of two lines. -/

namespace Sys2Proof.Proofs

open Sys2Proof Sys2Proof.Machine Sys2Proof.Safety Sys2Proof.Rules Sys2Proof.Laws

/-- The last line of the first GiB. -/
def lastLine : Nat := 0x7FFFFF

/-- A squad of two lanes, at the first bytes of that line and of the next. -/
def twoLines : Squad :=
  { bootSquad 0 with
    live := 3, groups := [Group.fresh 3 0 0]
    regs := (bootSquad 0).regs.setIfInBounds 4 (.affine (BitVec.ofNat 32 (128 * lastLine)) 128)
    segs := (bootSquad 0).segs.setIfInBounds 0 ⟨0, 0x40001000⟩ }

/-- The machine of LOG 11 with that squad, and the second GiB mapped to itself too. The page of the second line is in host bias, and the
host's caches hold the line modified; the serving bank holds the first line modified, with 129 bytes as those that its home had. -/
def longHome : State :=
  { ((State.reset.boot 0).updSquad 0 0 fun _ => twoLines).pokeNum (bootTable + 8) 8 (0x40000000 + 15) with
    cur := some ⟨0, 0, 0⟩
    ports := [⟨0, true⟩]
    hostBias := [0x40000], hostLines := [(2 * (lastLine + 1), List.replicate 64 0x11)]
    wc := [⟨lastLine, List.replicate 129 0x22, true, false, false, [0], 0, 1⟩] }

/-- The first byte of the second line. -/
def nextByte : Nat := 128 * (lastLine + 1)

/-- The flush of both lines. -/
def flushBoth : MForm := ⟨false, 0, .zero, .v 4, 0, 0, true⟩

/-- The issuing group of that machine. -/
def longHomeCtx : Ctx := ⟨0, longHome.tile 0, { bootWorkgroup 0 with squads := [twoLines] }, twoLines, Group.fresh 3 0 0⟩

/-- The state that the checks of the flush leave, and what they answer. -/
def flushChecked : State × Served (List Nat) := (ready longHome longHomeCtx).flushLines longHomeCtx (.flshd flushBoth) flushBoth .write

/-- The lines of an answer. -/
def servedLines : Served (List Nat) → Option (List Nat)
  | .ok ls => some ls
  | .wait _ | .fault _ _ => none

theorem eq_of_servedLines {p : State × Served (List Nat)} {ls : List Nat} (h : servedLines p.2 = some ls) : p = (p.1, .ok ls) := by
  obtain ⟨s, x⟩ := p
  cases x <;> simp_all [servedLines]

/-- A byte of memory after an outcome. -/
def byteAfter (o : Host.Outcome State Fault Refusal) (a : Nat) : Option Byte :=
  match o with
  | .next t => some (byteAt t a)
  | _ => none

/-- Memory after an instruction that completes is that of the state outside its squad. -/
theorem byteAfter_of_acts {i : Instr} {s e t : State} {c : Ctx} {b q : Squad} {dst : List Operand} {next : Nat → DWord}
    (h : Acts i s c e b dst next t q) (a : Nat) : byteAfter (exec i s) a = some (byteAt e a) := by
  obtain ⟨hx, ⟨-, -, hm, -⟩, -⟩ := h
  have hmem : t.mem = e.mem := (congrArg State.mem hm :)
  rw [hx]
  exact congrArg (fun m => some (Memory.read m a)) hmem

theorem longHome_ctx : longHome.ctx = some longHomeCtx := by decide +kernel

theorem longHome_issues : Issues (.flshd flushBoth) longHome longHomeCtx :=
  ⟨longHomeCtx, ⟨longHomeCtx, longHome_ctx, rfl, by decide +kernel⟩, by decide +kernel, by decide +kernel, by decide +kernel⟩

theorem flushChecked_lines : servedLines flushChecked.2 = some [lastLine, lastLine + 1] := by decide +kernel

/-- The host's byte comes after the bytes of the first line's home. -/
theorem flushed_byte : byteAfter (exec (.flshd flushBoth) longHome) nextByte = some 0x11 := by decide +kernel

/-- The bytes of the first line's home come after the host's. -/
theorem discarded_byte : byteAt (discardRun flushChecked.1 [lastLine, lastLine + 1]) nextByte = 0x22 := by decide +kernel

/-- Refutes O21: its `FLSHD` clause speaks of every state that meets `Inv`, and `Inv` does not say that a bank keeps 128 bytes of a line's
home. In `longHome` it keeps 129, so that the last of them is the next line's first byte; that line's page is in host bias. The flush
obtains the next line from the host after the first line has its home's bytes, and that byte reads 0x11; `discardRun` gathers what the
hosts give of both lines before it discards the first, and there the byte reads 0x22. No line is in error or lost. (Where every home is a
line long, the two orders agree.) -/
theorem not_prefetchFlushAndHints : ¬ Obligations.PrefetchFlushAndHints := by
  unfold Obligations.PrefetchFlushAndHints
  rintro ⟨⟨-, -, hd⟩, -⟩
  obtain ⟨e, t, q, b, ha, -, -, hm, -⟩ := hd flushBoth longHome longHomeCtx flushChecked.1 [lastLine, lastLine + 1] ⟨by decide +kernel, by decide +kernel⟩
    longHome_issues (by decide +kernel) (eq_of_servedLines flushChecked_lines)
  have he : byteAt e nextByte = 0x11 := Option.some.inj ((byteAfter_of_acts ha nextByte).symm.trans flushed_byte)
  have h := hm nextByte
  rw [he, discarded_byte] at h
  rcases h with h | ⟨h, -⟩ <;> exact absurd h (by decide)

end Sys2Proof.Proofs
end

section
/-! PROOFS. What the operations of the wafer cache leave alone (R165-R184): the state outside the cache, the banks that serve lines, and
every byte of memory but those of lines that cannot go home. -/

namespace Sys2Proof.Proofs

open Sys2Proof Sys2Proof.Machine Sys2Proof.Safety Sys2Proof.Rules Sys2Proof.Laws

/-! ### The state outside the cache -/

/-- A change of the wafer cache and of memory behind it alone. -/
def CacheOnly (s e : State) : Prop :=
  { e with mem := s.mem, wc := s.wc, inError := s.inError, regions := s.regions, replicas := s.replicas
           deviceWrites := s.deviceWrites, agenda := s.agenda, useCtr := s.useCtr } = s

theorem CacheOnly.refl (s : State) : CacheOnly s s := rfl

theorem CacheOnly.trans {r s t : State} (h : CacheOnly r s) (k : CacheOnly s t) : CacheOnly r t := by
  unfold CacheOnly at *
  rw [← h, ← k]

theorem CacheOnly.foldl {α : Type} {f : State → α → State} (h : ∀ s x, CacheOnly s (f s x)) (l : List α) (s : State) :
    CacheOnly s (l.foldl f s) := by
  induction l generalizing s with
  | nil => rfl
  | cons x r ih => exact (h s x).trans (ih _)

/-- What leaves a bank: lines in error stay so, no line comes in, and completions of memory devices alone are due (R84, R167). -/
structure Sheds (s t : State) : Prop where
  only : CacheOnly s t
  inError : ∀ l ∈ s.inError, l ∈ t.inError
  lines : ∀ w ∈ t.wc, ∃ v ∈ s.wc, v.line = w.line
  agenda : ∃ x, t.agenda = s.agenda ++ x ∧ ∀ p ∈ x, p.row = .memoryDeviceCompletion

theorem Sheds.refl (s : State) : Sheds s s := ⟨rfl, fun _ h => h, fun w h => ⟨w, h, rfl⟩, [], by simp, by simp⟩

theorem Sheds.trans {r s t : State} (h : Sheds r s) (k : Sheds s t) : Sheds r t := by
  obtain ⟨x, hx, px⟩ := h.agenda
  obtain ⟨y, hy, py⟩ := k.agenda
  refine ⟨h.only.trans k.only, fun l hl => k.inError l (h.inError l hl), fun w hw => ?_, x ++ y, by rw [hy, hx, List.append_assoc], ?_⟩
  · obtain ⟨v, hv, e1⟩ := k.lines w hw
    obtain ⟨u, hu, e2⟩ := h.lines v hv
    exact ⟨u, hu, e2.trans e1⟩
  · intro p hp
    rcases List.mem_append.1 hp with hp | hp
    · exact px p hp
    · exact py p hp

theorem Sheds.foldl {α : Type} {f : State → α → State} (h : ∀ s x, Sheds s (f s x)) (l : List α) (s : State) : Sheds s (l.foldl f s) := by
  induction l generalizing s with
  | nil => exact .refl s
  | cons x r ih => exact (h s x).trans (ih _)

/-- A change of region entries and replicas alone. -/
theorem sheds_regions (s : State) (rs : List RegionEntry) (ps : List Replica) : Sheds s { s with regions := rs, replicas := ps } :=
  ⟨rfl, fun _ h => h, fun w h => ⟨w, h, rfl⟩, [], by simp, by simp⟩

theorem mem_mapIf {α : Type} {p : α → Bool} {f : α → α} {l : List α} {y : α} (h : y ∈ mapIf p f l) : ∃ x ∈ l, y = x ∨ y = f x := by
  obtain ⟨x, hx, rfl⟩ := List.mem_map.1 h
  refine ⟨x, hx, ?_⟩
  split
  · exact .inr rfl
  · exact .inl rfl

theorem writeHome_sheds (s : State) (line : Nat) : Sheds s (s.writeHome line) := by
  refine ⟨rfl, fun _ h => h, fun w hw => ?_, [], by simp [State.writeHome], by simp⟩
  obtain ⟨v, hv, rfl | rfl⟩ := mem_mapIf hw
  · exact ⟨_, hv, rfl⟩
  · exact ⟨v, hv, rfl⟩

theorem loseCopies_only (s : State) (line : Nat) : CacheOnly s (s.loseCopies line) := by
  unfold CacheOnly State.loseCopies State.pokeN
  rfl

theorem loseCopies_wc (s : State) (line : Nat) : (s.loseCopies line).wc = s.wc.filter fun l => l.line ≠ line := by
  unfold State.loseCopies
  rfl

theorem loseCopies_agenda (s : State) (line : Nat) : (s.loseCopies line).agenda = s.agenda := by
  unfold State.loseCopies State.pokeN
  rfl

theorem mem_loseCopies_inError {s : State} {line l : Nat} : l ∈ (s.loseCopies line).inError ↔ l = line ∨ l ∈ s.inError := by
  unfold State.loseCopies
  dsimp only
  by_cases h : s.inError.contains line = true
  · rw [if_pos h]
    have hm : line ∈ s.inError := by simpa using h
    exact ⟨.inr, fun k => k.elim (fun e => e ▸ hm) id⟩
  · rw [if_neg h]
    simp [or_comm]

theorem loseCopies_sheds (s : State) (line : Nat) : Sheds s (s.loseCopies line) where
  only := loseCopies_only s line
  inError _ h := mem_loseCopies_inError.2 (.inr h)
  lines w hw := ⟨w, (List.mem_filter.1 (loseCopies_wc s line ▸ hw)).1, rfl⟩
  agenda := ⟨[], by simp [loseCopies_agenda], by simp⟩

theorem flushLine_sheds (s : State) (line : Nat) : Sheds s (s.flushLine line) := by
  unfold State.flushLine
  split
  · split
    · exact loseCopies_sheds s line
    · dsimp only
      split
      · refine (writeHome_sheds s line).trans ⟨rfl, fun _ h => h, fun w h => ⟨w, h, rfl⟩, _, rfl, ?_⟩
        simp
      · exact writeHome_sheds s line
  · exact .refl s

theorem evict_sheds (s : State) (p : Nat → Bool) : Sheds s (s.evict p) :=
  (Sheds.foldl flushLine_sheds _ s).trans ⟨rfl, fun _ h => h, fun w hw => ⟨w, (List.mem_filter.1 hw).1, rfl⟩, [], by simp [State.evict], by simp⟩

theorem removeEntry_sheds (s : State) (k : RegionKey) : Sheds s (s.removeEntry k) :=
  (evict_sheds s _).trans (sheds_regions _ _ _)

theorem limitEntries_sheds (s : State) (k : RegionKey) : Sheds s (s.limitEntries k) := by
  unfold State.limitEntries
  split
  · exact .refl s
  · split
    · exact .refl s
    · split
      · exact removeEntry_sheds s _
      · exact .refl s

theorem putRegion_sheds (s : State) (e : RegionEntry) : Sheds s (s.putRegion e) :=
  Sheds.trans (sheds_regions s (e :: s.regions.filter fun r => r.key ≠ e.key) s.replicas) (limitEntries_sheds _ _)

theorem ensureRegion_sheds (s : State) (pa : Nat) : Sheds s (s.ensureRegion pa) := by
  unfold State.ensureRegion
  split
  · exact .refl s
  · exact putRegion_sheds s _

/-! ### Lines that are lost -/

theorem loseLine_sheds (s : State) (line : Nat) : Sheds s (s.loseLine line) :=
  (ensureRegion_sheds s _).trans (loseCopies_sheds _ line)

theorem loseLine_inError (s : State) (line : Nat) : line ∈ (s.loseLine line).inError := mem_loseCopies_inError.2 (.inl rfl)

/-- A line that is lost leaves its bank. -/
theorem loseLine_leaves (s : State) (line : Nat) : ∀ w ∈ (s.loseLine line).wc, w.line ≠ line := fun w hw => by
  simpa using (List.mem_filter.1 hw).2

theorem loseLines_sheds (ls : List Nat) (s : State) : Sheds s (ls.foldl State.loseLine s) := Sheds.foldl loseLine_sheds ls s

/-- Lines that are lost one after another: each is in error, and held no more. -/
theorem loseLines_lost (ls : List Nat) (s : State) :
    ∀ l ∈ ls, l ∈ (ls.foldl State.loseLine s).inError ∧ ∀ w ∈ (ls.foldl State.loseLine s).wc, w.line ≠ l := by
  induction ls generalizing s with
  | nil => simp
  | cons x r ih =>
    intro l hl
    rcases List.mem_cons.1 hl with rfl | hl
    · have h := loseLines_sheds r (s.loseLine l)
      refine ⟨h.inError l (loseLine_inError s l), fun w hw => ?_⟩
      obtain ⟨v, hv, e⟩ := h.lines w hw
      exact e ▸ loseLine_leaves s l v hv
    · exact ih _ l hl

theorem loseRegion_sheds (s : State) (k : RegionKey) : Sheds s (s.loseRegion k) := loseLines_sheds _ s

theorem loseNamed_sheds (s : State) (k : RegionKey) : Sheds s (s.loseNamed k) := loseLines_sheds _ s

end Sys2Proof.Proofs
end

section
/-! PROOFS. Links (R41-R43): replay, the steps down of a link, what the street maps take of them, and its retraining. -/

namespace Sys2Proof.Proofs

open Sys2Proof Sys2Proof.Machine Sys2Proof.Safety Sys2Proof.Rules Sys2Proof.Laws

/-! ### One link direction -/

theorem tabFind_tabDel_same {α : Type} (k : Nat) (t : List (Nat × α)) : tabFind k (tabDel k t) = none := by
  induction t with
  | nil => rfl
  | cons e r ih => by_cases h : e.1 = k <;> simp_all [tabDel, tabFind]

theorem tabFind_tabDel_other {α : Type} {k j : Nat} (h : j ≠ k) (t : List (Nat × α)) : tabFind j (tabDel k t) = tabFind j t := by
  induction t with
  | nil => rfl
  | cons e r ih =>
    by_cases hk : e.1 = k
    · have hj : ¬ e.1 = j := fun x => h (x.symm.trans hk)
      simpa [tabDel, tabFind, hk, hj, Ne.symm h] using ih
    · by_cases hj : e.1 = j <;> simp_all [tabDel, tabFind]

theorem link_updLink_same (s : State) (d : LinkDir) (f : Link → Link) : (s.updLink d f).link d = f (s.link d) := by
  simp [State.updLink, State.link]

theorem link_updLink_other {d k : LinkDir} (h : linkKey k ≠ linkKey d) (s : State) (f : Link → Link) :
    (s.updLink d f).link k = s.link k := by
  simp [State.updLink, State.link, tabFind_tabSet_other h]

theorem link_of_links {s e : State} (h : e.links = s.links) (d : LinkDir) : e.link d = s.link d := by simp [State.link, h]

theorem neighbour_port {t p n : Nat} (h : neighbour t p = some n) : p < 4 := by
  unfold neighbour at h
  split at h <;> simp_all

theorem reverse_of {d : LinkDir} {n : Nat} (h : neighbour d.tile d.port = some n) : reverse d = ⟨n, farPort d.port⟩ := by
  simp [reverse, h]

/-- A change of both directions of a link. -/
def bothEnds (s : State) (d : LinkDir) (f : Link → Link) : State := (s.updLink d f).updLink (reverse d) f

theorem bothEnds_links (s : State) (d : LinkDir) (f : Link → Link) : { bothEnds s d f with links := s.links } = s := rfl

/-- What a change keeps of every link, a change of both directions keeps. -/
theorem bothEnds_get {α : Type} {s : State} {d : LinkDir} {f : Link → Link} {g : Link → α} (hg : ∀ l, g (f l) = g l) (k : LinkDir) :
    g ((bothEnds s d f).link k) = g (s.link k) := by
  have one : ∀ (s : State) (d : LinkDir), g ((s.updLink d f).link k) = g (s.link k) := fun s d => by
    by_cases h : linkKey k = linkKey d
    · have e : ∀ r : State, r.link k = r.link d := fun r => by simp [State.link, h]
      rw [e, link_updLink_same, hg, e]
    · rw [link_updLink_other h]
  exact (one _ _).trans (one _ _)

/-- What holds of every changed link holds of both directions. -/
theorem bothEnds_ends {s : State} {d : LinkDir} {f : Link → Link} {P : Link → Prop} (hp : ∀ l, P (f l))
    {k : LinkDir} (hk : k ∈ [d, reverse d]) : P ((bothEnds s d f).link k) := by
  by_cases h : linkKey k = linkKey (reverse d)
  · have e : ∀ r : State, r.link k = r.link (reverse d) := fun r => by simp [State.link, h]
    rw [e, bothEnds, link_updLink_same]
    exact hp _
  · rcases List.mem_pair.1 hk with rfl | rfl
    · rw [bothEnds, link_updLink_other h, link_updLink_same]
      exact hp _
    · exact absurd rfl h

/-! ### Flits that are acknowledged -/

/-- A change of the fabric's links and packets alone. -/
def LinksOnly (s t : State) : Prop := { t with links := s.links, flights := s.flights } = s

theorem LinksOnly.trans {r s t : State} (h : LinksOnly r s) (k : LinksOnly s t) : LinksOnly r t := by
  unfold LinksOnly at *
  rw [← h, ← k]

/-- A packet that takes its place in a replay buffer: no packet moves, and no buffer loses a flit. -/
structure Entered (s t : State) : Prop where
  only : LinksOnly s t
  flights : t.flights = s.flights
  expect : ∀ d, (t.link d).expect = (s.link d).expect
  buffer : ∀ d, ∀ x ∈ (s.link d).buffer, x ∈ (t.link d).buffer

theorem Entered.refl (s : State) : Entered s s := ⟨rfl, rfl, fun _ => rfl, fun _ _ h => h⟩

theorem Entered.trans {r s t : State} (h : Entered r s) (k : Entered s t) : Entered r t :=
  ⟨h.only.trans k.only, k.flights.trans h.flights, fun d => (k.expect d).trans (h.expect d), fun d x hx => k.buffer d x (h.buffer d x hx)⟩

theorem enterLink_entered (s : State) (f : Flight) : Entered s (s.enterLink f) := by
  unfold State.enterLink
  split
  · exact .refl s
  · rename_i d _
    split
    · exact .refl s
    · refine ⟨rfl, rfl, fun k => ?_, fun k x hx => ?_⟩
      all_goals
        by_cases hk : linkKey k = linkKey d
        · have e : ∀ r : State, r.link k = r.link d := fun r => by simp [State.link, hk]
          rw [e, link_updLink_same]
          simp_all
        · rw [link_updLink_other hk]
          try exact hx

theorem foldl_enterLink_entered (l : List Flight) (s : State) : Entered s (l.foldl State.enterLink s) := by
  induction l generalizing s with
  | nil => exact .refl s
  | cons f r ih => exact (enterLink_entered s f).trans (ih _)

theorem refill_entered (s : State) (d : LinkDir) : Entered s (s.refill d) := foldl_enterLink_entered _ s

/-- A packet crosses a link, or is not at its sender: buffers lose nothing. -/
theorem cross_kept (s : State) (d : LinkDir) (id : Nat) :
    LinksOnly s (s.cross d id) ∧ (∀ k, ((s.cross d id).link k).expect = (s.link k).expect) ∧
      ∀ k, ∀ x ∈ (s.link k).buffer, x ∈ ((s.cross d id).link k).buffer := by
  unfold State.cross
  split
  · exact ⟨rfl, fun _ => rfl, fun _ _ h => h⟩
  · rename_i f _
    obtain ⟨h1, _, h3, h4⟩ := enterLink_entered (s.standAt f (reverse d).tile) { f with router := (reverse d).tile }
    exact ⟨LinksOnly.trans (s := s.standAt f (reverse d).tile) rfl h1, h3, h4⟩

/-- The packet that an acknowledged flit carries, where it stands at the flit's sender. -/
def atSender (s : State) (d : LinkDir) (id : Nat) : Option Flight := s.flights.find? fun f => f.id = id && f.router = d.tile

theorem cross_none {s : State} {d : LinkDir} {id : Nat} (h : atSender s d id = none) : s.cross d id = s := by
  unfold State.cross
  rw [show s.flights.find? (fun f => f.id = id && f.router = d.tile) = none from h]

theorem cross_some {s : State} {d : LinkDir} {id : Nat} {f : Flight} (h : atSender s d id = some f) :
    f.id = id ∧ (s.cross d id).flights = (s.flights.filter fun g => g.id ≠ f.id) ++ [{ f with router := (reverse d).tile }] := by
  have hf := List.find?_some h
  simp only [Bool.and_eq_true, decide_eq_true_eq] at hf
  refine ⟨hf.1, ?_⟩
  unfold State.cross
  rw [show s.flights.find? (fun f => f.id = id && f.router = d.tile) = some f from h]
  exact (enterLink_entered _ _).flights

/-- A packet of a number stands at a router. -/
def standsAt (s : State) (id r : Nat) : Prop := ∃ g ∈ s.flights, g.id = id ∧ g.router = r

/-- The packet whose flit is acknowledged stands at the next router; one of another number stays where it is. -/
theorem cross_standsAt {s : State} {d : LinkDir} {id : Nat} (k : Nat)
    (h : standsAt s id (reverse d).tile ∨ standsAt s id d.tile ∧ k = id) : standsAt (s.cross d k) id (reverse d).tile := by
  cases hf : atSender s d k with
  | none =>
    rw [cross_none hf]
    rcases h with h | ⟨⟨g, hg, h1, h2⟩, rfl⟩
    · exact h
    · have := List.find?_eq_none.1 hf g hg
      simp [h1, h2] at this
  | some f =>
    obtain ⟨hk, hfl⟩ := cross_some hf
    unfold standsAt
    rw [hfl]
    by_cases hid : k = id
    · exact ⟨{ f with router := (reverse d).tile }, by simp, hk.trans hid, rfl⟩
    · rcases h with ⟨g, hg, h1, h2⟩ | ⟨-, h⟩
      · exact ⟨g, List.mem_append_left _ (List.mem_filter.2 ⟨hg, by simp [hk, h1, Ne.symm hid]⟩), h1, h2⟩
      · exact absurd h hid

theorem cross_waits {s : State} {d : LinkDir} {id k : Nat} (hk : k ≠ id) (h : standsAt s id d.tile) : standsAt (s.cross d k) id d.tile := by
  cases hf : atSender s d k with
  | none => rwa [cross_none hf]
  | some f =>
    obtain ⟨hi, hfl⟩ := cross_some hf
    obtain ⟨g, hg, h1, h2⟩ := h
    unfold standsAt
    rw [hfl]
    exact ⟨g, List.mem_append_left _ (List.mem_filter.2 ⟨hg, by simp [hi, h1, Ne.symm hk]⟩), h1, h2⟩

/-- The packets of flits that are freed one after another. -/
def crossAll (d : LinkDir) (l : List (BitVec 8 × Nat)) (s : State) : State := l.foldl (fun s e => s.cross d e.2) s

theorem crossAll_kept (d : LinkDir) (l : List (BitVec 8 × Nat)) (s : State) :
    LinksOnly s (crossAll d l s) ∧ (∀ k, ((crossAll d l s).link k).expect = (s.link k).expect) ∧
      ∀ k, ∀ x ∈ (s.link k).buffer, x ∈ ((crossAll d l s).link k).buffer := by
  induction l generalizing s with
  | nil => exact ⟨rfl, fun _ => rfl, fun _ _ h => h⟩
  | cons e r ih =>
    obtain ⟨h1, h2, h3⟩ := cross_kept s d e.2
    obtain ⟨k1, k2, k3⟩ := ih (s.cross d e.2)
    exact ⟨h1.trans k1, fun k => (k2 k).trans (h2 k), fun k x hx => k3 k x (h3 k x hx)⟩

theorem crossAll_stays (d : LinkDir) (l : List (BitVec 8 × Nat)) {s : State} {id : Nat} (h : standsAt s id (reverse d).tile) :
    standsAt (crossAll d l s) id (reverse d).tile := by
  induction l generalizing s with
  | nil => exact h
  | cons e r ih => exact ih (cross_standsAt e.2 (.inl h))

/-- Each of them stands at the next router. -/
theorem crossAll_standsAt (d : LinkDir) (l : List (BitVec 8 × Nat)) {s : State} {id : Nat} (h : standsAt s id d.tile)
    (hl : id ∈ l.map (·.2)) : standsAt (crossAll d l s) id (reverse d).tile := by
  induction l generalizing s with
  | nil => simp at hl
  | cons e r ih =>
    by_cases he : e.2 = id
    · exact crossAll_stays d r (cross_standsAt e.2 (.inr ⟨h, he⟩))
    · exact ih (cross_waits he h) (by simpa [Ne.symm he] using hl)

/-- The acknowledged flit is among the entries that are freed. -/
theorem mem_freed {l : List (BitVec 8 × Nat)} {q : BitVec 8} {e : BitVec 8 × Nat} {rest : List (BitVec 8 × Nat)}
    (h : (l.dropWhile fun e => e.1 ≠ q) = e :: rest) : e ∈ l.take (l.length - rest.length) := by
  obtain ⟨p, hp⟩ := List.dropWhile_suffix (fun e : BitVec 8 × Nat => decide (e.1 ≠ q)) (l := l)
  rw [h] at hp
  have hn : (p ++ e :: rest).length - rest.length = (p ++ [e]).length := by simp; omega
  rw [← hp, hn, show p ++ e :: rest = (p ++ [e]) ++ rest by simp, List.take_left]
  simp

theorem flitAcknowledge_acts {s : State} {d : LinkDir} {q : BitVec 8} {e : BitVec 8 × Nat} {rest : List (BitVec 8 × Nat)}
    (hi : s.input = .flitAcknowledge d q) (hn : (neighbour d.tile d.port).isSome = true) (he : (s.link d).fromSeq q = e :: rest) :
    ∃ t, exec .flitAcknowledge s = .next t ∧ LinksOnly s t ∧ (t.link d).expect = q + 1 ∧ (∀ x ∈ rest, x ∈ (t.link d).buffer) ∧
      ∀ f ∈ s.flights, f.id = e.2 → f.router = d.tile → ∃ g ∈ t.flights, g.id = f.id ∧ some g.router = neighbour d.tile d.port := by
  obtain ⟨n, hn⟩ := Option.isSome_iff_exists.1 hn
  let a := s.updLink d fun l => { l with buffer := rest, expect := q + 1, resend := l.resend.filter fun x => rest.any fun e => e.1 = x }
  let freed := (s.link d).buffer.take ((s.link d).buffer.length - rest.length)
  have hx : exec .flitAcknowledge s = .next ((crossAll d freed a).refill d) := by
    change execFlitAcknowledge s = _
    unfold execFlitAcknowledge
    rw [hi]
    dsimp only
    rw [he]
    rfl
  obtain ⟨c1, c2, c3⟩ := crossAll_kept d freed a
  obtain ⟨r1, r2, r3, r4⟩ := refill_entered (crossAll d freed a) d
  have ha : a.link d = { s.link d with buffer := rest, expect := q + 1
                                       resend := (s.link d).resend.filter fun x => rest.any fun e => e.1 = x } := link_updLink_same s d _
  have h0 : LinksOnly s a := rfl
  refine ⟨_, hx, (h0.trans c1).trans r1, ?_, fun x hx => r4 d x (c3 d x ?_), fun f hf h1 h2 => ?_⟩
  · rw [r3, c2, ha]
  · rw [ha]; exact hx
  · obtain ⟨g, hg, g1, g2⟩ := crossAll_standsAt d freed (s := a) ⟨f, hf, h1, h2⟩ (List.mem_map.2 ⟨e, mem_freed he, rfl⟩)
    exact ⟨g, r2 ▸ hg, g1.trans h1.symm, by rw [g2, reverse_of hn, hn]⟩

/-! ### The street maps (R42, R51) -/

theorem streetWord_streetSet (m : List (Nat × BitVec 32)) (t n : Nat) (v : Bool) (u : Nat) :
    streetWord (streetSet m t n v) u =
      if u = t then (if v then streetWord m t ||| (1#32 <<< n) else streetWord m t &&& ~~~(1#32 <<< n)) else streetWord m u := by
  unfold streetSet
  dsimp only
  generalize (if v then streetWord m t ||| (1#32 <<< n) else streetWord m t &&& ~~~(1#32 <<< n)) = w
  by_cases hw : w = 0
  · by_cases hu : u = t
    · simp [hw, hu, streetWord, tabFind_tabDel_same]
    · simp [hw, hu, streetWord, tabFind_tabDel_other hu]
  · rw [if_neg hw]
    by_cases hu : u = t
    · simp [hu, streetWord]
    · simp [hu, streetWord, tabFind_tabSet_other hu]

/-- What setting or clearing a bit of a tile's word leaves. -/
theorem streetBit_streetSet (m : List (Nat × BitVec 32)) {t n : Nat} (v : Bool) (u k : Nat) (hn : n < 32) :
    streetBit (streetSet m t n v) u k = if u = t ∧ k = n then v else streetBit m u k := by
  unfold streetBit
  rw [streetWord_streetSet]
  by_cases hu : u = t
  · subst hu
    by_cases hk : k = n
    · subst hk; cases v <;> simp [hn]
    · by_cases h32 : k < 32
      · cases v <;> simp [hk, h32] <;> grind
      · cases v <;> simp [hk, BitVec.getLsbD_of_ge _ _ (Nat.le_of_not_lt h32)]
  · simp [hu]

/-- HARV takes no other bit. -/
theorem streetBit_harvested (before m : List (Nat × BitVec 32)) (t u k : Nat) (hk : k ≠ 12) :
    streetBit (harvested before m t) u k = streetBit m u k := by
  unfold harvested
  split
  · rw [streetBit_streetSet _ _ _ _ (by omega)]; simp [hk]
  · rfl

theorem streetBit_noteHarvest (ds : List Part) (before m : List (Nat × BitVec 32)) (p : Part) (u k : Nat) (hk : k ≠ 12) :
    streetBit (noteHarvest ds before m p) u k = streetBit m u k := by
  unfold noteHarvest
  split
  · rfl
  · cases p with
    | tile t | bank t | router t => exact streetBit_harvested _ _ _ _ _ hk
    | link t q =>
      dsimp only
      split
      · rw [streetBit_harvested _ _ _ _ _ hk, streetBit_harvested _ _ _ _ _ hk]
      · exact streetBit_harvested _ _ _ _ _ hk

/-- A link that is lost is no more in the map, at either of its ends. -/
theorem streetBit_defect_link (ds : List Part) (m : List (Nat × BitVec 32)) {d : LinkDir} {n : Nat}
    (h : neighbour d.tile d.port = some n) {k : LinkDir} (hk : k ∈ [d, reverse d]) :
    streetBit (defect ds m (.link d.tile d.port)) k.tile (3 + k.port) = false := by
  have hp := neighbour_port h
  have hf : farPort d.port < 4 := Nat.mod_lt _ (by omega)
  rw [reverse_of h] at hk
  have hk4 : k.port < 4 := by rcases List.mem_pair.1 hk with rfl | rfl <;> assumption
  unfold defect
  rw [streetBit_noteHarvest _ _ _ _ _ _ (by omega)]
  simp only [cutLink, h]
  rcases List.mem_pair.1 hk with rfl | rfl <;> simp [streetBit_streetSet, hp, hf, show ∀ x, x < 4 → 3 + x < 32 from fun _ _ => by omega,
    show ∀ x, x < 4 → 7 + x < 32 from fun _ _ => by omega]

/-- A good link at half width carries its bit at both ends. -/
theorem streetBit_halveLink (m : List (Nat × BitVec 32)) {d : LinkDir} {n : Nat} (h : neighbour d.tile d.port = some n)
    (hg : streetBit m d.tile (3 + d.port) = true) {k : LinkDir} (hk : k ∈ [d, reverse d]) :
    streetBit (halveLink m d.tile d.port) k.tile (7 + k.port) = true := by
  have hp := neighbour_port h
  have hf : farPort d.port < 4 := Nat.mod_lt _ (by omega)
  rw [reverse_of h] at hk
  simp only [halveLink, hg, if_true, h]
  rcases List.mem_pair.1 hk with rfl | rfl <;> simp [streetBit_streetSet, show ∀ x, x < 4 → 7 + x < 32 from fun _ _ => by omega, hp, hf]

@[simp] theorem streetBit_nil (t k : Nat) : streetBit [] t k = false := by simp [streetBit, streetWord, tabFind]

/-! ### The end of a replay window (R42, R43) -/

/-- The window that begins counts no replay yet. -/
def newWindow (s : State) (l : Link) : Link := { l with window := s.fabricCycles / replayWindow, replays := 0 }

/-- A link that retrains. -/
def trained (l : Link) : Link := { l with retraining := true }

theorem exec_replayWindowEnd_of {s : State} {d : LinkDir} (hi : s.input = .replayWindowEnd d)
    (hn : (neighbour d.tile d.port).isSome = true) (hw : (s.link d).window < s.fabricCycles / 2 ^ 20) :
    exec .replayWindowEnd s = .next (if (s.link d).replays ≤ 16 then s.updLink d (newWindow s)
      else match (s.link d).st with
        | .full => bothEnds ((s.updLink d (newWindow s)).linkHalf d) d trained
        | .half => bothEnds ((s.updLink d (newWindow s)).linkDown d) d trained
        | .down => s.updLink d (newWindow s)) := by
  have hg : (decide (s.fabricCycles / replayWindow ≤ (s.link d).window) || (neighbour d.tile d.port).isNone) = false := by
    simpa [Option.isSome_iff_ne_none] using ⟨by simpa [replayWindow] using hw, Option.isSome_iff_ne_none.1 hn⟩
  rw [Laws.exec_replayWindowEnd]
  unfold execReplayWindowEnd
  rw [hi]
  dsimp only
  rw [if_neg (by rw [hg]; exact Bool.false_ne_true)]
  rfl

/-- The packet that is lost leaves the links, the maps, the groups and the fused list as they are. -/
theorem losePacket_kept (s : State) (f : Flight) : (s.losePacket f).links = s.links ∧ (s.losePacket f).streetNext = s.streetNext ∧
    (s.losePacket f).harvestMap = s.harvestMap ∧ (s.losePacket f).flash = s.flash ∧ (s.losePacket f).junctions = s.junctions := by
  unfold State.losePacket
  split
  · rename_i k _
    have h := (loseRegion_sheds { s with flights := s.flights.filter fun g => g.id ≠ f.id } k).only
    exact ⟨(congrArg State.links h :), (congrArg State.streetNext h :), (congrArg State.harvestMap h :), (congrArg State.flash h :),
      (congrArg State.junctions h :)⟩
  · exact ⟨rfl, rfl, rfl, rfl, rfl⟩

theorem losePackets_kept (l : List Flight) (s : State) : (l.foldl State.losePacket s).links = s.links ∧
    (l.foldl State.losePacket s).streetNext = s.streetNext ∧ (l.foldl State.losePacket s).harvestMap = s.harvestMap ∧
    (l.foldl State.losePacket s).flash = s.flash ∧ (l.foldl State.losePacket s).junctions = s.junctions := by
  induction l generalizing s with
  | nil => exact ⟨rfl, rfl, rfl, rfl, rfl⟩
  | cons f r ih =>
    obtain ⟨h1, h2, h3, h4, h5⟩ := losePacket_kept s f
    obtain ⟨k1, k2, k3, k4, k5⟩ := ih (s.losePacket f)
    exact ⟨k1.trans h1, k2.trans h2, k3.trans h3, k4.trans h4, k5.trans h5⟩

/-- A link of half width. -/
def halved (l : Link) : Link := { l with st := .half }

theorem linkHalf_link (s : State) (d k : LinkDir) : (s.linkHalf d).link k = (bothEnds s d halved).link k := rfl

/-- A change of links and of the maps alone. -/
def MapsOnly (s t : State) : Prop := { t with links := s.links, streetNext := s.streetNext, harvestMap := s.harvestMap } = s

theorem MapsOnly.trans {r s t : State} (h : MapsOnly r s) (k : MapsOnly s t) : MapsOnly r t := by
  unfold MapsOnly at *
  rw [← h, ← k]

theorem mapsOnly_updLink (s : State) (d : LinkDir) (f : Link → Link) : MapsOnly s (s.updLink d f) := rfl
theorem mapsOnly_bothEnds (s : State) (d : LinkDir) (f : Link → Link) : MapsOnly s (bothEnds s d f) := rfl
theorem mapsOnly_linkHalf (s : State) (d : LinkDir) : MapsOnly s (s.linkHalf d) := rfl

/-- The state of a link whose packets are lost. -/
def emptied (s : State) (d : LinkDir) : State := (s.inBuffers d ++ s.inBuffers (reverse d)).foldl State.losePacket s

/-- A link that is down. -/
def downed (l : Link) : Link := { l with st := .down, buffer := [], resend := [] }

theorem linkDown_link (s : State) (d k : LinkDir) : (s.linkDown d).link k = (bothEnds (emptied s d) d downed).link k := rfl

theorem linkDown_streetNext (s : State) (d : LinkDir) : (s.linkDown d).streetNext =
    defect (emptied s d).flash.defects (emptied s d).streetNext (.link d.tile d.port) := rfl

theorem linkDown_harvestMap (s : State) (d : LinkDir) : (s.linkDown d).harvestMap = if (emptied s d).harvestMap = [] then []
    else defect (emptied s d).flash.defects (emptied s d).harvestMap (.link d.tile d.port) := rfl

theorem linkDown_agenda (s : State) (d : LinkDir) : (s.linkDown d).agenda = (emptied s d).agenda ++
    (emptied s d).junctions.map fun g => ⟨.collectiveTreeRebuild, .collectiveTreeRebuild g.1⟩ := rfl

/-- A link of full width steps down to half (R42). -/
theorem linkHalf_acts {s : State} {d : LinkDir} {n : Nat} (h : neighbour d.tile d.port = some n) {k : LinkDir} (hk : k ∈ [d, reverse d]) :
    ((s.linkHalf d).link k).st = .half ∧
      (streetBit s.streetNext d.tile (3 + d.port) = true → streetBit (s.linkHalf d).streetNext k.tile (7 + k.port) = true) ∧
      (streetBit s.harvestMap d.tile (3 + d.port) = true → streetBit (s.linkHalf d).harvestMap k.tile (7 + k.port) = true) := by
  refine ⟨?_, fun hb => streetBit_halveLink _ h hb hk, fun hb => ?_⟩
  · rw [linkHalf_link]
    exact bothEnds_ends (P := fun l => l.st = .half) (fun _ => rfl) hk
  · have hne : s.harvestMap ≠ [] := fun e => by simp [e] at hb
    have e : (s.linkHalf d).harvestMap = halveLink s.harvestMap d.tile d.port := if_neg hne
    rw [e]
    exact streetBit_halveLink _ h hb hk

/-- A link of half width goes down (R43, R52). -/
theorem linkDown_acts {s : State} {d : LinkDir} {n : Nat} (h : neighbour d.tile d.port = some n) :
    (s.linkDown d).rt.want = true ∧
    (∀ k ∈ [d, reverse d], ((s.linkDown d).link k).st = .down ∧ ((s.linkDown d).link k).buffer = [] ∧
      streetBit (s.linkDown d).streetNext k.tile (3 + k.port) = false ∧
      streetBit (s.linkDown d).harvestMap k.tile (3 + k.port) = false) ∧
    (∀ j ∈ s.junctions, ⟨.collectiveTreeRebuild, .collectiveTreeRebuild j.1⟩ ∈ (s.linkDown d).agenda) ∧
    ∀ k, ((s.linkDown d).link k).replays = (s.link k).replays ∧ ((s.linkDown d).link k).window = (s.link k).window := by
  obtain ⟨hl, -, -, -, hj⟩ := losePackets_kept (s.inBuffers d ++ s.inBuffers (reverse d)) s
  refine ⟨rfl, fun k hk => ⟨?_, ?_, ?_, ?_⟩, fun j hm => ?_, fun k => ?_⟩
  · rw [linkDown_link]
    exact bothEnds_ends (P := fun l => l.st = .down) (fun _ => rfl) hk
  · rw [linkDown_link]
    exact bothEnds_ends (P := fun l => l.buffer = []) (fun _ => rfl) hk
  · rw [linkDown_streetNext]
    exact streetBit_defect_link _ _ h hk
  · rw [linkDown_harvestMap]
    split
    · exact streetBit_nil _ _
    · exact streetBit_defect_link _ _ h hk
  · rw [linkDown_agenda]
    exact List.mem_append_right _ (List.mem_map.2 ⟨j, hj.symm ▸ hm, rfl⟩)
  · rw [linkDown_link, bothEnds_get (f := downed) (g := Link.replays) (fun _ => rfl),
      bothEnds_get (f := downed) (g := Link.window) (fun _ => rfl), emptied, link_of_links hl]
    exact ⟨rfl, rfl⟩

theorem replayWindowEnd_acts {s : State} {d : LinkDir} (hi : s.input = .replayWindowEnd d)
    (hn : (neighbour d.tile d.port).isSome = true) (hw : (s.link d).window < s.fabricCycles / 2 ^ 20) :
    ∃ t, exec .replayWindowEnd s = .next t ∧ (t.link d).replays = 0 ∧ (t.link d).window = s.fabricCycles / 2 ^ 20 ∧
      ((s.link d).replays ≤ 16 → { t with links := s.links } = s ∧ (t.link d).st = (s.link d).st) ∧
      (16 < (s.link d).replays → (s.link d).st = .full →
        { t with links := s.links, streetNext := s.streetNext, harvestMap := s.harvestMap } = s ∧
        ∀ k ∈ [d, reverse d], (t.link k).st = .half ∧ (t.link k).retraining = true ∧
          (streetBit s.streetNext d.tile (3 + d.port) = true → streetBit t.streetNext k.tile (7 + k.port) = true) ∧
          (streetBit s.harvestMap d.tile (3 + d.port) = true → streetBit t.harvestMap k.tile (7 + k.port) = true)) ∧
      (16 < (s.link d).replays → (s.link d).st = .half →
        t.rt.want = true ∧ (∀ k ∈ [d, reverse d], (t.link k).st = .down ∧ (t.link k).buffer = [] ∧
          (t.link k).retraining = true ∧ streetBit t.streetNext k.tile (3 + k.port) = false ∧
          streetBit t.harvestMap k.tile (3 + k.port) = false) ∧
        ∀ j ∈ s.junctions, ⟨.collectiveTreeRebuild, .collectiveTreeRebuild j.1⟩ ∈ t.agenda) := by
  have hx := exec_replayWindowEnd_of hi hn hw
  obtain ⟨n, hn⟩ := Option.isSome_iff_exists.1 hn
  have ha : (s.updLink d (newWindow s)).link d = newWindow s (s.link d) := link_updLink_same s d _
  have hst : ∀ (r : State) k, ((bothEnds r d trained).link k).st = (r.link k).st := fun r => bothEnds_get (g := Link.st) fun _ => rfl
  have hre : ∀ (r : State) k, ((bothEnds r d trained).link k).replays = (r.link k).replays := fun r =>
    bothEnds_get (g := Link.replays) fun _ => rfl
  have hwi : ∀ (r : State) k, ((bothEnds r d trained).link k).window = (r.link k).window := fun r =>
    bothEnds_get (g := Link.window) fun _ => rfl
  have hbu : ∀ (r : State) k, ((bothEnds r d trained).link k).buffer = (r.link k).buffer := fun r =>
    bothEnds_get (g := Link.buffer) fun _ => rfl
  have htr : ∀ (r : State), ∀ k ∈ [d, reverse d], ((bothEnds r d trained).link k).retraining = true := fun r k hk =>
    bothEnds_ends (P := fun l => l.retraining = true) (fun _ => rfl) hk
  by_cases h16 : (s.link d).replays ≤ 16
  · rw [if_pos h16] at hx
    exact ⟨_, hx, by rw [ha]; rfl, by rw [ha]; rfl, fun _ => ⟨rfl, by rw [ha]; rfl⟩, fun h => absurd h (by omega), fun h => absurd h (by omega)⟩
  · rw [if_neg h16] at hx
    cases hs : (s.link d).st with
    | full =>
      rw [hs] at hx
      refine ⟨_, hx, ?_, ?_, fun h => absurd h h16, fun _ _ => ⟨?_, fun k hk => ?_⟩, fun _ h => LinkState.noConfusion h⟩
      · rw [hre, linkHalf_link, bothEnds_get (f := halved) (g := Link.replays) (fun _ => rfl), ha]; rfl
      · rw [hwi, linkHalf_link, bothEnds_get (f := halved) (g := Link.window) (fun _ => rfl), ha]; rfl
      · exact ((mapsOnly_updLink s d _).trans (mapsOnly_linkHalf _ d)).trans (mapsOnly_bothEnds _ d _)
      · obtain ⟨k1, k2, k3⟩ := linkHalf_acts (s := s.updLink d (newWindow s)) hn hk
        exact ⟨(hst _ k).trans k1, htr _ k hk, k2, k3⟩
    | half =>
      rw [hs] at hx
      obtain ⟨h1, h2, h3, h4⟩ := linkDown_acts (s := s.updLink d (newWindow s)) hn
      refine ⟨_, hx, ?_, ?_, fun h => absurd h h16, fun _ h => LinkState.noConfusion h, fun _ _ => ⟨h1, fun k hk => ?_, h3⟩⟩
      · rw [hre, (h4 d).1, ha]; rfl
      · rw [hwi, (h4 d).2, ha]; rfl
      · obtain ⟨k1, k2, k3, k4⟩ := h2 k hk
        exact ⟨(hst _ k).trans k1, (hbu _ k).trans k2, htr _ k hk, k3, k4⟩
    | down =>
      rw [hs] at hx
      exact ⟨_, hx, by rw [ha]; rfl, by rw [ha]; rfl, fun h => absurd h h16, fun _ h => LinkState.noConfusion h,
        fun _ h => LinkState.noConfusion h⟩

theorem exec_flitCrcFail_of {s : State} {d : LinkDir} {q : BitVec 8} (hi : s.input = .flitCrcFail d q) (hq : (s.link d).fromSeq q ≠ []) :
    exec .flitCrcFail s = .next { s.updLink d fun l => { l with expect := q } with
      agenda := s.agenda ++ [⟨.replayRequest, .replayRequest d q⟩] } := by
  rw [Laws.exec_flitCrcFail]
  unfold execFlitCrcFail
  rw [hi]
  exact congrArg Host.Outcome.next (if_neg hq)

theorem exec_replayRequest_of {s : State} {d : LinkDir} {q : BitVec 8} (hi : s.input = .replayRequest d q) (hq : (s.link d).fromSeq q ≠ []) :
    exec .replayRequest s = .next (s.updLink d fun l => { l with replays := l.replays + 1, resend := (l.fromSeq q).map (·.1) }) := by
  rw [Laws.exec_replayRequest]
  unfold execReplayRequest
  rw [hi]
  exact congrArg Host.Outcome.next (if_neg hq)

/-- A link whose retraining is done. -/
def retrained (l : Link) : Link := { l with retraining := false }

theorem exec_linkRetrainDone_of {s : State} {d : LinkDir} (hi : s.input = .linkRetrainDone d) :
    exec .linkRetrainDone s = .next (bothEnds s d retrained) := by
  rw [Laws.exec_linkRetrainDone]
  unfold execLinkRetrainDone
  rw [hi]
  rfl

/-- Settles O45, event by event: a failed flit and a replay request change one direction of a link; the packets that an acknowledgement
frees cross it (`flitAcknowledge_acts`); the end of a window with more than 16 replays takes both directions a step down
(`replayWindowEnd_acts`); and the end of retraining keeps their buffers. -/
theorem linkEvents : Obligations.LinkEvents := by
  unfold Obligations.LinkEvents
  refine ⟨fun s d q hi hq => exec_flitCrcFail_of hi hq, fun s d q hi hq => exec_replayRequest_of hi hq,
    fun s d q e rest hi hn he => flitAcknowledge_acts hi hn he, fun s d hi hn hw => replayWindowEnd_acts hi hn hw,
    fun s d hi => ⟨_, exec_linkRetrainDone_of hi, bothEnds_links s d _, ?_, ?_, ?_⟩⟩
  · exact bothEnds_ends (P := fun l => l.retraining = false) (fun _ => rfl) (by simp)
  · exact bothEnds_ends (P := fun l => l.retraining = false) (fun _ => rfl) (by simp)
  · exact bothEnds_get (f := retrained) (g := Link.buffer) (fun _ => rfl) d

end Sys2Proof.Proofs
end

section
/-! PROOFS. What accesses leave alone (R157-R184): the operations of the wafer cache change the cache and memory behind it; an access of
a tile changes these, the caches and TLBs of its tile and its reticle, and what hosts hold; nothing else. -/

namespace Sys2Proof.Proofs

open Sys2Proof Sys2Proof.Machine Sys2Proof.Safety Sys2Proof.Rules Sys2Proof.Laws

/-! ### The wafer cache -/

theorem putRegion_cacheOnly (s : State) (e : RegionEntry) : CacheOnly s (s.putRegion e) := (putRegion_sheds s e).only

theorem collapse_cacheOnly (s : State) (e : RegionEntry) (mine : Nat) : CacheOnly s (s.collapse e mine) := by
  have h0 : CacheOnly s { s with replicas := s.replicas.filter fun r => !e.key.has (128 * r.line) || r.reticle ≠ mine } := rfl
  unfold State.collapse
  split
  · exact .refl s
  · dsimp only
    split
    · exact h0
    · split
      · exact h0.trans (putRegion_cacheOnly _ _)
      · exact (h0.trans (putRegion_cacheOnly _ _)).trans rfl

theorem touch_cacheOnly (s : State) (t pa n : Nat) (write : Bool) : CacheOnly s (s.touch t pa n write) := by
  unfold State.touch
  cases write with
  | true => exact (putRegion_cacheOnly s _).trans (collapse_cacheOnly _ _ _)
  | false => exact putRegion_cacheOnly s _

theorem useLine_cacheOnly (s : State) (pa ward : Nat) : CacheOnly s (s.useLine pa ward) := by
  unfold State.useLine
  dsimp only
  split <;> rfl

theorem dirty_cacheOnly (s : State) (pa tenant : Nat) : CacheOnly s (s.dirty pa tenant) := rfl

theorem dropResident_cacheOnly (s : State) (r : Resident) : CacheOnly s (s.dropResident r) := by
  unfold State.dropResident
  split
  · exact (evict_sheds s _).only
  · rfl

theorem fitSet_cacheOnly (b ward line n : Nat) (s : State) : CacheOnly s (s.fitSet b ward line n) := by
  induction n generalizing s with
  | zero => exact .refl s
  | succ n ih =>
    rw [State.fitSet]
    split
    · exact .refl s
    · split
      · exact (dropResident_cacheOnly s _).trans (ih _)
      · exact .refl s

theorem prune_cacheOnly (s : State) : CacheOnly s s.prune := rfl

theorem settleLine_cacheOnly (s : State) (pa ward : Nat) : CacheOnly s (s.settleLine pa ward) := by
  unfold State.settleLine State.makeRoom
  split
  · exact .refl s
  · exact (fitSet_cacheOnly _ _ _ _ s).trans (prune_cacheOnly _)

theorem dropStale_cacheOnly (s : State) (t pa : Nat) : CacheOnly s (s.dropStale t pa) := by
  unfold State.dropStale
  split
  · split <;> rfl
  · exact .refl s

theorem hintEntry_cacheOnly (s : State) (pa kind tenant : Nat) : CacheOnly s (s.hintEntry pa kind tenant) := by
  unfold State.hintEntry State.dropHinted State.dropReplicas
  split
  · exact .refl s
  · split
    · exact putRegion_cacheOnly s _
    · exact (putRegion_cacheOnly s _).trans rfl

theorem placeHint_cacheOnly (s : State) (plc tenant : Nat) (ts : List (Nat × Target)) : CacheOnly s (s.placeHint plc tenant ts) := by
  unfold State.placeHint
  split
  · exact .refl s
  · refine CacheOnly.foldl (fun s e => ?_) ts s
    split
    · exact hintEntry_cacheOnly s _ _ _
    · exact .refl s

/-! ### Accesses -/

/-- A change of tiles, of the wafer cache, of memory, of TLBs, and of what hosts hold. -/
def Around (s e : State) : Prop :=
  { e with tiles := s.tiles, mem := s.mem, wc := s.wc, inError := s.inError, regions := s.regions, replicas := s.replicas
           reticleTlb := s.reticleTlb, deviceWrites := s.deviceWrites, lastAtomic := s.lastAtomic, agenda := s.agenda
           hostLines := s.hostLines, useCtr := s.useCtr, freeCtr := s.freeCtr } = s

theorem Around.refl (s : State) : Around s s := rfl

theorem Around.trans {r s t : State} (h : Around r s) (k : Around s t) : Around r t := by
  unfold Around at *
  rw [← h, ← k]

theorem CacheOnly.around {s e : State} (h : CacheOnly s e) : Around s e := by
  unfold CacheOnly at h
  unfold Around
  rw [← h]

/-- An access of tile t: it changes, beside what lies around, the caches, TLBs and predictors of its tile. -/
structure Local (t : Nat) (s e : State) : Prop where
  around : Around s e
  others : ∀ m, m ≠ t → e.tile m = s.tile m
  own : { e.tile t with l1 := (s.tile t).l1, tlb := (s.tile t).tlb, replicaTable := (s.tile t).replicaTable
                        contention := (s.tile t).contention } = s.tile t

theorem Local.refl (t : Nat) (s : State) : Local t s s := ⟨rfl, fun _ _ => rfl, rfl⟩

theorem Local.trans {t : Nat} {r s e : State} (h : Local t r s) (k : Local t s e) : Local t r e :=
  ⟨h.around.trans k.around, fun m hm => (k.others m hm).trans (h.others m hm), by rw [← h.own, ← k.own]⟩

theorem Local.foldl {α : Type} {t : Nat} {f : State → α → State} (h : ∀ s x, Local t s (f s x)) (l : List α) (s : State) :
    Local t s (l.foldl f s) := by
  induction l generalizing s with
  | nil => exact .refl t s
  | cons x r ih => exact (h s x).trans (ih _)

theorem Local.wg {t : Nat} {s e : State} (h : Local t s e) (m : Nat) : (e.tile m).wg = (s.tile m).wg := by
  by_cases hm : m = t
  · subst hm
    exact (congrArg Tile.wg h.own :)
  · rw [h.others m hm]

/-- What leaves the tiles alone. -/
theorem Local.of_tiles {t : Nat} {s e : State} (h : Around s e) (ht : e.tiles = s.tiles) : Local t s e := by
  have hm : ∀ m, e.tile m = s.tile m := fun m => by simp only [State.tile, ht]
  exact ⟨h, fun m _ => hm m, by rw [hm]⟩

theorem CacheOnly.local {t : Nat} {s e : State} (h : CacheOnly s e) : Local t s e :=
  .of_tiles h.around (congrArg State.tiles h :)

/-- A change of the caches of the tile. -/
theorem updTile_local (s : State) (t : Nat) (f : Tile → Tile)
    (hf : ∀ tl, { f tl with l1 := tl.l1, tlb := tl.tlb, replicaTable := tl.replicaTable, contention := tl.contention } = tl) :
    Local t s (s.updTile t f) := by
  refine ⟨rfl, fun m hm => ?_, ?_⟩
  · exact tile_setTile_other hm s _
  · simp only [State.updTile, tile_setTile_same]
    exact hf _

theorem pokeN_local (t : Nat) (s : State) (a : Nat) (bs : List Byte) : Local t s (s.pokeN a bs) := .of_tiles rfl rfl

theorem agenda_local (t : Nat) (s : State) (l : List Pending) : Local t s { s with agenda := l } := .of_tiles rfl rfl

theorem reticleTlb_local (t : Nat) (s : State) (l : List (Nat × TlbEntry)) (n : Nat) : Local t s { s with reticleTlb := l, freeCtr := n } :=
  .of_tiles rfl rfl

theorem inError_local (t : Nat) (s : State) (l : List Nat) : Local t s { s with inError := l } := .of_tiles rfl rfl

theorem freeCtr_local (t : Nat) (s : State) (n : Nat) : Local t s { s with freeCtr := n } := .of_tiles rfl rfl

theorem hostGives_local (t : Nat) (s : State) (line : Nat) : Local t s (s.hostGives line) := by
  have h : ∀ (l : List (Nat × List Byte)) (s : State), Local t s (l.foldl (fun s h => s.pokeN (64 * h.1) (h.2.take 64)) s) := fun l s =>
    Local.foldl (fun s x => pokeN_local t s _ _) l s
  exact (h _ s).trans (.of_tiles rfl rfl)

theorem obtain_local (t : Nat) (s : State) (pa : Nat) (own : Bool) : Local t s (s.obtain pa own) := by
  unfold State.obtain
  split
  · exact .refl t s
  · exact (hostGives_local t s _).trans (.of_tiles rfl rfl)

theorem obtainRead_local (t : Nat) (s : State) (pa : Nat) : Local t s (s.obtainRead pa) := by
  unfold State.obtainRead
  split
  · exact (((ensureRegion_sheds s pa).only.trans (useLine_cacheOnly _ _ _)).local.trans (obtain_local t _ _ _)).trans
      (settleLine_cacheOnly _ _ _).local
  · exact .refl t s

theorem obtainEntries_local (t : Nat) (s : State) (tenant va : Nat) : Local t s (s.obtainEntries tenant va) := by
  unfold State.obtainEntries
  split
  · exact .refl t s
  · exact Local.foldl (fun s _ => Local.foldl (obtainRead_local t) _ s) _ s

theorem tlbFill_local (s : State) (t tenant : Nat) (p : Page) : Local t s (s.tlbFill t tenant p) :=
  (updTile_local s t _ (by intro; rfl)).trans (reticleTlb_local t _ _ _)

theorem walkFor_local (s : State) (t tenant : Nat) (m : AccessMode) (va : Nat) : Local t s (s.walkFor t tenant m va).1 := by
  unfold State.walkFor
  dsimp only
  split
  · exact obtainEntries_local t s tenant va
  · exact .refl t s

theorem translate_local (s : State) (t tenant : Nat) (m : AccessMode) (pool : Bool) (va : Nat) :
    Local t s (s.translate t tenant m pool va).1 := by
  have hw := walkFor_local s t tenant m va
  unfold State.translate
  split
  · exact .refl t s
  · split
    · exact freeCtr_local t s _
    · revert hw
      generalize s.walkFor t tenant m va = r
      obtain ⟨e, x⟩ := r
      cases x with
      | error f => exact id
      | ok p => exact fun hw => hw.trans (tlbFill_local e t tenant p)

theorem l1Drop_local (s : State) (t line : Nat) : Local t s (s.l1Drop t line) := updTile_local s t _ (by intro; rfl)

theorem l1Fill_local (s : State) (t tenant line : Nat) (kseg : Bool) (bs : List Byte) : Local t s (s.l1Fill t tenant line kseg bs) :=
  updTile_local s t _ (by intro; rfl)

theorem fillTile_local (s : State) (t tenant pa : Nat) (way : LoadWay) (bs : List Byte) : Local t s (s.fillTile t tenant pa way bs) := by
  unfold State.fillTile
  split
  · exact l1Fill_local s t _ _ _ _
  · exact l1Drop_local s t _

theorem replicaMark_local (s : State) (t pa : Nat) (fill : Bool) : Local t s (s.replicaMark t pa fill) := by
  unfold State.replicaMark
  split
  · exact .refl t s
  · split
    · dsimp only
      split
      · exact (updTile_local s t _ (by intro; rfl)).trans (agenda_local t _ _)
      · exact updTile_local s t _ (by intro; rfl)
    · exact updTile_local s t _ (by intro; rfl)

theorem serveLoad_local (s : State) (t pa : Nat) (fill : Bool) : Local t s (s.serveLoad t pa fill) :=
  ((((dropStale_cacheOnly s t pa).trans (touch_cacheOnly _ t pa 0 false)).trans (useLine_cacheOnly _ pa _)).local.trans
    (obtain_local t _ pa false)).trans (replicaMark_local _ t pa fill)

/-- A load at the serving bank: counted and used there, the tile's L1 filled, and room made for the line. -/
def atBank (s : State) (t tenant pa n : Nat) (way : LoadWay) : State × List Byte :=
  let e := s.serveLoad t pa way.alloc
  ((e.fillTile t tenant pa way (e.lineBytes (lineOf pa))).settleLine pa (e.tileWard t), e.peekN (e.memKey pa) n)

/-- A replica serves a load, which the anchor counts. -/
def replicaUsed (s : State) (t pa : Nat) (r : Replica) : State := ({ s with freeCtr := s.freeCtr + 1 }.touch t pa 0 false).useReplica r

/-- A load that a replica serves. -/
def atReplica (s : State) (t tenant pa n : Nat) (way : LoadWay) (r : Replica) : State × List Byte :=
  ((replicaUsed s t pa r).fillTile t tenant pa way r.bytes, (r.bytes.drop (pa % 128)).take n)

/-- Where a load is served (LOG 7): by the tile's L1, by a replica, or at the serving bank. -/
theorem bankLoad_cases (s : State) (t tenant pa n : Nat) (way : LoadWay) :
    (∃ l, way.l1 = true ∧ s.l1Copy t tenant pa way.kseg = some l ∧
      s.bankLoad t tenant pa n way = ({ s with freeCtr := s.freeCtr + 1 }, (l.bytes.drop (pa % 128)).take n)) ∨
    (∃ r, way.replica = true ∧ s.replicaCopy t pa = some r ∧ s.bankLoad t tenant pa n way = atReplica s t tenant pa n way r) ∨
    s.bankLoad t tenant pa n way = atBank { s with freeCtr := s.freeCtr + 1 } t tenant pa n way ∨
    s.bankLoad t tenant pa n way = atBank s t tenant pa n way := by
  unfold State.bankLoad
  dsimp only
  cases hl : (if way.l1 = true then s.l1Copy t tenant pa way.kseg else none) with
  | some l =>
    by_cases hw : way.l1 = true
    · rw [if_pos hw] at hl
      dsimp only
      split
      · exact .inl ⟨l, hw, hl, rfl⟩
      · exact .inr (.inr (.inl rfl))
    · rw [if_neg hw] at hl
      cases hl
  | none =>
    dsimp only
    cases hr : (if way.replica = true then s.replicaCopy t pa else none) with
    | some r =>
      by_cases hw : way.replica = true
      · rw [if_pos hw] at hr
        dsimp only
        split
        · exact .inr (.inl ⟨r, hw, hr, rfl⟩)
        · exact .inr (.inr (.inl rfl))
      · rw [if_neg hw] at hr
        cases hr
    | none => exact .inr (.inr (.inr rfl))

theorem atBank_local (s : State) (t tenant pa n : Nat) (way : LoadWay) : Local t s (atBank s t tenant pa n way).1 :=
  ((serveLoad_local s t pa way.alloc).trans (fillTile_local _ t _ _ _ _)).trans (settleLine_cacheOnly _ _ _).local

theorem useReplica_cacheOnly (s : State) (r : Replica) : CacheOnly s (s.useReplica r) := rfl

theorem replicaUsed_local (s : State) (t pa : Nat) (r : Replica) : Local t s (replicaUsed s t pa r) :=
  (freeCtr_local t s _).trans ((touch_cacheOnly _ t pa 0 false).trans (useReplica_cacheOnly _ r)).local

theorem atReplica_local (s : State) (t tenant pa n : Nat) (way : LoadWay) (r : Replica) : Local t s (atReplica s t tenant pa n way r).1 :=
  (replicaUsed_local s t pa r).trans (fillTile_local _ t _ _ _ _)

theorem bankLoad_local (s : State) (t tenant pa n : Nat) (way : LoadWay) : Local t s (s.bankLoad t tenant pa n way).1 := by
  rcases bankLoad_cases s t tenant pa n way with ⟨l, -, -, h⟩ | ⟨r, -, -, h⟩ | h | h
  · rw [h]; exact freeCtr_local t s _
  · rw [h]; exact atReplica_local s t tenant pa n way r
  · rw [h]; exact (freeCtr_local t s _).trans (atBank_local _ t tenant pa n way)
  · rw [h]; exact atBank_local s t tenant pa n way

theorem readyWrite_local (t : Nat) (s : State) (pa ward tenant : Nat) : Local t s (s.readyWrite pa ward tenant) :=
  ((useLine_cacheOnly s pa ward).local.trans (obtain_local t _ pa true)).trans (dirty_cacheOnly _ pa tenant).local

/-- A line at its serving bank, ready to be written by a tile. -/
def bankReady (s : State) (t tenant pa n : Nat) : State := (s.touch t pa n true).readyWrite pa (s.tileWard t) tenant

/-- An error in a line is cleared. -/
def cleared (s : State) (line : Nat) : State := { s with inError := s.inError.filter fun l => l ≠ line }

/-- Bytes are written at the serving bank, which makes room for their line. -/
def bankStored (s : State) (t pa : Nat) (bs : List Byte) : State := (s.pokeN (s.memKey pa) bs).settleLine pa (s.tileWard t)

theorem bankWrite_eq (s : State) (t tenant pa : Nat) (bs : List Byte) : s.bankWrite t tenant pa bs =
    (bankStored (cleared (bankReady s t tenant pa bs.length) (lineOf pa)) t pa bs).updTile t
      fun tl => { tl with l1 := tl.l1.map (L1Line.overwrite pa bs) } := rfl

theorem bankReady_local (s : State) (t tenant pa n : Nat) : Local t s (bankReady s t tenant pa n) :=
  (touch_cacheOnly s t pa n true).local.trans (readyWrite_local t _ pa _ tenant)

theorem bankStored_local (s : State) (t pa : Nat) (bs : List Byte) : Local t s (bankStored s t pa bs) :=
  (pokeN_local t s _ bs).trans (settleLine_cacheOnly _ _ _).local

theorem bankWrite_local (s : State) (t tenant pa : Nat) (bs : List Byte) : Local t s (s.bankWrite t tenant pa bs) := by
  rw [bankWrite_eq]
  exact (((bankReady_local s t tenant pa _).trans (inError_local t _ _)).trans (bankStored_local _ t pa bs)).trans
    (updTile_local _ t _ (by intro; rfl))

end Sys2Proof.Proofs
end

section
/-! PROOFS. Only the fabric moves packets: what a fault comes to at its context (R61, R93-R98, R335) leaves the packets under way alone. -/

namespace Sys2Proof.Proofs

open Sys2Proof Sys2Proof.Machine Sys2Proof.Safety Sys2Proof.Rules Sys2Proof.Laws

theorem Around.flights {s e : State} (h : Around s e) : e.flights = s.flights := (congrArg State.flights h :)

theorem foldl_flights {α : Type} {f : State → α → State} (h : ∀ s x, (f s x).flights = s.flights) (l : List α) (s : State) :
    (l.foldl f s).flights = s.flights := by
  induction l generalizing s with
  | nil => rfl
  | cons x r ih => exact (ih _).trans (h s x)

/-! ### Records (R72, R95, R96) -/

/-- A record reaches the ring of a ward whose port is up, or is dropped because the ring is full. -/
def ringWrite (s : State) (r : FaultRecord) (w : Nat) (b : Ward) : State × Bool :=
  let size := 2 ^ b.fqLogn
  let cons := if (b.written + 2 ^ 32 - b.consumed) % 2 ^ 32 > size then s.num (hostKey b.fqPort b.fqHead) 4 else b.consumed
  if (b.written + 2 ^ 32 - cons) % 2 ^ 32 > size then
    ({ s with wards := tabSet w { b with consumed := cons, lost := b.lost + 1 } s.wards }, true)
  else
    let s := s.hostWrite b.fqPort (b.fqRing + 64 * (b.written % size)) (r.bytes b.written b.lost)
    let next := if b.written + 1 = 2 ^ 32 then 1 else b.written + 1
    ({ s.sendMsix b.fqPort b.fqMsix with
        wards := tabSet w { b with consumed := cons, lost := 0, written := next } s.wards }, true)

/-- What becomes of a record: it is logged where no ward takes it, or it is not written, or it reaches a ring. -/
theorem writeFault_cases (s : State) (r : FaultRecord) :
    (r.queue = none ∧ s.writeFault r = ({ s with eventLog := s.eventLog ++ [r] }, true)) ∨
    (r.queue ≠ none ∧ ((s.writeFault r).1 = s ∨ ∃ w b, (s.writeFault r).1 = (ringWrite s r w b).1)) := by
  cases hq : r.queue with
  | none => exact .inl ⟨rfl, by rw [State.writeFault, hq]⟩
  | some w =>
    refine .inr ⟨Option.some_ne_none w, ?_⟩
    cases hb : s.ward? w with
    | none => exact .inl (by simp only [State.writeFault, hq, hb])
    | some b =>
      cases hp : s.hostPort b.fqPort with
      | false => exact .inl (by simp only [State.writeFault, hq, hb, hp, Bool.not_false, if_true])
      | true => exact .inr ⟨w, b, by simp only [State.writeFault, hq, hb, hp, ringWrite, Bool.not_true, Bool.false_eq_true, if_false]⟩

theorem ringWrite_flights (s : State) (r : FaultRecord) (w : Nat) (b : Ward) : (ringWrite s r w b).1.flights = s.flights := by
  simp only [ringWrite, apply_ite Prod.fst, apply_ite State.flights, pokeN_flights, sendMsix_flights, State.hostWrite, ite_self]

theorem writeFault_flights (s : State) (r : FaultRecord) : (s.writeFault r).1.flights = s.flights := by
  rcases writeFault_cases s r with ⟨-, h⟩ | ⟨-, h | ⟨w, b, h⟩⟩
  · rw [h]
  · rw [h]
  · rw [h, ringWrite_flights]

theorem writeFaults_flights (s : State) : s.writeFaults.flights = s.flights := by
  unfold State.writeFaults
  refine foldl_flights (fun s r => ?_) _ s
  dsimp only
  split <;> exact writeFault_flights s r

theorem writeRecord_flights (s : State) (q : LaunchQueue) (h : HeldRecord) : (s.writeRecord q h).flights = s.flights := by
  unfold State.writeRecord
  dsimp only
  split <;> rfl

theorem flushQueue_flights (s : State) (qid : Nat) : (s.flushQueue qid).flights = s.flights := by
  unfold State.flushQueue
  split
  · rfl
  · split
    · rfl
    · dsimp only
      refine foldl_flights (fun s h => ?_) _ s
      exact writeRecord_flights s _ h

theorem flush_flights (s : State) : s.flush.flights = s.flights := by
  unfold State.flush
  exact (foldl_flights (fun s e => flushQueue_flights s _) _ _).trans (writeFaults_flights s)

theorem endOne_flights (s : State) (k : LaunchKey) (status code : Nat) : (s.endOne k status code).flights = s.flights := by
  unfold State.endOne
  split
  · rfl
  · split
    · rfl
    · dsimp only
      split
      · rfl
      · exact flush_flights _

theorem endLaunch_flights (n : Nat) (s : State) (k : LaunchKey) (status code : Nat) : (State.endLaunch n s k status code).flights = s.flights := by
  induction n generalizing s k status code with
  | zero => exact endOne_flights s k status code
  | succ n ih =>
    rw [State.endLaunch]
    split
    · exact endOne_flights s k status code
    · exact (foldl_flights (fun s d => ih s d 4 0) _ _).trans (endOne_flights s k status code)

theorem finishLaunch_flights (s : State) (k : LaunchKey) (status code : Nat) : (s.finishLaunch k status code).flights = s.flights :=
  endLaunch_flights _ s k status code

/-! ### Locks (R300-R306) -/

theorem wound_flights (s : State) (q : SquadKey) : (s.wound q).flights = s.flights := by
  unfold State.wound
  dsimp only
  split <;> rfl

theorem setLock_flights (s : State) (l : LockEntry) : (s.setLock l).flights = s.flights := rfl

theorem decide_flights (n : Nat) (s : State) (l : LockEntry) (w : Waiting) : (State.decide n s l w).flights = s.flights := by
  induction n generalizing s l w with
  | zero => rfl
  | succ n ih =>
    rw [State.decide]
    extract_lets l l'
    split
    · rfl
    · split
      · exact foldl_flights (fun s e => ih s _ _) _ _
      · exact (setLock_flights _ _).trans (foldl_flights (fun s h => wound_flights s _) _ s)

theorem retry_flights (s : State) (e : LockId) : (s.retry e).flights = s.flights := by
  unfold State.retry
  split
  · rfl
  · refine foldl_flights (fun s w => ?_) _ s
    split
    · rfl
    · split
      · exact decide_flights 3 s _ w
      · rfl

theorem endWound_flights (s : State) (q : SquadKey) : (s.endWound q).flights = s.flights := by
  unfold State.endWound
  split
  · rfl
  · dsimp only
    split <;> rfl

theorem dropLocks_flights (s : State) (q : SquadKey) : (s.dropLocks q).flights = s.flights :=
  (endWound_flights _ q).trans (foldl_flights retry_flights _ _)

theorem countGrant_flights (s : State) (g : Grant) : (s.countGrant g).flights = s.flights := by
  unfold State.countGrant
  split <;> rfl

theorem countGrants_flights (s : State) (q : SquadKey) : (s.countGrants q).flights = s.flights := by
  unfold State.countGrants
  exact foldl_flights (fun s g => countGrant_flights s _) _ s

theorem releaseAll_flights (s : State) (q : SquadKey) (keepAge : Bool) : (s.releaseAll q keepAge).flights = s.flights :=
  (dropLocks_flights _ q).trans (countGrants_flights s q)

/-! ### Engine commands (R93, R352) -/

theorem engineTarget_around (s : State) (t : Nat) (w : Workgroup) (segs : Vector Seg 8) (tenant : Nat) (mode : AccessMode) (sp swz : Nat)
    (member : Option Nat) (e : Int) : Around s (s.engineTarget t w segs tenant mode sp swz member e).1 := by
  have h := (translate_local s t tenant mode (sp = 1) (engineStart segs sp e)).around
  unfold State.engineTarget
  split
  · exact .refl s
  · revert h
    generalize s.translate t tenant mode (sp = 1) (engineStart segs sp e) = r
    obtain ⟨u, x⟩ := r
    cases x <;> exact id

theorem noteAgent_around (s : State) (t pa : Nat) : Around s (s.noteAgent t pa) := by
  unfold State.noteAgent
  split <;> rfl

theorem engineStore_around (s : State) (t tenant : Nat) (x : Target) (b : List Byte) (ks : List RegionKey) :
    Around s (s.engineStore t tenant x b ks).1 := by
  unfold State.engineStore
  cases x with
  | spad _ k => rfl
  | phys pa => exact (bankWrite_local s t tenant pa b).around.trans (noteAgent_around _ t pa)

/-- A piece of an engine's write, as the run goes on with it. -/
theorem engineRun_around (s : State) (t : Nat) (w : Workgroup) (segs : Vector Seg 8) (tenant sp swz : Nat) (member : Option Nat) (e : Int)
    (bs : List Byte) (drain : Bool) : Around s (s.engineRun t w segs tenant sp swz member e bs drain).state := by
  have go : ∀ {f : EngineRun → Nat × Nat → EngineRun}, (∀ r p, Around r.state (f r p).state) → ∀ (l : List (Nat × Nat)) (r : EngineRun),
      Around r.state (l.foldl f r).state := by
    intro f h l
    induction l with
    | nil => exact fun r => .refl _
    | cons p l ih => exact fun r => (h r p).trans (ih _)
  unfold State.engineRun
  dsimp only
  split
  · exact .refl s
  · refine go (fun r p => ?_) _ ⟨s, 0, [], none⟩
    have ht := engineTarget_around r.state t w segs tenant .write sp swz member (e + p.1)
    revert ht
    generalize r.state.engineTarget t w segs tenant .write sp swz member (e + p.1) = y
    obtain ⟨u, x⟩ := y
    intro ht
    split
    · exact .refl _
    · cases x with
      | error f => exact ht
      | ok x =>
        dsimp only
        split
        · exact ht
        · exact ht
        · exact ht.trans (engineStore_around u t tenant x _ _)
        · exact ht.trans (engineStore_around u t tenant x _ _)

theorem jobRun_flights (s : State) (t : Nat) (w : Workgroup) (tenant : Nat) (j : Job) (x : JobWrite) (drain : Bool) :
    (s.jobRun t w tenant j x drain).state.flights = s.flights := (engineRun_around s _ w _ _ _ _ _ _ _ _).flights

theorem pauseJob_flights (s : State) (t : Nat) (w : Workgroup) (j : Job) (f : MemFault) (level : Nat) :
    (s.pauseJob t w j f level).flights = s.flights := by
  unfold State.pauseJob
  dsimp only
  split <;> rfl

theorem drainWrites_flights (t : Nat) (w : Workgroup) (tenant : Nat) (j : Job) (ws : List JobWrite) (s : State) :
    (s.drainWrites t w tenant j ws).flights = s.flights := by
  induction ws generalizing s with
  | nil => rfl
  | cons x r ih =>
    have hr := jobRun_flights s t w tenant j x true
    rw [State.drainWrites]
    split
    · exact ih s
    · dsimp only
      split
      · split
        · exact (pauseJob_flights _ t w j _ _).trans hr
        · split
          · exact (ih _).trans hr
          · exact hr
        · exact hr
      · exact (ih _).trans hr
      · exact (ih _).trans hr
      · exact (ih _).trans hr

theorem drainJob_flights (s : State) (t : Nat) (w : Workgroup) (tenant : Nat) (j : Job) : (s.drainJob t w tenant j).flights = s.flights := by
  unfold State.drainJob
  split
  · rfl
  · exact drainWrites_flights t w tenant j _ s
  all_goals
    split
    · rfl
    · rfl

theorem recordTraps_flights (s : State) (t : Nat) (w : Workgroup) : (s.recordTraps t w).flights = s.flights := by
  unfold State.recordTraps
  dsimp only
  refine foldl_flights (fun s x => ?_) _ s
  exact raise_flights s _

theorem failGroups_flights (s : State) (p : Nat → Bool) : (s.failGroups p).flights = s.flights := rfl

theorem drainTiles_flights (s : State) (p : GangKey → Bool) (tenant : Nat) : (s.drainTiles p tenant).flights = s.flights := by
  unfold State.drainTiles
  refine foldl_flights (fun s e => ?_) _ s
  split
  · split
    · exact (failGroups_flights _ _).trans ((foldl_flights (fun s j => drainJob_flights s _ _ tenant j) _ _).trans
        ((updWg_flights _ _ _).trans (recordTraps_flights s e.1 _)))
    · rfl
  · rfl

/-! ### The abort of a launch (R93, R94) -/

theorem flushLines_flights (ls : List Nat) (s : State) : (ls.foldl State.flushLine s).flights = s.flights :=
  foldl_flights (fun s l => (flushLine_sheds s l).only.around.flights) ls s

theorem ackRegion_flights (s : State) (k : RegionKey) : (s.ackRegion k).flights = s.flights := rfl

theorem homeLines_flights (s : State) (ls : List Nat) : (s.homeLines ls).flights = s.flights := flushLines_flights ls s

theorem finishRelease_flights (s : State) (t scope : Nat) (q : Squad) : (s.finishRelease t scope q).flights = s.flights := by
  have h : (if scope < 5 then s else (s.releaseInvals t).foldl State.ackRegion s).flights = s.flights := by
    split
    · rfl
    · exact foldl_flights ackRegion_flights _ s
  unfold State.finishRelease
  generalize (if scope < 5 then s else (s.releaseInvals t).foldl State.ackRegion s) = e at h
  dsimp only
  split
  · exact h
  · exact (flushLines_flights _ _).trans h

theorem releaseLaunch_flights (s : State) (k : LaunchKey) : (s.releaseLaunch k).flights = s.flights := by
  unfold State.releaseLaunch
  extract_lets e kept
  exact (homeLines_flights _ _).trans (foldl_flights (fun s x => finishRelease_flights s _ _ _) _ s)

theorem haltLaunch_flights (s : State) (k : LaunchKey) (status code : Nat) : (s.haltLaunch k status code).flights = s.flights := by
  unfold State.haltLaunch
  split
  · rfl
  · split
    · rfl
    · exact drainTiles_flights _ _ _

theorem freeTiles_flights (s : State) (p : GangKey → Bool) : (s.freeTiles p).flights = s.flights := rfl

theorem forgetGangs_flights (s : State) (p : GangKey → Bool) : (s.forgetGangs p).flights = s.flights := rfl

theorem closeLaunch_flights (s : State) (k : LaunchKey) : (s.closeLaunch k).flights = s.flights := by
  unfold State.closeLaunch
  split
  · rfl
  · dsimp only
    rw [finishLaunch_flights, forgetGangs_flights, freeTiles_flights, foldl_flights fun s q => releaseAll_flights s q false]
    exact releaseLaunch_flights s k

theorem stopLaunch_flights (s : State) (k : LaunchKey) (status code : Nat) : (s.stopLaunch k status code).flights = s.flights := by
  unfold State.stopLaunch
  split
  · rfl
  · split
    · exact haltLaunch_flights s k status code
    · exact (closeLaunch_flights _ k).trans (haltLaunch_flights s k status code)

theorem stopDomain_flights (s : State) (w : Nat) : (s.stopDomain w).flights = s.flights := by
  unfold State.stopDomain
  split <;> rfl

theorem abortLaunch_flights (s : State) (k : LaunchKey) (num : Nat) : (s.abortLaunch k num).flights = s.flights := by
  unfold State.abortLaunch
  split
  · rfl
  · exact (foldl_flights (fun s k => stopLaunch_flights s k 2 num) _ _).trans
      ((stopLaunch_flights _ k 2 num).trans (stopDomain_flights s _))

/-! ### A fault of a request (R61, R98, R335) -/

theorem engineTrap_flights (s : State) (t : Nat) (w : Workgroup) (slot : Nat) (e : EngineTrap) :
    (s.engineTrap t w slot e).flights = s.flights := by
  unfold State.engineTrap
  split
  · rfl
  · split
    · rfl
    · split
      · rfl
      · split
        · exact abortLaunch_flights _ _ _
        · rfl

theorem tellSquad_flights (s : State) (k : SquadKey) (e : EngineTrap) : (s.tellSquad k e).flights = s.flights := by
  unfold State.tellSquad
  split
  · exact flush_flights _
  · split
    · rfl
    · split
      · exact engineTrap_flights s _ _ _ e
      · split <;> rfl

theorem tellOwner_flights (s : State) (p : Packet) (number : Nat) (detail : Word) : (s.tellOwner p number detail).flights = s.flights := by
  unfold State.tellOwner
  split
  · rfl
  · exact tellSquad_flights s _ _

theorem failCopy_flights (s : State) (p : Packet) (t id n num detail : Nat) : (s.failCopy p t id n num detail).flights = s.flights := by
  unfold State.failCopy
  split <;> rfl

end Sys2Proof.Proofs
end

section
/-! PROOFS. Packets (R44-R49, R59-R61, R98, R184, R348): their classes and routes, their delivery in order, and what is lost or unanswered. -/

namespace Sys2Proof.Proofs

open Sys2Proof Sys2Proof.Machine Sys2Proof.Safety Sys2Proof.Rules Sys2Proof.Laws

/-! ### Routes (R47, R49) -/

/-- A copy of an MCAST line. -/
def IsCopy (p : Packet) : Prop := ∃ t id n o x, p.payload = .copy t id n o x

/-- A class is chosen where the entry is valid, and the entry allows it. -/
theorem chooseClass_valid {e : BitVec 16} (h : Bool) (hv : e.getLsbD 6 = true) : ∃ rc, chooseClass e h = some rc ∧
    (rc = .xFirst → e.getLsbD 4 = true) ∧ (rc = .yFirst → e.getLsbD 5 = true) ∧
    (rc = .upDown → e.getLsbD 4 = false ∧ e.getLsbD 5 = false) := by
  unfold chooseClass
  rw [hv]
  cases h <;> cases h4 : e.getLsbD 4 <;> cases h5 : e.getLsbD 5 <;> simp

theorem chooseClass_invalid {e : BitVec 16} (h : Bool) (hv : e.getLsbD 6 = false) : chooseClass e h = none := by
  unfold chooseClass
  rw [hv]
  rfl

/-- A packet that is no copy of an MCAST line keeps off the tree. -/
theorem onTree_false {s : State} {p : Packet} (h : ¬ IsCopy p) : s.onTree p = false := by
  unfold State.onTree
  split
  · exact absurd ⟨_, _, _, _, _, ‹_›⟩ h
  · rfl

theorem routeClass_valid {s : State} {p : Packet} (h : (s.active.entry p.source p.dest).getLsbD 6 = true ∨ s.onTree p = true) :
    ∃ rc, s.routeClass p = some rc ∧ (s.onTree p = true → rc = .xFirst) ∧
      (s.onTree p = false → (rc = .xFirst → (s.active.entry p.source p.dest).getLsbD 4 = true) ∧
        (rc = .yFirst → (s.active.entry p.source p.dest).getLsbD 5 = true) ∧
        (rc = .upDown → (s.active.entry p.source p.dest).getLsbD 4 = false ∧ (s.active.entry p.source p.dest).getLsbD 5 = false)) := by
  unfold State.routeClass
  cases ht : s.onTree p with
  | true => exact ⟨.xFirst, rfl, fun _ => rfl, fun h => Bool.noConfusion h⟩
  | false =>
    obtain ⟨rc, h1, h2⟩ := chooseClass_valid (Config.keyedHash s.fkey p.source (packetLine p) % 2 = 1) (h.resolve_right (by simp [ht]))
    exact ⟨rc, h1, fun h => Bool.noConfusion h, fun _ => h2⟩

theorem routeClass_invalid {s : State} {p : Packet} (hv : (s.active.entry p.source p.dest).getLsbD 6 = false) (h : ¬ IsCopy p) :
    s.routeClass p = none := by
  unfold State.routeClass
  rw [if_neg (by simp [onTree_false h])]
  exact chooseClass_invalid _ hv

/-! ### Sending (R47) -/

/-- The packet as it stands at its source. -/
def flightOf (s : State) (p : Packet) (rc : RouteClass) : Flight :=
  { id := s.nextPacket, packet := p, route := rc, gen := s.rt.gen.toNat, router := p.source, injected := s.fabricCycles }

/-- A change of the fabric, and of what its senders await, alone. -/
def FabricOnly (s t : State) : Prop := { t with links := s.links, flights := s.flights, awaited := s.awaited, nextPacket := s.nextPacket } = s

theorem FabricOnly.trans {r s t : State} (h : FabricOnly r s) (k : FabricOnly s t) : FabricOnly r t := by
  unfold FabricOnly at *
  rw [← h, ← k]

theorem LinksOnly.fabric {s t : State} (h : LinksOnly s t) : FabricOnly s t := by
  unfold LinksOnly at h
  unfold FabricOnly
  rw [← h]

theorem sendPacket_acts (s : State) (p : Packet) (rc : RouteClass) : (s.sendPacket p rc).flights = s.flights ++ [flightOf s p rc] ∧
    (s.sendPacket p rc).awaited = s.awaited ∧ FabricOnly s (s.sendPacket p rc) := by
  let u : State := { s with nextPacket := s.nextPacket + 1, flights := s.flights ++ [flightOf s p rc] }
  obtain ⟨h1, h2, -, -⟩ := enterLink_entered u (flightOf s p rc)
  have h0 : FabricOnly s u := rfl
  exact ⟨h2, (congrArg State.awaited h1 :), h0.trans h1.fabric⟩

theorem exec_packetInject_drains {s : State} {p : Packet} (hi : s.input = .packetInject p) (h : s.rt.state = 2) :
    exec .packetInject s = .next { s with waiting := s.waiting ++ [p] } := by
  rw [Laws.exec_packetInject]
  unfold execPacketInject
  split
  next p' h' =>
    cases hi.symm.trans h'
    exact if_pos h
  next h' => exact absurd hi (h' p)

/-- The sender of a packet begins to await its answer. -/
def awaiting (s : State) (p : Packet) : State :=
  if packetAwaited p then { s with awaited := s.awaited ++ [⟨s.nextPacket, p, s.fabricCycles, 0⟩] } else s

theorem awaiting_fabric (s : State) (p : Packet) : FabricOnly s (awaiting s p) ∧ (awaiting s p).flights = s.flights ∧
    (awaiting s p).nextPacket = s.nextPacket := by
  unfold awaiting
  split <;> exact ⟨rfl, rfl, rfl⟩

theorem awaiting_awaited (s : State) (p : Packet) : (awaiting s p).awaited = if payloadResent p.payload = true ∨ p.owner.isSome = true
    then s.awaited ++ [⟨s.nextPacket, p, s.fabricCycles, 0⟩] else s.awaited := by
  unfold awaiting packetAwaited
  simp only [Bool.or_eq_true]
  split <;> rfl

theorem exec_packetInject_routed {s : State} {p : Packet} {rc : RouteClass} (hi : s.input = .packetInject p) (h : s.rt.state ≠ 2)
    (hr : s.routeClass p = some rc) : exec .packetInject s = .next ((awaiting s p).sendPacket p rc) := by
  rw [Laws.exec_packetInject]
  unfold execPacketInject
  split
  next p' h' =>
    cases hi.symm.trans h'
    rw [if_neg h, hr]
    rfl
  next h' => exact absurd hi (h' p)

theorem exec_packetInject_refused {s : State} {p : Packet} (hi : s.input = .packetInject p) (h : s.rt.state ≠ 2)
    (hr : s.routeClass p = none) : exec .packetInject s = .next (s.refusePacket p) := by
  rw [Laws.exec_packetInject]
  unfold execPacketInject
  split
  next p' h' =>
    cases hi.symm.trans h'
    rw [if_neg h, hr]
  next h' => exact absurd hi (h' p)

theorem packetInject_acts {s : State} {p : Packet} (hi : s.input = .packetInject p) (h : s.rt.state ≠ 2)
    (hv : (s.active.entry p.source p.dest).getLsbD 6 = true ∨ s.onTree p = true) :
    ∃ t f, exec .packetInject s = .next t ∧ t.flights = s.flights ++ [f] ∧ f.id = s.nextPacket ∧ f.packet = p ∧ f.router = p.source ∧
      f.injected = s.fabricCycles ∧ (s.onTree p = true → f.route = .xFirst) ∧
      (s.onTree p = false → (f.route = .xFirst → (s.active.entry p.source p.dest).getLsbD 4 = true) ∧
        (f.route = .yFirst → (s.active.entry p.source p.dest).getLsbD 5 = true) ∧
        (f.route = .upDown → (s.active.entry p.source p.dest).getLsbD 4 = false ∧ (s.active.entry p.source p.dest).getLsbD 5 = false)) ∧
      t.awaited = (if payloadResent p.payload = true ∨ p.owner.isSome = true
        then s.awaited ++ [⟨s.nextPacket, p, s.fabricCycles, 0⟩] else s.awaited) ∧
      { t with links := s.links, flights := s.flights, awaited := s.awaited, nextPacket := s.nextPacket } = s := by
  obtain ⟨rc, hr, ht, hn⟩ := routeClass_valid hv
  obtain ⟨hf, hw, ho⟩ := sendPacket_acts (awaiting s p) p rc
  obtain ⟨ha, hfl, hnp⟩ := awaiting_fabric s p
  exact ⟨_, flightOf (awaiting s p) p rc, exec_packetInject_routed hi h hr, hf.trans (by rw [hfl]), hnp, rfl, rfl,
    (congrArg State.fabricCycles ha :), ht, hn, hw.trans (awaiting_awaited s p), ha.trans ho⟩

/-! ### A fault of a request (R61) -/

theorem refusePacket_eq {s : State} {p : Packet} (h : ¬ IsCopy p) : s.refusePacket p = s.fabricLoss p := by
  unfold State.refusePacket
  split
  · exact absurd ⟨_, _, _, _, _, ‹_›⟩ h
  · rfl

theorem fabricLoss_eq {s : State} {p : Packet} (h : ¬ IsCopy p) : s.fabricLoss p = s.tellOwner p Trap.fabricLoss 0 := by
  unfold State.fabricLoss
  split
  · exact absurd ⟨_, _, _, _, _, ‹_›⟩ h
  · rfl

theorem tellOwner_none {s : State} {p : Packet} {n : Nat} {d : Word} (h : p.owner = none) : s.tellOwner p n d = s := by
  simp only [State.tellOwner, h]

theorem loseResults_eq (q : Squad) (p : Packet) (e : EngineTrap) : q.loseResults (fun o => o.site = p.site) e =
    { q with outstanding := q.outstanding.filter fun o => o.site ≠ p.site, late := some (q.late.getD e) } := by
  unfold Squad.loseResults
  cases hl : q.late <;> simp

/-- A squad whose instruction was passed, and whose launch goes on, takes the fault at its next boundary. -/
theorem tellOwner_squad {s : State} {p : Packet} {k : SquadKey} {t slot : Nat} {w : Workgroup} (n : Nat) (d : Word) (ho : p.owner = some k)
    (hl : s.locate k = some (t, slot)) (hw : (s.tile t).wg = some w) (hs : p.seq = 0) (hg : s.goesOn k.gang.launch = true) :
    s.tellOwner p n d = s.updSquad t slot fun q => { q with
      outstanding := q.outstanding.filter fun o => o.site ≠ p.site, late := some (q.late.getD ⟨n, d, p.address, p.site, p.seq⟩) } := by
  unfold State.tellOwner State.tellSquad
  rw [ho]
  dsimp only
  rw [hl]
  dsimp only
  rw [hw]
  dsimp only
  rw [if_neg (by simp [hs]), if_pos hg]
  exact congrArg _ (funext fun q => loseResults_eq q p _)

/-- The records that no ward takes are logged. -/
theorem writeFault_logs (s : State) (r : FaultRecord) : (∀ x ∈ s.eventLog, x ∈ (s.writeFault r).1.eventLog) ∧
    (r.queue = none → r ∈ (s.writeFault r).1.eventLog) := by
  rcases writeFault_cases s r with ⟨-, h⟩ | ⟨hq, h | ⟨w, b, h⟩⟩
  · rw [h]
    exact ⟨fun x hx => List.mem_append_left _ hx, fun _ => List.mem_append_right _ (List.mem_singleton.2 rfl)⟩
  · rw [h]
    exact ⟨fun x hx => hx, fun e => absurd e hq⟩
  · have e : (ringWrite s r w b).1.eventLog = s.eventLog := by
      simp only [ringWrite, apply_ite Prod.fst, apply_ite State.eventLog, pokeN_eventLog, sendMsix_eventLog, State.hostWrite, ite_self]
    rw [h, e]
    exact ⟨fun x hx => hx, fun e => absurd e hq⟩

/-- A record is written, dropped or kept. -/
def faultWritten (s : State) (r : FaultRecord) : State :=
  if (s.writeFault r).2 then { (s.writeFault r).1 with faults := (s.writeFault r).1.faults.erase r } else (s.writeFault r).1

theorem faultWritten_eventLog (s : State) (r : FaultRecord) : (faultWritten s r).eventLog = (s.writeFault r).1.eventLog := by
  unfold faultWritten
  split <;> rfl

theorem foldl_faultWritten_logs (l : List FaultRecord) (s : State) : (∀ x ∈ s.eventLog, x ∈ (l.foldl faultWritten s).eventLog) ∧
    ∀ r ∈ l, r.queue = none → r ∈ (l.foldl faultWritten s).eventLog := by
  induction l generalizing s with
  | nil => exact ⟨fun _ h => h, by simp⟩
  | cons a l ih =>
    obtain ⟨h1, h2⟩ := writeFault_logs s a
    obtain ⟨k1, k2⟩ := ih (faultWritten s a)
    rw [faultWritten_eventLog] at k1
    refine ⟨fun x hx => k1 x (h1 x hx), fun r hr hq => ?_⟩
    rcases List.mem_cons.1 hr with rfl | hr
    · exact k1 r (h2 hq)
    · exact k2 r hr hq

theorem writeRecord_eventLog (s : State) (q : LaunchQueue) (h : HeldRecord) : (s.writeRecord q h).eventLog = s.eventLog := by
  unfold State.writeRecord
  dsimp only
  split <;> rfl

theorem foldl_eventLog {α : Type} {f : State → α → State} (h : ∀ s x, (f s x).eventLog = s.eventLog) (l : List α) (s : State) :
    (l.foldl f s).eventLog = s.eventLog := by
  induction l generalizing s with
  | nil => rfl
  | cons x r ih => exact (ih _).trans (h s x)

theorem flushQueue_eventLog (s : State) (qid : Nat) : (s.flushQueue qid).eventLog = s.eventLog := by
  unfold State.flushQueue
  split
  · rfl
  · split
    · rfl
    · dsimp only
      refine foldl_eventLog (fun s h => ?_) _ s
      exact writeRecord_eventLog s _ h

/-- A record that no ward takes is in the event log once records are flushed (R96). -/
theorem flush_logs {s : State} {r : FaultRecord} (h : r ∈ s.faults) (hq : r.queue = none) : r ∈ s.flush.eventLog := by
  unfold State.flush
  rw [foldl_eventLog fun s e => flushQueue_eventLog s _]
  exact (foldl_faultWritten_logs s.faults s).2 r h hq

/-- The fault of a squad that is gone is recorded (R98). -/
theorem tellOwner_gone {s : State} {p : Packet} {k : SquadKey} (n : Nat) (d : Word) (ho : p.owner = some k) (hl : s.locate k = none)
    (hq : s.faultWard (((s.launch? k.gang.launch).map (·.ward)).getD 0) = none) :
    ∃ r ∈ (s.tellOwner p n d).eventLog, r.num = n ∧ r.squad = k.squad ∧ r.time = s.devclk ∧ (s.launch? k.gang.launch = none → r.abort = true) := by
  unfold State.tellOwner State.tellSquad
  rw [ho]
  dsimp only
  rw [hl]
  dsimp only
  refine ⟨_, flush_logs (List.mem_append_right _ (List.mem_singleton.2 rfl)) hq, rfl, rfl, rfl, fun hn => ?_⟩
  simp [hn]

theorem packetInject_refused {s : State} {p : Packet} (hi : s.input = .packetInject p) (h : s.rt.state ≠ 2)
    (hv : (s.active.entry p.source p.dest).getLsbD 6 = false) (hc : ¬ IsCopy p) :
    exec .packetInject s = .next (s.tellOwner p Trap.fabricLoss 0) := by
  rw [exec_packetInject_refused hi h (routeClass_invalid hv hc), refusePacket_eq hc, fabricLoss_eq hc]

end Sys2Proof.Proofs
end

section
/-! PROOFS. The delivery of packets (R44-R48, R60, R61, R184, R348): in the order of their virtual channels, whole or with an error in
their data. -/

namespace Sys2Proof.Proofs

open Sys2Proof Sys2Proof.Machine Sys2Proof.Safety Sys2Proof.Rules Sys2Proof.Laws

/-! ### The order of delivery (R45, R48) -/

theorem isNext_of_older {s : State} {f g : Flight} (hg : g ∈ s.flights) (hi : g.id < f.id) (hs : g.packet.source = f.packet.source)
    (hc : packetClass g.packet = packetClass f.packet) (hl : packetLine g.packet = packetLine f.packet)
    (hd : g.packet.dest = f.packet.dest) : s.isNext f = false := by
  have h : s.flights.any (fun g => g.id < f.id && g.packet.source = f.packet.source && packetClass g.packet = packetClass f.packet
      && packetLine g.packet = packetLine f.packet && g.packet.dest = f.packet.dest) = true :=
    List.any_eq_true.2 ⟨g, hg, by simp [hi, hs, hc, hl, hd]⟩
  simp [State.isNext, State.firstOfKind, h]

theorem isNext_of_before {s : State} {f g : Flight} (hg : g ∈ s.flights.takeWhile fun g => g.id ≠ f.id) (hr : g.router = f.router)
    (hc : packetClass g.packet = packetClass f.packet) (ht : g.route = f.route) (hn : s.nextLink g = s.nextLink f)
    (hs : (s.nextLink f).isSome = true) : s.isNext f = false := by
  obtain ⟨d, hd⟩ := Option.isSome_iff_exists.1 hs
  have hi : g.id ≠ f.id := by simpa using List.mem_takeWhile_imp hg
  have h : (s.flights.takeWhile fun g => g.id ≠ f.id).any (fun g => g.id ≠ f.id && g.router = f.router && sameChannel f g &&
      s.nextLink g = some d) = true :=
    List.any_eq_true.2 ⟨g, hg, by simp [hi, hr, sameChannel, hc, ht, hn, hd]⟩
  have hb : s.behind f hopLimit f.router = true := by
    rw [show hopLimit = 2687 + 1 from rfl, State.behind]
    dsimp only
    rw [hd]
    dsimp only
    rw [if_pos rfl, h, Bool.true_or]
  simp [State.isNext, hb]

theorem exec_packetDeliver_waits {s : State} {n : Nat} {bad : Bool} {f : Flight} (hi : s.input = .packetDeliver n bad)
    (hf : s.flights[n]? = some f) (hn : s.isNext f = false) : exec .packetDeliver s = .next s := by
  rw [Laws.exec_packetDeliver]
  unfold execPacketDeliver
  split
  next n' b' h' =>
    cases hi.symm.trans h'
    rw [hf]
    dsimp only
    rw [if_pos (by simp [hn])]
  next h' => exact absurd hi (h' n bad)

theorem exec_packetDeliver_arrives {s : State} {n : Nat} {bad : Bool} {f : Flight} (hi : s.input = .packetDeliver n bad)
    (hf : s.flights[n]? = some f) (hn : s.isNext f = true) (hh : s.heldFlight f = false) :
    exec .packetDeliver s = .next (if bad then s.deliverBad f else s.deliver f) := by
  rw [Laws.exec_packetDeliver]
  unfold execPacketDeliver
  split
  next n' b' h' =>
    cases hi.symm.trans h'
    rw [hf]
    dsimp only
    rw [if_neg (by simp [hn]), if_pos (by simp [hh])]
  next h' => exact absurd hi (h' n bad)

theorem exec_packetDeliver_held {s : State} {n : Nat} {bad : Bool} {f : Flight} (hi : s.input = .packetDeliver n bad)
    (hf : s.flights[n]? = some f) (hn : s.isNext f = true) (hh : s.heldFlight f = true) :
    exec .packetDeliver s = .next (if f.route = .upDown ∧ s.rt.state = 2 then s.losePacket f
      else if s.reach hopLimit f = f.router then s else s.standAt f (s.reach hopLimit f)) := by
  rw [Laws.exec_packetDeliver]
  unfold execPacketDeliver
  split
  next n' b' h' =>
    cases hi.symm.trans h'
    rw [hf]
    dsimp only
    rw [if_neg (by simp [hn]), if_neg (by simp [hh])]
    simp only [Bool.and_eq_true, decide_eq_true_eq]
    split
    · rfl
    · split <;> rfl
  next h' => exact absurd hi (h' n bad)

/-! ### Jobs -/

theorem job?_updJob {s : State} {t id : Nat} {w : Workgroup} {j : Job} {f : Job → Job} (hf : ∀ j, (f j).id = j.id)
    (h : s.job? t id = some (w, j)) : ∃ w', (s.updJob t id f).job? t id = some (w', f j) := by
  unfold State.job? at h ⊢
  cases hw : (s.tile t).wg with
  | none => simp [hw] at h
  | some v =>
    simp only [hw, Option.bind_some, Option.map_eq_some_iff, Prod.mk.injEq] at h
    obtain ⟨x, hx, hv, rfl⟩ := h
    have hm : (mapIf (fun j => decide (j.id = id)) f v.jobs).find? (fun j => j.id = id) = some (f x) := by
      revert hx
      induction v.jobs with
      | nil => simp
      | cons y r ih =>
        intro hx
        by_cases hy : y.id = id
        · have hyx : y = x := by simpa [hy] using hx
          simp [mapIf, hf, hy, ← hyx]
        · have hx' := ih (by simpa [hy] using hx)
          simpa [mapIf, hy] using hx'
    refine ⟨{ v with jobs := mapIf (fun j => j.id = id) f v.jobs }, ?_⟩
    simp only [State.updJob, State.updWg, tile_updTile_same, Tile.updWg, hw, Option.map_some, Option.bind_some, hm]

theorem job?_of_copying {s : State} {t id n : Nat} {w : Workgroup} {j : Job} (h : s.copying t id n = some (w, j)) : s.job? t id = some (w, j) :=
  (Option.filter_eq_some_iff.1 h).1

/-- A copy that has come is awaited no longer, and no write is lost. -/
theorem copyArrived_writes (j : Job) (n : Nat) : (∀ y ∈ (j.copyArrived n).writes, y.copy ≠ some n) ∧
    (j.copyArrived n).writes.length = j.writes.length := by
  let ws := mapIf (fun x : JobWrite => x.copy = some n) (fun x => { x with copy := none }) j.writes
  have hw : (j.copyArrived n).writes = (ws.filter fun x => x.copy.isNone) ++ ws.filter fun x => x.copy.isSome := rfl
  rw [hw]
  constructor
  · intro y hy
    have hm : y ∈ ws := by
      rcases List.mem_append.1 hy with h | h
      · exact (List.mem_filter.1 h).1
      · exact (List.mem_filter.1 h).1
    obtain ⟨x, -, rfl⟩ := List.mem_map.1 hm
    split
    · simp
    · rename_i hc
      simpa using hc
  · have h := List.length_eq_length_filter_add (l := ws) fun x => x.copy.isNone
    have hn : (fun x : JobWrite => !x.copy.isNone) = fun x => x.copy.isSome := funext fun x => by cases x.copy <;> rfl
    rw [hn] at h
    rw [List.length_append, ← h]
    exact List.length_map _

/-! ### A packet that arrives whole -/

theorem takeCopy_eq {s : State} {p : Packet} (h : ¬ IsCopy p) : s.takeCopy p.payload = s := by
  unfold State.takeCopy
  split
  · exact absurd ⟨_, _, _, _, _, ‹_›⟩ h
  · rfl

theorem deliver_flights (s : State) (f : Flight) : (s.deliver f).flights = s.flights.filter fun g => g.id ≠ f.id := by
  have h : (s.takeCopy f.packet.payload).flights = s.flights := by
    unfold State.takeCopy
    split
    · split <;> rfl
    · rfl
  exact congrArg (List.filter _) h

/-- What is still awaited once a packet that is no copy has arrived. -/
theorem awaited_of_settles {s : State} {f : Flight} (h : ¬ IsCopy f.packet) : (s.awaited.filter fun a => some a.id ≠ f.settles) =
    match f.packet.payload with
    | .reply m _ => s.awaited.filter fun a => a.id ≠ m
    | .invalidateAck _ _ => s.awaited.filter fun a => a.id ≠ f.id
    | _ => s.awaited := by
  unfold Flight.settles
  split
  · rename_i hp
    rw [hp]
    simp
  · rename_i hp
    rw [hp]
    simp
  · exact absurd ⟨_, _, _, _, _, ‹_›⟩ h
  · rename_i h1 h2 h3
    split
    · exact absurd ‹_› (h1 _ _)
    · exact absurd ‹_› (h2 _ _)
    · simp

theorem deliver_eq {s : State} {f : Flight} (h : ¬ IsCopy f.packet) : s.deliver f = { s with
    flights := s.flights.filter (fun g => g.id ≠ f.id)
    awaited := match f.packet.payload with
      | .reply m _ => s.awaited.filter fun a => a.id ≠ m
      | .invalidateAck _ _ => s.awaited.filter fun a => a.id ≠ f.id
      | _ => s.awaited
    agenda := s.agenda ++ (payloadEvent f.packet.payload).toList ++ s.replyTo f } := by
  unfold State.deliver
  rw [takeCopy_eq h]
  dsimp only
  rw [awaited_of_settles h]

/-- The packet has left the fabric, and has been answered. -/
def arrivedBad (s : State) (f : Flight) : State :=
  { s with flights := s.flights.filter fun g => g.id ≠ f.id
           awaited := s.awaited.filter fun a => some a.id ≠ f.settles
           agenda := s.agenda ++ s.replyTo f }

theorem ueDetail_keeps (s : State) (x : Subject) : ∃ n, (s.ueDetail x).1 = { s with freeCtr := n } := by
  cases x with
  | line l => exact ⟨s.freeCtr, rfl⟩
  | scratch o => exact ⟨s.freeCtr + 1, rfl⟩
  | none => exact ⟨s.freeCtr + 1, rfl⟩

/-! ### Copies of an MCAST line -/

theorem packetDeliver_copy {s : State} {n : Nat} {bad : Bool} {f : Flight} (hi : s.input = .packetDeliver n bad)
    (hf : s.flights[n]? = some f) (hn : s.isNext f = true) (hh : s.heldFlight f = false) {tl id m o : Nat} {x : Subject} {w : Workgroup} {j : Job}
    (hp : f.packet.payload = .copy tl id m o x) (hc : s.copying tl id m = some (w, j)) :
    ∃ t w' j', exec .packetDeliver s = .next t ∧ t.flights = s.flights.filter (fun g => g.id ≠ f.id) ∧
      t.awaited = s.awaited.filter (fun a => a.id ≠ f.id) ∧ t.job? tl id = some (w', j') ∧
      (bad = false → (∀ y ∈ j'.writes, y.copy ≠ some m) ∧ j'.writes.length = j.writes.length) ∧
      (bad = true → ∃ d, j' = { j with stage := .faulted Trap.dataUe d f.packet.address.toNat }) := by
  have hset : (fun a : Awaited => decide (some a.id ≠ f.settles)) = fun a => decide (a.id ≠ f.id) := by
    simp [Flight.settles, hp]
  have hj := job?_of_copying hc
  have hsome : (s.copying tl id m).isSome = true := by rw [hc]; rfl
  have hx := exec_packetDeliver_arrives hi hf hn hh
  cases bad with
  | false =>
    have ht : s.takeCopy f.packet.payload = s.updJob tl id fun j => j.copyArrived m := by
      rw [hp]
      exact if_pos hsome
    obtain ⟨w', hw'⟩ := job?_updJob (f := fun j => j.copyArrived m) (fun _ => rfl) hj
    have hjob : (s.deliver f).job? tl id = (s.takeCopy f.packet.payload).job? tl id := rfl
    have haw : (s.deliver f).awaited = (s.takeCopy f.packet.payload).awaited.filter fun a => some a.id ≠ f.settles := rfl
    refine ⟨_, w', j.copyArrived m, hx, deliver_flights s f, ?_, ?_, fun _ => copyArrived_writes j m, fun h => Bool.noConfusion h⟩
    · simp only [Bool.false_eq_true, if_false]
      rw [haw, ht, hset]
      rfl
    · simp only [Bool.false_eq_true, if_false]
      rw [hjob, ht, hw']
  | true =>
    obtain ⟨k, hk⟩ := ueDetail_keeps (arrivedBad s f) x
    let d := ((arrivedBad s f).ueDetail x).2.toNat
    let fail (j : Job) : Job := { j with stage := .faulted Trap.dataUe d f.packet.address.toNat }
    have hb : s.deliverBad f = ({ arrivedBad s f with freeCtr := k } : State).updJob tl id fail := by
      unfold State.deliverBad
      dsimp only
      rw [hp]
      change ((arrivedBad s f).ueDetail x).1.failCopy f.packet tl id m Trap.dataUe d = _
      rw [hk]
      exact if_pos hsome
    obtain ⟨w', hw'⟩ := job?_updJob (s := { arrivedBad s f with freeCtr := k }) (f := fail) (fun _ => rfl) hj
    refine ⟨_, w', fail j, hx, ?_, ?_, ?_, fun h => Bool.noConfusion h, fun _ => ⟨d, rfl⟩⟩
    · simp only [if_true]
      rw [hb]
      rfl
    · simp only [if_true]
      rw [hb, ← hset]
      rfl
    · simp only [if_true]
      rw [hb, hw']

/-! ### A packet that arrives with an error in its data (R60) -/

theorem deliverBad_flights (s : State) (f : Flight) : (s.deliverBad f).flights = s.flights.filter fun g => g.id ≠ f.id := by
  have hc : ∀ {e : State}, CacheOnly (arrivedBad s f) e → e.flights = s.flights.filter fun g => g.id ≠ f.id := fun h => h.around.flights
  unfold State.deliverBad
  dsimp only
  split
  · split
    · exact hc (loseLine_sheds _ _).only
    · exact hc (loseLine_sheds _ _).only
    · exact deliver_flights s f
  · split
    · exact hc (loseLine_sheds _ _).only
    · exact hc (loseLine_sheds _ _).only
    · exact deliver_flights s f
  · exact hc (e := (arrivedBad s f).loseRegion _) (loseRegion_sheds _ _).only
  · rfl
  · rename_i y _
    split
    · obtain ⟨k, hk⟩ := ueDetail_keeps (arrivedBad s f) y
      refine (tellOwner_flights ((arrivedBad s f).ueDetail y).1 _ _ _).trans ?_
      rw [hk]
      rfl
    · rfl
  · rename_i y _
    obtain ⟨k, hk⟩ := ueDetail_keeps (arrivedBad s f) y
    refine (failCopy_flights ((arrivedBad s f).ueDetail y).1 _ _ _ _ _ _).trans ?_
    rw [hk]
    rfl
  all_goals exact deliver_flights s f

theorem mem_replyTo {s : State} {f : Flight} {p : Pending} (h : p ∈ s.replyTo f) : p.row = .packetInject := by
  unfold State.replyTo at h
  split at h
  · rw [List.mem_singleton.1 h]
  · exact absurd h (List.not_mem_nil)

theorem deliverBad_write {s : State} {f : Flight} {a : Access} (hp : f.packet.payload = .access a ∨ f.packet.payload = .forward a)
    (hk : a.kind ≠ .load) : s.deliverBad f = (arrivedBad s f).loseLine (lineOf a.address) := by
  unfold State.deliverBad
  dsimp only
  rcases hp with hp | hp <;>
  · rw [hp]
    dsimp only
    split
    · rfl
    · rfl
    · exact absurd ‹_› hk

theorem deliverBad_migration {s : State} {f : Flight} {k : RegionKey} (hp : f.packet.payload = .migration k) :
    (s.deliverBad f).inError = ((arrivedBad s f).loseRegion k).inError := by
  unfold State.deliverBad
  dsimp only
  rw [hp]
  rfl

theorem loseRegion_inError {s : State} {k : RegionKey} {l : WcLine} (hl : l ∈ s.wc) (hm : l.modified = true) (hk : k.has (128 * l.line) = true) :
    l.line ∈ (s.loseRegion k).inError :=
  (loseLines_lost _ s l.line (List.mem_map.2 ⟨l, List.mem_filter.2 ⟨hl, by simp [hm, hk]⟩, rfl⟩)).1

theorem deliverBad_fill {s : State} {f : Flight} {k : RegionKey} {r l : Nat} (hp : f.packet.payload = .replicaFill k r l) :
    (s.deliverBad f).agenda = s.agenda ++ s.replyTo f := by
  unfold State.deliverBad
  dsimp only
  rw [hp]

theorem deliverBad_reply {s : State} {f : Flight} {m : Nat} {l : Subject} {a : Awaited} (hp : f.packet.payload = .reply m l)
    (ha : (s.awaited.find? fun a => a.id = m) = some a) :
    s.deliverBad f = ((arrivedBad s f).ueDetail l).1.tellOwner a.packet Trap.dataUe ((arrivedBad s f).ueDetail l).2 := by
  unfold State.deliverBad
  dsimp only
  rw [hp]
  dsimp only
  rw [ha]
  rfl

theorem deliverBad_late {s : State} {f : Flight} {m : Nat} {l : Subject} {a : Awaited} {k : SquadKey} {tl slot : Nat} {w : Workgroup} {q : Squad}
    (hp : f.packet.payload = .reply m l) (ha : (s.awaited.find? fun a => a.id = m) = some a) (ho : a.packet.owner = some k)
    (hl : s.locate k = some (tl, slot)) (hw : (s.tile tl).wg = some w) (hs : a.packet.seq = 0) (hg : s.goesOn k.gang.launch = true)
    (hq : s.squad? tl slot = some q) (hn : q.late = none) :
    ∃ q' e, (s.deliverBad f).squad? tl slot = some q' ∧ q'.late = some e ∧ e.number = Trap.dataUe ∧ e.site = a.packet.site := by
  obtain ⟨n, hk⟩ := ueDetail_keeps (arrivedBad s f) l
  let u : State := { arrivedBad s f with freeCtr := n }
  let d := ((arrivedBad s f).ueDetail l).2
  have hu : s.deliverBad f = u.tellOwner a.packet Trap.dataUe d := by rw [deliverBad_reply hp ha, hk]
  rw [hu, tellOwner_squad (s := u) Trap.dataUe d ho hl hw hs hg]
  refine ⟨_, ⟨Trap.dataUe, d, a.packet.address, a.packet.site, a.packet.seq⟩, squad?_updSquad (e := u) hq (fun _ h => h), ?_, rfl, rfl⟩
  simp [hn]

end Sys2Proof.Proofs
end

section
/-! PROOFS. The entry to a trap handler (R316, R317), where the squad stands as in the base of the trap. -/

namespace Sys2Proof.Proofs

open Sys2Proof Sys2Proof.Machine Sys2Proof.Safety Sys2Proof.Rules Sys2Proof.Laws

/-- What is bare of a squad says what it is but for its groups. -/
theorem ungrouped_of_bare {q r : Squad} (h : bare r = bare q) : { r with groups := [] } = { q with groups := [] } :=
  congrArg (fun q : Squad => { q with groups := [] }) h

/-- The taking group goes to the handler. -/
theorem enterTrap_enters {s : State} {c : Ctx} {b : Squad} (hq : s.squad? c.tile c.sq.slot = some b) (hg : b.group? c.g.pc = some c.g)
    (r : TrapRegs) (pc : DWord) : Enters s c b r pc (s.enterTrap c.tile c.sq.slot c.g.pc pc r) := by
  obtain ⟨w, -, hw⟩ := squad?_eq hq
  have hs : b.slot = c.sq.slot := squad_slot hw
  let g : Group := { c.g with pc := pc, hints := none, blocked := none, since := s.coreCycles, read := none }
  let n : Squad := { b.deschedule with trap := r, intrap := true, handler := c.g.threads
                                       groups := addGroup g (b.groups.filter fun h => h.pc ≠ c.g.pc) }
  have he : s.enterTrap c.tile c.sq.slot c.g.pc pc r = s.putSquad c.tile n 0 := by
    have hd : ({ b.deschedule with trap := r, intrap := true, handler := c.g.threads } : Squad).group? c.g.pc = some c.g := hg
    simp only [State.enterTrap, hq, hg, Option.map_some, Option.getD_some, Squad.moveGroup, hd]
    rfl
  have hn : n.slot = c.sq.slot := hs
  obtain ⟨q, h1, h2, h3, h4⟩ := putSquad_spec (s := s) (t := c.tile) (q := n) (old := b) 0 (hn ▸ hq)
  rw [he]
  rw [hn] at h1 h3
  refine ⟨q, ⟨h1, h3, h4⟩, moved_of_bare h2 fun j hj => ?_, ungrouped_of_bare h2⟩
  obtain ⟨x, hx, k1, k2⟩ := addGroup_stands g (b.groups.filter fun h => h.pc ≠ c.g.pc) j (mem_lanesOf.1 hj).2
  exact ⟨x, hx, k1, k2⟩

/-- A trap whose handler is there enters it (R316). -/
theorem takeTrap_enters {s : State} {c : Ctx} {w : Workgroup} {b : Squad} {r : TrapRegs} {pc : DWord} (hw : (s.tile c.tile).wg = some w)
    (hq : w.squad? c.sq.slot = some b) (hg : b.group? c.g.pc = some c.g)
    (hh : handlerPc (s.launch? w.gang.launch) b r.num.toNat = some pc) :
    Enters s c b r pc (s.takeTrap c.tile c.sq.slot c.g.pc r) := by
  have hs : s.squad? c.tile c.sq.slot = some b := by simp [State.squad?, hw, hq]
  have he : s.takeTrap c.tile c.sq.slot c.g.pc r = s.enterTrap c.tile c.sq.slot c.g.pc pc r := by
    simp only [State.takeTrap, hw, hq, hh]
  exact he ▸ enterTrap_enters hs hg r pc

/-- The workgroup, the squad and the group of a cursor. -/
theorem at?_eq {s : State} {k : Cursor} {c : Ctx} (h : s.at? k = some c) : k.tile = c.tile ∧ (s.tile c.tile).wg = some c.wg ∧
    c.wg.squad? c.sq.slot = some c.sq ∧ c.sq.group? c.g.pc = some c.g := by
  unfold State.at? at h
  cases ht : tabFind k.tile s.tiles with
  | none => simp [ht] at h
  | some tl =>
    cases hw : tl.wg with
    | none => simp [ht, hw] at h
    | some w =>
      cases hq : w.squad? k.slot with
      | none => simp [ht, hw, hq] at h
      | some q =>
        simp only [ht, hw, hq, Option.map_eq_some_iff] at h
        obtain ⟨g, hg, rfl⟩ := h
        have hpc : g.pc = k.pc := by simpa using List.find?_some hg
        have hsl : q.slot = k.slot := squad_slot hq
        exact ⟨rfl, by simp [State.tile, ht, hw], by rw [hsl]; exact hq, by rw [hpc]; exact hg⟩

end Sys2Proof.Proofs
end

section
/-! PROOFS. What is lost or unanswered (R60, R61, R98, R348): discards, resends and time-outs, and the statement on packets. -/

namespace Sys2Proof.Proofs

open Sys2Proof Sys2Proof.Machine Sys2Proof.Safety Sys2Proof.Rules Sys2Proof.Laws

/-! ### Discards (R60) -/

theorem losePacket_flights (s : State) (f : Flight) : (s.losePacket f).flights = s.flights.filter fun g => g.id ≠ f.id := by
  unfold State.losePacket
  dsimp only
  split
  · rename_i k _
    exact (loseRegion_sheds { s with flights := s.flights.filter fun g => g.id ≠ f.id } k).only.around.flights
  · rfl

theorem losePacket_wards (s : State) (f : Flight) : (s.losePacket f).wards = s.wards ∧ (s.losePacket f).devclk = s.devclk := by
  unfold State.losePacket
  dsimp only
  split
  · rename_i k _
    have h := (loseRegion_sheds { s with flights := s.flights.filter fun g => g.id ≠ f.id } k).only
    exact ⟨(congrArg State.wards h :), (congrArg State.devclk h :)⟩
  · exact ⟨rfl, rfl⟩

/-- The ward that takes a record depends on the wards alone (R96). -/
theorem faultWard_of_wards {s e : State} (h : e.wards = s.wards) (w : Nat) : e.faultWard w = s.faultWard w := by
  have hw : ∀ v, e.ward? v = s.ward? v := fun v => by simp only [State.ward?, h]
  have hp : ∀ n v, e.wardPath n v = s.wardPath n v := by
    intro n
    induction n with
    | zero => exact fun _ => rfl
    | succ n ih =>
      intro v
      rw [State.wardPath, State.wardPath, hw v]
      cases s.ward? v with
      | none => rfl
      | some b => simp only [ih]
  simp only [State.faultWard, State.lineage, hp, hw]

/-- The record of a discarded packet. -/
def discardRecord (f : Flight) : FaultRecord := { FaultRecord.blank with src := 5, tile := f.router }

theorem headerUeDiscard_acts {s : State} {n : Nat} {f : Flight} (hi : s.input = .headerUeDiscard n) (hf : s.flights[n]? = some f) :
    ∃ t, exec .headerUeDiscard s = .next t ∧ t.flights = s.flights.filter (fun g => g.id ≠ f.id) ∧
      (s.faultWard 0 = none → ∃ r ∈ t.eventLog, r.src = 5 ∧ r.ward = 0 ∧ r.tile = f.router ∧ r.time = s.devclk) := by
  obtain ⟨hw, hd⟩ := losePacket_wards s f
  have hx : exec .headerUeDiscard s = .next ((s.losePacket f).raise (discardRecord f)).flush := by
    rw [Laws.exec_headerUeDiscard]
    unfold execHeaderUeDiscard
    split
    next n' h' =>
      cases hi.symm.trans h'
      rw [hf]
      rfl
    next h' => exact absurd hi (h' n)
  refine ⟨_, hx, (flush_flights _).trans ((raise_flights _ _).trans (losePacket_flights s f)), fun hq => ?_⟩
  have hq' : (s.losePacket f).faultWard 0 = none := (faultWard_of_wards hw 0).trans hq
  exact ⟨_, flush_logs (List.mem_append_right _ (List.mem_singleton.2 rfl)) hq', rfl, rfl, rfl, hd⟩

/-! ### Resends (R61) -/

theorem exec_resendTimeout_of {s : State} {n : Nat} {a : Awaited} (hi : s.input = .resendTimeout n) (ha : s.awaited[n]? = some a)
    (hp : payloadResent a.packet.payload = true) (hs : a.sent + 2 ^ 16 ≤ s.fabricCycles) (hr : s.rt.state ≠ 2) :
    exec .resendTimeout s = .next (if a.resends < 3 then
        match s.routeClass a.packet with
        | none => { s with awaited := s.awaited.set n { a with sent := s.fabricCycles, resends := a.resends + 1 } }
        | some rc => ({ s with awaited := s.awaited.set n ⟨s.nextPacket, a.packet, s.fabricCycles, a.resends + 1⟩ } : State).sendPacket a.packet rc
      else ({ s with awaited := s.awaited.eraseIdx n } : State).unanswered a.packet) := by
  have hg : (!payloadResent a.packet.payload || decide (s.fabricCycles < a.sent + 2 ^ 16) || decide (s.rt.state = 2)) = false := by
    simp only [hp, hr, Nat.not_lt.2 hs, Bool.not_true, decide_false, Bool.or_false]
  rw [Laws.exec_resendTimeout]
  unfold execResendTimeout
  split
  next n' h' =>
    cases hi.symm.trans h'
    rw [ha]
    dsimp only
    rw [hg, if_neg Bool.false_ne_true]
    by_cases h3 : a.resends < 3
    · rw [if_pos h3, if_pos h3]
      cases s.routeClass a.packet <;> rfl
    · rw [if_neg h3, if_neg h3]
  next h' => exact absurd hi (h' n)

/-- A packet that is sent again stands at its source, under a new number. -/
theorem resendTimeout_resends {s : State} {n : Nat} {a : Awaited} (hi : s.input = .resendTimeout n) (ha : s.awaited[n]? = some a)
    (hp : payloadResent a.packet.payload = true) (hs : a.sent + 2 ^ 16 ≤ s.fabricCycles) (hr : s.rt.state ≠ 2) (h3 : a.resends < 3)
    (hv : (s.active.entry a.packet.source a.packet.dest).getLsbD 6 = true) :
    ∃ t f, exec .resendTimeout s = .next t ∧ t.flights = s.flights ++ [f] ∧ f.packet = a.packet ∧ f.id = s.nextPacket ∧
      t.awaited = s.awaited.set n ⟨s.nextPacket, a.packet, s.fabricCycles, a.resends + 1⟩ := by
  let u : State := { s with awaited := s.awaited.set n ⟨s.nextPacket, a.packet, s.fabricCycles, a.resends + 1⟩ }
  obtain ⟨rc, hc, -, -⟩ := routeClass_valid (.inl hv)
  obtain ⟨h1, h2, -⟩ := sendPacket_acts u a.packet rc
  have hx := exec_resendTimeout_of hi ha hp hs hr
  rw [if_pos h3, hc] at hx
  exact ⟨_, flightOf u a.packet rc, hx, h1, rfl, rfl, h2⟩

theorem CacheOnly.awaited {s e : State} (h : CacheOnly s e) : e.awaited = s.awaited := (congrArg State.awaited h :)

theorem unanswered_awaited (s : State) (p : Packet) : (s.unanswered p).awaited = s.awaited := by
  unfold State.unanswered
  split
  · exact (loseNamed_sheds s _).only.awaited
  · exact (loseNamed_sheds s _).only.awaited
  · split
    · exact (loseLine_sheds s _).only.awaited
    · rfl
  · rfl

/-- Every line that is named is lost, and held no more. -/
theorem loseNamed_lost (s : State) {k : RegionKey} {line : Nat} (h1 : k.base / 128 ≤ line) (h2 : line < k.base / 128 + k.size / 128) :
    line ∈ (s.loseNamed k).inError ∧ ∀ l ∈ (s.loseNamed k).wc, l.line ≠ line := by
  have hl : line ∈ (List.range (k.size / 128)).map fun i => k.base / 128 + i :=
    List.mem_map.2 ⟨line - k.base / 128, List.mem_range.2 (by omega), by omega⟩
  unfold State.loseNamed
  exact loseLines_lost _ s line hl

/-- An invalidation that is never answered: its lines are lost, and the anchor waits for it no longer (LOG 90). -/
theorem unanswered_invalidation {s : State} {p : Packet} {k : RegionKey} {r : Nat}
    (hp : p.payload = .invalidate k r ∨ p.payload = .invalidateAck k r) : ⟨.invalidationAck, .invalidationAck k r⟩ ∈ (s.unanswered p).agenda ∧
    ∀ line, k.base / 128 ≤ line → line < k.base / 128 + k.size / 128 → line ∈ (s.unanswered p).inError ∧
      ∀ l ∈ (s.unanswered p).wc, l.line ≠ line := by
  have hu : s.unanswered p = { s.loseNamed k with agenda := s.agenda ++ [⟨.invalidationAck, .invalidationAck k r⟩] } := by
    rcases hp with hp | hp <;> simp only [State.unanswered, hp]
  rw [hu]
  exact ⟨List.mem_append_right _ (List.mem_singleton.2 rfl), fun line h1 h2 => loseNamed_lost s h1 h2⟩

theorem unanswered_probe {s : State} {p : Packet} {m pa k : Nat} {b : Bool} (hp : p.payload = .probe m pa k b)
    (hm : s.modified (lineOf pa) = true) : lineOf pa ∈ (s.unanswered p).inError := by
  unfold State.unanswered
  rw [hp]
  dsimp only
  rw [if_pos hm]
  exact loseLine_inError s _

/-! ### Requests (R61) -/

theorem exec_requestTimeout_of {s : State} {n : Nat} {a : Awaited} (hi : s.input = .requestTimeout n) (ha : s.awaited[n]? = some a)
    (hp : payloadResent a.packet.payload = false) (hs : a.sent + 2 ^ 20 ≤ s.fabricCycles) :
    exec .requestTimeout s = .next (({ s with awaited := s.awaited.eraseIdx n } : State).fabricLoss a.packet) := by
  have hg : (payloadResent a.packet.payload || decide (s.fabricCycles < a.sent + 2 ^ 20)) = false := by
    simp only [hp, Nat.not_lt.2 hs, decide_false, Bool.or_false]
  rw [Laws.exec_requestTimeout]
  unfold execRequestTimeout
  split
  next n' h' =>
    cases hi.symm.trans h'
    rw [ha]
    dsimp only
    rw [hg, if_neg Bool.false_ne_true]
  next h' => exact absurd hi (h' n)

theorem fabricLoss_copy {s : State} {p : Packet} {tl id m o : Nat} {x : Subject} (hp : p.payload = .copy tl id m o x)
    (hc : (s.copying tl id m).isSome = true) : s.fabricLoss p =
      s.updJob tl id fun j => { j with stage := .faulted Trap.fabricLoss 0 p.address.toNat } := by
  unfold State.fabricLoss State.failCopy
  rw [hp]
  exact if_pos hc

theorem exec_requestTimeout_unheard {s : State} {n : Nat} {u : Unheard} (hi : s.input = .requestTimeout n) (hn : s.awaited.length ≤ n)
    (hu : s.unheard[n - s.awaited.length]? = some u) : exec .requestTimeout s = .next (s.endUnheard u) := by
  rw [Laws.exec_requestTimeout]
  unfold execRequestTimeout
  split
  next n' h' =>
    cases hi.symm.trans h'
    rw [List.getElem?_eq_none hn, hu]
    rfl
  next h' => exact absurd hi (h' n)

/-- A group whose answer does not come takes FABRIC_LOSS when its time has come. -/
theorem endUnheard_acts {s : State} {k : Cursor} {sent addr : Nat} {part : Bool} {c : Ctx} (hc : s.at? k = some c) :
    (s.fabricCycles < sent + 2 ^ 20 → s.endUnheard ⟨k, sent, addr, part⟩ = s) ∧
    (sent + 2 ^ 20 ≤ s.fabricCycles → ∀ pc, handlerOf s c Trap.fabricLoss = some pc →
      Enters s c c.sq (siteRegs c Trap.fabricLoss 0 addr part) pc (s.endUnheard ⟨k, sent, addr, part⟩)) := by
  obtain ⟨-, hw, hq, hg⟩ := at?_eq hc
  have he : s.endUnheard ⟨k, sent, addr, part⟩ = if s.unheardLate ⟨k, sent, addr, part⟩ then
      s.takeTrap c.tile c.sq.slot c.g.pc (c.regs Trap.fabricLoss 0 addr part) else s := by
    simp only [State.endUnheard, hc]
  rw [he]
  refine ⟨fun h => if_neg ?_, fun h pc hh => ?_⟩
  · simp only [State.unheardLate, decide_eq_true_eq, Nat.not_le.2 h, not_false_eq_true]
  · rw [if_pos (by simp only [State.unheardLate, h, decide_true])]
    exact takeTrap_enters (r := siteRegs c Trap.fabricLoss 0 addr part) hw hq hg hh

/-! ### The statement -/

/-- A packet whose way is blocked stands before the link that is down, or is lost while a commit runs (R59). -/
theorem heldPacket_moves {s : State} {n : Nat} {bad : Bool} {f : Flight} (hi : s.input = .packetDeliver n bad)
    (hf : s.flights[n]? = some f) (hn : s.isNext f = true) (hh : s.heldFlight f = true) : ∃ t, exec .packetDeliver s = .next t ∧
      (f.route = .upDown → s.rt.state = 2 → ∀ g ∈ t.flights, g.id ≠ f.id) ∧
      (f.route ≠ .upDown → { t with flights := s.flights } = s ∧ (t.flights = s.flights ∨
        ∃ r, t.flights = (s.flights.filter fun g => g.id ≠ f.id) ++ [{ f with router := r }])) := by
  have hx := exec_packetDeliver_held hi hf hn hh
  by_cases hl : f.route = .upDown ∧ s.rt.state = 2
  · rw [if_pos hl] at hx
    refine ⟨_, hx, fun _ _ g hg => ?_, fun h => absurd hl.1 h⟩
    rw [losePacket_flights] at hg
    simpa using (List.mem_filter.1 hg).2
  · rw [if_neg hl] at hx
    by_cases hr : s.reach hopLimit f = f.router
    · rw [if_pos hr] at hx
      exact ⟨s, hx, fun h1 h2 => absurd ⟨h1, h2⟩ hl, fun _ => ⟨rfl, .inl rfl⟩⟩
    · rw [if_neg hr] at hx
      exact ⟨_, hx, fun h1 h2 => absurd ⟨h1, h2⟩ hl, fun _ => ⟨rfl, .inr ⟨_, rfl⟩⟩⟩

theorem packetClass_line (p : Packet) : (∀ a, p.payload = .forward a → packetClass p = .reply ∧ packetLine p = a.address / 128 % 2 ^ 45) ∧
    (∀ a, p.payload = .access a → packetClass p = .request ∧ packetLine p = a.address / 128 % 2 ^ 45) ∧
    (∀ o, p.payload = .scratch o ∨ p.payload = .arrival o →
      packetClass p = .request ∧ packetLine p = p.dest * 2 ^ 15 + o / 128 % 2 ^ 15) ∧
    (∀ m l, p.payload = .reply m (.line l) → packetClass p = .reply ∧ packetLine p = l) ∧
    (∀ m, p.payload = .reply m .none → packetLine p = p.dest) := by
  unfold packetClass packetLine
  refine ⟨fun a h => ?_, fun a h => ?_, fun o h => ?_, fun m l h => ?_, fun m h => ?_⟩
  · rw [h]; exact ⟨rfl, rfl⟩
  · rw [h]; exact ⟨rfl, rfl⟩
  · rcases h with h | h <;> rw [h] <;> exact ⟨rfl, rfl⟩
  · rw [h]; exact ⟨rfl, rfl⟩
  · rw [h]; rfl

theorem packetDeliver_bad {s : State} {n : Nat} {bad : Bool} {f : Flight} (hi : s.input = .packetDeliver n bad)
    (hf : s.flights[n]? = some f) (hn : s.isNext f = true) (hh : s.heldFlight f = false) (hb : bad = true) :
    ∃ t, exec .packetDeliver s = .next t ∧ t.flights = s.flights.filter (fun g => g.id ≠ f.id) ∧
      (∀ a, f.packet.payload = .access a ∨ f.packet.payload = .forward a → a.kind ≠ .load → lineOf a.address ∈ t.inError ∧
        ⟨.anchorRequest, .anchorRequest a⟩ ∉ t.agenda.drop s.agenda.length) ∧
      (∀ k, f.packet.payload = .migration k → ∀ l ∈ s.wc, l.modified = true → k.has (128 * l.line) = true → l.line ∈ t.inError) ∧
      (∀ k r l, f.packet.payload = .replicaFill k r l → t.agenda = s.agenda ++ s.replyTo f) ∧
      ∀ m l a k tl slot w, f.packet.payload = .reply m l → (s.awaited.find? fun a => a.id = m) = some a →
        a.packet.owner = some k → s.locate k = some (tl, slot) → (s.tile tl).wg = some w → a.packet.seq = 0 →
        s.goesOn k.gang.launch = true → ∀ q, s.squad? tl slot = some q → q.late = none →
          ∃ q' e, t.squad? tl slot = some q' ∧ q'.late = some e ∧ e.number = Trap.dataUe ∧ e.site = a.packet.site := by
  have hx := exec_packetDeliver_arrives hi hf hn hh
  rw [if_pos hb] at hx
  refine ⟨_, hx, deliverBad_flights s f, fun a ha hk => ?_, fun k hp l hl hm hh => ?_, fun k r l hp => deliverBad_fill hp,
    fun m l a k tl slot w hp ha ho hl hw hs hg q hq hn => deliverBad_late hp ha ho hl hw hs hg hq hn⟩
  · rw [deliverBad_write ha hk]
    obtain ⟨x, hx, hr⟩ := (loseLine_sheds (arrivedBad s f) (lineOf a.address)).agenda
    refine ⟨loseLine_inError _ _, fun hm => ?_⟩
    have he : (arrivedBad s f).agenda = s.agenda ++ s.replyTo f := rfl
    rw [hx, he, List.append_assoc, List.drop_left] at hm
    rcases List.mem_append.1 hm with hm | hm
    · exact Instr.noConfusion (mem_replyTo hm)
    · exact Instr.noConfusion (hr _ hm)
  · rw [deliverBad_migration hp]
    exact loseRegion_inError (s := arrivedBad s f) hl hm hh

/-- Settles O46, event by event: what a packet's class and line are; its injection (`packetInject_acts`, `packetInject_refused`), delivery
(`isNext_of_older`, `isNext_of_before`, `deliver_eq`, `packetDeliver_copy`, `packetDeliver_bad`) and discard; and resends and time-outs.
What a lost request comes to at its context is `tellOwner_squad` where the squad is on a tile and `tellOwner_gone` where it is not. -/
theorem packetEvents : Obligations.PacketEvents := by
  unfold Obligations.PacketEvents
  refine ⟨packetClass_line, fun s p hi => ⟨exec_packetInject_drains hi, fun hr => ⟨packetInject_acts hi hr, fun hv hc => ?_⟩⟩,
    fun s n bad f hi hf => ⟨?_, fun hn hh hb hc => ?_, fun hn hh tl id m o x w j hp hc => packetDeliver_copy hi hf hn hh hp hc,
      fun hn hh hb => packetDeliver_bad hi hf hn hh hb, fun hn hh => heldPacket_moves hi hf hn hh⟩,
    fun s n f hi hf => headerUeDiscard_acts hi hf,
    fun s n a hi ha hp hs hr => ⟨resendTimeout_resends hi ha hp hs hr, fun h3 => ?_⟩,
    fun s n a hi ha hp hs => ?_, fun s n k sent addr part c pc hi hn hu hc => ?_⟩
  · rw [packetInject_refused hi hr hv hc]
    exact ⟨fun ho => by rw [tellOwner_none ho], fun k t slot w ho hl hw hs hg => by rw [tellOwner_squad _ _ ho hl hw hs hg]; rfl,
      fun k ho hl hq => ⟨_, rfl, tellOwner_gone _ _ ho hl hq⟩⟩
  · rintro (⟨g, hg, h1, h2, h3, h4, h5⟩ | ⟨g, hg, h1, h2, h3, h4, h5⟩)
    · exact exec_packetDeliver_waits hi hf (isNext_of_older hg h1 h2 h3 h4 h5)
    · exact exec_packetDeliver_waits hi hf (isNext_of_before hg h1 h2 h3 h4 h5)
  · rw [exec_packetDeliver_arrives hi hf hn hh, if_neg (by simp [hb])]
    exact congrArg Host.Outcome.next (deliver_eq hc)
  · have hx := exec_resendTimeout_of hi ha hp hs hr
    rw [if_neg (Nat.not_lt.2 h3)] at hx
    exact ⟨_, hx, unanswered_awaited _ _, fun k r hk => unanswered_invalidation hk, fun m pa p k hk hm => unanswered_probe hk hm⟩
  · rw [exec_requestTimeout_of hi ha hp hs]
    refine ⟨fun hc ho => by rw [fabricLoss_eq hc, tellOwner_none ho], fun hc k t slot w ho hl hw hs hg => ?_,
      fun tl id m o x hk hc => congrArg Host.Outcome.next (fabricLoss_copy hk hc)⟩
    rw [fabricLoss_eq hc]
    exact congrArg Host.Outcome.next (tellOwner_squad (s := { s with awaited := s.awaited.eraseIdx n }) _ _ ho hl hw hs hg)
  · obtain ⟨h1, h2⟩ := endUnheard_acts (sent := sent) (addr := addr) (part := part) hc
    rw [exec_requestTimeout_unheard hi hn hu]
    exact ⟨fun h => congrArg Host.Outcome.next (h1 h), fun h hh => ⟨_, rfl, h2 h pc hh⟩⟩

end Sys2Proof.Proofs
end

section
/-! PROOFS. What accesses make of memory (R61, R79, R184, LOG 111): every byte is what was stored there, or what the hosts gave with the
lines that were obtained, or as before; or it is 0, where the only copy of its line was lost on its way home. -/

namespace Sys2Proof.Proofs

open Sys2Proof Sys2Proof.Machine Sys2Proof.Safety Sys2Proof.Rules Sys2Proof.Laws

/-! ### What stays around an access -/

theorem Around.anchor {s e : State} (h : Around s e) (pa : Nat) : e.anchor pa = s.anchor pa := (congrArg (fun s => State.anchor s pa) h :)

theorem Around.memKey {s e : State} (h : Around s e) (pa : Nat) : e.memKey pa = s.memKey pa := (congrArg (fun s => State.memKey s pa) h :)

theorem Around.homeReached {s e : State} (h : Around s e) (b pa : Nat) : e.homeReached b pa = s.homeReached b pa :=
  (congrArg (fun s => State.homeReached s b pa) h :)

theorem Around.inHostBias {s e : State} (h : Around s e) (pa : Nat) : e.inHostBias pa = s.inHostBias pa :=
  (congrArg (fun s => State.inHostBias s pa) h :)

/-! ### What hosts give of their lines -/

/-- What a host line makes of the byte given at an address. -/
def giveByte (a : Nat) (o : Option Byte) (h : Nat × List Byte) : Option Byte :=
  if 64 * h.1 ≤ a ∧ a < 64 * h.1 + (h.2.take 64).length then some ((h.2.take 64).getD (a - 64 * h.1) 0) else o

/-- The byte that the last of some host lines gives at an address. -/
def givenAt (l : List (Nat × List Byte)) (a : Nat) : Option Byte := l.foldl (giveByte a) none

/-- Host lines are written to memory one after another. -/
def giveAll (l : List (Nat × List Byte)) (s : State) : State := l.foldl (fun s h => s.pokeN (64 * h.1) (h.2.take 64)) s

theorem giveAll_byte (l : List (Nat × List Byte)) {s : State} (h : Memory.wf s.mem = true) (a : Nat) (o : Option Byte) {b : Byte}
    (hb : byteAt s a = o.getD b) : Memory.wf (giveAll l s).mem = true ∧ byteAt (giveAll l s) a = (l.foldl (giveByte a) o).getD b := by
  induction l generalizing s o with
  | nil => exact ⟨h, hb⟩
  | cons x r ih =>
    refine ih (s := s.pokeN (64 * x.1) (x.2.take 64)) (wf_writeN _ _ h) (giveByte a o x) ?_
    have hr : byteAt (s.pokeN (64 * x.1) (x.2.take 64)) a = _ := read_writeN h (64 * x.1) (x.2.take 64) a
    rw [hr]
    unfold giveByte
    split
    · rfl
    · exact hb

/-- Only the lines of an address's own line give a byte there. -/
theorem givenAt_filter {p : Nat × List Byte → Bool} {v : Bool} (l : List (Nat × List Byte)) {a : Nat}
    (hp : ∀ h, h.1 / 2 = a / 128 → p h = v) : givenAt (l.filter p) a = if v then givenAt l a else none := by
  have key : ∀ o : Option Byte, (v = false → o = none) →
      (l.filter p).foldl (giveByte a) o = if v then l.foldl (giveByte a) o else none := by
    induction l with
    | nil => intro o ho; cases v <;> simp_all
    | cons x r ih =>
      intro o ho
      by_cases hc : 64 * x.1 ≤ a ∧ a < 64 * x.1 + (x.2.take 64).length
      · have hl : (x.2.take 64).length ≤ 64 := by simp
        have hx := hp x (by omega)
        cases v with
        | true => simpa [hx] using ih _ (by simp)
        | false => simpa [hx] using ih o ho
      · have ho' : giveByte a o x = o := if_neg hc
        cases hx : p x with
        | true => rw [List.filter_cons_of_pos hx, List.foldl_cons, List.foldl_cons, ho']; exact ih o ho
        | false => rw [List.filter_cons_of_neg (by simp [hx]), List.foldl_cons, ho']; exact ih o ho
  exact key none fun _ => rfl

/-- The host lines of some lines of host-bias pages. -/
def ofLines (s : State) (ls : List Nat) (h : Nat × List Byte) : Bool := ls.contains (h.1 / 2) && s.inHostBias (64 * h.1)

/-- A byte lies in a line that is obtained of a host-bias page. -/
def obtainedAt (s : State) (ls : List Nat) (a : Nat) : Bool := ls.contains (a / 128) && s.inHostBias a

theorem ofLines_at {s : State} {ls : List Nat} {h : Nat × List Byte} {a : Nat} (hl : h.1 / 2 = a / 128) : ofLines s ls h = obtainedAt s ls a := by
  have hp : 64 * h.1 / 4096 = a / 4096 := by omega
  simp only [ofLines, obtainedAt, State.inHostBias, hl, hp]

theorem gathered_byte {s : State} (h : Memory.wf s.mem = true) (ls : List Nat) (a : Nat) :
    byteAt (gathered s ls) a = (if obtainedAt s ls a then givenAt s.hostLines a else none).getD (byteAt s a) := by
  rw [← givenAt_filter s.hostLines fun h hl => ofLines_at hl]
  exact (giveAll_byte _ h a none rfl).2

theorem hostGives_byte {e : State} (h : Memory.wf e.mem = true) (line a : Nat) : Memory.wf (e.hostGives line).mem = true ∧
    byteAt (e.hostGives line) a = (if a / 128 = line then givenAt e.hostLines a else none).getD (byteAt e a) := by
  have hf := givenAt_filter (p := fun h => decide (h.1 / 2 = line)) (v := decide (a / 128 = line)) e.hostLines (a := a)
    fun h hl => by rw [hl]
  simp only [decide_eq_true_eq] at hf
  rw [← hf]
  exact giveAll_byte _ h a none rfl

/-! ### The banks that regions lie in -/

/-- An entry's bank: the anchor of every line that it covers, or that of an entry which covered the line in s. -/
def BankOf (s : State) (r : RegionEntry) : Prop := ∀ line, r.key.has (128 * line) = true →
  r.loc = s.anchor (128 * line) ∨ ∃ x ∈ s.regions, x.key.has (128 * line) = true ∧ x.loc = r.loc

theorem BankOf.of_eq {s : State} {r x : RegionEntry} (h : BankOf s r) (hk : x.key = r.key) (hl : x.loc = r.loc) : BankOf s x := by
  unfold BankOf at *
  rw [hk, hl]
  exact h

/-- The size of a region divides a block of 64 KiB. -/
theorem regionSize_mul {n : Nat} (h : n ≤ 9) : 65536 / 2 ^ n * 2 ^ n = 65536 :=
  Nat.div_mul_cancel ((Nat.pow_dvd_pow 2 (show n ≤ 16 by omega)).trans (by norm_num))

theorem mem_regionAt {pa x n : Nat} (h : n ≤ 9) : (regionAt pa n).has x = true ↔ x / (65536 / 2 ^ n) = pa / (65536 / 2 ^ n) := by
  have hz : 0 < 65536 / 2 ^ n := Nat.pos_of_ne_zero fun h0 => by have := regionSize_mul h; simp [h0] at this
  have he : (regionAt pa n).has x = true ↔ pa / (65536 / 2 ^ n) * (65536 / 2 ^ n) ≤ x ∧
      x < pa / (65536 / 2 ^ n) * (65536 / 2 ^ n) + 65536 / 2 ^ n := by
    unfold RegionKey.has
    rw [Bool.and_eq_true]
    exact and_congr decide_eq_true_iff decide_eq_true_iff
  rw [he, Nat.div_eq_iff hz]
  generalize pa / (65536 / 2 ^ n) * (65536 / 2 ^ n) = c
  omega

/-- An aligned region lies in one block of 64 KiB. -/
theorem regionAt_block {pa x n : Nat} (h : n ≤ 9) (hx : (regionAt pa n).has x = true) : x / 65536 = pa / 65536 := by
  rw [← regionSize_mul h, ← Nat.div_div_eq_div_mul, ← Nat.div_div_eq_div_mul, (mem_regionAt h).1 hx]

theorem freeRegion_eq (e : State) (pa : Nat) : ∃ n, e.freeRegion pa = regionAt pa n ∧ n ≤ 9 := by
  unfold State.freeRegion
  cases hk : ((List.range 10).map (regionAt pa)).find? fun k => e.regions.all fun r => !r.key.meets k with
  | none => exact ⟨9, rfl, le_refl 9⟩
  | some k =>
    obtain ⟨n, hn, rfl⟩ := List.mem_map.1 (List.mem_of_find?_eq_some hk)
    exact ⟨n, rfl, Nat.le_of_lt_succ (List.mem_range.1 hn)⟩

/-- The entry for an address covers it. -/
theorem regionFor_has (e : State) (pa : Nat) : (e.regionFor pa).key.has pa = true := by
  unfold State.regionFor State.region?
  cases hf : e.regions.find? fun r => r.key.has pa with
  | some r => exact List.find?_some (p := fun r : RegionEntry => r.key.has pa) hf
  | none =>
    obtain ⟨n, hn, h9⟩ := freeRegion_eq e pa
    change (e.freeRegion pa).has pa = true
    rw [hn]
    exact (mem_regionAt h9).2 rfl

/-- A byte of a sequence of accesses from s on: what was stored, or as s has it once the lines of ls are obtained; or lost. -/
structure Tracks (s : State) (ls : List Nat) (st : Nat → Option Byte) (e : State) : Prop where
  around : Around s e
  banks : ∀ r ∈ e.regions, BankOf s r
  wf : Memory.wf e.mem = true
  left : e.hostLines = s.hostLines.filter fun h => !ofLines s ls h
  bytes : ∀ a, orLost s a (byteAt e a) ((st a).getD (byteAt (gathered s ls) a))

/-- Nothing is stored. -/
def unstored (_ : Nat) : Option Byte := none

theorem Tracks.start {s : State} (h : Memory.wf s.mem = true) : Tracks s [] unstored s := by
  refine ⟨rfl, fun r hr line hl => .inr ⟨r, hr, hl, rfl⟩, h, ?_, fun a => .inl ?_⟩
  · exact (List.filter_eq_self.2 fun _ _ => rfl).symm
  · rw [gathered_byte h]
    rfl

section
variable {s e : State} {ls : List Nat} {st : Nat → Option Byte}

theorem Tracks.memoryAs (h : Tracks s ls st e) (hs : st = unstored) : memoryAs s e := by
  intro a
  rcases h.bytes a with hb | hb
  · exact .inr ⟨ls, by rw [hb, hs]; rfl⟩
  · exact .inl (.inr hb)

/-- What changes neither memory nor what hosts hold. -/
theorem Tracks.same {e' : State} (h : Tracks s ls st e) (ha : Around e e') (hm : e'.mem = e.mem) (hh : e'.hostLines = e.hostLines)
    (hr : ∀ r ∈ e'.regions, BankOf s r) : Tracks s ls st e' := by
  refine ⟨h.around.trans ha, hr, hm ▸ h.wf, hh.trans h.left, fun a => ?_⟩
  have hb : byteAt e' a = byteAt e a := congrArg (fun m => Memory.read m a) hm
  exact hb ▸ h.bytes a

theorem Tracks.kept {e' : State} (h : Tracks s ls st e) (ha : Around e e') (hm : e'.mem = e.mem) (hh : e'.hostLines = e.hostLines)
    (hr : e'.regions = e.regions) : Tracks s ls st e' := h.same ha hm hh (hr ▸ h.banks)

theorem Tracks.foldl {α : Type} {f : State → α → State} (l : List α) (hf : ∀ e x, x ∈ l → Tracks s ls st e → Tracks s ls st (f e x))
    (h : Tracks s ls st e) : Tracks s ls st (l.foldl f e) := by
  induction l generalizing e with
  | nil => exact h
  | cons x r ih => exact ih (fun e y hy => hf e y (List.mem_cons_of_mem x hy)) (hf e x List.mem_cons_self h)

/-! ### Entries -/

/-- An entry that an access finds or makes. -/
theorem Tracks.regionFor (h : Tracks s ls st e) (pa : Nat) : BankOf s (e.regionFor pa) := by
  unfold State.regionFor State.region?
  cases hf : e.regions.find? fun r => r.key.has pa with
  | some r => exact h.banks r (List.mem_of_find?_eq_some hf)
  | none =>
    refine fun line hl => .inl ?_
    obtain ⟨n, hn, h9⟩ := freeRegion_eq e pa
    have hb : 128 * line / 65536 = pa / 65536 := regionAt_block h9 (hn ▸ hl)
    have ha : e.anchor pa = s.anchor (128 * line) := by
      rw [h.around.anchor]
      simp only [State.anchor, hb]
    exact ha

/-- The bank that serves a line whose home every bank of it reaches. -/
theorem Tracks.notSure (h : Tracks s ls st e) {line : Nat} (hl : e.lineReached line = false) : ¬ sureHome s line := by
  rintro ⟨h1, h2⟩
  unfold State.lineReached at hl
  rw [h.around.homeReached] at hl
  have hb := h.regionFor (128 * line)
  rcases hb line (regionFor_has e _) with he | ⟨x, hx, hxk, he⟩
  · rw [he, h1] at hl
    exact Bool.noConfusion hl
  · rw [← he, h2 x hx hxk] at hl
    exact Bool.noConfusion hl

end

end Sys2Proof.Proofs
end

section
/-! PROOFS. Every operation of an access keeps to what accesses make of memory (R61, R79, R165-R184). -/

namespace Sys2Proof.Proofs

open Sys2Proof Sys2Proof.Machine Sys2Proof.Safety Sys2Proof.Rules Sys2Proof.Laws

section
variable {s e : State} {ls : List Nat} {st : Nat → Option Byte}

/-! ### Lines that leave their banks (R167) -/

theorem loseCopies_mem (e : State) (line : Nat) :
    (e.loseCopies line).mem = Memory.writeN e.mem (e.memKey (128 * line)) (List.replicate 128 0) := by
  simp only [State.loseCopies, State.pokeN]

theorem loseCopies_regions (e : State) (line : Nat) : (e.loseCopies line).regions = e.regions := by
  simp only [State.loseCopies, State.pokeN]

theorem loseCopies_byte {e : State} (h : Memory.wf e.mem = true) (line a : Nat) : byteAt (e.loseCopies line) a =
    if e.memKey (128 * line) ≤ a ∧ a < e.memKey (128 * line) + 128 then 0 else byteAt e a := by
  unfold byteAt
  rw [loseCopies_mem, read_writeN h, List.length_replicate]
  split
  · rw [List.getD_eq_getElem?_getD, List.getElem?_replicate]
    split <;> rfl
  · rfl

theorem CacheOnly.hostLines {s e : State} (h : CacheOnly s e) : e.hostLines = s.hostLines := (congrArg State.hostLines h :)

theorem Tracks.loseCopies (h : Tracks s ls st e) {line : Nat} (hl : ¬ sureHome s line) : Tracks s ls st (e.loseCopies line) where
  around := h.around.trans (loseCopies_only e line).around
  banks r hr := by
    rw [loseCopies_regions] at hr
    exact h.banks r hr
  wf := by
    rw [loseCopies_mem]
    exact wf_writeN _ _ h.wf
  left := (loseCopies_only e line).hostLines.trans h.left
  bytes a := by
    rw [loseCopies_byte h.wf, h.around.memKey]
    split
    · rename_i hr
      exact .inr ⟨rfl, line, hl, hr⟩
    · exact h.bytes a

theorem writeHome_same (e : State) (line : Nat) : Around e (e.writeHome line) ∧ (e.writeHome line).mem = e.mem ∧
    (e.writeHome line).hostLines = e.hostLines ∧ (e.writeHome line).regions = e.regions := ⟨rfl, rfl, rfl, rfl⟩

theorem Tracks.flushLine (h : Tracks s ls st e) (line : Nat) : Tracks s ls st (e.flushLine line) := by
  unfold State.flushLine
  split
  · split
    · rename_i hr
      exact h.loseCopies (h.notSure (by simpa using hr))
    · obtain ⟨h1, h2, h3, h4⟩ := writeHome_same e line
      have hw := h.kept h1 h2 h3 h4
      dsimp only
      split
      · exact hw.kept rfl rfl rfl rfl
      · exact hw
  · exact h

theorem Tracks.flushLines (h : Tracks s ls st e) (l : List Nat) : Tracks s ls st (l.foldl State.flushLine e) :=
  h.foldl l fun _ x _ h => h.flushLine x

theorem Tracks.evict (h : Tracks s ls st e) (p : Nat → Bool) : Tracks s ls st (e.evict p) :=
  (h.flushLines _).kept (e' := e.evict p) rfl rfl rfl rfl

/-! ### Entries (R170, R171, R177) -/

/-- Entries of the banks that lines may have. -/
theorem Tracks.setRegions (h : Tracks s ls st e) {rs : List RegionEntry} (hr : ∀ r ∈ rs, BankOf s r) :
    Tracks s ls st { e with regions := rs } := h.same rfl rfl rfl hr

theorem Tracks.removeEntry (h : Tracks s ls st e) (k : RegionKey) : Tracks s ls st (e.removeEntry k) := by
  have hv := h.evict fun l => k.has (128 * l)
  exact (hv.setRegions (rs := (e.evict fun l => k.has (128 * l)).regions.filter fun r => r.key ≠ k)
    fun r hr => hv.banks r (List.mem_filter.1 hr).1).kept (e' := e.removeEntry k) rfl rfl rfl rfl

theorem Tracks.limitEntries (h : Tracks s ls st e) (k : RegionKey) : Tracks s ls st (e.limitEntries k) := by
  unfold State.limitEntries
  split
  · exact h
  · split
    · exact h
    · split
      · exact h.removeEntry _
      · exact h

theorem Tracks.putRegion (h : Tracks s ls st e) {r : RegionEntry} (hr : BankOf s r) : Tracks s ls st (e.putRegion r) := by
  refine (h.setRegions (rs := r :: e.regions.filter fun x => x.key ≠ r.key) fun x hx => ?_).limitEntries r.key
  rcases List.mem_cons.1 hx with rfl | hx
  · exact hr
  · exact h.banks x (List.mem_filter.1 hx).1

theorem Tracks.replicas (h : Tracks s ls st e) (l : List Replica) : Tracks s ls st { e with replicas := l } := h.kept rfl rfl rfl rfl

theorem Tracks.agenda (h : Tracks s ls st e) (l : List Pending) : Tracks s ls st { e with agenda := l } := h.kept rfl rfl rfl rfl

theorem Tracks.collapse (h : Tracks s ls st e) {r : RegionEntry} (hr : BankOf s r) (mine : Nat) : Tracks s ls st (e.collapse r mine) := by
  have h1 := h.replicas (e.replicas.filter fun x => !r.key.has (128 * x.line) || x.reticle ≠ mine)
  unfold State.collapse
  split
  · exact h
  · dsimp only
    split
    · exact h1
    · split
      · refine h1.putRegion ?_
        exact hr.of_eq rfl rfl
      · refine (h1.putRegion ?_).agenda _
        exact hr.of_eq rfl rfl

theorem count_key (r : RegionEntry) (c : Nat) : (r.count c).key = r.key ∧ (r.count c).loc = r.loc := by
  unfold RegionEntry.count
  split
  · exact ⟨rfl, rfl⟩
  · dsimp only
    split <;> exact ⟨rfl, rfl⟩

theorem Tracks.touch (h : Tracks s ls st e) (t pa n : Nat) (write : Bool) : Tracks s ls st (e.touch t pa n write) := by
  obtain ⟨hk, hl⟩ := count_key (e.regionFor pa) (reticleOf t)
  have hr : BankOf s ((e.regionFor pa).count (reticleOf t)) := (h.regionFor pa).of_eq hk hl
  unfold State.touch
  cases write with
  | true =>
    have hw : BankOf s (((e.regionFor pa).count (reticleOf t)).wrote pa n) := hr.of_eq rfl rfl
    exact (h.putRegion hw).collapse hw _
  | false => exact h.putRegion hr

theorem Tracks.ensureRegion (h : Tracks s ls st e) (pa : Nat) : Tracks s ls st (e.ensureRegion pa) := by
  unfold State.ensureRegion
  split
  · exact h
  · exact h.putRegion (h.regionFor pa)

theorem Tracks.dropStale (h : Tracks s ls st e) (t pa : Nat) : Tracks s ls st (e.dropStale t pa) := by
  unfold State.dropStale
  split
  · split
    · exact h.replicas _
    · exact h
  · exact h

theorem hint_key (r : RegionEntry) (kind tenant anchor : Nat) : (r.hint kind tenant anchor).key = r.key ∧
    (r.hint kind tenant anchor).loc = r.loc := by
  unfold RegionEntry.hint RegionEntry.unhinted
  dsimp only
  split <;> split <;> exact ⟨rfl, rfl⟩

theorem Tracks.hintEntry (h : Tracks s ls st e) (pa kind tenant : Nat) : Tracks s ls st (e.hintEntry pa kind tenant) := by
  obtain ⟨hk, hl⟩ := hint_key (e.regionFor pa) kind tenant (e.anchor pa)
  have hp := h.putRegion ((h.regionFor pa).of_eq hk hl)
  unfold State.hintEntry State.dropHinted State.dropReplicas
  split
  · exact h
  · split
    · exact hp
    · exact hp.replicas _

theorem Tracks.placeHint (h : Tracks s ls st e) (plc tenant : Nat) (ts : List (Nat × Target)) : Tracks s ls st (e.placeHint plc tenant ts) := by
  unfold State.placeHint
  split
  · exact h
  · refine h.foldl ts fun e x _ h => ?_
    split
    · exact h.hintEntry _ _ _
    · exact h

/-! ### Sets (R167, R168) -/

theorem Tracks.useLine (h : Tracks s ls st e) (pa ward : Nat) : Tracks s ls st (e.useLine pa ward) := by
  unfold State.useLine
  dsimp only
  split <;> exact h.kept rfl rfl rfl rfl

theorem Tracks.dirty (h : Tracks s ls st e) (pa tenant : Nat) : Tracks s ls st (e.dirty pa tenant) := h.kept rfl rfl rfl rfl

theorem Tracks.dropResident (h : Tracks s ls st e) (r : Resident) : Tracks s ls st (e.dropResident r) := by
  unfold State.dropResident
  split
  · exact h.evict _
  · exact h.replicas _

theorem Tracks.fitSet (h : Tracks s ls st e) (b ward line n : Nat) : Tracks s ls st (e.fitSet b ward line n) := by
  induction n generalizing e with
  | zero => exact h
  | succ n ih =>
    rw [State.fitSet]
    split
    · exact h
    · split
      · exact ih (h.dropResident _)
      · exact h

theorem Tracks.prune (h : Tracks s ls st e) : Tracks s ls st e.prune :=
  h.setRegions (rs := e.regions.filter e.wanted) fun r hr => h.banks r (List.mem_filter.1 hr).1

theorem Tracks.settleLine (h : Tracks s ls st e) (pa ward : Nat) : Tracks s ls st (e.settleLine pa ward) := by
  unfold State.settleLine State.makeRoom
  split
  · exact h
  · exact (h.fitSet _ _ _ _).prune

/-! ### Lines obtained from hosts (R79) -/

theorem obtainedAt_append (s : State) (ls : List Nat) (l a : Nat) :
    obtainedAt s (ls ++ [l]) a = (obtainedAt s ls a || (a / 128 = l && s.inHostBias a)) := by
  unfold obtainedAt
  by_cases hl : a / 128 = l
  · cases ls.contains (a / 128) <;> cases s.inHostBias a <;> simp [hl]
  · cases hc : ls.contains (a / 128) <;> cases s.inHostBias a <;> simp_all

theorem ofLines_append (s : State) (ls : List Nat) (l : Nat) (h : Nat × List Byte) :
    ofLines s (ls ++ [l]) h = (ofLines s ls h || (h.1 / 2 = l && s.inHostBias (64 * h.1))) := by
  unfold ofLines
  by_cases hl : h.1 / 2 = l
  · cases ls.contains (h.1 / 2) <;> cases s.inHostBias (64 * h.1) <;> simp [hl]
  · cases hc : ls.contains (h.1 / 2) <;> cases s.inHostBias (64 * h.1) <;> simp_all

theorem inHostBias_line {s : State} {a b : Nat} (h : a / 4096 = b / 4096) : s.inHostBias a = s.inHostBias b := by
  simp only [State.inHostBias, h]

/-- A line of another page is obtained of no host. -/
theorem Tracks.unbiased (h : Tracks s ls st e) (hs : Memory.wf s.mem = true) {pa : Nat} (hb : s.inHostBias pa = false) :
    Tracks s (ls ++ [lineOf pa]) st e := by
  have ho : ∀ a, obtainedAt s (ls ++ [lineOf pa]) a = obtainedAt s ls a := fun a => by
    rw [obtainedAt_append]
    by_cases hl : a / 128 = lineOf pa
    · have : s.inHostBias a = false := hb ▸ inHostBias_line (by unfold lineOf at hl; omega)
      simp [this]
    · simp [hl]
  have hl : ∀ x, ofLines s (ls ++ [lineOf pa]) x = ofLines s ls x := fun x => by
    rw [ofLines_append]
    by_cases hx : x.1 / 2 = lineOf pa
    · have : s.inHostBias (64 * x.1) = false := hb ▸ inHostBias_line (by unfold lineOf at hx; omega)
      simp [this]
    · simp [hx]
  refine ⟨h.around, h.banks, h.wf, ?_, fun a => ?_⟩
  · simp only [hl]
    exact h.left
  · have := h.bytes a
    rw [gathered_byte hs] at this ⊢
    rw [ho]
    exact this

theorem giveAll_regions (l : List (Nat × List Byte)) (e : State) : (giveAll l e).regions = e.regions := by
  induction l generalizing e with
  | nil => rfl
  | cons x r ih => exact ih _

theorem Tracks.hostGives (h : Tracks s ls st e) (hs : Memory.wf s.mem = true) {pa : Nat} (hb : s.inHostBias pa = true)
    (hst : ∀ a, a / 128 = lineOf pa → (st a).isSome = true → lineOf pa ∈ ls) : Tracks s (ls ++ [lineOf pa]) st (e.hostGives (lineOf pa)) := by
  have hbias : ∀ a, a / 128 = lineOf pa → s.inHostBias a = true := fun a ha => hb ▸ inHostBias_line (by unfold lineOf at ha; omega)
  have hl : e.hostLines = s.hostLines.filter fun x => !ofLines s ls x := h.left
  have hg : (e.hostGives (lineOf pa)).hostLines = e.hostLines.filter fun x => x.1 / 2 ≠ lineOf pa := rfl
  have hr : (e.hostGives (lineOf pa)).regions = e.regions := giveAll_regions _ e
  refine ⟨h.around.trans (hostGives_local 0 e _).around, hr ▸ h.banks, (hostGives_byte h.wf _ 0).1, ?_, fun a => ?_⟩
  · rw [hg, hl, List.filter_filter]
    refine List.filter_congr fun x _ => ?_
    rw [ofLines_append]
    by_cases hx : x.1 / 2 = lineOf pa
    · have : s.inHostBias (64 * x.1) = true := hb ▸ inHostBias_line (by unfold lineOf at hx; omega)
      simp [hx, this]
    · simp [hx]
  · have hea := h.bytes a
    rw [(hostGives_byte h.wf _ a).2, gathered_byte hs, obtainedAt_append]
    rw [gathered_byte hs] at hea
    by_cases ha : a / 128 = lineOf pa
    · have hn : givenAt e.hostLines a = if obtainedAt s ls a then none else givenAt s.hostLines a := by
        rw [hl, givenAt_filter (v := !obtainedAt s ls a) s.hostLines fun x hx => by rw [ofLines_at hx]]
        cases obtainedAt s ls a <;> rfl
      rw [if_pos ha, hn]
      cases hob : obtainedAt s ls a with
      | true => simpa [hob] using hea
      | false =>
        have hni : lineOf pa ∉ ls := fun hm => by simp [obtainedAt, ha, hm, hbias a ha] at hob
        have hsn : st a = none := by
          cases hsa : st a with
          | none => rfl
          | some b => exact absurd (hst a ha (by simp [hsa])) hni
        rw [hsn, hob] at hea
        cases hgv : givenAt s.hostLines a with
        | none => simpa [hsn, ha, hbias a ha] using hea
        | some b => exact .inl (by simp [hsn, ha, hbias a ha])
    · rw [if_neg ha]
      simpa [ha] using hea

end

end Sys2Proof.Proofs
end

section
/-! PROOFS. Translation, loads and stores (R157, R161, R208, R281-R282): where they lead, and what they make of memory. -/

namespace Sys2Proof.Proofs

open Sys2Proof Sys2Proof.Machine Sys2Proof.Safety Sys2Proof.Rules Sys2Proof.Laws

/-- A sequence of accesses that store nothing, whichever lines they obtain. -/
def Tracked (s e : State) : Prop := Memory.wf s.mem = true → ∃ ls, Tracks s ls unstored e

theorem Tracked.refl (s : State) : Tracked s s := fun h => ⟨[], .start h⟩

theorem Tracked.memoryAs {s e : State} (h : Tracked s e) (hs : Memory.wf s.mem = true) : memoryAs s e := by
  obtain ⟨ls, h⟩ := h hs
  exact h.memoryAs rfl

/-- What an operation does whatever is obtained, it does to a sequence of accesses. -/
theorem Tracked.step {s e e' : State} (h : Tracked s e) (hf : ∀ ls, Tracks s ls unstored e → Tracks s ls unstored e') : Tracked s e' := by
  intro hs
  obtain ⟨ls, h⟩ := h hs
  exact ⟨ls, hf ls h⟩

theorem Tracked.foldl {α : Type} {s e : State} {f : State → α → State} (hf : ∀ e x, Tracked s e → Tracked s (f e x)) (l : List α)
    (h : Tracked s e) : Tracked s (l.foldl f e) := by
  induction l generalizing e with
  | nil => exact h
  | cons x r ih => exact ih (hf e x h)

section
variable {s e : State} {ls : List Nat} {st : Nat → Option Byte}

/-! ### Obtaining a line -/

theorem Tracks.obtain (h : Tracks s ls st e) (hs : Memory.wf s.mem = true) (pa : Nat) (own : Bool)
    (hst : ∀ a, a / 128 = lineOf pa → (st a).isSome = true → lineOf pa ∈ ls) : Tracks s (ls ++ [lineOf pa]) st (e.obtain pa own) := by
  unfold State.obtain
  rw [h.around.inHostBias]
  cases hb : s.inHostBias pa with
  | false => exact h.unbiased hs hb
  | true => exact (h.hostGives hs hb hst).kept rfl rfl rfl rfl

theorem Tracked.obtain (h : Tracked s e) (pa : Nat) (own : Bool) : Tracked s (e.obtain pa own) := by
  intro hs
  obtain ⟨ls, h⟩ := h hs
  exact ⟨_, h.obtain hs pa own fun a _ hn => Bool.noConfusion hn⟩

theorem Tracked.updTile (h : Tracked s e) (t : Nat) (f : Tile → Tile) : Tracked s (e.updTile t f) := h.step fun _ h => h.kept rfl rfl rfl rfl

theorem Tracked.freeCtr (h : Tracked s e) (n : Nat) : Tracked s { e with freeCtr := n } := h.step fun _ h => h.kept rfl rfl rfl rfl

/-! ### Walks and translation (R161-R163) -/

theorem Tracked.obtainRead (h : Tracked s e) (pa : Nat) : Tracked s (e.obtainRead pa) := by
  unfold State.obtainRead
  split
  · have h1 := h.step fun _ h => (h.ensureRegion pa).useLine pa 0
    exact (h1.obtain pa false).step fun _ h => h.settleLine pa 0
  · exact h

theorem Tracked.obtainEntries (h : Tracked s e) (tenant va : Nat) : Tracked s (e.obtainEntries tenant va) := by
  unfold State.obtainEntries
  split
  · exact h
  · exact h.foldl (fun e _ h => h.foldl (fun e pa h => h.obtainRead pa) _) _

theorem Tracked.walkFor (h : Tracked s e) (t tenant : Nat) (m : AccessMode) (va : Nat) : Tracked s (e.walkFor t tenant m va).1 := by
  unfold State.walkFor
  dsimp only
  split
  · exact h.obtainEntries tenant va
  · exact h

theorem Tracked.translate (h : Tracked s e) (t tenant : Nat) (m : AccessMode) (pool : Bool) (va : Nat) :
    Tracked s (e.translate t tenant m pool va).1 := by
  have hw := h.walkFor t tenant m va
  unfold State.translate
  split
  · exact h
  · split
    · exact h.freeCtr _
    · revert hw
      generalize e.walkFor t tenant m va = r
      obtain ⟨u, x⟩ := r
      cases x with
      | error f => exact id
      | ok p => exact fun hw => hw.step fun _ h => h.kept (tlbFill_local u t tenant p).around rfl rfl rfl

/-- The faults of a walk and of the checks on a page have numbers of eight bits. -/
theorem walkFrom_num {mem : List Host.Cell} {m : AccessMode} {va : Nat} (n : Nat) (table : Nat) (w x : Bool) {f : MemFault}
    (h : walkFrom mem m va n table w x = .error f) : f.num = Trap.page := by
  induction n generalizing table w x with
  | zero =>
    cases h
    rfl
  | succ n ih =>
    rw [walkFrom] at h
    split at h
    · cases h; rfl
    · split at h
      · cases h; rfl
      · split at h
        · split at h
          · cases h; rfl
          · cases h
        · split at h
          · cases h; rfl
          · split at h
            · cases h; rfl
            · exact ih _ _ _ h

theorem pageCheck_num {m : AccessMode} {pool : Bool} {va : Nat} {p : Page} {f : MemFault} (h : s.pageCheck m pool va p = .error f) :
    f.num = Trap.page := by
  unfold State.pageCheck at h
  dsimp only at h
  split at h
  · cases h; rfl
  · split at h
    · cases h; rfl
    · split at h
      · cases h; rfl
      · split at h
        · cases h; rfl
        · cases h

theorem pageCheck_ok {m : AccessMode} {pool : Bool} {va pa : Nat} {p : Page} (h : s.pageCheck m pool va p = .ok pa) :
    pa % 4096 = va % 4096 ∧ s.mapped pa = true := by
  unfold State.pageCheck at h
  dsimp only at h
  split at h
  · cases h
  · split at h
    · cases h
    · split at h
      · cases h
      · split at h
        · cases h
        · cases h
          rename_i hm _
          exact ⟨by omega, by simpa using hm⟩

theorem walkFor_num {t tenant : Nat} {m : AccessMode} {va : Nat} {f : MemFault} (h : (s.walkFor t tenant m va).2 = .error f) :
    f.num < 256 := by
  unfold State.walkFor at h
  dsimp only at h
  split at h
  · rw [walkFrom_num 4 _ _ _ h]
    decide
  · cases h
    exact (by decide : Trap.fabricLoss < 256)

theorem translate_num {t tenant : Nat} {m : AccessMode} {pool : Bool} {va : Nat} {f : MemFault}
    (h : (s.translate t tenant m pool va).2 = .error f) : f.num < 256 := by
  have hp : ∀ {g : MemFault}, g.num = Trap.page → g.num < 256 := fun h => h ▸ by decide
  have hw := @walkFor_num s t tenant m va
  unfold State.translate at h
  split at h
  · cases h
    exact hp rfl
  · split at h
    · exact hp (pageCheck_num h)
    · revert h hw
      generalize s.walkFor t tenant m va = r
      obtain ⟨u, x⟩ := r
      cases x with
      | error g =>
        intro hw h
        cases h
        exact hw rfl
      | ok p => exact fun _ h => hp (pageCheck_num h)

theorem translate_ok {t tenant : Nat} {m : AccessMode} {pool : Bool} {va pa : Nat} (h : (s.translate t tenant m pool va).2 = .ok pa) :
    pa % 4096 = va % 4096 ∧ ∃ e : State, e.mapped pa = true := by
  unfold State.translate at h
  split at h
  · cases h
  · split at h
    · exact ⟨(pageCheck_ok h).1, _, (pageCheck_ok h).2⟩
    · revert h
      generalize s.walkFor t tenant m va = r
      obtain ⟨u, x⟩ := r
      cases x with
      | error f => exact fun h => nomatch h
      | ok p => exact fun h => ⟨(pageCheck_ok h).1, _, (pageCheck_ok h).2⟩

theorem mapped_lt {e : State} {pa : Nat} (h : e.mapped pa = true) : pa < 2 ^ 51 := by
  have hl : e.hbmLimit ≤ 2 ^ 51 := by
    unfold State.hbmLimit
    split <;> decide
  unfold State.mapped isPool isHostWindow at h
  rw [Bool.or_eq_true, Bool.and_eq_true, Bool.or_eq_true, Bool.and_eq_true, Bool.and_eq_true] at h
  rcases h with h | ⟨-, ⟨-, h⟩ | ⟨-, h⟩⟩
  · exact (of_decide_eq_true h).trans_le hl
  · exact (of_decide_eq_true h).trans_le (by decide)
  · exact (of_decide_eq_true h).trans_le (by decide)

/-! ### The targets of the lanes (R157) -/

/-- Where an access of some bytes may lead: an aligned physical address of the map, or a scratchpad. -/
def TargetOk (size : Nat) : Target → Prop
  | .phys pa => pa % size = 0 ∧ pa < 2 ^ 51
  | .spad _ k => 2 ^ 70 ≤ k

/-- What the checks of the lanes answer, and the state that they leave. -/
structure Checked (s : State) (t : Nat) (e : State) (size : Nat) (r : State × Except MemFault (List (Nat × Target))) : Prop where
  own : Local t e r.1
  tracked : Tracked s r.1
  targets : ∀ ts, r.2 = .ok ts → ∀ x ∈ ts, TargetOk size x.2
  num : ∀ f, r.2 = .error f → f.num < 256

theorem Checked.fault (h : Tracked s e) {t size : Nat} {f : MemFault} (hf : f.num < 256) : Checked s t e size (e, .error f) :=
  ⟨.refl _ e, h, (by intro _ h; cases h), fun g hg => by cases hg; exact hf⟩

/-- One lane's translation, after those before it. -/
def laneChecked (t tenant : Nat) (mode : AccessMode) (pool : Bool) (va : Nat → Nat) (acc : State × Except MemFault (List (Nat × Target)))
    (j : Nat) : State × Except MemFault (List (Nat × Target)) :=
  match acc.2 with
  | .error f => (acc.1, .error f)
  | .ok l =>
    match acc.1.translate t tenant mode pool (va j) with
    | (s', .ok pa) => (s', .ok (l ++ [(j, .phys pa)]))
    | (s', .error f) => (s', .error f)

/-- A translation keeps the place in a page, so that an aligned lane's target is aligned. -/
theorem Checked.lane {t size j : Nat} {acc : State × Except MemFault (List (Nat × Target))} (h : Checked s t e size acc) (tenant : Nat)
    (mode : AccessMode) (pool : Bool) (va : Nat → Nat) (hd : size ∣ 4096) (hv : va j % size = 0) :
    Checked s t e size (laneChecked t tenant mode pool va acc j) := by
  obtain ⟨u, x⟩ := acc
  cases x with
  | error f => exact h
  | ok l =>
    have hl := translate_local u t tenant mode pool (va j)
    have ht := h.tracked.translate t tenant mode pool (va j)
    have hn := fun f => @translate_num u t tenant mode pool (va j) f
    have ho := fun pa => @translate_ok u t tenant mode pool (va j) pa
    unfold laneChecked
    dsimp only
    generalize u.translate t tenant mode pool (va j) = r at hl ht hn ho
    obtain ⟨u', y⟩ := r
    cases y with
    | error f => exact ⟨h.own.trans hl, ht, (by intro _ h; cases h), fun g hg => by cases hg; exact hn f rfl⟩
    | ok pa =>
      refine ⟨h.own.trans hl, ht, fun ts hts x hx => ?_, by intro _ h; cases h⟩
      cases hts
      rcases List.mem_append.1 hx with hx | hx
      · exact h.targets l rfl x hx
      · cases List.mem_singleton.1 hx
        obtain ⟨hpa, w, hw⟩ := ho pa rfl
        refine ⟨?_, mapped_lt hw⟩
        rw [← Nat.mod_mod_of_dvd pa hd, hpa, Nat.mod_mod_of_dvd _ hd, hv]

theorem resolve_checked (h : Tracked s e) (c : Ctx) (n : SegName) (mode : AccessMode) (pool : Bool) {size : Nat} (swz : Nat) (lanes : List Nat)
    (off : Nat → Int) (hd : size ∣ 4096) : Checked s c.tile e size (e.resolve c n mode pool size swz lanes off) := by
  unfold State.resolve
  extract_lets va fail
  split
  · exact .fault h (by decide : Trap.segment < 256)
  · split
    · exact .fault h (by decide : Trap.misalign < 256)
    · rename_i hal
      split
      · refine ⟨.refl _ e, h, fun ts hts x hx => ?_, by intro _ h; cases h⟩
        cases hts
        obtain ⟨j, -, rfl⟩ := List.mem_map.1 hx
        simp only [State.spadTarget, TargetOk, spadKey]
        omega
      · split
        · exact .fault h (by decide : Trap.page < 256)
        · have h0 : Checked s c.tile e size (e, .ok []) :=
            ⟨.refl _ e, h, (by intro _ hts x hx; cases hts; cases hx), by intro _ h; cases h⟩
          refine List.foldlRecOn (motive := Checked s c.tile e size) lanes (laneChecked c.tile (c.tenant e) mode pool va) h0 fun acc ha j hj => ?_
          exact ha.lane _ _ _ _ hd (by simpa using List.find?_eq_none.1 hal j hj)

end

end Sys2Proof.Proofs
end

section
/-! PROOFS. Loads (R281-R285): what they change of memory, and the exec of their instructions. -/

namespace Sys2Proof.Proofs

open Sys2Proof Sys2Proof.Machine Sys2Proof.Safety Sys2Proof.Rules Sys2Proof.Laws

section
variable {s e : State}

/-! ### Memory after loads -/

theorem Tracked.fillTile (h : Tracked s e) (t tenant pa : Nat) (way : LoadWay) (bs : List Byte) :
    Tracked s (e.fillTile t tenant pa way bs) := by
  unfold State.fillTile
  split
  · exact h.updTile t _
  · exact h.updTile t _

theorem Tracked.replicaMark (h : Tracked s e) (t pa : Nat) (fill : Bool) : Tracked s (e.replicaMark t pa fill) := by
  unfold State.replicaMark
  split
  · exact h
  · split
    · dsimp only
      split
      · exact (h.updTile t _).step fun _ h => h.agenda _
      · exact h.updTile t _
    · exact h.updTile t _

theorem Tracked.serveLoad (h : Tracked s e) (t pa : Nat) (fill : Bool) : Tracked s (e.serveLoad t pa fill) := by
  have h1 := h.step fun _ h => ((h.dropStale t pa).touch t pa 0 false).useLine pa (e.tileWard t)
  exact (h1.obtain pa false).replicaMark t pa fill

theorem Tracked.atBank (h : Tracked s e) (t tenant pa n : Nat) (way : LoadWay) : Tracked s (atBank e t tenant pa n way).1 :=
  ((h.serveLoad t pa way.alloc).fillTile t tenant pa way _).step fun _ h => h.settleLine pa _

theorem Tracked.atReplica (h : Tracked s e) (t tenant pa n : Nat) (way : LoadWay) (r : Replica) :
    Tracked s (atReplica e t tenant pa n way r).1 := by
  have h1 : Tracked s (replicaUsed e t pa r) := (h.freeCtr _).step fun _ h =>
    (h.touch t pa 0 false).kept (useReplica_cacheOnly _ r).around rfl rfl rfl
  exact h1.fillTile t tenant pa way _

theorem Tracked.bankLoad (h : Tracked s e) (t tenant pa n : Nat) (way : LoadWay) : Tracked s (e.bankLoad t tenant pa n way).1 := by
  rcases bankLoad_cases e t tenant pa n way with ⟨l, -, -, hr⟩ | ⟨r, -, -, hr⟩ | hr | hr
  · rw [hr]; exact h.freeCtr _
  · rw [hr]; exact h.atReplica t tenant pa n way r
  · rw [hr]; exact (h.freeCtr _).atBank t tenant pa n way
  · rw [hr]; exact h.atBank t tenant pa n way

theorem Tracked.l1Drop (h : Tracked s e) (t line : Nat) : Tracked s (e.l1Drop t line) := h.updTile t _

theorem probe_reads (h : Tracked s e) (t tenant : Nat) (kseg : Bool) (line : Nat) :
    Local t e (e.probe t tenant kseg line) ∧ Tracked s (e.probe t tenant kseg line) := by
  unfold State.probe
  split
  · exact ⟨.refl t e, h⟩
  · split
    · exact ⟨.refl t e, h⟩
    · split
      · exact ⟨.refl t e, h⟩
      · exact ⟨l1Fill_local e t _ _ _ _, h.updTile t _⟩

/-- A fold of accesses of one tile, each of which stores nothing. -/
theorem reads_foldl {α β : Type} {t : Nat} {g : β → State} {f : β → α → β} {s b : State}
    (hf : ∀ a x, Tracked s (g a) → Local t (g a) (g (f a x)) ∧ Tracked s (g (f a x))) (l : List α) {a : β}
    (ha : Local t b (g a) ∧ Tracked s (g a)) : Local t b (g (l.foldl f a)) ∧ Tracked s (g (l.foldl f a)) :=
  List.foldlRecOn (motive := fun a => Local t b (g a) ∧ Tracked s (g a)) l f ha fun a h x _ =>
    ⟨h.1.trans (hf a x h.2).1, (hf a x h.2).2⟩

theorem probes_reads (h : Tracked s e) (c : Ctx) (kseg : Bool) (ts : List (Nat × Target)) :
    Local c.tile e (e.probes c kseg ts) ∧ Tracked s (e.probes c kseg ts) := by
  refine reads_foldl (g := id) (fun e x h => ?_) ts ⟨.refl c.tile e, h⟩
  obtain ⟨j, x⟩ := x
  cases x with
  | phys pa => exact probe_reads h c.tile _ kseg _
  | spad u k => exact ⟨.refl _ _, h⟩

/-- The state in which a load reads. -/
theorem readState_reads (h : Tracked s e) (c : Ctx) (k : LoadKind) (ts : List (Nat × Target)) :
    Local c.tile e (readState e c k ts) ∧ Tracked s (readState e c k ts) := by
  have hp : Local c.tile e (if k.probe then e.probes c (k.seg = .kseg) ts else e) ∧
      Tracked s (if k.probe then e.probes c (k.seg = .kseg) ts else e) := by
    split
    · exact probes_reads h c _ ts
    · exact ⟨.refl _ _, h⟩
  exact ⟨hp.1.trans (placeHint_cacheOnly _ k.plc _ ts).local, hp.2.step fun _ h => h.placeHint k.plc _ ts⟩

theorem unfill_reads (h : Tracked s e) (before : State) (t : Nat) (ts : List (Nat × Target)) :
    Local t e (e.unfill before t ts) ∧ Tracked s (e.unfill before t ts) := by
  refine reads_foldl (g := id) (fun e x h => ?_) ts ⟨.refl t e, h⟩
  obtain ⟨j, x⟩ := x
  cases x with
  | phys pa =>
    dsimp only [id]
    split
    · exact ⟨.refl _ _, h⟩
    · exact ⟨l1Drop_local e t _, h.l1Drop t _⟩
  | spad u k => exact ⟨.refl _ _, h⟩

theorem loads_reads (h : Tracked s e) (t tenant size : Nat) (n : SegName) (way : LoadWay) (va : Nat → Nat) (ts : List (Nat × Target)) :
    Local t e (e.loads t tenant size n way va ts).1 ∧ Tracked s (e.loads t tenant size n way va ts).1 := by
  unfold State.loads
  split
  · exact ⟨.refl t e, h⟩
  · split
    · exact ⟨.refl t e, h⟩
    · split
      · exact ⟨bankLoad_local e t tenant _ 128 way, h.bankLoad t tenant _ 128 way⟩
      · refine reads_foldl (g := Prod.fst) (fun a x h => ?_) ts ⟨.refl t e, h⟩
        obtain ⟨j, x⟩ := x
        cases x with
        | phys pa => exact ⟨bankLoad_local a.1 t tenant pa size way, h.bankLoad t tenant pa size way⟩
        | spad u k => exact ⟨.refl _ _, h⟩

/-! ### What loads answer -/

theorem firstWait_none {t : Nat} {ts : List (Nat × Target)} {whole : Bool} (h : ∀ x ∈ ts, ∀ l, e.targetVerdict t x.2 whole ≠ .wait l) :
    e.firstWait t ts whole = none := by
  refine List.findSome?_eq_none_iff.2 fun x hx => ?_
  have := h x hx
  split
  · rename_i l hl
    exact absurd hl (this l)
  · rfl
  · rfl

theorem laneTrap_none {t : Nat} {va : Nat → Nat} {ts : List (Nat × Target)} {whole : Bool}
    (h : ∀ x ∈ ts, e.targetVerdict t x.2 whole = .ok) : e.laneTrap t va ts whole = none := by
  unfold State.laneTrap
  extract_lets bad
  have hn : ∀ num, bad num = none := fun num => List.findSome?_eq_none_iff.2 fun x hx => by rw [h x hx]
  simp only [hn]
  rfl

theorem loads_served {c : Ctx} {ts : List (Nat × Target)} (h : servable e c false ts) (tenant size : Nat) (n : SegName) (way : LoadWay)
    (va : Nat → Nat) : ∃ vs, (e.loads c.tile tenant size n way va ts).2 = .ok vs := by
  unfold State.loads
  rw [firstWait_none fun x hx l => by rw [h x hx]; exact Verdict.noConfusion, laneTrap_none h]
  dsimp only
  split
  · exact ⟨_, rfl⟩
  · exact ⟨_, rfl⟩

/-- Requests that the fabric loses on their way stop the lanes before they do anything. -/
theorem laneTrap_lost {t : Nat} (va : Nat → Nat) {ts : List (Nat × Target)} (hn : ∃ x ∈ ts, e.targetVerdict t x.2 false ≠ .ok)
    (h : ∀ x ∈ ts, e.targetVerdict t x.2 false = .ok ∨ e.targetVerdict t x.2 false = .fault 22 lostMark) :
    ∃ a, e.laneTrap t va ts false = some ⟨22, lostMark, a, none⟩ := by
  unfold State.laneTrap
  extract_lets bad
  have h0 : ∀ num, num ≠ 22 → bad num = none := fun num hx => List.findSome?_eq_none_iff.2 fun x hm => by
    rcases h x hm with hv | hv <;> rw [hv]
    exact if_neg hx.symm
  have h1 : ∃ a, bad Trap.fabricLoss = some ⟨22, lostMark, a, none⟩ := by
    cases hb : bad Trap.fabricLoss with
    | none =>
      obtain ⟨x, hx, hv⟩ := hn
      have hy := List.findSome?_eq_none_iff.1 hb x hx
      rw [(h x hx).resolve_left hv] at hy
      cases hy
    | some f =>
      obtain ⟨x, hx, hf⟩ := List.exists_of_findSome?_eq_some hb
      rcases h x hx with hv | hv
      · rw [hv] at hf
        cases hf
      · rw [hv] at hf
        exact ⟨va x.1, congrArg some (Option.some.inj hf).symm⟩
  obtain ⟨a, ha⟩ := h1
  refine ⟨a, ?_⟩
  rw [h0 _ (by decide), h0 _ (by decide), ha]
  rfl

theorem loads_lost {t : Nat} {ts : List (Nat × Target)} (hn : ∃ x ∈ ts, e.targetVerdict t x.2 false ≠ .ok)
    (h : ∀ x ∈ ts, e.targetVerdict t x.2 false = .ok ∨ e.targetVerdict t x.2 false = .fault 22 lostMark) (tenant size : Nat) (n : SegName)
    (way : LoadWay) (va : Nat → Nat) :
    ∃ a, e.loads t tenant size n way va ts = (e, .fault ⟨22, lostMark, a, none⟩ false) := by
  obtain ⟨a, ha⟩ := laneTrap_lost va hn h
  refine ⟨a, ?_⟩
  unfold State.loads
  rw [firstWait_none fun x hx l => by rcases h x hx with hv | hv <;> rw [hv] <;> exact Verdict.noConfusion, ha]

end

end Sys2Proof.Proofs
end

section
/-! PROOFS. Faults of loads, stores and atomics (R157, R162, R284): the trap, the wait for a page, and the wait for an answer. -/

namespace Sys2Proof.Proofs

open Sys2Proof Sys2Proof.Machine Sys2Proof.Safety Sys2Proof.Rules Sys2Proof.Laws

section
variable {i : Instr} {s e : State} {c : Ctx}

/-! ### The state in which an instruction acts -/

theorem ready_tracked (s : State) (c : Ctx) : Tracked s (ready s c) := (Tracked.refl s).step fun _ h => h.kept rfl rfl rfl rfl

theorem issues_group (h : Issues i s c) : c.sq.group? c.g.pc = some c.g := by
  obtain ⟨y, ⟨x, hx, -, rfl⟩, -, -, rfl⟩ := h
  obtain ⟨k, -, hk⟩ := Option.bind_eq_some_iff.1 (hx : s.cur.bind s.at? = some x)
  obtain ⟨-, -, -, hg⟩ := at?_eq hk
  have hr : ∀ y : Ctx, (y.reading i).sq.groups = y.sq.groups := fun y => by unfold Ctx.reading; split <;> rfl
  simp only [reading_group, Squad.group?, hr, settle_groups]
  exact hg

theorem issues_wg (h : Issues i s c) : (s.tile c.tile).wg = some c.wg := by
  obtain ⟨y, ⟨x, hx, -, rfl⟩, -, -, rfl⟩ := h
  obtain ⟨-, -, -, hw, -⟩ := ctx_squad hx
  have hr : ∀ y : Ctx, (y.reading i).wg = y.wg := fun y => by unfold Ctx.reading; split <;> rfl
  simp only [reading_tile, hr]
  exact hw

/-- The workgroup in a state that an access of the issuing tile has led to. -/
theorem Local.issues_wg (hl : Local c.tile (ready s c) e) (h : Issues i s c) :
    (e.tile c.tile).wg = some (c.wg.updSquad c.sq.slot fun _ => c.sq) := by
  rw [hl.wg]
  exact (tile_updSquad_wg s c.tile c.sq.slot _).trans (by rw [Proofs.issues_wg h]; rfl)

/-- The issuing squad in a state that an access of its own tile has led to. -/
theorem Local.issues_squad (hl : Local c.tile (ready s c) e) (h : Issues i s c) : e.squad? c.tile c.sq.slot = some c.sq :=
  (squad?_of_wg (hl.wg c.tile) _).trans (Laws.issues_squad h)

/-! ### Waiting -/

/-- The group waits, and its squad is otherwise as it issued. -/
def WaitsFor (c : Ctx) (b : Blocked) (t : State) : Prop :=
  ∃ q, t.squad? c.tile c.sq.slot = some q ∧ { q with groups := c.sq.groups } = c.sq ∧
    ∃ g ∈ q.groups, g.pc = c.g.pc ∧ g.threads = c.g.threads ∧ g.blocked = some b

/-- Only one that waits at an anchor is held there. -/
theorem waitAt_eq {b : Blocked} (hb : ∀ l, b ≠ .anchor l) (e : State) (c : Ctx) (r : Option Sources) :
    e.waitAt c b r = e.updSquad c.tile c.sq.slot fun q =>
      { q with groups := mapIf (fun g => g.pc = c.g.pc) (fun g => g.wait b r e.coreCycles) q.groups } := by
  cases b with
  | anchor l => exact absurd rfl (hb l)
  | _ => rfl

theorem waitAt_waits {b : Blocked} (hb : ∀ l, b ≠ .anchor l) (hq : e.squad? c.tile c.sq.slot = some c.sq)
    (hg : c.sq.group? c.g.pc = some c.g) (r : Option Sources) : WaitsFor c b (e.waitAt c b r) := by
  rw [waitAt_eq hb]
  refine ⟨_, squad?_updSquad hq fun _ h => h, rfl, c.g.wait b r e.coreCycles, ?_, rfl, rfl, rfl⟩
  refine List.mem_map.2 ⟨c.g, List.mem_of_find?_eq_some hg, ?_⟩
  simp

/-- Memory, the outstanding walks and the fault records are the same. -/
structure SameRecords (e t : State) : Prop where
  mem : t.mem = e.mem
  walks : t.walks = e.walks
  faults : t.faults = e.faults

theorem SameRecords.of_outside {e t : State} {n : Nat} (h : outsideKept e t n) : SameRecords e t :=
  ⟨(congrArg State.mem h.1 :), (congrArg State.walks h.1 :), (congrArg State.faults h.1 :)⟩

/-- What a wait leaves of the rest of the state. -/
theorem waitAt_records {b : Blocked} (hb : ∀ l, b ≠ .anchor l) (e : State) (c : Ctx) (r : Option Sources) :
    SameRecords e (e.waitAt c b r) := by
  rw [waitAt_eq hb]
  exact .of_outside (updSquad_kept e c.tile c.sq.slot (fun q =>
    { q with groups := mapIf (fun g => g.pc = c.g.pc) (fun g => g.wait b r e.coreCycles) q.groups }) fun _ h => h).2

/-- A squad whose span is over waits at the span's beginning with every thread of its entry. -/
def RestartsFor (c : Ctx) (b : Blocked) (q : Squad) : Prop :=
  ∀ z, c.sq.span = some z → z.entryMask ≠ 0 →
    q.live = z.entryMask ∧ q.outstanding = [] ∧ (∀ n, n < 8 → (q.ocSlot n).valid = 0) ∧ (∀ n, n < 4 → (q.latch n).valid = 0) ∧
      ∃ g, q.groups = [g] ∧ g.threads = z.entryMask ∧ g.pc = z.pc ∧ g.hints = none ∧ g.blocked = some b

theorem deschedule_invalid (q : Squad) (n : Nat) : (q.deschedule.ocSlot n).valid = 0 ∧ (q.deschedule.latch n).valid = 0 := by
  have h : ∀ l : List LaneEntry, ((l.map fun x : LaneEntry => { x with valid := 0 }).getD n ⟨.uniform 0, 0⟩).valid = 0 := by
    intro l
    rw [List.getD_eq_getElem?_getD, List.getElem?_map]
    cases l[n]? <;> rfl
  unfold Squad.deschedule Squad.ocSlot Squad.latch
  rw [Vector.toList_map, Vector.toList_map]
  exact ⟨h _, h _⟩

/-- The squad at its span's beginning, all its threads waiting. -/
def restarted (q : Squad) (b : Blocked) (now : Nat) : Squad :=
  { q.discard now with groups := (q.discard now).groups.map fun g => g.wait b none now }

theorem restarted_slot (q : Squad) (b : Blocked) (now : Nat) : (restarted q b now).slot = q.slot := by
  have hd : (q.discard now).slot = q.slot := by
    unfold Squad.discard
    split
    · rfl
    · exact (congrArg Squad.slot (deliverAll_but q fun _ => true) :)
  exact hd

theorem restartsFor_of_bare {q : Squad} {b : Blocked} {now : Nat} (h : bare q = bare (restarted c.sq b now)) : RestartsFor c b q := by
  intro z hz hm
  let r : Squad := (c.sq.deliverAll fun _ => true).deschedule
  have hd : c.sq.discard now = r.regroup z.entryMask z.pc now := by
    simp only [Squad.discard, hz]
    rfl
  have hoc : q.oc = r.oc := (congrArg Squad.oc h :).trans (congrArg Squad.oc hd :)
  have hlt : q.lt = r.lt := (congrArg Squad.lt h :).trans (congrArg Squad.lt hd :)
  have hout : q.outstanding = r.outstanding := (congrArg Squad.outstanding h :).trans (congrArg Squad.outstanding hd :)
  have hnone : r.outstanding = [] := List.filter_eq_nil_iff.2 fun _ _ => by simp
  have hgs : (restarted c.sq b now).groups = [({ Group.fresh z.entryMask z.pc now with fences := r.fences } : Group).wait b none now] := by
    unfold restarted Squad.regroup at *
    rw [hd, if_neg hm]
    rfl
  refine ⟨(congrArg Squad.live h :).trans (congrArg Squad.live hd :), hout.trans hnone, fun n _ => ?_, fun n _ => ?_, ?_⟩
  · unfold Squad.ocSlot
    rw [hoc]
    exact (deschedule_invalid _ n).1
  · unfold Squad.latch
    rw [hlt]
    exact (deschedule_invalid _ n).2
  · have hg : q.groups.map _ = (restarted c.sq b now).groups.map _ := congrArg Squad.groups h
    rw [hgs] at hg
    obtain ⟨g, hq, hn⟩ := List.map_eq_singleton_iff.1 hg
    exact ⟨g, hq, (congrArg Group.threads hn :), (congrArg Group.pc hn :), (congrArg Group.hints hn :), (congrArg Group.blocked hn :)⟩

/-- The wait for a page: at the instruction, or inside a span at the span's beginning (R115, LOG 44). -/
theorem waitPage_spec {b : Blocked} (hb : ∀ l, b ≠ .anchor l) (hq : e.squad? c.tile c.sq.slot = some c.sq)
    (hg : c.sq.group? c.g.pc = some c.g) : SameRecords e (e.waitPage c b) ∧
      ((c.sq.inSpan && !c.sq.intrap) = false → WaitsFor c b (e.waitPage c b)) ∧
      ((c.sq.inSpan && !c.sq.intrap) = true → ∃ q, (e.waitPage c b).squad? c.tile c.sq.slot = some q ∧ RestartsFor c b q) := by
  unfold State.waitPage
  rw [hq]
  dsimp only
  cases hi : c.sq.inSpan && !c.sq.intrap with
  | false => exact ⟨waitAt_records hb e c none, fun _ => waitAt_waits hb hq hg none, fun h => Bool.noConfusion h⟩
  | true =>
    rw [if_pos rfl]
    have hs := restarted_slot c.sq b e.coreCycles
    obtain ⟨q, h1, h2, -, h4⟩ := putSquad_spec (s := e) (t := c.tile) (q := restarted c.sq b e.coreCycles) (old := c.sq) 0 (by rw [hs]; exact hq)
    rw [hs] at h1
    exact ⟨.of_outside h4, fun h => Bool.noConfusion h, fun _ => ⟨q, h1, restartsFor_of_bare h2⟩⟩

/-! ### The instructions that access memory -/

theorem loadKind_acts {f : MForm} {k : LoadKind} (h : loadKind c i = some (f, k)) :
    ∃ kind, kind c = k ∧ (∀ s, exec i s = s.load i f kind) ∧ i.isTerminator = false := by
  unfold loadKind at h
  split at h
  case h_7 => exact absurd h (Option.some_ne_none _).symm
  all_goals obtain ⟨rfl, rfl⟩ := Prod.mk.inj (Option.some.inj h)
  · exact ⟨_, rfl, fun s => exec_ldg _ s, rfl⟩
  · exact ⟨_, rfl, fun s => exec_lds _ s, rfl⟩
  · exact ⟨_, rfl, fun s => exec_ldk _ s, rfl⟩
  · exact ⟨_, rfl, fun s => exec_ldp _ s, rfl⟩
  · exact ⟨_, rfl, fun s => exec_ldx _ s, rfl⟩
  · exact ⟨_, rfl, fun s => exec_ldaq _ s, rfl⟩

theorem storeKind_acts {f : MForm} {seg : SegName} {scaled : Bool} {swz : Nat} {scope : Option Nat}
    (h : storeKind i = some (f, seg, scaled, swz, scope)) (s : State) : exec i s = s.store i f seg scaled swz scope := by
  unfold storeKind at h
  split at h <;> cases h
  · exact exec_stg _ s
  · exact exec_sts _ s
  · exact exec_stp _ s
  · exact exec_stx _ s
  · exact exec_strl _ s

theorem atomicResult_acts {f : AForm} {op : Nat → Nat → Nat} (h : atomicResult c i = some (f, op)) :
    ∃ op, ∀ s, exec i s = s.atomic i f op := by
  unfold atomicResult at h
  split at h
  case h_9 => exact absurd h (Option.some_ne_none _).symm
  all_goals obtain ⟨rfl, -⟩ := Prod.mk.inj (Option.some.inj h)
  all_goals apply Exists.intro; intro s
  · rw [exec_aadd, execAadd, State.atomic2]
  · rw [exec_amin, execAmin, State.atomic2]
  · rw [exec_amax, execAmax, State.atomic2]
  · rw [exec_aand, execAand, State.atomic2]
  · rw [exec_aor, execAor, State.atomic2]
  · rw [exec_afadd, execAfadd, State.atomic2]
  · rw [exec_axch, execAxch, State.atomic2]
  · rw [exec_acas, execAcas]

/-- The sizes of accesses divide a page. -/
theorem size_dvd (z : BitVec 2) : 2 ^ z.toNat ∣ 4096 := Nat.pow_dvd_pow 2 (show z.toNat ≤ 12 by omega)

theorem atomSize_dvd (f : AForm) : atomSize f ∣ 4096 := by
  unfold atomSize
  split <;> decide

/-- The checks of R157 of the issuing instruction's lanes. -/
theorem issue_resolve (s : State) (c : Ctx) (n : SegName) (mode : AccessMode) (pool : Bool) {size : Nat} (swz : Nat) (lanes : List Nat)
    (off : Nat → Int) (hd : size ∣ 4096) {r : State × Except MemFault (List (Nat × Target))}
    (hr : (ready s c).resolve c n mode pool size swz lanes off = r) : Checked s c.tile (ready s c) size r :=
  hr ▸ resolve_checked (ready_tracked s c) c n mode pool swz lanes off hd

/-- A fault of the checks is met at issue. -/
theorem accessFault_acts {s1 : State} {x : MemFault} (h : Issues i s c) (hf : AccessFault i s c s1 x) :
    exec i s = .next (s1.memFault c x false) ∧ Local c.tile (ready s c) s1 ∧ Tracked s s1 ∧ x.num < 256 := by
  rcases hf with ⟨f, k, hk, ha, hr⟩ | ⟨f, seg, scaled, swz, scope, hk, hr⟩ | ⟨f, op, hk, hr⟩
  · obtain ⟨kind, rfl, he, -⟩ := loadKind_acts hk
    have hc := issue_resolve s c _ _ _ _ _ _ (size_dvd f.sz) hr
    refine ⟨?_, hc.own, hc.tracked, hc.num x rfl⟩
    have ha' : (ready s c).acquireReady (kind c).acquire = true := ha
    rw [he, State.load, issue_acts h]
    unfold loadOffset at hr
    simp only [ha', hr, Bool.not_true, Bool.false_eq_true, if_false]
  · have hc := issue_resolve s c _ _ _ _ _ _ (size_dvd f.sz) hr
    refine ⟨?_, hc.own, hc.tracked, hc.num x rfl⟩
    rw [storeKind_acts hk, State.store, issue_acts h]
    simp only [hr]
  · obtain ⟨op', he⟩ := atomicResult_acts hk
    have hc := issue_resolve s c _ _ _ _ _ _ (atomSize_dvd f) hr
    refine ⟨?_, hc.own, hc.tracked, hc.num x rfl⟩
    rw [he, State.atomic, issue_acts h]
    simp only [hr]

end

end Sys2Proof.Proofs
end

section
/-! PROOFS. Faults of loads and stores (R115, R157, R162, R164, R284, R316): traps, waits for pages, and waits for answers. -/

namespace Sys2Proof.Proofs

open Sys2Proof Sys2Proof.Machine Sys2Proof.Safety Sys2Proof.Rules Sys2Proof.Laws

section
variable {i : Instr} {s s1 : State} {c : Ctx} {x : MemFault}

/-! ### Traps -/

/-- The squad, its group and the handler that the fault's trap goes to, in a state that the instruction's own access has led to. -/
theorem memFault_enters (h : Issues i s c) (hl : Local c.tile (ready s c) s1) (hr : x.replay = none) (hd : x.detail < 2 ^ 32)
    (hn : x.num < 256) {pc : DWord} (hh : handlerOf s c x.num = some pc) :
    Enters s1 c c.sq (siteRegs c x.num x.detail x.addr false) pc (s1.memFault c x false) := by
  have hm : s1.memFault c x false = s1.takeTrap c.tile c.sq.slot c.g.pc (c.regs x.num x.detail x.addr false) := by
    have hx : ¬ (x.num = Trap.fabricLoss ∧ x.detail = lostMark) := fun hx => absurd hx.2 (Nat.ne_of_lt hd)
    simp only [State.memFault, hr, Bool.and_eq_true, decide_eq_true_eq, hx, if_false]
  rw [hm]
  obtain ⟨w, hw, hq⟩ := squad?_eq (hl.issues_squad h)
  have hgang : w.gang = c.wg.gang := by
    have := hw.symm.trans (hl.issues_wg h)
    cases this
    rfl
  have hnum : (BitVec.ofNat 8 x.num).toNat = x.num := by
    rw [BitVec.toNat_ofNat]
    omega
  have hla : s1.launch? c.wg.gang.launch = s.launch? c.wg.gang.launch :=
    (congrArg (fun e => State.launch? e c.wg.gang.launch) hl.around :)
  refine takeTrap_enters hw hq (issues_group h) ?_
  rw [hgang, hla]
  exact (congrArg (handlerPc _ c.sq) hnum).trans hh

/-! ### Pages -/

/-- What a group waits for after a replayable page fault. -/
def pageWait (c : Ctx) (x : MemFault) : Blocked := .page (x.addr / 4096) (siteRegs c x.num (x.detail - 2) x.addr false)

theorem pageWait_ne_anchor (c : Ctx) (x : MemFault) (l : Nat) : pageWait c x ≠ .anchor l := Blocked.noConfusion

/-- The walks and the records that an access leaves are those that it found. -/
theorem Local.walks (hl : Local c.tile (ready s c) s1) : s1.walks = s.walks ∧ s1.faults = s.faults ∧ c.tenant s1 = c.tenant s ∧
    (∀ t v, s1.walkPending t v = (ready s c).walkPending t v) ∧ s1.walkerFull c.tile = (ready s c).walkerFull c.tile :=
  ⟨(congrArg State.walks hl.around :), (congrArg State.faults hl.around :), (congrArg c.tenant hl.around :),
    fun t v => (congrArg (fun e => State.walkPending e t v) hl.around :), (congrArg (fun e => State.walkerFull e c.tile) hl.around :)⟩

/-- A replayable fault waits for its page where the page's walk is outstanding, and at its instruction where the walker is full (R162). -/
theorem memFault_known {level : Nat} (hr : x.replay = some level) (hk : s1.walkPending (c.tenant s1) x.addr = true) :
    s1.memFault c x false = s1.waitPage c (pageWait c x) := by
  simp only [State.memFault, hr, hk, if_true]
  rfl

theorem memFault_full {level : Nat} (hr : x.replay = some level) (hk : s1.walkPending (c.tenant s1) x.addr = false)
    (hf : s1.walkerFull c.tile = true) :
    s1.memFault c x false = s1.stall c (pageWait c x) := by
  simp only [State.memFault, hr, hk, hf, if_true, Bool.false_eq_true, if_false]
  rfl

/-- The record of a page fault, and its walk (R162). -/
def walkBegun (s : State) (c : Ctx) (x : MemFault) (level : Nat) : State :=
  let r := s.squadRecord c.tile c.wg c.sq.slot (c.regs x.num x.detail x.addr false) 0
  { s.raise r with walks := s.walks ++
      [⟨c.tenant s, x.addr, bitOf x.detail 2, false, level, s.devclk.toNat, false, r, reticleOf c.tile⟩] }

theorem memFault_walk {level : Nat} (hr : x.replay = some level) (hk : s1.walkPending (c.tenant s1) x.addr = false)
    (hf : s1.walkerFull c.tile = false) :
    s1.memFault c x false =
      (walkBegun s1 c x level).waitPage c (pageWait c x) := by
  simp only [State.memFault, hr, hk, hf, Bool.false_eq_true, if_false]
  rfl

theorem walkBegun_pending (s : State) (c : Ctx) (x : MemFault) (level : Nat) : (walkBegun s c x level).walkPending (c.tenant s) x.addr = true := by
  refine List.any_eq_true.2 ⟨_, List.mem_append_right _ List.mem_cons_self, ?_⟩
  simp

/-- The squad that waits for a page: the group at its instruction, or all threads of its span's entry at the span's beginning. -/
theorem waitPage_squad {e : State} {b : Blocked} (hb : ∀ l, b ≠ .anchor l) (hq : e.squad? c.tile c.sq.slot = some c.sq)
    (hg : c.sq.group? c.g.pc = some c.g) : ∃ q, (e.waitPage c b).squad? c.tile c.sq.slot = some q ∧
      (c.sq.inSpan = false ∨ c.sq.intrap = true →
        (∃ g ∈ q.groups, g.pc = c.g.pc ∧ g.blocked = some b) ∧ { q with groups := c.sq.groups } = c.sq) ∧
      (∀ z, c.sq.inSpan = true → c.sq.intrap = false → c.sq.span = some z → z.entryMask ≠ 0 →
        q.live = z.entryMask ∧ q.outstanding = [] ∧ (∀ n, n < 8 → (q.ocSlot n).valid = 0) ∧ (∀ n, n < 4 → (q.latch n).valid = 0) ∧
          ∃ g, q.groups = [g] ∧ g.threads = z.entryMask ∧ g.pc = z.pc ∧ g.hints = none ∧ g.blocked = some b) := by
  obtain ⟨-, hw, hr⟩ := waitPage_spec hb hq hg
  cases hi : c.sq.inSpan && !c.sq.intrap with
  | false =>
    obtain ⟨q, h1, h2, g, hm, h3, -, h4⟩ := hw hi
    refine ⟨q, h1, fun _ => ⟨⟨g, hm, h3, h4⟩, h2⟩, fun z hs ht => ?_⟩
    simp [hs, ht] at hi
  | true =>
    obtain ⟨q, h1, h2⟩ := hr hi
    refine ⟨q, h1, fun h => ?_, fun z _ _ => h2 z⟩
    rw [Bool.and_eq_true, Bool.not_eq_true'] at hi
    rw [hi.1, hi.2] at h
    exact absurd h (by decide)

/-- What a fault's record says of it (R95). -/
theorem pageRecord_says (e : State) (hn : x.num < 256) :
    let r := { e.squadRecord c.tile c.wg c.sq.slot (c.regs x.num x.detail x.addr false) 0 with
      queue := e.faultWard (e.squadRecord c.tile c.wg c.sq.slot (c.regs x.num x.detail x.addr false) 0).ward, time := e.devclk }
    r.num = x.num ∧ r.detail = BitVec.ofNat 32 x.detail ∧ r.addr = BitVec.ofNat 64 x.addr ∧ r.src = 0 ∧ r.tile = c.tile ∧
      r.squad = c.sq.slot ∧ r.pc = c.site := by
  have hnum : (BitVec.ofNat 8 x.num).toNat = x.num := by
    rw [BitVec.toNat_ofNat]
    omega
  exact ⟨hnum, rfl, rfl, rfl, rfl, rfl, rfl⟩

theorem memoryAs_of_mem {e t : State} (h : memoryAs s e) (hm : t.mem = e.mem) : memoryAs s t := by
  intro a
  have hb : byteAt t a = byteAt e a := congrArg (fun m => Memory.read m a) hm
  exact hb ▸ h a

/-! ### Answers (R61) -/

theorem memFault_lost (e : State) (c : Ctx) (a : Nat) (p : Bool) :
    e.memFault c ⟨22, lostMark, a, none⟩ p = e.block c (.answer e.fabricCycles a p) := by
  simp only [State.memFault, Trap.fabricLoss, decide_true, Bool.and_self, if_true]

/-- The state after loads, but for the lines that a load hinted no-allocate leaves no copy of (R178). -/
def unfilled (s1 e : State) (c : Ctx) (k : LoadKind) (ts : List (Nat × Target)) : State :=
  if k.way.alloc then e else e.unfill s1 c.tile ts

/-- The loads of the lanes of a load instruction. -/
def laneLoads (i : Instr) (s1 : State) (c : Ctx) (f : MForm) (k : LoadKind) (ts : List (Nat × Target)) :
    State × Served (List (Nat × List Byte)) :=
  (readState s1 c k ts).loads c.tile (c.tenant (readState s1 c k ts)) (2 ^ f.sz.toNat) k.seg k.way
    (c.addressOf k.seg (loadOffset i c f k)) ts

section
variable {f : MForm} {k : LoadKind} {ts : List (Nat × Target)}

theorem laneLoads_reads {i : Instr} (h : Local c.tile (ready s c) s1) (ht : Tracked s s1) :
    Local c.tile (ready s c) (unfilled s1 (laneLoads i s1 c f k ts).1 c k ts) ∧
      Tracked s (unfilled s1 (laneLoads i s1 c f k ts).1 c k ts) := by
  obtain ⟨h1, t1⟩ := readState_reads ht c k ts
  obtain ⟨h2, t2⟩ := loads_reads t1 c.tile (c.tenant (readState s1 c k ts)) (2 ^ f.sz.toNat) k.seg k.way
    (c.addressOf k.seg (loadOffset i c f k)) ts
  have hl := (h.trans h1).trans h2
  unfold unfilled
  split
  · exact ⟨hl, t2⟩
  · obtain ⟨h3, t3⟩ := unfill_reads t2 s1 c.tile ts
    exact ⟨hl.trans h3, t3⟩

variable (h : Issues i s c) (hk : loadKind c i = some (f, k)) (ha : s.acquireReady k.acquire = true)
  (hr : (ready s c).resolve c k.seg .read (k.seg = .pseg) (2 ^ f.sz.toNat) k.swz (c.accessLanes f.u) (loadOffset i c f k) = (s1, .ok ts))
include h hk ha hr

/-- A load whose lanes cannot be served meets their fault. -/
theorem load_fault {y : MemFault} {p : Bool} (hv : (laneLoads i s1 c f k ts).2 = .fault y p) :
    exec i s = .next ((unfilled s1 (laneLoads i s1 c f k ts).1 c k ts).memFault c y p) := by
  obtain ⟨kind, rfl, he, -⟩ := loadKind_acts hk
  have ha' : (ready s c).acquireReady (kind c).acquire = true := ha
  rw [he, State.load, issue_acts h]
  unfold laneLoads loadOffset readState at *
  simp only [ha', hr, hv, Bool.not_true, Bool.false_eq_true, if_false]
  rfl

/-- A load whose answer the fabric loses waits for it. -/
theorem load_unanswered {vs : List (Nat × List Byte)} (hv : (laneLoads i s1 c f k ts).2 = .ok vs)
    (hl : (unfilled s1 (laneLoads i s1 c f k ts).1 c k ts).answerLost c.tile (ts.map (·.2)) = true) :
    ∃ a, exec i s = .next ((unfilled s1 (laneLoads i s1 c f k ts).1 c k ts).block c
      (.answer (unfilled s1 (laneLoads i s1 c f k ts).1 c k ts).fabricCycles a false)) := by
  obtain ⟨kind, rfl, he, hn⟩ := loadKind_acts hk
  have ha' : (ready s c).acquireReady (kind c).acquire = true := ha
  rw [he, State.load, issue_acts h]
  unfold unfilled laneLoads loadOffset readState State.unlessLost at *
  simp only [ha', hr, hv, hl, hn, Bool.not_true, Bool.false_eq_true, if_false, if_true]
  exact ⟨_, rfl⟩

end

/-- A target that leaves the tile crosses the fabric. -/
theorem answerLost_of_leaves {e : State} {ts : List (Nat × Target)} (ha : ∀ pa, e.anchor pa = s1.anchor pa)
    (hl : e.loss = .answer) (hv : leaves s1 c ts) :
    e.answerLost c.tile (ts.map (·.2)) = true := by
  obtain ⟨⟨j, x⟩, hx, hv⟩ := hv
  unfold State.answerLost
  rw [hl]
  refine List.any_eq_true.2 ⟨x, List.mem_map.2 ⟨_, hx, rfl⟩, ?_⟩
  cases x with
  | phys pa =>
    have hn : e.anchor pa ≠ c.tile := fun h => hv (ha pa ▸ h)
    simp [State.crossesTo, State.crosses, hn]
  | spad t k => simpa [State.crossesTo] using hv

/-- A load whose request or answer the fabric loses waits for its answer, in a state that its own accesses have led to. -/
theorem load_waits {f : MForm} {k : LoadKind} {ts : List (Nat × Target)} (h : Issues i s c) (hk : loadKind c i = some (f, k))
    (ha : s.acquireReady k.acquire = true)
    (hr : (ready s c).resolve c k.seg .read (k.seg = .pseg) (2 ^ f.sz.toNat) k.swz (c.accessLanes f.u) (loadOffset i c f k) = (s1, .ok ts))
    (hv : (s.loss = .answer ∧ servable (readState s1 c k ts) c false ts ∧ leaves s1 c ts) ∨
      (s.loss = .request ∧ ¬ servable (readState s1 c k ts) c false ts ∧ ∀ x ∈ ts,
        (readState s1 c k ts).targetVerdict c.tile x.2 false = .ok ∨
          (readState s1 c k ts).targetVerdict c.tile x.2 false = .fault 22 lostMark)) :
    ∃ e a, Local c.tile (ready s c) e ∧ Tracked s e ∧ exec i s = .next (e.block c (.answer s.fabricCycles a false)) := by
  have hc := issue_resolve s c _ _ _ _ _ _ (size_dvd f.sz) hr
  obtain ⟨hl, ht⟩ := laneLoads_reads (i := i) (f := f) (k := k) (ts := ts) hc.own hc.tracked
  have hfc : (unfilled s1 (laneLoads i s1 c f k ts).1 c k ts).fabricCycles = s.fabricCycles := (congrArg State.fabricCycles hl.around :)
  refine ⟨unfilled s1 (laneLoads i s1 c f k ts).1 c k ts, ?_⟩
  rcases hv with ⟨hloss, hv, hleaves⟩ | ⟨hloss, hn, hv⟩
  · have hloss' : (unfilled s1 (laneLoads i s1 c f k ts).1 c k ts).loss = .answer := (congrArg State.loss hl.around :).trans hloss
    obtain ⟨vs, hvs⟩ := loads_served hv (c.tenant (readState s1 c k ts)) (2 ^ f.sz.toNat) k.seg k.way (c.addressOf k.seg (loadOffset i c f k))
    have hanchor := fun pa => (hl.around.anchor pa).trans (hc.own.around.anchor pa).symm
    obtain ⟨a, he⟩ := load_unanswered h hk ha hr hvs (answerLost_of_leaves hanchor hloss' hleaves)
    exact ⟨a, hl, ht, hfc ▸ he⟩
  · obtain ⟨a, hx⟩ := loads_lost (by simpa [servable] using hn) hv (c.tenant (readState s1 c k ts)) (2 ^ f.sz.toNat) k.seg k.way
      (c.addressOf k.seg (loadOffset i c f k))
    refine ⟨a, hl, ht, ?_⟩
    rw [load_fault h hk ha hr (congrArg Prod.snd hx), memFault_lost, hfc]

/-- Settles O29: the checks of R157 decide the fault in a state that accesses of the issuing tile alone have led to (`resolve_checked`), so
that the squad and its group stand there as they issued; a trap is entered there, and a wait leaves memory as the checks left it, which is
as it was but for what hosts give and what is lost (`Tracked`). A load whose answer or request is lost changes memory no more than that. -/
theorem accessTraps : Obligations.AccessTraps := by
  unfold Obligations.AccessTraps
  refine ⟨?_, ?_, ?_⟩
  · intro i s c s1 x pc h hf hr hd hh
    obtain ⟨he, hl, -, hn⟩ := accessFault_acts h hf
    exact ⟨_, he, memFault_enters h hl hr hd hn hh⟩
  · intro i s c s1 x level hs h hf hr known full page
    obtain ⟨he, hl, ht, hn⟩ := accessFault_acts h hf
    have hq := hl.issues_squad h
    have hg := issues_group h
    have hm := ht.memoryAs hs.1
    obtain ⟨hwalks, hfaults, htenant, hpending, hfull⟩ := hl.walks
    have hknown : s1.walkPending (c.tenant s1) x.addr = known := by rw [htenant, hpending]
    have hb := pageWait_ne_anchor c x
    rw [he]
    refine ⟨fun hk hf => ?_, fun hkf => ?_⟩
    · rw [memFault_full hr (hknown.trans hk) (hfull.trans hf)]
      have ho := waitAt_records hb s1 c none
      obtain ⟨q, h1, h2, g, hgm, h3, -, h4⟩ := waitAt_waits hb hq hg none
      exact ⟨_, q, rfl, h1, ho.walks.trans hwalks, ho.faults.trans hfaults, ⟨g, hgm, h3, h4⟩, h2, memoryAs_of_mem hm ho.mem⟩
    · cases hk : known with
      | true =>
        rw [memFault_known hr (hknown.trans hk)]
        obtain ⟨ho, -⟩ := waitPage_spec hb hq hg
        obtain ⟨q, h1, h2, h3⟩ := waitPage_squad hb hq hg
        have hp : (s1.waitPage c (pageWait c x)).walkPending (c.tenant s) x.addr = true := by
          rw [State.walkPending, ho.walks, hwalks]
          exact hk
        exact ⟨_, q, rfl, h1, hp, memoryAs_of_mem hm ho.mem, fun _ => ho.faults.trans hfaults, fun h => Bool.noConfusion h, h2, h3⟩
      | false =>
        rw [memFault_walk hr (hknown.trans hk) (hfull.trans (hkf.resolve_left (by simp [hk])))]
        have hq' : (walkBegun s1 c x level).squad? c.tile c.sq.slot = some c.sq := hq
        obtain ⟨ho, -⟩ := waitPage_spec hb hq' hg
        obtain ⟨q, h1, h2, h3⟩ := waitPage_squad hb hq' hg
        have hp : ((walkBegun s1 c x level).waitPage c (pageWait c x)).walkPending (c.tenant s) x.addr = true := by
          rw [State.walkPending, ho.walks, ← htenant]
          exact walkBegun_pending s1 c x level
        refine ⟨_, q, rfl, h1, hp, memoryAs_of_mem hm (t := _) ho.mem, fun h => Bool.noConfusion h, fun _ => ?_, h2, h3⟩
        refine ⟨_, ?_, pageRecord_says s1 hn⟩
        rw [ho.faults, ← hfaults]
        rfl
  · intro i s c f k s1 ts hk hs h ha hr r hv
    obtain ⟨e, a, hl, ht, he⟩ := load_waits h hk ha hr hv
    have hb : ∀ l, Blocked.answer s.fabricCycles a false ≠ .anchor l := fun l => Blocked.noConfusion
    obtain ⟨q, h1, h2, g, hg, h3, h4, h5⟩ := waitAt_waits hb (hl.issues_squad h) (issues_group h) (some (c.g.read.getD c.sq.sources))
    exact ⟨_, q, he, h1, memoryAs_of_mem (ht.memoryAs hs.1) (waitAt_records hb _ c _).mem, h2, g, hg, h3, h4, a, h5⟩

end

end Sys2Proof.Proofs
end

section
/-! PROOFS. Stores (R61, R79, R281, R282, LOG 111): what the lanes of a store make of memory. -/

namespace Sys2Proof.Proofs

open Sys2Proof Sys2Proof.Machine Sys2Proof.Safety Sys2Proof.Rules Sys2Proof.Laws

/-! ### Bytes that are stored -/

/-- Bytes stored at a key over what was stored before. -/
def put (st : Nat → Option Byte) (k : Nat) (bs : List Byte) (a : Nat) : Option Byte :=
  if k ≤ a ∧ a < k + bs.length then bs[a - k]? else st a

/-- What lanes store in ascending order over what was stored before. -/
def storedBy (s : State) (data : Nat → List Byte) (ts : List (Nat × Target)) (st : Nat → Option Byte) : Nat → Option Byte :=
  ts.foldl (fun st x => put st (keyOf s x.2) (data x.1)) st

theorem storedAt_eq (s : State) (data : Nat → List Byte) (ts : List (Nat × Target)) (a : Nat) :
    storedAt s data ts a = storedBy s data ts unstored a := by
  have h : ∀ st, storedBy s data ts st a = ts.foldl (fun o x =>
      if keyOf s x.2 ≤ a ∧ a < keyOf s x.2 + (data x.1).length then (data x.1)[a - keyOf s x.2]? else o) (st a) := by
    induction ts with
    | nil => exact fun st => rfl
    | cons x r ih => exact fun st => ih _
  exact (h unstored).symm

/-- What is stored below the host's keys lies in lines that are obtained. -/
def StoredIn (ls : List Nat) (st : Nat → Option Byte) : Prop := ∀ a, (st a).isSome = true → a < 2 ^ 60 → a / 128 ∈ ls

theorem storedIn_unstored (ls : List Nat) : StoredIn ls unstored := fun _ h => Bool.noConfusion h

theorem StoredIn.put {ls ls' : List Nat} {st : Nat → Option Byte} (h : StoredIn ls st) (hl : ∀ l ∈ ls, l ∈ ls') {k : Nat} {bs : List Byte}
    (hk : ∀ a, k ≤ a → a < k + bs.length → a < 2 ^ 60 → a / 128 ∈ ls') : StoredIn ls' (put st k bs) := by
  intro a ha hlt
  unfold Proofs.put at ha
  split at ha
  · rename_i hin
    exact hk a hin.1 hin.2 hlt
  · exact hl _ (h a ha hlt)

/-- The keys of an address of the map: its own, or those of a host. -/
theorem memKey_cases (s : State) (pa : Nat) : s.memKey pa = pa ∨ 2 ^ 60 ≤ s.memKey pa := by
  unfold State.memKey
  split
  · refine .inr ?_
    exact Nat.le_add_right_of_le (Nat.le_mul_of_pos_right _ (Nat.succ_pos _))
  · exact .inl rfl

/-- An aligned access stays in its line. -/
theorem aligned_line {pa n a : Nat} (hn : n ∣ 128) (hp : pa % n = 0) (h1 : pa ≤ a) (h2 : a < pa + n) : a / 128 = pa / 128 := by
  obtain ⟨m, hm⟩ := hn
  obtain ⟨b, rfl⟩ := Nat.dvd_of_mod_eq_zero hp
  have hpos : 0 < n := by omega
  have hb : a / n = b := by
    refine Nat.div_eq_of_lt_le ?_ ?_
    · rwa [Nat.mul_comm]
    · rwa [Nat.succ_mul, Nat.mul_comm]
  have h3 : ∀ x, x / 128 = x / n / m := fun x => by rw [hm, Nat.div_div_eq_div_mul]
  rw [h3, h3, hb, Nat.mul_div_cancel_left _ hpos]

section
variable {s e : State} {ls : List Nat} {st : Nat → Option Byte}

theorem Tracks.pokeN (h : Tracks s ls st e) (k : Nat) (bs : List Byte) : Tracks s ls (put st k bs) (e.pokeN k bs) := by
  refine ⟨h.around.trans rfl, h.banks, wf_pokeN k bs h.wf, h.left, fun a => ?_⟩
  have hr : byteAt (e.pokeN k bs) a = _ := read_writeN h.wf k bs a
  rw [hr]
  unfold put
  split
  · rename_i hin
    have hlt : a - k < bs.length := by omega
    exact .inl (by rw [List.getD_eq_getElem _ _ hlt, List.getElem?_eq_getElem hlt, Option.getD_some])
  · exact h.bytes a

theorem Tracks.updTile (h : Tracks s ls st e) (t : Nat) (f : Tile → Tile) : Tracks s ls st (e.updTile t f) := h.kept rfl rfl rfl rfl

theorem Tracks.updSquad (h : Tracks s ls st e) (t n : Nat) (f : Squad → Squad) : Tracks s ls st (e.updSquad t n f) := h.kept rfl rfl rfl rfl

theorem Tracks.noteWrite (h : Tracks s ls st e) (c : Ctx) (pa : Nat) : Tracks s ls st (e.noteWrite c pa) := h.updSquad _ _ _

theorem Tracks.cleared (h : Tracks s ls st e) (line : Nat) : Tracks s ls st (cleared e line) := h.kept rfl rfl rfl rfl

theorem Tracks.bankReady (h : Tracks s ls st e) (hs : Memory.wf s.mem = true) {pa : Nat}
    (ho : ∀ a, a / 128 = lineOf pa → (st a).isSome = true → lineOf pa ∈ ls) (t tenant n : Nat) :
    Tracks s (ls ++ [lineOf pa]) st (bankReady e t tenant pa n) :=
  (((h.touch t pa n true).useLine pa _).obtain hs pa true ho).dirty pa tenant

theorem Tracks.bankStored (h : Tracks s ls st e) (t pa : Nat) (bs : List Byte) :
    Tracks s ls (put st (s.memKey pa) bs) (bankStored e t pa bs) := by
  unfold Proofs.bankStored
  rw [h.around.memKey]
  exact (h.pokeN _ bs).settleLine pa _

/-- A write at the serving bank, with the line obtained. -/
theorem Tracks.bankWrite (h : Tracks s ls st e) (hs : Memory.wf s.mem = true) {pa : Nat} (hpa : pa < 2 ^ 51) (hst : StoredIn ls st)
    (t tenant : Nat) (bs : List Byte) :
    Tracks s (ls ++ [lineOf pa]) (put st (s.memKey pa) bs) (e.bankWrite t tenant pa bs) := by
  have ho : ∀ a, a / 128 = lineOf pa → (st a).isSome = true → lineOf pa ∈ ls := fun a ha hn =>
    ha ▸ hst a hn (by unfold lineOf at ha; omega)
  rw [bankWrite_eq]
  exact (((h.bankReady hs ho t tenant bs.length).cleared _).bankStored t pa bs).updTile t _

theorem Tracks.storeAt (h : Tracks s ls st e) (hs : Memory.wf s.mem = true) (hst : StoredIn ls st) (c : Ctx) {n : Nat} {x : Target}
    (hx : TargetOk n x) (hn : n ∣ 128) {bs : List Byte} (hb : bs.length = n) (j : Nat) :
    Tracks s (ls ++ linesOf [(j, x)]) (put st (keyOf s x) bs) (e.storeAt c x bs) ∧
      StoredIn (ls ++ linesOf [(j, x)]) (put st (keyOf s x) bs) := by
  cases x with
  | phys pa =>
    obtain ⟨hal, hlt⟩ := hx
    have hls : linesOf [(j, Target.phys pa)] = [lineOf pa] := rfl
    rw [hls]
    refine ⟨(h.bankWrite hs hlt hst c.tile (c.tenant e) bs).noteWrite c pa,
      hst.put (fun l hl => List.mem_append_left _ hl) fun a h1 h2 h3 => List.mem_append_right _ ?_⟩
    have hk : s.memKey pa = pa := (memKey_cases s pa).resolve_right (Nat.not_le_of_lt (h1.trans_lt h3))
    have hl : a / 128 = pa / 128 := aligned_line hn hal (hk ▸ h1) (by rw [← hb]; exact hk ▸ h2)
    exact hl ▸ List.mem_singleton_self _
  | spad t k =>
    have hls : ls ++ linesOf [(j, Target.spad t k)] = ls := List.append_nil ls
    rw [hls]
    refine ⟨h.pokeN k bs, hst.put (fun l hl => hl) fun a h1 h2 h3 => absurd (h1.trans_lt h3) (Nat.not_lt_of_le ?_)⟩
    exact (Nat.pow_le_pow_right (by norm_num) (by norm_num)).trans hx

/-- The lanes store in ascending order. -/
theorem Tracks.stores (h : Tracks s ls st e) (hs : Memory.wf s.mem = true) (hst : StoredIn ls st) (c : Ctx) {n : Nat} (hn : n ∣ 128)
    {data : Nat → List Byte} (hb : ∀ j, (data j).length = n) (ts : List (Nat × Target)) (hx : ∀ x ∈ ts, TargetOk n x.2) :
    Tracks s (ls ++ linesOf ts) (storedBy s data ts st) (ts.foldl (fun e x => e.storeAt c x.2 (data x.1)) e) := by
  induction ts generalizing e ls st with
  | nil => exact (List.append_nil ls).symm ▸ h
  | cons x r ih =>
    obtain ⟨h1, h2⟩ := h.storeAt hs hst c (hx x List.mem_cons_self) hn (hb x.1) x.1
    have hls : ls ++ linesOf (x :: r) = ls ++ linesOf [x] ++ linesOf r := by
      rw [List.append_assoc]
      exact congrArg (ls ++ ·) (List.filterMap_append (l := [x]) (l' := r))
    rw [hls]
    exact ih h1 h2 fun y hy => hx y (List.mem_cons_of_mem x hy)

end

/-! ### A whole line (R190) -/

/-- Targets that are the words of a size from the o-th on after an address, in order. -/
def WordsOf (pa size o : Nat) (ts : List (Nat × Target)) : Prop :=
  ∀ (i : Nat) (x : Nat × Target), ts[i]? = some x → x.2 = .phys (pa + size * (o + i))

/-- The lanes of a coalesced access name the words of one line. -/
theorem coalesced_targets {n : SegName} {size pa : Nat} {ts : List (Nat × Target)} (h : coalesced n size ts = some pa) :
    pa % 128 = 0 ∧ ts.length * size = 128 ∧ WordsOf pa size 0 ts := by
  rcases ts with _ | ⟨⟨j, y⟩, r⟩
  · cases h
  · cases y with
    | spad u k => cases h
    | phys p =>
      simp only [coalesced, Option.ite_none_right_eq_some, Bool.and_eq_true, decide_eq_true_eq, Option.some.injEq] at h
      obtain ⟨⟨⟨⟨⟨-, hlen⟩, -⟩, hal⟩, hall⟩, rfl⟩ := h
      refine ⟨hal, hlen, fun i x hx => ?_⟩
      have hm := List.all_eq_true.1 hall (x, i) (List.mem_zipIdx_iff_getElem?.2 hx)
      rw [Nat.zero_add]
      obtain ⟨k, y⟩ := x
      cases y with
      | phys q => exact congrArg Target.phys (of_decide_eq_true hm)
      | spad u k => exact Bool.noConfusion hm

theorem memKey_add (s : State) {pa k : Nat} (hp : pa % 128 = 0) (hk : k < 128) : s.memKey (pa + k) = s.memKey pa + k := by
  have hw : isHostWindow (pa + k) = isHostWindow pa := by
    unfold isHostWindow
    have h1 : Config.hostBase ≤ pa + k ↔ Config.hostBase ≤ pa := by
      unfold Config.hostBase
      omega
    have h2 : pa + k < Config.hostEnd ↔ pa < Config.hostEnd := by
      unfold Config.hostEnd
      omega
    rw [decide_eq_decide.2 h1, decide_eq_decide.2 h2]
  unfold State.memKey
  rw [hw]
  split
  · rename_i h
    unfold isHostWindow at h
    rw [Bool.and_eq_true, decide_eq_true_eq] at h
    unfold hostKey
    omega
  · rfl

theorem put_append (st : Nat → Option Byte) (k : Nat) (as bs : List Byte) : put (put st k as) (k + as.length) bs = put st k (as ++ bs) := by
  funext a
  unfold put
  rw [List.length_append]
  by_cases h1 : k + as.length ≤ a ∧ a < k + as.length + bs.length
  · rw [if_pos h1, if_pos (by omega), List.getElem?_append_right (by omega), Nat.sub_sub]
  · by_cases h2 : k ≤ a ∧ a < k + as.length
    · rw [if_neg h1, if_pos h2, if_pos (by omega), List.getElem?_append_left (by omega)]
    · rw [if_neg h1, if_neg h2, if_neg (by omega)]

/-- The lanes of a line store its bytes in order. -/
theorem storedBy_line (s : State) {pa size : Nat} (hp : pa % 128 = 0) {data : Nat → List Byte} (hb : ∀ j, (data j).length = size)
    (ts : List (Nat × Target)) (pre : List Byte) (o : Nat) (ho : pre.length = size * o) (hn : size * (o + ts.length) ≤ 128) (hz : 0 < size)
    (ht : WordsOf pa size o ts) :
    storedBy s data ts (put unstored (s.memKey pa) pre) = put unstored (s.memKey pa) (pre ++ ts.flatMap fun x => data x.1) := by
  induction ts generalizing pre o with
  | nil => exact (List.append_nil pre).symm ▸ rfl
  | cons x r ih =>
    have hx : keyOf s x.2 = s.memKey pa + pre.length := by
      rw [ht 0 x rfl, ho]
      refine memKey_add s hp (lt_of_lt_of_le ?_ hn)
      simp only [List.length_cons]
      nlinarith
    have hs : storedBy s data (x :: r) (put unstored (s.memKey pa) pre) =
        storedBy s data r (put unstored (s.memKey pa) (pre ++ data x.1)) := by
      rw [← put_append, ← hx]
      rfl
    rw [hs, ih (pre ++ data x.1) (o + 1) (by rw [List.length_append, ho, hb, Nat.mul_succ])
      (by simpa only [List.length_cons, Nat.add_comm, Nat.add_left_comm] using hn) (fun i y hy => ?_)]
    · rw [List.append_assoc, List.flatMap_cons]
    · rw [Nat.add_assoc, Nat.add_comm 1 i]
      exact ht (i + 1) y hy

theorem gathered_congr (s : State) {ls ls' : List Nat} (h : ∀ l, ls.contains l = ls'.contains l) : gathered s ls = gathered s ls' := by
  simp only [gathered, h]

/-- The line of a physical target. -/
def targetLine : Target → Option Nat
  | .phys pa => some (lineOf pa)
  | .spad _ _ => none

theorem linesOf_eq (ts : List (Nat × Target)) : linesOf ts = ts.filterMap fun x => targetLine x.2 :=
  List.filterMap_congr fun x _ => by cases x.2 <;> rfl

theorem linesOf_line {pa size : Nat} (hp : pa % 128 = 0) {ts : List (Nat × Target)} (hn : ts.length * size = 128)
    (ht : WordsOf pa size 0 ts) (l : Nat) : (linesOf ts).contains l = [lineOf pa].contains l := by
  have hline : ∀ (i : Nat) (x : Nat × Target), ts[i]? = some x → targetLine x.2 = some (lineOf pa) := by
    intro i x hx
    have hi : i < ts.length := (List.getElem?_eq_some_iff.1 hx).1
    have hlt : size * i < 128 := by
      rw [← hn, Nat.mul_comm size]
      exact Nat.mul_lt_mul_of_pos_right hi (Nat.pos_of_ne_zero fun h => by simp [h] at hn)
    rw [ht i x hx]
    refine congrArg some (show (pa + size * (0 + i)) / 128 = pa / 128 from ?_)
    rw [Nat.zero_add]
    omega
  rw [linesOf_eq, Bool.eq_iff_iff, List.contains_iff_mem, List.contains_iff_mem, List.mem_singleton]
  constructor
  · intro h
    obtain ⟨x, hx, hl⟩ := List.mem_filterMap.1 h
    obtain ⟨i, hi⟩ := List.getElem?_of_mem hx
    exact Option.some.inj (hl.symm.trans (hline i x hi))
  · rintro rfl
    have hpos : 0 < ts.length := Nat.pos_of_ne_zero fun h => by simp [h] at hn
    exact List.mem_filterMap.2 ⟨ts[0], List.getElem_mem hpos, hline 0 _ (List.getElem?_eq_getElem hpos)⟩

/-- The bytes after the stores of lanes that can be served. -/
theorem Tracks.line_bytes {s e : State} {n : SegName} {size pa : Nat} {ts : List (Nat × Target)} (hc : coalesced n size ts = some pa)
    {data : Nat → List Byte} (hb : ∀ j, (data j).length = size)
    (h : Tracks s [lineOf pa] (put unstored (s.memKey pa) (ts.flatMap fun x => data x.1)) e) :
    Tracks s (linesOf ts) (storedBy s data ts unstored) e := by
  obtain ⟨hp, hn, ht⟩ := coalesced_targets hc
  have hz : 0 < size := Nat.pos_of_ne_zero fun h => by simp [h] at hn
  have hst : storedBy s data ts (put unstored (s.memKey pa) []) = _ :=
    storedBy_line s hp hb ts [] 0 rfl (by rw [Nat.zero_add, Nat.mul_comm, hn]) hz ht
  have hnil : put unstored (s.memKey pa) [] = unstored := funext fun a => if_neg (by simp only [List.length_nil]; omega)
  rw [hnil, List.nil_append] at hst
  have hl := linesOf_line hp hn ht
  have hof : ∀ x, ofLines s (linesOf ts) x = ofLines s [lineOf pa] x := fun x => by rw [ofLines, ofLines, hl]
  refine ⟨h.around, h.banks, h.wf, ?_, fun a => ?_⟩
  · simp only [hof]
    exact h.left
  · rw [hst, gathered_congr s hl]
    exact h.bytes a

end Sys2Proof.Proofs
end

section
/-! PROOFS. Stores (R207, R281, R282, R285): what a store changes beside memory, and the release before a `STRL`. -/

namespace Sys2Proof.Proofs

open Sys2Proof Sys2Proof.Machine Sys2Proof.Safety Sys2Proof.Rules Sys2Proof.Laws

section
variable {s e e' : State} {c : Ctx}

/-! ### What an access changes -/

theorem accessOnly_of_local (h : AccessOnly s e c) (hl : Local c.tile e e') : AccessOnly s e' c := by
  obtain ⟨h1, h2, h3, h4, h5⟩ := h
  refine ⟨?_, fun m hm => (hl.others m hm).trans (h2 m hm), ?_, (hl.wg c.tile) ▸ h4, fun k hk => (squad?_of_wg (hl.wg c.tile) k).trans (h5 k hk)⟩
  · have ha : Around s e := h1
    exact ha.trans hl.around
  · rw [← h3, ← hl.own]

theorem accessOnly_updSquad (h : AccessOnly s e c) {f : Squad → Squad} (hf : ∀ q, q.slot = c.sq.slot → (f q).slot = c.sq.slot) :
    AccessOnly s (e.updSquad c.tile c.sq.slot f) c := by
  obtain ⟨h1, h2, h3, h4, h5⟩ := h
  refine ⟨h1, fun m hm => (tile_updTile_other hm e _).trans (h2 m hm), ?_, ?_, fun k hk => ?_⟩
  · rw [← h3]
    simp only [State.updSquad, State.updWg, tile_updTile_same, Tile.updWg]
  · rw [tile_updSquad_wg, ← h4]
    cases (e.tile c.tile).wg <;> rfl
  · rw [← h5 k hk]
    unfold State.squad?
    rw [tile_updSquad_wg]
    cases (e.tile c.tile).wg with
    | none => rfl
    | some w =>
      simp only [Option.map_some, Option.bind_some]
      rw [squad_updSquad _ _ _ _ hf, if_neg hk]

theorem accessOnly_ready (s : State) (c : Ctx) : AccessOnly s (ready s c) c :=
  accessOnly_updSquad ⟨rfl, fun _ _ => rfl, rfl, rfl, fun _ _ => rfl⟩ fun _ _ => rfl

/-- A squad but for what it has noted of its writes. -/
def unnoted (c : Ctx) (b : Squad) : Squad := { b with invals := c.sq.invals, poolWrites := c.sq.poolWrites }

theorem unnoted_noteWrite (c : Ctx) (b : Squad) (pa : Nat) (ack : Option RegionKey) : unnoted c (b.noteWrite pa ack) = unnoted c b := by
  unfold Squad.noteWrite
  cases ack <;> (dsimp only; split <;> rfl)

/-- Accesses of the issuing squad, which stands as `base` but for what it notes of its writes. -/
structure Accesses (s : State) (c : Ctx) (base : Squad) (e : State) : Prop where
  only : AccessOnly s e c
  squad : ∃ b, e.squad? c.tile c.sq.slot = some b ∧ unnoted c b = base

theorem Accesses.of_local {base : Squad} (h : Accesses s c base e) (hl : Local c.tile e e') : Accesses s c base e' := by
  obtain ⟨b, hb, hu⟩ := h.squad
  exact ⟨accessOnly_of_local h.only hl, b, (squad?_of_wg (hl.wg c.tile) _).trans hb, hu⟩

theorem Accesses.updSquad {base base' : Squad} (h : Accesses s c base e) {f : Squad → Squad}
    (hf : ∀ q, q.slot = c.sq.slot → (f q).slot = c.sq.slot) (hu : ∀ b, unnoted c b = base → unnoted c (f b) = base') :
    Accesses s c base' (e.updSquad c.tile c.sq.slot f) := by
  obtain ⟨b, hb, hb'⟩ := h.squad
  exact ⟨accessOnly_updSquad h.only hf, _, squad?_updSquad hb hf, hu b hb'⟩

theorem noteWrite_slot (q : Squad) (pa : Nat) (ack : Option RegionKey) : (q.noteWrite pa ack).slot = q.slot := by
  unfold Squad.noteWrite
  cases ack <;> (dsimp only; split <;> rfl)

theorem Accesses.storeAt {base : Squad} (h : Accesses s c base e) (x : Target) (bs : List Byte) : Accesses s c base (e.storeAt c x bs) := by
  cases x with
  | phys pa =>
    exact (h.of_local (bankWrite_local e c.tile _ pa bs)).updSquad (fun q hq => (noteWrite_slot q _ _).trans hq)
      fun b hb => (unnoted_noteWrite c b _ _).trans hb
  | spad t k => exact h.of_local (pokeN_local c.tile e k bs)

/-- An instruction that completes after accesses of its own, with nothing to write to storage. -/
theorem acts_of_accesses {i : Instr} {base : Squad} (h : Issues i s c) (ha : Accesses s c base e)
    (he : exec i s = .next (e.retire i c id)) : ∃ t q b, Acts i s c e b [] (fallsThrough c) t q ∧ unnoted c b = base := by
  obtain ⟨b, hb, hu⟩ := ha.squad
  obtain ⟨w, -, hw⟩ := squad?_eq hb
  obtain ⟨q, h1, h2, -⟩ := retireTo_spec (f := id) (next := c.fall) (after := 0) hb (squad_slot hw) (issues_quiet h) (mark_spec i c b).1
    (mark_alike i c b) fun _ _ => rfl
  exact ⟨_, q, b, ⟨he, h1, h2⟩, hu⟩

/-! ### The lanes of a store -/

/-- The state after the stores of lanes that can be served. -/
def storeRun (e : State) (c : Ctx) (size : Nat) (seg : SegName) (data : Nat → List Byte) (ts : List (Nat × Target)) : State :=
  match coalesced seg size ts with
  | some pa => e.storeAt c (.phys pa) (ts.flatMap fun x => data x.1)
  | none => ts.foldl (fun e x => e.storeAt c x.2 (data x.1)) e

theorem stores_served {size : Nat} {seg : SegName} {ts : List (Nat × Target)} (h : servable e c (coalesced seg size ts).isSome ts)
    (va : Nat → Nat) (data : Nat → List Byte) : e.stores c size seg va data ts = (storeRun e c size seg data ts, .ok ()) := by
  unfold State.stores storeRun
  cases hc : coalesced seg size ts with
  | some pa =>
    obtain ⟨-, hn, ht⟩ := coalesced_targets hc
    have hpos : 0 < ts.length := Nat.pos_of_ne_zero fun h => by simp [h] at hn
    have h0 := ht 0 _ (List.getElem?_eq_getElem hpos)
    have hv := h _ (List.getElem_mem hpos)
    rw [h0, hc] at hv
    have hv' : e.verdict c.tile pa true = .ok := hv
    dsimp only
    rw [hv']
  | none =>
    rw [hc] at h
    have h : servable e c false ts := h
    dsimp only
    rw [firstWait_none fun x hx l => by rw [h x hx]; exact Verdict.noConfusion, laneTrap_none h]

theorem Accesses.storeRun {base : Squad} (h : Accesses s c base e) (size : Nat) (seg : SegName) (data : Nat → List Byte)
    (ts : List (Nat × Target)) : Accesses s c base (storeRun e c size seg data ts) := by
  unfold Proofs.storeRun
  split
  · exact h.storeAt _ _
  · exact List.foldlRecOn (motive := Accesses s c base) ts _ h fun e he x _ => he.storeAt x.2 _

theorem Tracks.storeRun {r : State} (hs : Memory.wf s.mem = true) (h : Tracks s [] unstored r) {size : Nat} (hz : size ∣ 128)
    {seg : SegName} {data : Nat → List Byte} (hb : ∀ j, (data j).length = size) {ts : List (Nat × Target)}
    (hx : ∀ x ∈ ts, TargetOk size x.2) :
    Tracks s (linesOf ts) (storedBy s data ts unstored) (storeRun r c size seg data ts) := by
  unfold Proofs.storeRun
  cases hc : coalesced seg size ts with
  | some pa =>
    obtain ⟨hal, hn, ht⟩ := coalesced_targets hc
    have hpos : 0 < ts.length := Nat.pos_of_ne_zero fun h => by simp [h] at hn
    have h0 := hx _ (List.getElem_mem hpos)
    rw [ht 0 _ (List.getElem?_eq_getElem hpos)] at h0
    have hw := h.bankWrite hs (show pa < 2 ^ 51 from h0.2) (storedIn_unstored []) c.tile (c.tenant r) (ts.flatMap fun x => data x.1)
    exact (hw.noteWrite c pa).line_bytes hc hb
  | none => exact h.stores hs (storedIn_unstored []) c hz hb ts hx

end

end Sys2Proof.Proofs
end

section
/-! PROOFS. The release before a `STRL` (R207): where its conditions hold it changes its squad alone, which no access looks at. -/

namespace Sys2Proof.Proofs

open Sys2Proof Sys2Proof.Machine Sys2Proof.Safety Sys2Proof.Rules Sys2Proof.Laws

/-! ### The wafer cache does not look at the tiles -/

/-- A state with other tiles. -/
def retiled (s : State) (tiles : List (Nat × Tile)) : State := { s with tiles := tiles }

section
variable (s : State) (tiles : List (Nat × Tile))

theorem loseCopies_retiled (line : Nat) : (retiled s tiles).loseCopies line = retiled (s.loseCopies line) tiles := by
  have h : (retiled s tiles).memKey (128 * line) = s.memKey (128 * line) := rfl
  unfold State.loseCopies
  rw [h]
  generalize List.replicate 128 (0 : Byte) = zeros
  rfl

theorem flushLine_retiled (line : Nat) : (retiled s tiles).flushLine line = retiled (s.flushLine line) tiles := by
  have h1 : (retiled s tiles).modified line = s.modified line := rfl
  have h2 : (retiled s tiles).lineReached line = s.lineReached line := rfl
  have h3 : ((retiled s tiles).writeHome line).farLine line = (s.writeHome line).farLine line := rfl
  unfold State.flushLine
  dsimp only
  rw [h1, h2, h3]
  split
  · split
    · exact loseCopies_retiled s tiles line
    · split <;> rfl
  · rfl

/-- A fold of operations that do not look at the tiles. -/
theorem foldl_retiled {α : Type} {f : State → α → State} (hf : ∀ s x, f (retiled s tiles) x = retiled (f s x) tiles) (l : List α) (s : State) :
    l.foldl f (retiled s tiles) = retiled (l.foldl f s) tiles := by
  induction l generalizing s with
  | nil => rfl
  | cons x r ih => rw [List.foldl_cons, hf, ih, List.foldl_cons]

theorem evict_retiled (p : Nat → Bool) : (retiled s tiles).evict p = retiled (s.evict p) tiles := by
  unfold State.evict
  dsimp only
  rw [show (retiled s tiles).wc = s.wc from rfl, foldl_retiled tiles fun s x => flushLine_retiled s tiles x]
  rfl

theorem removeEntry_retiled (k : RegionKey) : (retiled s tiles).removeEntry k = retiled (s.removeEntry k) tiles := by
  unfold State.removeEntry
  dsimp only
  rw [evict_retiled]
  rfl

theorem limitEntries_retiled (k : RegionKey) : (retiled s tiles).limitEntries k = retiled (s.limitEntries k) tiles := by
  have h : (retiled s tiles).oldestAt (s.anchor k.base) k = s.oldestAt (s.anchor k.base) k := rfl
  unfold State.limitEntries
  rw [show (retiled s tiles).anchor = s.anchor from rfl, h, show (retiled s tiles).regions = s.regions from rfl]
  split
  · rfl
  · split
    · rfl
    · split
      · exact removeEntry_retiled s tiles _
      · rfl

theorem putRegion_retiled (r : RegionEntry) : (retiled s tiles).putRegion r = retiled (s.putRegion r) tiles :=
  limitEntries_retiled { s with regions := r :: s.regions.filter fun x => x.key ≠ r.key } tiles r.key

theorem hintEntry_retiled (pa kind tenant : Nat) : (retiled s tiles).hintEntry pa kind tenant = retiled (s.hintEntry pa kind tenant) tiles := by
  have h : (retiled s tiles).regionFor pa = s.regionFor pa := rfl
  unfold State.hintEntry State.dropHinted
  rw [h, show (retiled s tiles).anchor pa = s.anchor pa from rfl, putRegion_retiled]
  split
  · rfl
  · split <;> rfl

theorem placeHint_retiled (plc tenant : Nat) (ts : List (Nat × Target)) :
    (retiled s tiles).placeHint plc tenant ts = retiled (s.placeHint plc tenant ts) tiles := by
  unfold State.placeHint
  split
  · rfl
  · refine foldl_retiled tiles (fun s x => ?_) ts s
    obtain ⟨j, x⟩ := x
    cases x with
    | phys pa => exact hintEntry_retiled s tiles pa plc tenant
    | spad t k => rfl

end

/-! ### The requests that stand do not look at what a squad has released -/

/-- The group of a cursor waits at a line's anchor, in a squad of a workgroup that can go on. -/
def groupStands (line : Nat) (k : Cursor) (w : Option Workgroup) : Bool :=
  w.any fun w => (w.squad? k.slot).any fun q => (q.group? k.pc).any fun g =>
    g.blocked = some (.anchor line) && !q.stopped && (!q.intrap || g.threads &&& q.handler ≠ 0)

theorem standing_group (s : State) (line : Nat) (k : Cursor) :
    s.standing ⟨line, .group k⟩ = groupStands line k (s.tile k.tile).wg := by
  unfold State.standing State.at? State.tile groupStands
  dsimp only
  cases tabFind k.tile s.tiles with
  | none => rfl
  | some tl =>
    dsimp only [Option.getD_some]
    cases tl.wg with
    | none => rfl
    | some w =>
      dsimp only [Option.any_some]
      cases w.squad? k.slot with
      | none => rfl
      | some q =>
        dsimp only [Option.any_some]
        cases q.group? k.pc <;> rfl

/-- What of a squad decides whether a request of its stands is the same. -/
def SameStanding (q r : Squad) : Prop :=
  r.slot = q.slot ∧ r.groups = q.groups ∧ r.stopped = q.stopped ∧ r.intrap = q.intrap ∧ r.handler = q.handler

theorem groupStands_updSquad (line : Nat) (k : Cursor) (w : Option Workgroup) (n : Nat) {f : Squad → Squad} (hf : ∀ q, SameStanding q (f q)) :
    groupStands line k (w.map fun w => w.updSquad n f) = groupStands line k w := by
  cases w with
  | none => rfl
  | some w =>
    unfold groupStands
    simp only [Option.map_some, Option.any_some]
    rw [squad_updSquad _ _ _ _ fun q hq => (hf q).1.trans hq]
    split
    · cases w.squad? k.slot with
      | none => rfl
      | some q =>
        obtain ⟨-, hg, hs, hi, hh⟩ := hf q
        simp only [Option.map_some, Option.any_some, Squad.group?, hg, hs, hi, hh]
    · rfl

theorem standing_updSquad (s : State) (t n : Nat) {f : Squad → Squad} (hf : ∀ q, SameStanding q (f q)) (h : Held) :
    (s.updSquad t n f).standing h = s.standing h := by
  have hwg : ∀ m, ((s.updSquad t n f).tile m).wg = if m = t then (s.tile m).wg.map fun w => w.updSquad n f else (s.tile m).wg := by
    intro m
    split
    · rename_i hm
      rw [hm, tile_updSquad_wg]
    · rename_i hm
      exact congrArg Tile.wg (tile_updTile_other hm s _)
  obtain ⟨line, r⟩ := h
  cases r with
  | group k =>
    rw [standing_group, standing_group, hwg]
    split
    · exact groupStands_updSquad line k _ n hf
    · rfl
  | job m id =>
    unfold State.standing
    dsimp only
    rw [hwg]
    split
    · cases (s.tile m).wg <;> rfl
    · rfl
  | access a => rfl
  | hostRead p a k => rfl
  | hostWrite p a bs => rfl
  | snoop a b i bs => rfl

end Sys2Proof.Proofs
end

section
/-! PROOFS. The effects of stores (R207, R281, R282, R285). -/

namespace Sys2Proof.Proofs

open Sys2Proof Sys2Proof.Machine Sys2Proof.Safety Sys2Proof.Rules Sys2Proof.Laws

section
variable {s e : State} {c : Ctx}

/-! ### The release of a `STRL` -/

theorem standing_of_tiles (h : e.tiles = s.tiles) (x : Held) : e.standing x = s.standing x := by
  unfold State.standing State.at? State.tile
  rw [h]

theorem verdict_retiled {tiles : List (Nat × Tile)} (h : ∀ x, (retiled s tiles).standing x = s.standing x) (t : Nat) (x : Target) (whole : Bool) :
    (retiled s tiles).targetVerdict t x whole = s.targetVerdict t x whole := by
  cases x with
  | phys pa =>
    have hf : (retiled s tiles).firstHeld (lineOf pa) = s.firstHeld (lineOf pa) := by
      unfold State.firstHeld
      simp only [h]
      rfl
    have hw : (retiled s tiles).mustWait pa = s.mustWait pa := by
      unfold State.mustWait State.notFirst
      rw [hf]
      rfl
    unfold State.targetVerdict State.verdict
    dsimp only
    rw [hw]
    rfl
  | spad u k => rfl

/-- A squad that has released stands where it stood. -/
theorem released_standing (q : Squad) (n : Nat) : SameStanding q (q.released n) := by
  have h : SameStanding q (q.deliverAll fun _ => true) := by
    have hb := deliverAll_but q fun _ => true
    exact ⟨(congrArg Squad.slot hb :), (congrArg Squad.groups hb :), (congrArg Squad.stopped hb :), (congrArg Squad.intrap hb :),
      (congrArg Squad.handler hb :)⟩
  unfold Squad.released
  dsimp only
  split
  · exact h
  · exact h

/-- The targets of an access find the same after a squad has released. -/
theorem servable_released {plc tenant n : Nat} {ts : List (Nat × Target)} {whole : Bool} (h : servable (s.placeHint plc tenant ts) c whole ts) :
    servable ((releasedAt s c n).placeHint plc tenant ts) c whole ts := by
  have he : releasedAt s c n = retiled s (releasedAt s c n).tiles := rfl
  have hp : (releasedAt s c n).placeHint plc tenant ts = retiled (s.placeHint plc tenant ts) (releasedAt s c n).tiles := by
    rw [he, placeHint_retiled]
    rfl
  have ht : (s.placeHint plc tenant ts).tiles = s.tiles := (congrArg State.tiles (placeHint_cacheOnly s plc tenant ts) :)
  have hs : ∀ x, (retiled (s.placeHint plc tenant ts) (releasedAt s c n).tiles).standing x = (s.placeHint plc tenant ts).standing x := fun x =>
    (standing_of_tiles (s := releasedAt s c n) rfl x).trans
      ((standing_updSquad s c.tile c.sq.slot (fun q => released_standing q n) x).trans (standing_of_tiles ht x).symm)
  intro x hx
  rw [hp, verdict_retiled hs]
  exact h x hx

/-- A release whose conditions hold sends nothing home. -/
theorem startRelease_ready {t n : Nat} {q : Squad} (h : s.releaseState t q n = .ready) : s.startRelease q n = s := by
  unfold State.startRelease
  split
  · rfl
  · rename_i hn
    unfold State.releaseState at h
    rw [if_neg (by omega), if_neg hn] at h
    split at h
    · cases h
    · split at h
      · cases h
      · split at h
        · cases h
        · rename_i hm
          have hnone : (s.releaseLines q n).filter s.modified = [] := List.filter_eq_nil_iff.2 fun l hl hmod =>
            hm (List.any_eq_true.2 ⟨l, hl, by rw [hmod, Bool.or_true]⟩)
          rw [hnone]
          rfl

/-! ### Store instructions -/

theorem leBytes_length (n x : Nat) : (leBytes n x).length = n := by
  induction n generalizing x with
  | zero => rfl
  | succ n ih => exact congrArg (· + 1) (ih _)

/-- The state in which the lanes of a store act: that of the checks, or for a `STRL` with its squad released. -/
def storeStart (s : State) (c : Ctx) (scope : Option Nat) : State :=
  match scope with
  | none => s
  | some n => releasedAt s c n

/-- The squad of a store, but for what it notes of its writes. -/
def storeSquad (c : Ctx) (scope : Option Nat) : Squad := if scope.isSome then c.sq.deliverAll fun _ => true else c.sq

variable {i : Instr} {s1 : State} {f : MForm} {seg : SegName} {scaled : Bool} {swz : Nat} {scope : Option Nat} {ts : List (Nat × Target)}

theorem unnoted_released (c : Ctx) (n : Nat) : unnoted c (c.sq.released n) = c.sq.deliverAll fun _ => true := by
  have hb := deliverAll_but c.sq fun _ => true
  have h1 : (c.sq.deliverAll fun _ => true).invals = c.sq.invals := (congrArg Squad.invals hb :)
  have h2 : (c.sq.deliverAll fun _ => true).poolWrites = c.sq.poolWrites := (congrArg Squad.poolWrites hb :)
  unfold unnoted
  rw [← h1, ← h2]
  unfold Squad.released
  dsimp only
  split <;> rfl

theorem storeStart_accesses (h : Issues i s c) (hl : Local c.tile (ready s c) s1) :
    Accesses s c (storeSquad c scope) (storeStart s1 c scope) := by
  have ho := accessOnly_of_local (accessOnly_ready s c) hl
  cases scope with
  | none => exact ⟨ho, c.sq, hl.issues_squad h, rfl⟩
  | some n =>
    have hs : ∀ q : Squad, q.slot = c.sq.slot → (q.released n).slot = c.sq.slot := fun q hq => (released_standing q n).1.trans hq
    exact ⟨accessOnly_updSquad ho hs, _, squad?_updSquad (hl.issues_squad h) hs, unnoted_released c n⟩

theorem storeStart_tracks (h : Memory.wf s1.mem = true) : Tracks s1 [] unstored (storeStart s1 c scope) := by
  cases scope with
  | none => exact .start h
  | some n => exact (Tracks.start h).updSquad _ _ _

theorem storeStart_servable {whole : Bool} (h : servable (storeState s1 c seg ts) c whole ts) :
    servable ((storeStart s1 c scope).placeHint (if seg = .gseg ∨ seg = .pseg then (memHint c.g.hints).plc else 0)
      (c.tenant (storeStart s1 c scope)) ts) c whole ts := by
  cases scope with
  | none => exact h
  | some n => exact servable_released h

/-- The state after the lanes of a store. -/
def storeEnd (s1 : State) (c : Ctx) (f : MForm) (seg : SegName) (scope : Option Nat) (ts : List (Nat × Target)) : State :=
  storeRun ((storeStart s1 c scope).placeHint (if seg = .gseg ∨ seg = .pseg then (memHint c.g.hints).plc else 0)
    (c.tenant (storeStart s1 c scope)) ts) c (2 ^ f.sz.toNat) seg (storedBytes c f) ts

theorem storeLanes_served {plc : Nat} {off : Nat → Int}
    (hv : servable (e.placeHint plc (c.tenant e) ts) c (coalesced seg (2 ^ f.sz.toNat) ts).isSome ts)
    (hloss : (storeRun (e.placeHint plc (c.tenant e) ts) c (2 ^ f.sz.toNat) seg (storedBytes c f) ts).loss ≠ .answer) :
    e.storeLanes i c f seg plc off ts =
      (storeRun (e.placeHint plc (c.tenant e) ts) c (2 ^ f.sz.toNat) seg (storedBytes c f) ts).retire i c id := by
  unfold State.storeLanes
  rw [show c.storeData f = storedBytes c f from rfl, stores_served hv]
  dsimp only
  unfold State.unlessLost State.answerLost
  simp only [hloss, decide_false, Bool.false_and, Bool.false_eq_true, if_false]

theorem store_acts (h : Issues i s c) (hk : storeKind i = some (f, seg, scaled, swz, scope)) (hl : Local c.tile (ready s c) s1)
    (hr : (ready s c).resolve c seg .write (seg = .pseg) (2 ^ f.sz.toNat) swz (c.accessLanes f.u)
      (c.offset i f.o (if scaled then 2 ^ f.sz.toNat else 1)) = (s1, .ok ts))
    (hready : ∀ n, scope = some n → s1.releaseState c.tile c.sq n = .ready)
    (hv : servable (storeState s1 c seg ts) c (coalesced seg (2 ^ f.sz.toNat) ts).isSome ts)
    (hloss : (storeEnd s1 c f seg scope ts).loss ≠ .answer) :
    exec i s = .next ((storeEnd s1 c f seg scope ts).retire i c id) := by
  have hplc : (if (decide (seg = .gseg) || decide (seg = .pseg)) = true then (memHint c.g.hints).plc else 0) =
      if seg = .gseg ∨ seg = .pseg then (memHint c.g.hints).plc else 0 := by
    simp only [Bool.or_eq_true, decide_eq_true_eq]
  have hlanes := storeLanes_served (i := i) (off := c.offset i f.o (if scaled then 2 ^ f.sz.toNat else 1))
    (storeStart_servable (scope := scope) hv) hloss
  rw [storeKind_acts hk, State.store, issue_acts h]
  simp only [hr, hplc]
  cases scope with
  | none => exact congrArg Host.Outcome.next hlanes
  | some n =>
    have hq := hl.issues_squad h
    simp only [State.afterRelease, hq, Option.getD_some, startRelease_ready (hready n rfl), hready n rfl]
    exact congrArg Host.Outcome.next hlanes

/-- Settles O19: the lanes act in the state that the checks left (`storeStart`), one after another or as one whole line (`storeRun`). Every
byte is followed through each step of the wafer cache (`Tracks`): what is stored, over what hosts gave with the lines obtained, over what
memory held, or 0 where the line was lost on its way home. The release of a `STRL` changes its squad alone (`startRelease_ready`), and no
access finds anything else for it (`servable_released`). -/
theorem storeEffects : Obligations.StoreEffects := by
  unfold Obligations.StoreEffects
  intro i s c f seg scaled swz scope s1 ts hk hs h hloss hr hready hv
  have hc := issue_resolve s c _ _ _ _ _ _ (size_dvd f.sz) hr
  have hz : 2 ^ f.sz.toNat ∣ 128 := Nat.pow_dvd_pow 2 (show f.sz.toNat ≤ 7 by omega)
  obtain ⟨ls, hls⟩ := hc.tracked hs.1
  have ha : Accesses s c (storeSquad c scope) (storeEnd s1 c f seg scope ts) :=
    ((storeStart_accesses h hc.own).of_local (placeHint_cacheOnly _ _ _ ts).local).storeRun _ seg _ ts
  have ht : Tracks s1 (linesOf ts) (storedBy s1 (storedBytes c f) ts unstored) (storeEnd s1 c f seg scope ts) :=
    Tracks.storeRun hls.wf ((storeStart_tracks hls.wf).placeHint _ _ ts) hz (fun j => leBytes_length _ _) (hc.targets ts rfl)
  have hl : (storeEnd s1 c f seg scope ts).loss ≠ .answer := by
    rw [show _ = s.loss from congrArg State.loss ha.only.1]
    exact hloss
  obtain ⟨t, q, b, hacts, hb⟩ := acts_of_accesses h ha (store_acts h hk hc.own hr hready hv hl)
  exact ⟨_, t, q, b, hacts, ha.only, hb, fun a => by rw [storedAt_eq]; exact ht.bytes a⟩

end

end Sys2Proof.Proofs
end

section
/-! PROOFS. Loads that one bank serves (R165, R170, R281-R285): where the bytes come from, and what the squad receives. -/

namespace Sys2Proof.Proofs

open Sys2Proof Sys2Proof.Machine Sys2Proof.Safety Sys2Proof.Rules Sys2Proof.Laws

section
variable {s : State}

/-- A translation that no TLB holds, where the walk reads no line of a host. -/
theorem translate_walked {t tenant va pa : Nat} {m : AccessMode} {pool : Bool} {p : Page} (hva : va < 2 ^ 48)
    (ht : s.tlbHit t tenant va = none) (hb : s.hostBias = []) (hc : s.walkCarried t tenant va = true)
    (hw : (s.walk tenant m va).toOption = some p) (hp : (s.pageCheck m pool va p).toOption = some pa) :
    s.translate t tenant m pool va = (s.tlbFill t tenant p, .ok pa) := by
  have hok : ∀ {ε α : Type} {x : Except ε α} {a : α}, x.toOption = some a → x = .ok a := fun {_ _ x _} h => by
    cases x with
    | error e => cases h
    | ok a => exact congrArg Except.ok (Option.some.inj h)
  have ho : s.obtainEntries tenant va = s := if_pos hb
  have hf : s.walkFor t tenant m va = (s, .ok p) := by
    unfold State.walkFor
    dsimp only
    rw [ho, if_pos hc, hok hw]
  unfold State.translate
  rw [if_neg (by omega), ht]
  dsimp only
  rw [hf]
  dsimp only
  rw [hok hp]

/-- A load that no copy serves goes to the bank. -/
theorem bankLoad_uncopied {t tenant pa n : Nat} {way : LoadWay} (hl : s.l1Copy t tenant pa way.kseg = none) (hr : s.replicaCopy t pa = none) :
    s.bankLoad t tenant pa n way = atBank s t tenant pa n way := by
  unfold State.bankLoad
  simp only [hl, hr, ite_self]
  rfl

/-- Hosts give nothing where no page is in their bias. -/
theorem gathered_unbiased (hb : s.hostBias = []) (ls : List Nat) : gathered s ls = s := by
  have hf : (s.hostLines.filter fun h => ls.contains (h.1 / 2) && s.inHostBias (64 * h.1)) = [] :=
    List.filter_eq_nil_iff.2 fun h _ => by simp [State.inHostBias, hb]
  unfold gathered
  rw [hf]
  rfl

theorem useLine_mem (s : State) (pa ward : Nat) : (s.useLine pa ward).mem = s.mem := by
  unfold State.useLine
  dsimp only
  split <;> rfl

theorem replicaMark_mem (s : State) (t pa : Nat) (fill : Bool) : (s.replicaMark t pa fill).mem = s.mem := by
  unfold State.replicaMark
  split
  · rfl
  · split
    · dsimp only
      split <;> rfl
    · rfl

/-- What a bank returns of a line whose page is in no host's bias: memory after the access is counted. -/
theorem atBank_bytes (hb : s.hostBias = []) (t tenant pa n : Nat) (way : LoadWay) :
    (atBank s t tenant pa n way).2 = ((s.dropStale t pa).touch t pa 0 false).peekN (s.memKey pa) n := by
  have hk := (serveLoad_local s t pa way.alloc).around.memKey pa
  have hbias : (((s.dropStale t pa).touch t pa 0 false).useLine pa (s.tileWard t)).inHostBias pa = false := by
    have ha := ((dropStale_cacheOnly s t pa).trans ((touch_cacheOnly _ t pa 0 false).trans (useLine_cacheOnly _ pa (s.tileWard t)))).around
    rw [ha.inHostBias, State.inHostBias, hb]
    rfl
  have hm : (s.serveLoad t pa way.alloc).mem = ((s.dropStale t pa).touch t pa 0 false).mem := by
    unfold State.serveLoad
    rw [replicaMark_mem, State.obtain, hbias]
    exact useLine_mem _ _ _
  have hp : (atBank s t tenant pa n way).2 = (s.serveLoad t pa way.alloc).peekN ((s.serveLoad t pa way.alloc).memKey pa) n := rfl
  rw [hp, hk]
  unfold State.peekN
  rw [hm]

/-- An anchor whose entries are past their limit lets the one accessed longest ago go. -/
theorem limitEntries_oldest {k : RegionKey} {old : RegionEntry} {rest : List RegionEntry} {n : Nat}
    (hr : s.regions = rest ++ List.replicate (n + 1) old) (hn : 32768 < rest.length + (n + 1))
    (ha : ∀ pa, s.anchor pa = s.anchor k.base) (ho : old.hold = false) (hk : old.key ≠ k) :
    s.limitEntries k = s.removeEntry old.key := by
  have hlen : s.regions.length = rest.length + (n + 1) := by rw [hr, List.length_append, List.length_replicate]
  have hall : (s.regions.filter fun r => s.anchor r.key.base = s.anchor k.base) = s.regions :=
    List.filter_eq_self.2 fun r _ => decide_eq_true (ha _)
  have hold : s.oldestAt (s.anchor k.base) k = some old := by
    unfold State.oldestAt
    rw [hr, List.filter_append, List.filter_replicate]
    simp only [ha, ho, hk, decide_true, Bool.not_false, Bool.and_self, ne_eq, not_false_eq_true, if_true]
    rw [List.getLast?_append, List.getLast?_replicate, if_neg (Nat.succ_ne_zero n)]
    rfl
  unfold State.limitEntries
  rw [if_neg (by omega), hall, if_neg (by omega), hold]

/-- What a lane of a load receives. -/
def laneValue (f : MForm) (vs : List (Nat × List Byte)) (j : Nat) : DWord :=
  loadValue f.sz.toNat f.sx ((tabFind (if f.u then 0 else j) vs).getD [])

/-- A squad with the result of a load on its way. -/
def sentTo (c : Ctx) (f : MForm) (v : Nat → DWord) (lines : List (Nat × Nat)) (q : Squad) : Squad :=
  (c.send q f.t (if f.sz = 3 then 2 else 1) f.la.toNat f.u v).fromPool q lines

/-- A load that is answered completes with its result on its way. -/
theorem load_answered {i : Instr} {s1 : State} {c : Ctx} {f : MForm} {k : LoadKind} {ts : List (Nat × Target)} (h : Issues i s c)
    (hk : loadKind c i = some (f, k)) (ha : s.acquireReady k.acquire = true)
    (hr : (ready s c).resolve c k.seg .read (k.seg = .pseg) (2 ^ f.sz.toNat) k.swz (c.accessLanes f.u) (loadOffset i c f k) = (s1, .ok ts))
    {vs : List (Nat × List Byte)} (hv : (laneLoads i s1 c f k ts).2 = .ok vs)
    (hl : (unfilled s1 (laneLoads i s1 c f k ts).1 c k ts).answerLost c.tile (ts.map (·.2)) = false) :
    exec i s = .next (((unfilled s1 (laneLoads i s1 c f k ts).1 c k ts).acquire c.tile k.acquire).retire i c
      (sentTo c f (laneValue f vs) (poolLines k.seg (c.addressOf k.seg (loadOffset i c f k)) ts))) := by
  obtain ⟨kind, rfl, he, -⟩ := loadKind_acts hk
  have ha' : (ready s c).acquireReady (kind c).acquire = true := ha
  rw [he, State.load, issue_acts h]
  unfold unfilled laneLoads loadOffset readState State.unlessLost at *
  simp only [ha', hr, hv, hl, Bool.not_true, Bool.false_eq_true, if_false]
  rfl

theorem sentTo_outstanding (c : Ctx) (f : MForm) (v : Nat → DWord) (lines : List (Nat × Nat)) {q : Squad} {n : Fin 112} (ht : f.t = .v n)
    (ho : q.outstanding = []) : (sentTo c f v lines q).outstanding = [
      { dst := .v n, width := if f.sz = 3 then 2 else 1, lanes := c.g.threads, lo := lanesFn fun j => (v j).setWidth 32
        hi := lanesFn fun j => (v j).extractLsb' 32 32, left := Vector.replicate 32 f.la.toNat, uniform := f.u && c.whole, site := c.g.site
        pool := lines }] := by
  unfold sentTo Squad.fromPool Ctx.send
  rw [ht]
  simp [ho]

/-- What is on its way says what the first lane receives. -/
theorem sentTo_lane {c : Ctx} {f : MForm} {v v' : Nat → DWord} {lines lines' : List (Nat × Nat)} {q : Squad} {n : Fin 112} (ht : f.t = .v n)
    (ho : q.outstanding = []) (h : (sentTo c f v lines q).outstanding = (sentTo c f v' lines' q).outstanding) :
    (v 0).setWidth 32 = (v' 0).setWidth 32 := by
  rw [sentTo_outstanding c f v lines ht ho, sentTo_outstanding c f v' lines' ht ho] at h
  have hlo := congrArg Outstanding.lo (List.cons.inj h).1
  have h0 := congrArg (fun l : Lanes => l[0]) hlo
  simpa [lanesFn] using h0

/-- An instruction that completes with g on its squad and reads no register for the last time leaves on their way what g does. -/
theorem retire_outstanding {i : Instr} {e : State} {c : Ctx} {g : Squad → Squad} (h : Issues i s c) (hq : e.squad? c.tile c.sq.slot = some c.sq)
    (hm : ∀ q, c.mark i q = q) (hg : (g c.sq).slot = c.sq.slot) :
    ∃ q, (e.retire i c g).squad? c.tile c.sq.slot = some q ∧ q.outstanding = (g c.sq).outstanding := by
  have hf : g (c.mark i c.sq) = c.mark i (g c.sq) := by rw [hm, hm]
  obtain ⟨q, ⟨h1, -⟩, ⟨-, -, -, h2⟩, -⟩ := retireTo_spec (f := g) (next := c.fall) (pcs := fallsThrough c) (after := 0) hq hg (issues_quiet h)
    (hf ▸ (mark_spec i c (g c.sq)).1) (hf ▸ mark_alike i c (g c.sq)) fun _ _ => rfl
  exact ⟨q, h1, (congrArg Squad.outstanding h2 :)⟩

theorem acquire_narrow (e : State) (t : Nat) {n : Nat} (h : n < 3) : e.acquire t n = e := if_pos h

theorem Around.loss {e : State} (h : Around s e) : e.loss = s.loss := (congrArg State.loss h :)

end

end Sys2Proof.Proofs
end

section
/-! PROOFS. The statement on loads (R208, R281-R285) fails where a bank holds a line beyond the map. -/

namespace Sys2Proof.Proofs

open Sys2Proof Sys2Proof.Machine Sys2Proof.Safety Sys2Proof.Rules Sys2Proof.Laws

/-- The first key of host memory behind port 0, where the first byte of the host window lies. -/
def hostByte : Nat := 2 ^ 60

/-- The line that is numbered as if that key were an address. -/
def strayLine : Nat := 2 ^ 53

/-- The entry accessed longest ago: it covers the stray line. -/
def strayEntry : RegionEntry := .fresh ⟨hostByte, 0⟩ 0 0

/-- The entries of the page tables and of the first block of the host window. -/
def tableEntry : RegionEntry := .fresh ⟨0, 0⟩ 0 0
def windowEntry : RegionEntry := .fresh ⟨Config.hostBase, 0⟩ 0 0

/-- As many of it as leave no room for a third entry beside them. -/
@[irreducible] def strayEntries : List RegionEntry := List.replicate 32767 strayEntry

/-- A squad of one lane, at the first byte of the second GiB. -/
def oneLane : Squad :=
  { bootSquad 0 with
    live := 1, groups := [Group.fresh 1 0 0]
    regs := (bootSquad 0).regs.setIfInBounds 4 (.uniform 0)
    segs := (bootSquad 0).segs.setIfInBounds 0 ⟨0x40000000, 4096⟩ }

/-- The machine of LOG 11 with that squad, and the second GiB mapped to the host window, whose first byte is 1. Tile 0's bank holds the
stray line modified, and one entry more than its limit. -/
def strayMachine : State :=
  { (((State.reset.boot 0).updSquad 0 0 fun _ => oneLane).pokeNum (bootTable + 8) 8 (Config.hostBase + 15)).pokeN hostByte [1] with
    cur := some ⟨0, 0, 0⟩
    ports := [⟨0, true⟩]
    regions := tableEntry :: windowEntry :: strayEntries
    wc := [⟨strayLine, [], true, false, false, [], 0, 1⟩] }

/-- The load of a word there. -/
def strayLoad : MForm := ⟨false, 0, .v 6, .v 4, 2, 0, false⟩

/-- The issuing group of that machine. -/
def strayCtx : Ctx := ⟨0, strayMachine.tile 0, { bootWorkgroup 0 with squads := [oneLane] }, oneLane, Group.fresh 1 0 0⟩

theorem strayMachine_ctx : strayMachine.ctx = some strayCtx := by decide +kernel

theorem strayLoad_issues : Issues (.ldg strayLoad) strayMachine strayCtx :=
  ⟨strayCtx, ⟨strayCtx, strayMachine_ctx, rfl, by decide +kernel⟩, by decide +kernel, by decide +kernel, by decide +kernel⟩

/-- The page that holds the lane's byte. -/
def windowPage : Page := ⟨0x40000000, Config.hostBase, 30, true, true⟩

/-- The state that the checks of the load leave. -/
def strayChecked : State := (ready strayMachine strayCtx).tlbFill 0 0 windowPage

theorem stray_translate : (ready strayMachine strayCtx).translate 0 0 .read false 0x40000000 = (strayChecked, .ok Config.hostBase) :=
  translate_walked (by decide) (by decide +kernel) rfl (by decide +kernel) (by decide +kernel) (by decide +kernel)

theorem stray_resolve : (ready strayMachine strayCtx).resolve strayCtx .gseg .read false 4 0 [0] (strayCtx.offset (.ldg strayLoad) (.v 4) 4) =
    (strayChecked, .ok [(0, .phys Config.hostBase)]) := by
  have hva : segAddr strayCtx.sq .gseg (strayCtx.offset (.ldg strayLoad) (.v 4) 4 0) 0 = 0x40000000 := by decide +kernel
  have hin : segCheck strayCtx.sq .gseg (strayCtx.offset (.ldg strayLoad) (.v 4) 4 0) 4 = true := by decide +kernel
  have ht : strayCtx.tenant (ready strayMachine strayCtx) = 0 := by decide +kernel
  unfold State.resolve
  simp [hva, hin, ht, stray_translate, show strayCtx.tile = 0 from rfl]

/-- The entry of the window, counted. -/
def strayCounted : State :=
  { strayChecked with regions := windowEntry.count (reticleOf 0) :: tableEntry :: strayEntries }

theorem stray_regions : strayChecked.regions = tableEntry :: windowEntry :: strayEntries := rfl

theorem stray_region : strayChecked.region? Config.hostBase = some windowEntry := by decide +kernel

theorem stray_filter : strayEntries.filter (fun r => r.key ≠ windowEntry.key) = strayEntries := by
  unfold strayEntries
  rw [List.filter_replicate, if_pos (by decide)]

theorem stray_touch : (strayChecked.dropStale 0 Config.hostBase).touch 0 Config.hostBase 0 false = strayCounted.removeEntry ⟨hostByte, 0⟩ := by
  have hd : strayChecked.dropStale 0 Config.hostBase = strayChecked := by
    unfold State.dropStale
    rw [stray_region]
    rfl
  have hk : (windowEntry.count (reticleOf 0)).key = windowEntry.key := (count_key windowEntry _).1
  have hf : strayChecked.regions.filter (fun r => r.key ≠ (windowEntry.count (reticleOf 0)).key) = tableEntry :: strayEntries := by
    rw [stray_regions, hk, List.filter_cons_of_pos (by decide), List.filter_cons_of_neg (by decide), stray_filter]
  have hp : (strayChecked.dropStale 0 Config.hostBase).touch 0 Config.hostBase 0 false = strayCounted.limitEntries (windowEntry.count (reticleOf 0)).key := by
    unfold State.touch State.regionFor
    rw [hd, stray_region]
    rw [Option.getD_some]
    dsimp only
    rw [if_neg Bool.false_ne_true, if_neg Bool.false_ne_true, State.putRegion, hf]
    rfl
  rw [hp, hk]
  have hr : strayCounted.regions = [windowEntry.count (reticleOf 0), tableEntry] ++ List.replicate (32766 + 1) strayEntry := by
    have he : strayEntries = List.replicate (32766 + 1) strayEntry := by unfold strayEntries; rfl
    rw [← he]
    rfl
  exact limitEntries_oldest hr (by decide) (fun pa => rfl) rfl (by decide)

theorem stray_bytes : (strayCounted.removeEntry ⟨hostByte, 0⟩).peekN (strayChecked.memKey Config.hostBase) 4 = [0, 0, 0, 0] := by
  decide +kernel

theorem stray_memory : strayChecked.peekN (strayChecked.memKey Config.hostBase) 4 = [1, 0, 0, 0] := by decide +kernel

/-! ### The load -/

/-- How the load reads, and its lane. -/
def strayKind : LoadKind := plainLoad .gseg 0 strayCtx
def strayLane : List (Nat × Target) := [(0, .phys Config.hostBase)]

theorem stray_servable : servable (readState strayChecked strayCtx strayKind strayLane) strayCtx false strayLane := by
  intro x hx
  cases List.mem_singleton.1 hx
  decide +kernel

theorem stray_readState : readState strayChecked strayCtx strayKind strayLane = strayChecked := rfl

/-- The bank returns zeros: the entry that makes room took the stray line, whose home is unreached, and with it the lane's bytes. -/
theorem stray_bankLoad (tenant : Nat) : (strayChecked.bankLoad 0 tenant Config.hostBase 4 strayKind.way).2 = [0, 0, 0, 0] := by
  have hl : strayChecked.l1Copy 0 tenant Config.hostBase strayKind.way.kseg = none := by
    have he : (strayChecked.tile 0).l1 = [] := by decide +kernel
    unfold State.l1Copy
    rw [he]
    rfl
  rw [bankLoad_uncopied hl (by decide +kernel), atBank_bytes rfl, stray_touch]
  exact stray_bytes

theorem stray_loads : (laneLoads (.ldg strayLoad) strayChecked strayCtx strayLoad strayKind strayLane).2 = .ok [(0, [0, 0, 0, 0])] := by
  have hv := stray_servable
  rw [stray_readState] at hv
  unfold laneLoads State.loads
  rw [stray_readState, firstWait_none fun x hx l => by rw [hv x hx]; exact Verdict.noConfusion, laneTrap_none hv]
  exact congrArg (fun bs => Served.ok [(0, bs)]) (stray_bankLoad _)

theorem stray_sure : ∀ l ∈ linesOf strayLane, sureHome strayChecked l := by
  intro l hl
  cases List.mem_singleton.1 hl
  refine ⟨by decide +kernel, fun e he hk => ?_⟩
  rw [stray_regions] at he
  rcases List.mem_cons.1 he with rfl | he
  · exact absurd hk (by decide)
  · rcases List.mem_cons.1 he with rfl | he
    · decide +kernel
    · unfold strayEntries at he
      cases List.eq_of_mem_replicate he
      exact absurd hk (by decide)

/-- What the load may read of memory, L1 and replicas: the word 1. -/
theorem stray_mayRead {bs : List Byte} (h : mayRead strayChecked (gathered strayChecked (linesOf strayLane)) strayCtx strayKind.way 4
    (.phys Config.hostBase) bs) : bs = [1, 0, 0, 0] := by
  have hk : keyOf strayChecked (.phys Config.hostBase) = strayChecked.memKey Config.hostBase := rfl
  rcases h with h | ⟨-, l, hl, -⟩ | ⟨-, r, hr, -⟩
  · rw [gathered_unbiased rfl, hk, stray_memory] at h
    exact h
  · have he : (strayChecked.tile strayCtx.tile).l1 = [] := by decide +kernel
    rw [he] at hl
    cases hl
  · cases hr

/-- The state after the load's lane. -/
def strayLoaded : State :=
  unfilled strayChecked (laneLoads (.ldg strayLoad) strayChecked strayCtx strayLoad strayKind strayLane).1 strayCtx strayKind strayLane

theorem strayLoaded_local : Local 0 (ready strayMachine strayCtx) strayLoaded := by
  have hc := issue_resolve strayMachine strayCtx _ _ _ _ _ _ (by decide : 4 ∣ 4096) stray_resolve
  exact (laneLoads_reads (i := .ldg strayLoad) (f := strayLoad) (k := strayKind) (ts := strayLane) hc.own hc.tracked).1

theorem strayMachine_loss : strayMachine.loss = .none := rfl

theorem strayLoaded_answered : strayLoaded.answerLost strayCtx.tile (strayLane.map (·.2)) = false := by
  have hnone : (ready strayMachine strayCtx).loss = .none := rfl
  rw [State.answerLost, strayLoaded_local.around.loss, hnone]
  simp only [reduceCtorEq, decide_false, Bool.false_and]

/-- The load completes, and the squad has zeros on their way. -/
theorem stray_sends : ∃ t q, exec (.ldg strayLoad) strayMachine = .next t ∧ t.squad? strayCtx.tile strayCtx.sq.slot = some q ∧
    q.outstanding = (sentTo strayCtx strayLoad (laneValue strayLoad [(0, [0, 0, 0, 0])]) [] strayCtx.sq).outstanding := by
  have he := load_answered (k := strayKind) (ts := strayLane) strayLoad_issues rfl rfl stray_resolve stray_loads strayLoaded_answered
  have hacq : (strayLoaded.acquire strayCtx.tile strayKind.acquire) = strayLoaded := acquire_narrow _ _ (by decide)
  change exec _ _ = .next ((strayLoaded.acquire strayCtx.tile strayKind.acquire).retire _ _ _) at he
  rw [hacq] at he
  obtain ⟨q, h1, h2⟩ := retire_outstanding (g := sentTo strayCtx strayLoad (laneValue strayLoad [(0, [0, 0, 0, 0])]) []) strayLoad_issues
    (strayLoaded_local.issues_squad strayLoad_issues) (fun q => rfl) rfl
  exact ⟨_, q, he, h1, h2⟩

theorem strayMachine_inv : Safety.Inv strayMachine := ⟨wf_pokeN hostByte [1] (wf_pokeNum _ _ _ (by decide +kernel)), rfl⟩

/-- Refutes O18: its last clause speaks of every state that meets `Inv`, and `Inv` does not keep a bank from holding a line whose number lies
beyond the map. In `strayMachine` that line is numbered as the key of the host's memory at which the first bytes of the host window
lie, and one entry too many covers it. The load of the window's first word counts its own entry, whereupon the oldest one goes with
the stray line; no bank reaches that line's home, so its copy is lost, and with it the word that the load then reads as 0. The line of
the load itself has a sure home, no page is in a host's bias, and memory, which alone could answer, holds the word 1. (Where every line
that a bank holds is one of the map, no two lines share a byte.) -/
theorem not_loadResults : ¬ Obligations.LoadResults := by
  unfold Obligations.LoadResults
  intro h
  obtain ⟨e, t, q, v, ⟨hx, ⟨hq, -⟩, -, -, -, hb⟩, -, -, hv⟩ := h (.ldg strayLoad) strayMachine strayCtx strayLoad strayKind strayChecked
    strayLane rfl strayMachine_inv strayLoad_issues rfl (by rw [strayMachine_loss]; decide) stray_resolve stray_servable
  have hword : v 0 = [1, 0, 0, 0] := stray_mayRead (hv stray_sure _ (List.mem_singleton_self _))
  obtain ⟨t', q', hx', hq', ho⟩ := stray_sends
  have ht : t = t' := Host.Outcome.next.inj (hx.symm.trans hx')
  subst ht
  have hqq : q = q' := Option.some.inj (hq.symm.trans hq')
  subst hqq
  have hsent := (congrArg Squad.outstanding hb).symm.trans ho
  have hlane := sentTo_lane (c := strayCtx) (f := strayLoad) (q := strayCtx.sq) (v' := laneValue strayLoad [(0, [0, 0, 0, 0])]) (lines' := [])
    (v := fun j => loadValue 2 false (v j)) (n := 6) rfl rfl hsent
  rw [hword] at hlane
  exact absurd hlane (by decide)

end Sys2Proof.Proofs
end

section
/-! PROOFS. The launch check (R74). -/

namespace Sys2Proof.Proofs

open Sys2Proof Sys2Proof.Machine Sys2Proof.Safety Sys2Proof.Rules Sys2Proof.Laws

/-- The queue that a packet depends on is one of its own tenant (R74). -/
theorem any_ownTenant (s : State) (k tenant : Nat) :
    ((tabFind k s.queues).any fun d => d.enabled && (s.ward? d.ward).any fun w => w.tenant = tenant) = true ↔
      ∃ d w, tabFind k s.queues = some d ∧ d.enabled = true ∧ s.ward? d.ward = some w ∧ w.tenant = tenant := by
  simp only [Option.any_eq_true, Bool.and_eq_true, decide_eq_true_eq]
  exact ⟨fun ⟨d, h1, h2, w, h3, h4⟩ => ⟨d, w, h1, h2, h3, h4⟩, fun ⟨d, w, h1, h2, h3, h4⟩ => ⟨d, h1, h2, w, h3, h4⟩⟩

/-- Settles O49: the check asks the questions of R74's table in its order; each clause is the first of them that fails. -/
theorem launchCheck : Obligations.LaunchCheck := by
  unfold Obligations.LaunchCheck
  intro s q b p tiles spad c
  have hc : c = s.checkPacket q b false := rfl
  have hp : s.checkPacket q b true = s.checkPacket q b true := rfl
  conv_rhs at hp => unfold State.checkPacket
  unfold State.checkPacket at hc
  refine ⟨fun h => ⟨hc.trans (if_pos h), hp.trans (if_pos h)⟩, fun h => ?_, fun h h0 => ?_, fun h h0 => ?_⟩
  · exact hp.trans ((if_neg (not_not.2 h)).trans (if_pos rfl))
  all_goals rw [if_neg (not_not.2 h), if_neg Bool.false_ne_true] at hc
  · exact hc.trans (if_pos h0)
  rw [if_neg h0] at hc
  refine ⟨fun h1 => hc.trans (if_pos h1), fun h1 => ?_⟩
  rw [if_neg (ne_true_of_eq_false h1)] at hc
  refine ⟨fun h2 => hc.trans (if_pos h2), fun h2 => ?_⟩
  rw [if_neg (not_lt.2 h2)] at hc
  refine ⟨fun h3 => hc.trans (if_pos (by simpa using h3)), fun h3 h3' => ?_⟩
  rw [if_neg (by simpa using ⟨Nat.ne_of_gt h3, h3'⟩)] at hc
  refine ⟨fun h4 => hc.trans (if_pos h4), fun h4 => ?_⟩
  rw [if_neg h4] at hc
  refine ⟨fun h5 => hc.trans (if_pos (by simpa [or_assoc] using h5)), fun h5 h6 h7 => ?_⟩
  rw [if_neg (by simpa using ⟨⟨h5, h6⟩, h7⟩)] at hc
  refine ⟨fun h8 => hc.trans (if_pos h8), fun h8 => ?_⟩
  rw [if_neg (not_lt.2 h8)] at hc
  refine ⟨fun h9 hd => hc.trans (if_pos ?_), fun hd => ?_⟩
  · rw [Bool.and_eq_true, Bool.not_eq_true', Bool.eq_false_iff, ne_eq, any_ownTenant]
    exact ⟨h9, hd⟩
  rw [if_neg] at hc
  · refine ⟨fun h10 => ?_, fun x h10 => ?_⟩
    · rw [hc, h10]
    · rw [hc, h10]
  · rw [Bool.and_eq_true, Bool.not_eq_true', Bool.eq_false_iff, ne_eq, any_ownTenant]
    rintro ⟨h9, hn⟩
    exact hd.elim (fun e => Bool.false_ne_true (e.symm.trans h9)) hn

end Sys2Proof.Proofs
end

section
/-! PROOFS. The statement on `PMAP`, `SNAP` and `SLEEP` (R328, R330, R378) fails at a `PMAP` whose walk obtains a line from a host. -/

namespace Sys2Proof.Proofs

open Sys2Proof Sys2Proof.Machine Sys2Proof.Safety Sys2Proof.Rules Sys2Proof.Laws

/-- A squad whose `gseg` is the first page, and that names its first byte in v4 and v5. -/
def firstByte : Squad :=
  { bootSquad 0 with
    regs := ((bootSquad 0).regs.setIfInBounds 4 (.uniform 0)).setIfInBounds 5 (.uniform 0)
    segs := (bootSquad 0).segs.setIfInBounds 0 ⟨0, 4096⟩ }

/-- The machine of LOG 11 with that squad. The page of its root table is in host bias, and the host's caches hold the second half of the
root's first line modified. -/
def biasedRoot : State :=
  { (State.reset.boot 0).updSquad 0 0 fun _ => firstByte with
    cur := some ⟨0, 0, 0⟩
    ports := [⟨0, true⟩]
    hostBias := [bootRoot / 4096], hostLines := [(bootRoot / 64 + 1, List.replicate 64 0x11)] }

/-- The query of the region of that byte. -/
def askRegion : SForm := ⟨29, .v 4, 0⟩

/-- The issuing group of that machine. -/
def biasedCtx : Ctx := ⟨0, biasedRoot.tile 0, { bootWorkgroup 0 with squads := [firstByte] }, firstByte, Group.fresh fullMask 0 0⟩

theorem biasedRoot_ctx : biasedRoot.ctx = some biasedCtx := by decide +kernel

theorem askRegion_issues : Issues (.sysPmap askRegion) biasedRoot biasedCtx :=
  ⟨biasedCtx, ⟨biasedCtx, biasedRoot_ctx, rfl, by decide +kernel⟩, by decide +kernel, by decide +kernel, by decide +kernel⟩

/-- The state that the check of the byte leaves, and what it answers. -/
def regionChecked : State × Except MemFault (List (Nat × Target)) :=
  (ready biasedRoot biasedCtx).resolve biasedCtx .gseg .read false 1 0 [0] fun _ => ((biasedCtx.pair askRegion.a 0).toNat : Int)

theorem regionChecked_target : regionChecked.2.toOption = some [(0, .phys 0)] := by decide +kernel

theorem eq_of_toOption {α β ε : Type} {p : α × Except ε β} {b : β} (h : p.2.toOption = some b) : p = (p.1, .ok b) := by
  obtain ⟨a, x⟩ := p
  cases x with
  | error e => cases h
  | ok y => rw [Option.some.inj h]

/-- The byte that the host holds modified, before and after the walk obtains the line. -/
theorem biased_byte : byteAt biasedRoot (bootRoot + 64) = 0 ∧ byteAt regionChecked.1 (bootRoot + 64) = 0x11 := by
  constructor <;> decide +kernel

/-- Refutes O17: its `PMAP` clause keeps every byte of memory, but the walk of the checked byte obtains the lines of its entries that lie in
host-bias pages (R79, R383). In `biasedRoot` the root table's page is in host bias, and the host holds modified the 64 bytes that share a
line with the entry that the walk reads: the host gives them with the line, and they reach memory. -/
theorem not_observingInstructions : ¬ Obligations.ObservingInstructions := by
  unfold Obligations.ObservingInstructions
  rintro ⟨hp, -⟩
  obtain ⟨t, q, -, -, hm, -⟩ := hp askRegion biasedRoot biasedCtx regionChecked.1 0 ⟨by decide +kernel, by decide +kernel⟩ askRegion_issues
    (eq_of_toOption regionChecked_target)
  have h := hm (bootRoot + 64)
  rw [biased_byte.1, biased_byte.2] at h
  exact absurd h (by decide)

end Sys2Proof.Proofs
end

section
/-! PROOFS. The statement on the ends of launches (R93-R98) fails where the list of tiles names a tile twice. -/

namespace Sys2Proof.Proofs

open Sys2Proof Sys2Proof.Machine Sys2Proof.Safety Sys2Proof.Rules Sys2Proof.Laws

/-- A copy job that waits for the page at 0. -/
def waitingJob : Job := ⟨0, 0, 1, 0, .copy 0, .paused 0, none, [], (bootSquad 0).segs, [], []⟩

/-- Tile 0 of the machine of LOG 11, with that job. -/
def waitingTile : Tile := { Tile.empty with wg := some { bootWorkgroup 0 with jobs := [waitingJob] } }

/-- That machine, whose list of tiles has tile 0 twice: first as an empty one, then with the job. Its launch is to be aborted. -/
def twiceListed : State :=
  { State.reset.boot 0 with tiles := [(0, Tile.empty), (0, waitingTile)], input := .launchAbort bootLaunch.key 255 }

/-- The status of a launch after an outcome. -/
def statusAfter (o : Host.Outcome State Fault Refusal) (k : LaunchKey) : Option (Nat × Nat) :=
  match o with
  | .next t => (t.launch? k).bind (·.status)
  | _ => none

/-- Every tile that is looked up is empty. -/
theorem twiceListed_idle (m : Nat) (w : Workgroup) (h : (twiceListed.tile m).wg = some w) : w.jobs = [] := by
  have he : twiceListed.tile m = Tile.empty := by
    by_cases hm : m = 0
    · subst hm; rfl
    · simp [State.tile, twiceListed, tabFind, Ne.symm hm]
  rw [he] at h
  cases h

/-- The abort waits for the job of the second entry. -/
theorem twiceListed_waits : statusAfter (exec .launchAbort twiceListed) bootLaunch.key = none := by decide +kernel

/-- Refutes O51: its first clause says by `State.tile` that no command of the launch is left, and speaks of every state; but the list of
tiles may name a tile twice, and `State.tile` finds the first entry only, where the abort of a launch goes through them all
(`State.drainTiles`, `State.jobsLeft`). In `twiceListed` tile 0 is listed as empty, and then with a job of the launch that waits for a page:
the abort waits for that job (LOG 113), and the launch has no status. (Where every tile is listed once, the two agree.) -/
theorem not_launchEndings : ¬ Obligations.LaunchEndings := by
  unfold Obligations.LaunchEndings
  rintro ⟨ha, -⟩
  obtain ⟨-, hend, -⟩ := ha twiceListed bootLaunch.key 255 bootLaunch rfl rfl rfl
  obtain ⟨t, hx, hs, -⟩ := hend rfl fun m w hw _ => twiceListed_idle m w hw
  have h : statusAfter (exec .launchAbort twiceListed) bootLaunch.key = some (2, 255) := by rw [hx]; exact hs
  rw [twiceListed_waits] at h
  cases h

end Sys2Proof.Proofs
end

section
/-! PROOFS. Tables of which one entry is updated, and the jobs of tiles: what an update of a job, and the reads that a job makes (R348, R352),
leave of the jobs. -/

namespace Sys2Proof.Proofs

open Sys2Proof Sys2Proof.Machine Sys2Proof.Safety Sys2Proof.Rules Sys2Proof.Laws

/-! ### Tables -/

theorem tabFind_tabUpd_same {α : Type} (k : Nat) (f : α → α) (t : List (Nat × α)) : tabFind k (tabUpd k f t) = (tabFind k t).map f := by
  induction t with
  | nil => rfl
  | cons e r ih =>
    rw [tabUpd] at ih ⊢
    rw [List.map_cons]
    by_cases h : e.1 = k
    · simp [tabFind, h]
    · simp only [tabFind, h, if_false, ih]

theorem tabFind_tabUpd_other {α : Type} {k j : Nat} (h : j ≠ k) (f : α → α) (t : List (Nat × α)) :
    tabFind j (tabUpd k f t) = tabFind j t := by
  induction t with
  | nil => rfl
  | cons e r ih =>
    rw [tabUpd] at ih ⊢
    rw [List.map_cons]
    by_cases he : e.1 = k
    · simp [tabFind, he, Ne.symm h, ih]
    · simp only [tabFind, he, if_false, ih]

/-! ### The jobs of tiles -/

/-- The job of a number on a tile. -/
def jobOn (s : State) (t id : Nat) : Option Job := (s.tile t).wg.bind fun w => w.jobs.find? fun j => j.id = id

theorem jobOn_eq (s : State) (t id : Nat) : jobOn s t id = (s.job? t id).map (·.2) := by
  unfold jobOn State.job?
  cases (s.tile t).wg with
  | none => rfl
  | some w => simp only [Option.bind_some, Option.map_map, Function.comp_def, Option.map_id']

theorem jobOn_of_job? {s : State} {t id : Nat} {w : Workgroup} {j : Job} (h : s.job? t id = some (w, j)) : jobOn s t id = some j := by
  rw [jobOn_eq, h]
  rfl

theorem job?_id {s : State} {t id : Nat} {w : Workgroup} {j : Job} (h : s.job? t id = some (w, j)) : j.id = id := by
  obtain ⟨v, -, hv⟩ := Option.bind_eq_some_iff.1 (jobOn_of_job? h)
  simpa using List.find?_some hv

theorem find_mapIf_job (l : List Job) (n k : Nat) {f : Job → Job} (hf : ∀ j, (f j).id = j.id) :
    (mapIf (fun j => j.id = n) f l).find? (fun j => j.id = k) =
      if k = n then (l.find? fun j => j.id = k).map f else l.find? fun j => j.id = k := by
  have hp : ∀ j : Job, decide ((if decide (j.id = n) = true then f j else j).id = k) = decide (j.id = k) := by
    intro j
    split <;> simp [hf]
  unfold mapIf
  rw [List.find?_map]
  simp only [Function.comp_def, hp]
  cases hx : l.find? (fun j => j.id = k) with
  | none => simp
  | some x =>
    have hid : x.id = k := by simpa using List.find?_some hx
    by_cases hk : k = n <;> simp [hid, hk]

theorem jobOn_updJob (s : State) (t id u k : Nat) {f : Job → Job} (hf : ∀ j, (f j).id = j.id) :
    jobOn (s.updJob t id f) u k = if u = t ∧ k = id then (jobOn s u k).map f else jobOn s u k := by
  unfold jobOn State.updJob State.updWg
  by_cases hu : u = t
  · subst hu
    rw [tile_updTile_same, Tile.updWg]
    cases (s.tile u).wg with
    | none => simp
    | some w => simp only [Option.map_some, Option.bind_some, find_mapIf_job w.jobs id k hf, true_and]
  · rw [tile_updTile_other hu]
    simp [hu]

/-- What jobs are beside a field that an update of some job sets. -/
theorem jobOn_updJob_map {α : Type} (s : State) (t id u k : Nat) {f : Job → Job} {g : Job → α} (hf : ∀ j, (f j).id = j.id)
    (hg : ∀ j, g (f j) = g j) : (jobOn (s.updJob t id f) u k).map g = (jobOn s u k).map g := by
  rw [jobOn_updJob s t id u k hf]
  split
  · rw [Option.map_map]
    exact congrArg (fun h => Option.map h _) (funext hg)
  · rfl

/-! ### The reads of a job -/

/-- A job but for what it has read. -/
def Job.unread (j : Job) : Job := { j with read := [] }

/-- A change of what jobs have read, of tiles, and of what lies around accesses. -/
structure JobReads (s e : State) : Prop where
  around : Around s e
  jobs : ∀ t id, (jobOn e t id).map Job.unread = (jobOn s t id).map Job.unread

theorem JobReads.refl (s : State) : JobReads s s := ⟨rfl, fun _ _ => rfl⟩

theorem JobReads.trans {r s e : State} (h : JobReads r s) (k : JobReads s e) : JobReads r e :=
  ⟨h.around.trans k.around, fun t id => (k.jobs t id).trans (h.jobs t id)⟩

theorem Local.jobReads {t : Nat} {s e : State} (h : Local t s e) : JobReads s e :=
  ⟨h.around, fun u id => by rw [jobOn, jobOn, h.wg u]⟩

theorem read_jobReads (s : State) (t id : Nat) (f : Job → List (Nat × Nat × List Byte)) :
    JobReads s (s.updJob t id fun j => { j with read := f j }) :=
  ⟨rfl, fun u k => jobOn_updJob_map s t id u k (fun _ => rfl) fun _ => rfl⟩

theorem engineTarget_local (s : State) (t : Nat) (w : Workgroup) (segs : Vector Seg 8) (tenant : Nat) (mode : AccessMode) (sp swz : Nat)
    (member : Option Nat) (e : Int) : Local t s (s.engineTarget t w segs tenant mode sp swz member e).1 := by
  have h := translate_local s t tenant mode (sp = 1) (engineStart segs sp e)
  unfold State.engineTarget
  split
  · exact .refl t s
  · revert h
    generalize s.translate t tenant mode (sp = 1) (engineStart segs sp e) = r
    obtain ⟨u, x⟩ := r
    cases x <;> exact id

theorem engineBlock_local (s : State) (t : Nat) (w : Workgroup) (segs : Vector Seg 8) (tenant sp swz : Nat) (e : Int) :
    Local t s (s.engineBlock t w segs tenant sp swz e).1 := by
  unfold State.engineBlock
  have h := engineTarget_local s t w segs tenant .read sp swz none (if spaceSeg sp = .sseg then e - e % 64 else e)
  revert h
  generalize s.engineTarget t w segs tenant .read sp swz none (if spaceSeg sp = .sseg then e - e % 64 else e) = r
  obtain ⟨u, x⟩ := r
  intro h
  cases x with
  | error f => exact h
  | ok x =>
    dsimp only
    split
    · exact h
    · exact h
    · cases x with
      | spad _ k => exact h
      | phys pa =>
        have hb := h.trans (bankLoad_local u t tenant (128 * lineOf pa) 128 ⟨false, false, false, false, true⟩)
        simpa only [apply_ite Prod.fst, ite_self] using hb

theorem andThen_jobReads {α β : Type} {s : State} {r : State × Served α} {k : State → α → State × Served β} (hr : JobReads s r.1)
    (hk : ∀ e a, JobReads e (k e a).1) : JobReads s (andThen r k).1 := by
  obtain ⟨e, x⟩ := r
  cases x with
  | ok a => exact hr.trans (hk e a)
  | wait l => exact hr
  | fault f p => exact hr

/-- A block that a job reads for itself alone; the line of an MCAST job is shared with others (R348). -/
theorem block_jobReads {c : JobCtx} (hc : c.job.isMcast = false) (s : State) (sp : Nat) (e : Int) : JobReads s (c.block s sp e).1 := by
  unfold JobCtx.block
  dsimp only
  split
  · exact .refl s
  · split
    · exact read_jobReads s _ _ _
    · refine andThen_jobReads (engineBlock_local s _ _ _ _ _ _ _).jobReads fun e' a => ?_
      have hk : c.keep e' sp (engineStart c.job.segs sp e / (if spaceSeg sp = .sseg then 64 else 128)) e a =
          e'.updJob c.tile c.job.id fun j =>
            { j with read := j.read ++ [(sp, engineStart c.job.segs sp e / (if spaceSeg sp = .sseg then 64 else 128), a)] } := by
        unfold JobCtx.keep
        cases c.line e' sp e <;> simp [hc]
      dsimp only
      rw [hk]
      exact read_jobReads e' _ _ _

theorem foldl_andThen_jobReads {α β : Type} {f : α → State → β → State × Served β} (hf : ∀ a e b, JobReads e (f a e b).1) (l : List α) {s : State}
    {r : State × Served β} (hr : JobReads s r.1) : JobReads s (l.foldl (fun acc a => andThen acc (f a)) r).1 := by
  induction l generalizing r with
  | nil => exact hr
  | cons a l ih => exact ih (andThen_jobReads hr (hf a))

theorem jobRead_jobReads {c : JobCtx} (hc : c.job.isMcast = false) (s : State) (sp : Nat) (e : Int) (n : Nat) : JobReads s (c.read s sp e n).1 := by
  unfold JobCtx.read
  dsimp only
  split
  · exact .refl s
  · split
    · exact .refl s
    · exact foldl_andThen_jobReads (fun p e' bs => andThen_jobReads (block_jobReads hc e' sp _) fun e b => .refl e) _ (.refl s)

end Sys2Proof.Proofs
end

section
/-! PROOFS. Collective groups (R85, R353-R356): claims, the reduction of a complete group, its chunks, and the members that are lost. -/

namespace Sys2Proof.Proofs

open Sys2Proof Sys2Proof.Machine Sys2Proof.Safety Sys2Proof.Rules Sys2Proof.Laws

/-! ### The jobs of a group's members -/

/-- The jobs of members are updated, one after the other. -/
def updJoined (ms : List Joined) (f : Job → Job) (s : State) : State := ms.foldl (fun s m => s.updJob m.tile m.job f) s

theorem updJoined_rest (ms : List Joined) (f : Job → Job) (s : State) : { updJoined ms f s with tiles := s.tiles } = s := by
  unfold updJoined
  induction ms generalizing s with
  | nil => rfl
  | cons m r ih => exact (congrArg (fun x : State => { x with tiles := s.tiles }) (ih (s.updJob m.tile m.job f)) :)

/-- The update of a member's job stays as it is if it is made again. -/
theorem jobOn_updJoined (ms : List Joined) {f : Job → Job} (hid : ∀ j, (f j).id = j.id) (hf : ∀ j, f (f j) = f j) (s : State) (t id : Nat) :
    jobOn (updJoined ms f s) t id = if ∃ m ∈ ms, m.tile = t ∧ m.job = id then (jobOn s t id).map f else jobOn s t id := by
  have hff : ∀ o : Option Job, (o.map f).map f = o.map f := fun o => by
    cases o with
    | none => rfl
    | some j => exact congrArg some (hf j)
  induction ms generalizing s with
  | nil => simp [updJoined]
  | cons m r ih =>
    have hs : jobOn (updJoined (m :: r) f s) t id = jobOn (updJoined r f (s.updJob m.tile m.job f)) t id := rfl
    rw [hs, ih, jobOn_updJob s m.tile m.job t id hid]
    by_cases hm : t = m.tile ∧ id = m.job
    · obtain ⟨rfl, rfl⟩ := hm
      simp [hff]
    · have hm' : ¬ (m.tile = t ∧ m.job = id) := fun h => hm ⟨h.1.symm, h.2.symm⟩
      simp [hm, hm']

theorem jobOn_updJoined_map {α : Type} (ms : List Joined) {f : Job → Job} {g : Job → α} (hid : ∀ j, (f j).id = j.id) (hg : ∀ j, g (f j) = g j)
    (s : State) (t id : Nat) : (jobOn (updJoined ms f s) t id).map g = (jobOn s t id).map g := by
  unfold updJoined
  induction ms generalizing s with
  | nil => rfl
  | cons m r ih => exact (ih _).trans (jobOn_updJob_map s m.tile m.job t id hid hg)

/-! ### The reduction (R355) -/

/-- A member's job is given the chunks of a result. -/
def Job.chunked (r : List Byte) (j : Job) : Job := { j with writes := chunkWrites j.card r }

/-- The state once a group is reduced. -/
def reducedState (s : State) (n : Nat) (g : Junction) : State :=
  updJoined g.members (Job.chunked g.result) { s with junctions := tabUpd n (fun g => { g with reduced := true }) s.junctions }

theorem reduceGroup_complete {s : State} {n : Nat} {g : Junction} (h : tabFind n s.junctions = some g) (hr : g.reduced = false)
    (hf : g.failed = false) (hm : g.members.length = g.nlocal) (hp : g.peersIn = true) : s.reduceGroup n = reducedState s n g := by
  rw [State.reduceGroup, h]
  exact if_neg (by simp [hr, hf, hm, hp])

theorem reduceGroup_cases {s : State} {n : Nat} {g : Junction} (h : tabFind n s.junctions = some g) :
    s.reduceGroup n = s ∨ s.reduceGroup n = reducedState s n g := by
  by_cases hc : (g.reduced || g.failed || decide (g.members.length ≠ g.nlocal) || !g.peersIn) = true
  · left
    rw [State.reduceGroup, h]
    exact if_pos hc
  · right
    rw [State.reduceGroup, h]
    exact if_neg hc

theorem reducedState_junctions (s : State) (n : Nat) (g : Junction) :
    (reducedState s n g).junctions = tabUpd n (fun g => { g with reduced := true }) s.junctions :=
  (congrArg State.junctions (updJoined_rest g.members _ _) :)

theorem reduceGroup_mem {s : State} {n : Nat} {g : Junction} (h : tabFind n s.junctions = some g) : (s.reduceGroup n).mem = s.mem := by
  rcases reduceGroup_cases h with hr | hr
  · rw [hr]
  · rw [hr]
    exact (congrArg State.mem (updJoined_rest g.members _ _) :)

theorem reduceGroup_junction {s : State} {n : Nat} {g : Junction} (h : tabFind n s.junctions = some g) :
    ∃ r, tabFind n (s.reduceGroup n).junctions = some { g with reduced := r } := by
  rcases reduceGroup_cases h with hr | hr
  · exact ⟨g.reduced, by rw [hr, h]⟩
  · exact ⟨true, by rw [hr, reducedState_junctions, tabFind_tabUpd_same, h]; rfl⟩

theorem reduceGroup_stage {s : State} {n : Nat} {g : Junction} (h : tabFind n s.junctions = some g) (t id : Nat) :
    (jobOn (s.reduceGroup n) t id).map (·.stage) = (jobOn s t id).map (·.stage) := by
  rcases reduceGroup_cases h with hr | hr
  · rw [hr]
  · rw [hr]
    exact jobOn_updJoined_map (f := Job.chunked g.result) g.members (fun _ => rfl) (fun _ => rfl) _ t id

theorem reducedState_writes {s : State} {n t id : Nat} {g : Junction} {m : Joined} {w : Workgroup} {j : Job} (hm : m ∈ g.members)
    (ht : m.tile = t) (hid : m.job = id) (h : (reducedState s n g).job? t id = some (w, j)) : j.writes = chunkWrites j.card g.result := by
  have hj := jobOn_of_job? h
  rw [reducedState, jobOn_updJoined (f := Job.chunked g.result) g.members (fun _ => rfl) (fun _ => rfl), if_pos ⟨m, hm, ht, hid⟩] at hj
  obtain ⟨k, -, rfl⟩ := Option.map_eq_some_iff.1 hj
  rfl

/-- Pieces of n that cover a list are the list. -/
theorem flatMap_pieces {α : Type} (n m : Nat) (l : List α) (h : l.length ≤ n * m) :
    ((List.range m).flatMap fun i => (l.drop (n * i)).take n) = l := by
  induction m generalizing l with
  | zero => simp_all
  | succ m ih =>
    have hd : ∀ i, (l.drop (n * (i + 1))).take n = ((l.drop n).drop (n * i)).take n := fun i => by
      rw [List.drop_drop, Nat.mul_succ, Nat.add_comm]
    rw [List.range_succ_eq_map, List.flatMap_cons, List.flatMap_map]
    simp only [Nat.succ_eq_add_one, hd]
    rw [ih (l.drop n) (by rw [List.length_drop]; rw [Nat.mul_succ] at h; omega)]
    simp

theorem chunkWrites_bytes (c : BitVec 1024) (bs : List Byte) (h : 0 < collChunk c) : (chunkWrites c bs).flatMap (·.bytes) = bs := by
  have hn : 0 < 1024 * collChunk c := by omega
  unfold chunkWrites
  rw [List.flatMap_map]
  refine flatMap_pieces (1024 * collChunk c) _ bs ?_
  have := Nat.lt_mul_div_succ (bs.length + 1024 * collChunk c - 1) hn
  rw [Nat.mul_succ] at this
  omega

/-! ### Members that are lost (R356) -/

theorem tabFind_filterMap {α : Type} (f : α → Option α) (n : Nat) (t : List (Nat × α)) (h : (t.map (·.1)).Nodup) :
    tabFind n (t.filterMap fun e => (f e.2).map fun g => (e.1, g)) = (tabFind n t).bind f := by
  have hout : ∀ t : List (Nat × α), n ∉ t.map (·.1) → tabFind n (t.filterMap fun e => (f e.2).map fun g => (e.1, g)) = none := by
    intro t ht
    induction t with
    | nil => rfl
    | cons e r ih =>
      have hr := ih fun hn => ht (List.mem_cons_of_mem _ hn)
      have he : e.1 ≠ n := fun hn => ht (hn ▸ List.mem_cons_self)
      cases hf : f e.2 <;> simp [hf, tabFind, he, hr]
  induction t with
  | nil => rfl
  | cons e r ih =>
    obtain ⟨he, hr⟩ := List.nodup_cons.1 h
    by_cases hn : e.1 = n
    · subst hn
      cases hf : f e.2 <;> simp [hf, tabFind, hout r he]
    · cases hf : f e.2 <;> simp [hf, tabFind, hn, ih hr]

theorem lose_all {g : Junction} {p : Nat → Bool} (hs : ∃ m ∈ g.members, p m.tile = true) (h : ∀ m ∈ g.members, p m.tile = true) :
    g.lose p = none := by
  have hr : (g.members.filter fun m => !p m.tile) = [] := List.filter_eq_nil_iff.2 fun m hm => by simp [h m hm]
  obtain ⟨m, hm, -⟩ := hs
  have hl : ¬ (0 = g.members.length) := (List.length_pos_of_mem hm).ne
  simp [Junction.lose, hr, hl]

theorem lose_some {g : Junction} {p : Nat → Bool} (hs : ∃ m ∈ g.members, p m.tile = true) (h : ∃ m ∈ g.members, p m.tile = false) :
    g.lose p = some { g with members := g.members.filter fun m => !p m.tile, failed := true } := by
  have hl : (g.members.filter fun m => !p m.tile).length < g.members.length := by
    rw [List.length_filter_lt_length_iff_exists]
    obtain ⟨m, hm, hp⟩ := hs
    exact ⟨m, hm, by simp [hp]⟩
  have hr : (g.members.filter fun m => !p m.tile) ≠ [] := by
    obtain ⟨m, hm, hp⟩ := h
    exact List.ne_nil_of_mem (List.mem_filter.2 ⟨hm, by simp [hp]⟩)
  unfold Junction.lose
  dsimp only
  rw [if_neg hl.ne, if_neg hr]

theorem tabFind_failGroups {s : State} {n : Nat} {g : Junction} (p : Nat → Bool) (hn : (s.junctions.map (·.1)).Nodup)
    (hg : tabFind n s.junctions = some g) : tabFind n (s.failGroups p).junctions = g.lose p := by
  have h := tabFind_filterMap (fun g => g.lose p) n s.junctions hn
  rw [hg] at h
  exact h

/-- A member's job stops with LOST. -/
def Job.lost (j : Job) : Job := { j with stage := .faulted Trap.collective CollectiveCode.lost 0 }

theorem collectiveGroupFail_fails {s : State} {n : Nat} {g : Junction} (hi : s.input = .collectiveGroupFail n) (hg : tabFind n s.junctions = some g)
    (hf : g.failed = true ∨ ∃ m ∈ g.members, s.job? m.tile m.job = none) :
    exec .collectiveGroupFail s = .next (updJoined g.members Job.lost { s with junctions := tabDel n s.junctions }) := by
  have hc : (g.failed || s.memberLost g) = true := by
    rcases hf with h | ⟨m, hm, h⟩
    · simp [h]
    · have hl : s.memberLost g = true := List.any_eq_true.2 ⟨m, hm, by simp [h]⟩
      simp [hl]
  rw [exec_collectiveGroupFail, execCollectiveGroupFail, hi]
  dsimp only
  rw [hg]
  exact if_pos hc

theorem collectiveGroupFail_ends {s : State} {n : Nat} {g : Junction} (hi : s.input = .collectiveGroupFail n) (hg : tabFind n s.junctions = some g)
    (hf : g.failed = true ∨ ∃ m ∈ g.members, s.job? m.tile m.job = none) :
    ∃ t, exec .collectiveGroupFail s = .next t ∧ tabFind n t.junctions = none ∧
      ∀ m ∈ g.members, ∀ w j, t.job? m.tile m.job = some (w, j) → j.stage = .faulted Trap.collective 3 0 := by
  refine ⟨_, collectiveGroupFail_fails hi hg hf, ?_, fun m hm w j hj => ?_⟩
  · have hj : (updJoined g.members Job.lost { s with junctions := tabDel n s.junctions }).junctions = tabDel n s.junctions :=
      (congrArg State.junctions (updJoined_rest g.members _ _) :)
    rw [hj, tabFind_tabDel_same]
  · have h := jobOn_of_job? hj
    rw [jobOn_updJoined (f := Job.lost) g.members (fun _ => rfl) (fun _ => rfl), if_pos ⟨m, hm, rfl, rfl⟩] at h
    obtain ⟨k, -, rfl⟩ := Option.map_eq_some_iff.1 h
    rfl

/-! ### Joining (R354) -/

theorem collectiveJoin_starts {s : State} {x id : Nat} {w : Workgroup} {j : Job} {c : BitVec 1024} (hi : s.input = .collectiveJoin x id)
    (hj : s.job? x id = some (w, j)) (hk : j.kind = .collective c) (hm : s.mayStart w j = true) :
    exec .collectiveJoin s = .next (s.collJoin x w j c) := by
  rw [exec_collectiveJoin, execCollectiveJoin, hi]
  dsimp only
  rw [hj]
  dsimp only
  rw [hk]
  exact congrArg Host.Outcome.next (if_pos hm)

/-- The claimed fields of a group are those of a card. -/
theorem sameGroup_claim (g : Junction) (tenant : Nat) (c : BitVec 1024) : g.sameGroup (claim tenant c) = true ↔
    g.op = cardField c 0 3 0 ∧ g.len = collLen c ∧ g.chunk = collChunk c ∧ g.nlocal = collLocal c ∧ g.npeer = collPeers c ∧
      g.peers = BitVec.ofNat 64 (collPeerSet c) := by
  unfold Junction.sameGroup claim
  dsimp only
  simp only [Bool.and_eq_true, decide_eq_true_eq, and_assoc]

theorem collJoin_free {s : State} {c : BitVec 1024} (h : tabFind (collEntry c) s.junctions = none) (x : Nat) (w : Workgroup) (j : Job) :
    s.collJoin x w j c = s.joinGroup x w j c := by
  unfold State.collJoin
  rw [h]

section
variable {s : State} {x : Nat} {w : Workgroup} {j : Job} {c : BitVec 1024} {g : Junction}

theorem collJoin_busy (h : tabFind (collEntry c) s.junctions = some g)
    (hk : g.tenant ≠ s.tenantOf w ∨ g.key ≠ BitVec.ofNat 64 (cardField c 0x08 63 0)) :
    s.collJoin x w j c = s.updJob x j.id fun j => { j with waitSince := some (j.waitSince.getD s.fabricCycles) } := by
  unfold State.collJoin
  rw [h]
  refine if_pos ?_
  rw [Bool.or_eq_true, decide_eq_true_eq, decide_eq_true_eq]
  exact hk

theorem collJoin_mismatch (h : tabFind (collEntry c) s.junctions = some g) (ht : g.tenant = s.tenantOf w)
    (hk : g.key = BitVec.ofNat 64 (cardField c 0x08 63 0))
    (hm : g.reduced = true ∨ ¬ g.sameGroup (claim (s.tenantOf w) c) = true ∨ ∃ m ∈ g.members, m.rank = collRank c) :
    s.collJoin x w j c = s.failJob x j.id Trap.collective CollectiveCode.mismatch 0 := by
  unfold State.collJoin
  rw [h]
  dsimp only
  rw [if_neg (by simp [claim, ht, hk])]
  refine if_pos ?_
  rw [Bool.or_eq_true, Bool.or_eq_true, Bool.not_eq_true', ← Bool.not_eq_true, List.any_eq_true, or_assoc]
  simpa using hm

theorem collJoin_matching (h : tabFind (collEntry c) s.junctions = some g) (ht : g.tenant = s.tenantOf w)
    (hk : g.key = BitVec.ofNat 64 (cardField c 0x08 63 0)) (hr : g.reduced = false) (hs : g.sameGroup (claim (s.tenantOf w) c) = true)
    (hm : ∀ m ∈ g.members, m.rank ≠ collRank c) : s.collJoin x w j c = s.joinGroup x w j c := by
  unfold State.collJoin
  rw [h]
  dsimp only
  rw [if_neg (by simp [claim, ht, hk]), if_neg (by simpa [hr, hs] using hm)]

/-- A job that joins a group starts. -/
def Job.starting (j : Job) : Job := { j with stage := .started, waitSince := none, read := [] }

/-- A group with one more member. -/
def withMember (g : Junction) (c : BitVec 1024) (x : Nat) (j : Job) (bs : List Byte) : Junction :=
  { g with members := g.members ++ [⟨collRank c, x, j.id, bs⟩] }

/-- The state in which a job of a tenant has joined a group, before the group is reduced. -/
def joinedState (e : State) (x : Nat) (j : Job) (c : BitVec 1024) (tenant : Nat) (g : Junction) : State :=
  ({ e.unholdJob x j.id with
      junctions := tabSet (collEntry c) g e.junctions
      peerHeld := e.peerHeld.filter fun y => !(y.tenant = tenant && y.key = g.key && g.peers.getLsbD y.peer) } : State).updJob x j.id
    Job.starting

theorem joinedState_stage {e : State} {k : Job} (h : jobOn e x j.id = some k) (tenant : Nat) (g : Junction) :
    (jobOn (joinedState e x j c tenant g) x j.id).map (·.stage) = some .started := by
  have hs := jobOn_updJob (f := Job.starting) { e.unholdJob x j.id with
      junctions := tabSet (collEntry c) g e.junctions
      peerHeld := e.peerHeld.filter fun y => !(y.tenant = tenant && y.key = g.key && g.peers.getLsbD y.peer) } x j.id x j.id fun _ => rfl
  rw [if_pos ⟨rfl, rfl⟩] at hs
  rw [joinedState, hs]
  exact congrArg (fun o => (o.map Job.starting).map (·.stage)) h

/-- A job that has read its contribution joins, and the group is reduced if it is complete. -/
theorem joinGroup_reads {e : State} {bs : List Byte}
    (h : (⟨x, w, j, s.tenantOf w⟩ : JobCtx).read s (collSsp c) (cardField c 0x20 63 0 : Int) (collLen c) = (e, .ok bs)) :
    s.joinGroup x w j c =
      (joinedState e x j c (s.tenantOf w) (withMember (e.groupFor (s.tenantOf w) c) c x j bs)).reduceGroup (collEntry c) := by
  unfold State.joinGroup
  dsimp only
  rw [h]
  rfl

theorem isMcast_collective (hk : j.kind = .collective c) : j.isMcast = false := by simp [Job.isMcast, hk]

theorem Around.junctions {s e : State} (h : Around s e) : e.junctions = s.junctions := (congrArg State.junctions h :)

theorem Around.peerHeld {s e : State} (h : Around s e) : e.peerHeld = s.peerHeld := (congrArg State.peerHeld h :)

theorem groupFor_congr {e : State} (hj : e.junctions = s.junctions) (hp : e.peerHeld = s.peerHeld) (tenant : Nat) :
    e.groupFor tenant c = s.groupFor tenant c := by
  unfold State.groupFor
  rw [hj, hp]

theorem groupFor_claimed (h : tabFind (collEntry c) s.junctions = some g) (tenant : Nat) : s.groupFor tenant c = g := by
  unfold State.groupFor
  rw [h]

/-- What peers have sent to a group before it is claimed. -/
def sentBefore (s : State) (g : Junction) : List PeerChunk := s.peerHeld.filter fun y => y.tenant = g.tenant && y.key = g.key && g.peers.getLsbD y.peer

theorem mem_sentBefore {y : PeerChunk} : y ∈ sentBefore s g ↔ y ∈ s.peerHeld ∧ y.tenant = g.tenant ∧ y.key = g.key ∧ g.peers.getLsbD y.peer = true := by
  unfold sentBefore
  rw [List.mem_filter, Bool.and_eq_true, Bool.and_eq_true, decide_eq_true_eq, decide_eq_true_eq, and_assoc]

theorem groupFor_free (h : tabFind (collEntry c) s.junctions = none) (tenant : Nat) :
    s.groupFor tenant c = { claim tenant c with contributions := sentBefore s (claim tenant c) } := by
  unfold State.groupFor
  rw [h]
  rfl

/-- What joining leaves: the group with the new member, reduced or not, memory as the reads left it, and the job started. -/
theorem joinGroup_joins {id : Nat} {e : State} {bs : List Byte} (hj : s.job? x id = some (w, j)) (hk : j.kind = .collective c)
    (h : (⟨x, w, j, s.tenantOf w⟩ : JobCtx).read s (collSsp c) (cardField c 0x20 63 0 : Int) (collLen c) = (e, .ok bs)) :
    ∃ r, tabFind (collEntry c) (s.joinGroup x w j c).junctions =
        some { withMember (s.groupFor (s.tenantOf w) c) c x j bs with reduced := r } ∧
      (s.joinGroup x w j c).mem = e.mem ∧ ((s.joinGroup x w j c).job? x id).map (·.2.stage) = some .started := by
  obtain rfl := job?_id hj
  have hread := jobRead_jobReads (c := ⟨x, w, j, s.tenantOf w⟩) (isMcast_collective hk) s (collSsp c) (cardField c 0x20 63 0 : Int) (collLen c)
  rw [h] at hread
  have hg := groupFor_congr (c := c) hread.around.junctions hread.around.peerHeld (s.tenantOf w)
  rw [joinGroup_reads h, hg]
  have hf : tabFind (collEntry c) (joinedState e x j c (s.tenantOf w) (withMember (s.groupFor (s.tenantOf w) c) c x j bs)).junctions =
      some (withMember (s.groupFor (s.tenantOf w) c) c x j bs) := tabFind_tabSet_same _ _ _
  obtain ⟨r, hr⟩ := reduceGroup_junction hf
  refine ⟨r, hr, reduceGroup_mem hf, ?_⟩
  have hstage := reduceGroup_stage hf x j.id
  obtain ⟨k, hk', -⟩ : ∃ k, jobOn e x j.id = some k ∧ Job.unread k = Job.unread j := by
    have := hread.jobs x j.id
    rw [jobOn_of_job? hj] at this
    exact Option.map_eq_some_iff.1 this
  rw [joinedState_stage hk', jobOn_eq, Option.map_map] at hstage
  exact hstage
end

/-! ### Peers (R85) -/

theorem exists_tabFind {α : Type} {n : Nat} {v : α} {t : List (Nat × α)} (h : (n, v) ∈ t) : ∃ d, tabFind n t = some d := by
  induction t with
  | nil => cases h
  | cons e r ih =>
    by_cases he : e.1 = n
    · exact ⟨e.2, by simp [tabFind, he]⟩
    · rcases List.mem_cons.1 h with hm | hm
      · exact absurd (congrArg Prod.fst hm).symm he
      · simpa [tabFind, he] using ih hm

theorem peerChunkArrival_joins {s : State} {y : PeerChunk} {n : Nat} {g : Junction} (hi : s.input = .peerChunkArrival y)
    (hu : s.peerUp y.peer = true) (hc : s.checkpoint = none) (hg : s.groupOf y = some (n, g)) :
    ∃ t d, exec .peerChunkArrival s = .next t ∧ tabFind n t.junctions = some d ∧ y ∈ d.contributions := by
  have hx : exec .peerChunkArrival s = .next (({ s with
      junctions := tabUpd n (fun g => { g with contributions := g.contributions ++ [y] }) s.junctions } : State).reduceGroup n) := by
    rw [exec_peerChunkArrival, execPeerChunkArrival, hi]
    simp [hu, hc, hg]
  obtain ⟨d, hd⟩ := exists_tabFind (List.mem_of_find?_eq_some hg)
  have hf : tabFind n (tabUpd n (fun g : Junction => { g with contributions := g.contributions ++ [y] }) s.junctions) =
      some { d with contributions := d.contributions ++ [y] } := by
    rw [tabFind_tabUpd_same, hd]
    rfl
  obtain ⟨r, hr⟩ := reduceGroup_junction (s := { s with
    junctions := tabUpd n (fun g => { g with contributions := g.contributions ++ [y] }) s.junctions }) hf
  exact ⟨_, _, hx, hr, by simp⟩

/-! ### Waiting for an entry, and the tree (R354, R355) -/

theorem joinLate_of {s : State} {j : Job} {t0 : Nat} (hs : j.stage = .queued) (hw : j.waitSince = some t0) (ht : t0 + 2 ^ 20 ≤ s.fabricCycles) :
    s.joinLate j = true := by
  have h : ((some t0).any fun t0 => t0 + 2 ^ 20 ≤ s.fabricCycles) = true := by
    rw [Option.any_some, decide_eq_true_eq]
    exact ht
  rw [State.joinLate, hs, hw, h]
  rfl

theorem collectiveJoinTimeout_fails {s : State} {x id t0 : Nat} {w : Workgroup} {j : Job} (hi : s.input = .collectiveJoinTimeout x id)
    (hj : s.job? x id = some (w, j)) (hs : j.stage = .queued) (hw : j.waitSince = some t0) (ht : t0 + 2 ^ 20 ≤ s.fabricCycles) :
    exec .collectiveJoinTimeout s = .next (s.updJob x id fun j => { j with stage := .faulted Trap.collective 1 0 }) := by
  rw [exec_collectiveJoinTimeout, execCollectiveJoinTimeout, hi]
  dsimp only
  rw [hj]
  dsimp only
  rw [if_pos (joinLate_of hs hw ht)]
  rfl

theorem collectiveTreeRebuild_counts {s : State} {n : Nat} (hi : s.input = .collectiveTreeRebuild n) :
    exec .collectiveTreeRebuild s = .next { s with junctions := tabUpd n (fun g => { g with rebuilds := g.rebuilds + 1 }) s.junctions } := by
  rw [exec_collectiveTreeRebuild, execCollectiveTreeRebuild, hi]

/-! ### The statement -/

/-- Settles O58, event by event: a job joins by `joinGroup_joins`, into a free entry or a group that matches; a group that loses members is
`Junction.lose`; its failure and its reduction update the jobs of its members (`jobOn_updJoined`); and the chunks of a result are its pieces
(`flatMap_pieces`). -/
theorem collectiveEvents : Obligations.CollectiveEvents := by
  unfold Obligations.CollectiveEvents
  refine ⟨?_, ?_, ?_, ?_, ?_, ?_, ?_, ?_⟩
  · intro s x id w j c hi hj hk hm key agrees
    have hx := collectiveJoin_starts hi hj hk hm
    have hid := job?_id hj
    refine ⟨fun hn e bs hr => ?_, fun d hd ht hkey hred ha hrank e bs hr => ?_, fun g hg h => ?_, fun g hg ht hkey h => ?_⟩
    · obtain ⟨r, hg, hmem, hst⟩ := joinGroup_joins hj hk hr
      rw [groupFor_free hn] at hg
      rw [hx, collJoin_free hn]
      refine ⟨_, _, rfl, hg, rfl, rfl, ⟨rfl, rfl, rfl, rfl, rfl, rfl⟩, ?_, hmem, hst, fun y => ?_⟩
      · exact congrArg (fun n => [(⟨collRank c, x, n, bs⟩ : Joined)]) hid
      · exact mem_sentBefore (g := claim (s.tenantOf w) c)
    · obtain ⟨r, hg, hmem, hst⟩ := joinGroup_joins hj hk hr
      rw [groupFor_claimed hd] at hg
      rw [hx, collJoin_matching hd ht hkey hred ((sameGroup_claim d _ c).2 ha) hrank]
      refine ⟨_, _, rfl, hg, ?_, ?_, hmem, hst⟩
      · exact congrArg (fun n => d.members ++ [(⟨collRank c, x, n, bs⟩ : Joined)]) hid
      · exact congrArg (fun r => { d with reduced := r }) hred.symm
    · rw [hx, collJoin_busy hg h, hid]
    · rw [hx, collJoin_mismatch hg ht hkey, hid]
      · rfl
      · rwa [sameGroup_claim]
  · exact fun s x id t0 w j => collectiveJoinTimeout_fails
  · exact fun s n g => collectiveGroupFail_ends
  · intro s p n g hn hg hs
    rw [tabFind_failGroups p hn hg]
    exact ⟨lose_all hs, lose_some hs⟩
  · exact fun s n => collectiveTreeRebuild_counts
  · intro s y hi
    refine ⟨fun hu => ?_, fun hu hc => ?_, fun hu hc hg => ?_, fun hu hc n g hg => peerChunkArrival_joins hi hu hc hg⟩
    all_goals rw [exec_peerChunkArrival, execPeerChunkArrival, hi]
    · simp [hu]
    · simp [hu, Option.isSome_iff_ne_none.2 hc]
    · simp [hu, hc, hg]
  · intro s n g hg hr hf hm hp
    rw [reduceGroup_complete hg hr hf hm hp]
    refine ⟨?_, fun m hm' w j hj => reducedState_writes hm' rfl rfl hj⟩
    rw [reducedState_junctions, tabFind_tabUpd_same, hg]
    rfl
  · exact fun c bs h => chunkWrites_bytes c bs h

end Sys2Proof.Proofs
end

section
/-! PROOFS. What writing records and ending launches leave of launch queues and launches (R72, R75, R76, R96, R106). -/

namespace Sys2Proof.Proofs

open Sys2Proof Sys2Proof.Machine Sys2Proof.Safety Sys2Proof.Rules Sys2Proof.Laws

theorem tabFind_tabUpd_map {α β : Type} {u : α → β} {f : α → α} (hf : ∀ v, u (f v) = u v) (k j : Nat) (t : List (Nat × α)) :
    (tabFind j (tabUpd k f t)).map u = (tabFind j t).map u := by
  by_cases h : j = k
  · subst h
    rw [tabFind_tabUpd_same, Option.map_map]
    exact congrArg (fun g => Option.map g _) (funext hf)
  · rw [tabFind_tabUpd_other h]

/-! ### Records that are written (R72, R76, R96) -/

/-- A queue but for the records that wait at it. -/
def unheld (q : LaunchQueue) : LaunchQueue := { q with held := [] }

/-- Records are written: launches stay, and queues but for the records that wait at them. -/
structure Flushed (s e : State) : Prop where
  launches : e.launches = s.launches
  queues : ∀ k, (tabFind k e.queues).map unheld = (tabFind k s.queues).map unheld

theorem Flushed.refl (s : State) : Flushed s s := ⟨rfl, fun _ => rfl⟩

/-- What leaves the queues alone. -/
theorem Flushed.of_queues {s e : State} (hl : e.launches = s.launches) (hq : e.queues = s.queues) : Flushed s e :=
  ⟨hl, fun _ => by rw [hq]⟩

theorem Flushed.trans {r s e : State} (h : Flushed r s) (k : Flushed s e) : Flushed r e :=
  ⟨k.launches.trans h.launches, fun n => (k.queues n).trans (h.queues n)⟩

theorem Flushed.foldl {α : Type} {f : State → α → State} (h : ∀ s x, Flushed s (f s x)) (l : List α) (s : State) :
    Flushed s (l.foldl f s) := by
  induction l generalizing s with
  | nil => exact .refl s
  | cons x r ih => exact (h s x).trans (ih _)

theorem ringWrite_flushed (s : State) (r : FaultRecord) (w : Nat) (b : Ward) : Flushed s (ringWrite s r w b).1 := by
  refine .of_queues ?_ ?_
  · simp only [ringWrite, apply_ite Prod.fst, apply_ite State.launches, pokeN_launches, sendMsix_launches, State.hostWrite, ite_self]
  · simp only [ringWrite, apply_ite Prod.fst, apply_ite State.queues, pokeN_queues, sendMsix_queues, State.hostWrite, ite_self]

theorem writeFault_flushed (s : State) (r : FaultRecord) : Flushed s (s.writeFault r).1 := by
  rcases writeFault_cases s r with ⟨-, h⟩ | ⟨-, h | ⟨w, b, h⟩⟩
  · rw [h]
    exact .of_queues rfl rfl
  · rw [h]
    exact .refl s
  · rw [h]
    exact ringWrite_flushed s r w b

theorem writeFaults_flushed (s : State) : Flushed s s.writeFaults := by
  refine Flushed.foldl (fun s r => ?_) _ s
  dsimp only
  split
  · exact (writeFault_flushed s r).trans (.of_queues rfl rfl)
  · exact writeFault_flushed s r

theorem writeRecord_flushed (s : State) (q : LaunchQueue) (h : HeldRecord) : Flushed s (s.writeRecord q h) := by
  refine .of_queues ?_ ?_
  · simp only [State.writeRecord, apply_ite State.launches, State.hostWrite, sendMsix_launches, pokeN_launches, ite_self]
  · simp only [State.writeRecord, apply_ite State.queues, State.hostWrite, sendMsix_queues, pokeN_queues, ite_self]

theorem tabUpd_flushed (s : State) (k : Nat) {f : LaunchQueue → LaunchQueue} (hf : ∀ q, unheld (f q) = unheld q) :
    Flushed s { s with queues := tabUpd k f s.queues } := ⟨rfl, fun n => tabFind_tabUpd_map hf k n s.queues⟩

theorem flushQueue_flushed (s : State) (qid : Nat) : Flushed s (s.flushQueue qid) := by
  unfold State.flushQueue
  split
  · exact .refl s
  · split
    · exact .refl s
    · refine Flushed.foldl (fun s h => ?_) _ s
      dsimp only
      exact (writeRecord_flushed s _ h).trans (tabUpd_flushed _ qid fun _ => rfl)

theorem flush_flushed (s : State) : Flushed s s.flush :=
  (writeFaults_flushed s).trans (Flushed.foldl (fun s (e : Nat × LaunchQueue) => flushQueue_flushed s e.1) _ _)

theorem postRecord_flushed (s : State) (qid seq : Nat) (bytes : List Byte) (intr : Bool) : Flushed s (s.postRecord qid seq bytes intr) := by
  refine .trans ?_ (flush_flushed _)
  exact tabUpd_flushed s qid fun _ => rfl

/-! ### Launches that are cancelled (R98, R106) -/

/-- A queue but for its records and the ends it notes. -/
def bareQueue (q : LaunchQueue) : LaunchQueue := { q with held := [], ended := [] }

/-- A launch is as it was, or has ended as CANCEL. -/
def CancelOnly (f : Launch → Launch) : Prop := ∀ l, f l = l ∨ f l = { l with status := some (4, 0) }

/-- Some launches have ended as CANCEL, and queues have noted and recorded it. -/
structure Cancels (s e : State) : Prop where
  queues : ∀ k, (tabFind k e.queues).map bareQueue = (tabFind k s.queues).map bareQueue
  launches : ∃ f, CancelOnly f ∧ e.launches = s.launches.map f

theorem Cancels.refl (s : State) : Cancels s s := ⟨fun _ => rfl, id, fun _ => .inl rfl, (List.map_id _).symm⟩

theorem CancelOnly.comp {f g : Launch → Launch} (hf : CancelOnly f) (hg : CancelOnly g) : CancelOnly (g ∘ f) := by
  intro l
  rcases hg (f l) with h | h <;> rcases hf l with k | k <;> rw [Function.comp_apply, h, k]
  · exact .inl rfl
  · exact .inr rfl
  · exact .inr rfl
  · exact .inr rfl

theorem Cancels.trans {r s e : State} (h : Cancels r s) (k : Cancels s e) : Cancels r e := by
  obtain ⟨f, hf, hl⟩ := h.launches
  obtain ⟨g, hg, hk⟩ := k.launches
  exact ⟨fun n => (k.queues n).trans (h.queues n), g ∘ f, hf.comp hg, by rw [hk, hl, List.map_map]⟩

theorem Cancels.foldl {α : Type} {f : State → α → State} (h : ∀ s x, Cancels s (f s x)) (l : List α) (s : State) :
    Cancels s (l.foldl f s) := by
  induction l generalizing s with
  | nil => exact .refl s
  | cons x r ih => exact (h s x).trans (ih _)

theorem Flushed.cancels {s e : State} (h : Flushed s e) : Cancels s e := by
  refine ⟨fun k => ?_, id, fun _ => .inl rfl, by rw [h.launches, List.map_id]⟩
  have hu := congrArg (Option.map bareQueue) (h.queues k)
  rw [Option.map_map, Option.map_map] at hu
  exact hu

/-- A queue that notes how a sequence number has ended. -/
def noting (seq status : Nat) (q : LaunchQueue) : LaunchQueue :=
  { q with ended := ((seq, status) :: q.ended.filter fun e => e.1 ≠ seq).filter fun e => q.recent e.1 }

theorem noteEnd_eq (s : State) (qid seq status : Nat) :
    s.noteEnd qid seq status = { s with queues := tabUpd qid (noting seq status) s.queues } := rfl

theorem bareQueue_ended (q : LaunchQueue) (l : List (Nat × Nat)) : bareQueue { q with ended := l } = bareQueue q := rfl

theorem bareQueue_noting (seq status : Nat) (q : LaunchQueue) : bareQueue (noting seq status q) = bareQueue q := bareQueue_ended q _

theorem noteEnd_cancels (s : State) (qid seq status : Nat) : Cancels s (s.noteEnd qid seq status) := by
  rw [noteEnd_eq]
  exact ⟨fun k => tabFind_tabUpd_map (u := bareQueue) (bareQueue_noting seq status) qid k s.queues, id, fun _ => .inl rfl,
    (List.map_id _).symm⟩

theorem updLaunch_cancels (s : State) (k : LaunchKey) :
    Cancels s (s.updLaunch k fun l => { l with status := some (4, 0) }) := by
  refine ⟨fun _ => rfl, fun l => if l.key = k then { l with status := some (4, 0) } else l, fun l => ?_, ?_⟩
  · dsimp only
    split
    · exact .inr rfl
    · exact .inl rfl
  · simp [mapIf]

theorem endOne_cancels (s : State) (k : LaunchKey) : Cancels s (s.endOne k 4 0) := by
  unfold State.endOne
  split
  · exact .refl s
  · split
    · exact .refl s
    · exact ((updLaunch_cancels s k).trans (noteEnd_cancels _ _ _ _)).trans (postRecord_flushed _ _ _ _ _).cancels

theorem endLaunch_cancels (n : Nat) (s : State) (k : LaunchKey) : Cancels s (State.endLaunch n s k 4 0) := by
  induction n generalizing s k with
  | zero => exact endOne_cancels s k
  | succ n ih => exact (endOne_cancels s k).trans (Cancels.foldl (fun s d => ih s d) _ _)

theorem finishLaunch_cancels (s : State) (k : LaunchKey) : Cancels s (s.finishLaunch k 4 0) := endLaunch_cancels _ s k

theorem cancelDependents_cancels (s : State) : Cancels s s.cancelDependents :=
  Cancels.foldl (fun s (l : Launch) => finishLaunch_cancels s l.key) _ s

/-- The launch of a key, after some launches have been cancelled. -/
theorem Cancels.launch? {s e : State} (h : Cancels s e) (k : LaunchKey) : ∃ f, CancelOnly f ∧ e.launch? k = (s.launch? k).map f := by
  obtain ⟨f, hf, hl⟩ := h.launches
  have hk : ∀ l, (f l).key = l.key := fun l => by rcases hf l with h | h <;> rw [h]
  refine ⟨f, hf, ?_⟩
  rw [State.launch?, State.launch?, hl, List.find?_map]
  simp only [Function.comp_def, hk]

/-- A launch that has ended stays ended. -/
theorem Cancels.ended {s e : State} (h : Cancels s e) {k : LaunchKey} (hs : ∀ l, s.launch? k = some l → l.status.isSome = true) :
    ∀ l, e.launch? k = some l → l.status.isSome = true := by
  obtain ⟨f, hf, he⟩ := h.launch? k
  intro l hl
  rw [he, Option.map_eq_some_iff] at hl
  obtain ⟨m, hm, rfl⟩ := hl
  rcases hf m with h | h
  · rw [h]
    exact hs m hm
  · rw [h]
    rfl

theorem launch?_updLaunch {s : State} {k : LaunchKey} {l : Launch} (h : s.launch? k = some l) {f : Launch → Launch}
    (hf : ∀ l, (f l).key = l.key) : (s.updLaunch k f).launch? k = some (f l) := by
  have hk : l.key = k := by simpa using List.find?_some h
  have hp : ∀ l : Launch, (if l.key = k then f l else l).key = l.key := fun l => by split <;> simp [hf]
  rw [State.launch?] at h ⊢
  rw [State.updLaunch, mapIf, List.find?_map]
  simp [hp, h, hk]

theorem endOne_ended (s : State) (k : LaunchKey) : ∀ l, (s.endOne k 4 0).launch? k = some l → l.status.isSome = true := by
  unfold State.endOne
  cases h : s.launch? k with
  | none => simp [h]
  | some m =>
    dsimp only
    split
    next hm => simp [h, hm]
    next hm =>
      refine Cancels.ended ((noteEnd_cancels _ _ _ _).trans (postRecord_flushed _ _ _ _ _).cancels) ?_
      intro l hl
      rw [launch?_updLaunch h (by exact fun _ => rfl), Option.some.injEq] at hl
      rw [← hl]
      rfl

theorem finishLaunch_ended (s : State) (k : LaunchKey) : ∀ l, (s.finishLaunch k 4 0).launch? k = some l → l.status.isSome = true := by
  unfold State.finishLaunch
  cases s.launches.length with
  | zero => exact endOne_ended s k
  | succ n => exact (Cancels.foldl (fun s d => endLaunch_cancels n s d) _ _).ended (endOne_ended s k)

theorem foldl_finishLaunch_ended {ls : List Launch} {l : Launch} (h : l ∈ ls) (s : State) :
    ∀ m, (ls.foldl (fun s l => s.finishLaunch l.key 4 0) s).launch? l.key = some m → m.status.isSome = true := by
  induction ls generalizing s with
  | nil => cases h
  | cons x r ih =>
    rcases List.mem_cons.1 h with rfl | h
    · exact (Cancels.foldl (fun s (l : Launch) => finishLaunch_cancels s l.key) r _).ended (finishLaunch_ended s l.key)
    · exact ih h _

/-- A launch of which what it waits for has failed ends as CANCEL. -/
theorem cancelDependents_cancels_failed {s : State} {l : Launch} (h : s.launch? l.key = some l) (hs : l.status = none) (he : l.ending = none)
    (hn : l.nextGang = 0) (hd : s.depState l = .cancel) : (s.cancelDependents.launch? l.key).bind (·.status) = some (4, 0) := by
  have hm : l ∈ s.launches.filter fun l => l.goes && l.nextGang = 0 && s.depState l = .cancel := by
    rw [List.mem_filter]
    exact ⟨List.mem_of_find?_eq_some h, by simp [Launch.goes, hs, he, hn, hd]⟩
  have hend := foldl_finishLaunch_ended hm s
  obtain ⟨f, hf, hl⟩ := (cancelDependents_cancels s).launch? l.key
  rw [h] at hl
  have hfl := hend _ hl
  rw [hl]
  rcases hf l with hx | hx
  · rw [hx, hs] at hfl
    cases hfl
  · rw [Option.map_some, Option.bind_some, hx]

theorem cancelDependents_of_ready {s : State} (h : ∀ l ∈ s.launches, l.dep = none) : s.cancelDependents = s := by
  have hf : (s.launches.filter fun l => l.goes && l.nextGang = 0 && s.depState l = .cancel) = [] := by
    refine List.filter_eq_nil_iff.2 fun l hl => ?_
    have hr : s.depState l = .ready := by rw [State.depState, h l hl]
    simp [hr]
  rw [State.cancelDependents, hf]
  rfl

end Sys2Proof.Proofs
end

section
/-! PROOFS. What the device obtains from a host does not depend on the launch queues (R79, R167, R170). -/

namespace Sys2Proof.Proofs

open Sys2Proof Sys2Proof.Machine Sys2Proof.Safety Sys2Proof.Rules Sys2Proof.Laws

/-- A state with other launch queues. -/
def withQueues (qs : List (Nat × LaunchQueue)) (s : State) : State := { s with queues := qs }

section
variable (qs : List (Nat × LaunchQueue)) (s : State)

theorem foldl_withQueues {α : Type} {f : State → α → State} (h : ∀ s x, f (withQueues qs s) x = withQueues qs (f s x)) (l : List α) :
    l.foldl f (withQueues qs s) = withQueues qs (l.foldl f s) := by
  induction l generalizing s with
  | nil => rfl
  | cons x r ih => exact (congrArg (fun s => r.foldl f s) (h s x)).trans (ih _)

theorem modified_withQueues (line : Nat) : (withQueues qs s).modified line = s.modified line := rfl

theorem lineReached_withQueues (line : Nat) : (withQueues qs s).lineReached line = s.lineReached line := rfl

theorem farLine_withQueues (line : Nat) : (withQueues qs s).farLine line = s.farLine line := rfl

theorem writeHome_withQueues (line : Nat) : (withQueues qs s).writeHome line = withQueues qs (s.writeHome line) := rfl

theorem loseCopies_withQueues (line : Nat) : (withQueues qs s).loseCopies line = withQueues qs (s.loseCopies line) := by
  have hk : (withQueues qs s).memKey (128 * line) = s.memKey (128 * line) := rfl
  rw [State.loseCopies, State.loseCopies, hk]
  generalize s.memKey (128 * line) = k, List.replicate 128 (0 : Byte) = bs
  rfl

theorem flushLine_withQueues (line : Nat) : (withQueues qs s).flushLine line = withQueues qs (s.flushLine line) := by
  simp only [State.flushLine, modified_withQueues, lineReached_withQueues, farLine_withQueues, writeHome_withQueues, loseCopies_withQueues,
    apply_ite (withQueues qs)]
  rfl

theorem evict_withQueues (p : Nat → Bool) : (withQueues qs s).evict p = withQueues qs (s.evict p) :=
  congrArg (fun e : State => { e with wc := e.wc.filter fun l => !p l.line })
    (foldl_withQueues qs s (fun s l => flushLine_withQueues qs s l) ((s.wc.map (·.line)).filter p))

theorem removeEntry_withQueues (k : RegionKey) : (withQueues qs s).removeEntry k = withQueues qs (s.removeEntry k) :=
  congrArg (fun e : State => ({ e with regions := e.regions.filter fun r => r.key ≠ k } : State).dropReplicas k)
    (evict_withQueues qs s fun l => k.has (128 * l))

theorem regions_withQueues : (withQueues qs s).regions = s.regions := rfl

theorem anchor_withQueues (pa : Nat) : (withQueues qs s).anchor pa = s.anchor pa := rfl

theorem oldestAt_withQueues (a : Nat) (k : RegionKey) : (withQueues qs s).oldestAt a k = s.oldestAt a k := rfl

theorem limitEntries_withQueues (k : RegionKey) : (withQueues qs s).limitEntries k = withQueues qs (s.limitEntries k) := by
  simp only [State.limitEntries, regions_withQueues, anchor_withQueues, oldestAt_withQueues, apply_ite (withQueues qs)]
  cases s.oldestAt (s.anchor k.base) k with
  | none => rfl
  | some e =>
    simp only [removeEntry_withQueues]
    rfl

theorem putRegion_withQueues (e : RegionEntry) : (withQueues qs s).putRegion e = withQueues qs (s.putRegion e) :=
  limitEntries_withQueues qs { s with regions := e :: s.regions.filter fun r => r.key ≠ e.key } e.key

theorem region?_withQueues (pa : Nat) : (withQueues qs s).region? pa = s.region? pa := rfl

theorem regionFor_withQueues (pa : Nat) : (withQueues qs s).regionFor pa = s.regionFor pa := rfl

theorem ensureRegion_withQueues (pa : Nat) : (withQueues qs s).ensureRegion pa = withQueues qs (s.ensureRegion pa) := by
  simp only [State.ensureRegion, region?_withQueues, regionFor_withQueues, putRegion_withQueues, apply_ite (withQueues qs)]

theorem wcLine?_withQueues (line : Nat) : (withQueues qs s).wcLine? line = s.wcLine? line := rfl

theorem useLine_withQueues (pa ward : Nat) : (withQueues qs s).useLine pa ward = withQueues qs (s.useLine pa ward) := by
  simp only [State.useLine, wcLine?_withQueues, regionFor_withQueues]
  cases s.wcLine? (lineOf pa) <;> rfl

theorem hostGives_withQueues (line : Nat) : (withQueues qs s).hostGives line = withQueues qs (s.hostGives line) :=
  congrArg (fun e : State => { e with hostLines := s.hostLines.filter fun h => h.1 / 2 ≠ line })
    (foldl_withQueues qs s (f := fun (s : State) (h : Nat × List Byte) => s.pokeN (64 * h.1) (h.2.take 64)) (fun _ _ => rfl)
      (s.hostLines.filter fun h => h.1 / 2 = line))

theorem inHostBias_withQueues (pa : Nat) : (withQueues qs s).inHostBias pa = s.inHostBias pa := rfl

theorem obtain_withQueues (pa : Nat) (own : Bool) : (withQueues qs s).obtain pa own = withQueues qs (s.obtain pa own) := by
  simp only [State.obtain, inHostBias_withQueues, hostGives_withQueues, apply_ite (withQueues qs)]
  rfl

theorem dropResident_withQueues (r : Resident) : (withQueues qs s).dropResident r = withQueues qs (s.dropResident r) := by
  unfold State.dropResident
  cases r.replica with
  | none => exact evict_withQueues qs s _
  | some q => rfl

theorem residents_withQueues (b n : Nat) : (withQueues qs s).residents b n = s.residents b n := rfl

theorem victim_withQueues (rs : List Resident) (ward line : Nat) : (withQueues qs s).victim rs ward line = s.victim rs ward line := rfl

theorem fitSet_withQueues (b ward line n : Nat) : (withQueues qs s).fitSet b ward line n = withQueues qs (s.fitSet b ward line n) := by
  induction n generalizing s with
  | zero => rfl
  | succ n ih =>
    simp only [State.fitSet, residents_withQueues, victim_withQueues, apply_ite (withQueues qs)]
    cases s.victim (s.residents b (Config.wcSet line % 4096)) ward line with
    | none => rfl
    | some r =>
      simp only [dropResident_withQueues, ih]
      rfl

theorem settleLine_withQueues (pa ward : Nat) : (withQueues qs s).settleLine pa ward = withQueues qs (s.settleLine pa ward) := by
  have hb : (withQueues qs s).servingBank (lineOf pa) = s.servingBank (lineOf pa) := rfl
  rw [State.settleLine, State.settleLine, hb, State.makeRoom, State.makeRoom, apply_ite (withQueues qs), fitSet_withQueues]
  rfl

theorem obtainRead_withQueues (pa : Nat) : (withQueues qs s).obtainRead pa = withQueues qs (s.obtainRead pa) := by
  simp only [State.obtainRead, inHostBias_withQueues, ensureRegion_withQueues, useLine_withQueues, obtain_withQueues, settleLine_withQueues,
    apply_ite (withQueues qs)]

theorem obtainEntries_withQueues (tenant va : Nat) : (withQueues qs s).obtainEntries tenant va = withQueues qs (s.obtainEntries tenant va) := by
  have hf := foldl_withQueues qs s (f := fun s _ => (s.walkEntries tenant va).foldl State.obtainRead s)
    (fun e _ => foldl_withQueues qs e (obtainRead_withQueues qs) (e.walkEntries tenant va)) (List.range 4)
  rw [State.obtainEntries, State.obtainEntries, apply_ite (withQueues qs), ← hf]
  rfl

theorem walk_withQueues (tenant : Nat) (m : AccessMode) (va : Nat) : (withQueues qs s).walk tenant m va = s.walk tenant m va := rfl

theorem pageCheck_withQueues (m : AccessMode) (pool : Bool) (va : Nat) (p : Page) :
    (withQueues qs s).pageCheck m pool va p = s.pageCheck m pool va p := rfl

theorem vaRead_withQueues (tenant va n : Nat) : (withQueues qs s).vaRead tenant va n = s.vaRead tenant va n := rfl

/-- What is obtained of one piece of a range of virtual addresses. -/
def obtainPiece (tenant va : Nat) (s : State) (p : Nat × Nat) : State :=
  let s := s.obtainEntries tenant (va + p.1)
  match s.walk tenant .read (va + p.1) with
  | .ok pg => (match s.pageCheck .read false (va + p.1) pg with
    | .ok pa => s.obtainRead pa
    | .error _ => s)
  | .error _ => s

theorem vaObtain_eq (tenant va n : Nat) :
    s.vaObtain tenant va n = if 2 ^ 48 < va + n then s else (pieces va n 0 n).foldl (obtainPiece tenant va) s := rfl

theorem obtainPiece_withQueues (tenant va : Nat) (p : Nat × Nat) :
    obtainPiece tenant va (withQueues qs s) p = withQueues qs (obtainPiece tenant va s p) := by
  unfold obtainPiece
  simp only [obtainEntries_withQueues, walk_withQueues, pageCheck_withQueues]
  cases (s.obtainEntries tenant (va + p.1)).walk tenant .read (va + p.1) with
  | error f => rfl
  | ok pg =>
    dsimp only
    cases (s.obtainEntries tenant (va + p.1)).pageCheck .read false (va + p.1) pg with
    | error f => rfl
    | ok pa => exact obtainRead_withQueues qs _ pa

theorem vaObtain_withQueues (tenant va n : Nat) : (withQueues qs s).vaObtain tenant va n = withQueues qs (s.vaObtain tenant va n) := by
  rw [vaObtain_eq, vaObtain_eq, apply_ite (withQueues qs), foldl_withQueues qs s (fun s p => obtainPiece_withQueues qs s tenant va p)]

theorem obtainCode_withQueues (tenant code entry : Nat) :
    (withQueues qs s).obtainCode tenant code entry = withQueues qs (s.obtainCode tenant code entry) := by
  unfold State.obtainCode
  simp only [vaObtain_withQueues, vaRead_withQueues]
  cases (s.vaObtain tenant code 256).vaRead tenant code 256 with
  | none => rfl
  | some b => simp only

theorem ward?_withQueues (w : Nat) : (withQueues qs s).ward? w = s.ward? w := rfl

theorem effTiles_withQueues (w : Nat) : (withQueues qs s).effTiles w = s.effTiles w := rfl

theorem effSpadb_withQueues (w : Nat) : (withQueues qs s).effSpadb w = s.effSpadb w := rfl

theorem checkCode_withQueues (tenant code entry squads shape spad : Nat) :
    (withQueues qs s).checkCode tenant code entry squads shape spad = s.checkCode tenant code entry squads shape spad := by
  have hf : (withQueues qs s).flash = s.flash := rfl
  simp only [State.checkCode, vaRead_withQueues, hf]

/-- Queues that read the same answer the launch check the same. -/
theorem checkPacket_withQueues {qs : List (Nat × LaunchQueue)} {s : State} (h : ∀ k, tabFind k qs = tabFind k s.queues) (q : LaunchQueue)
    (b : List Byte) (poison : Bool) : (withQueues qs s).checkPacket q b poison = s.checkPacket q b poison := by
  have hq : (withQueues qs s).queues = qs := rfl
  simp only [State.checkPacket, ward?_withQueues, effTiles_withQueues, effSpadb_withQueues, checkCode_withQueues, hq, h]
  rfl

end

end Sys2Proof.Proofs
end

section
/-! PROOFS. Launch queues (R70-R76, R106): the records that a flush writes, the reading of a packet, and what becomes of it. -/

namespace Sys2Proof.Proofs

open Sys2Proof Sys2Proof.Machine Sys2Proof.Safety Sys2Proof.Rules Sys2Proof.Laws

/-! ### Tables -/

theorem forall_tabUpd {α : Type} {P : α → Prop} {t : List (Nat × α)} (h : ∀ e ∈ t, P e.2) (k : Nat) {f : α → α} (hf : ∀ v, P v → P (f v)) :
    ∀ e ∈ tabUpd k f t, P e.2 := by
  intro e he
  obtain ⟨x, hx, rfl⟩ := List.mem_map.1 he
  split
  · exact hf _ (h x hx)
  · exact h x hx

theorem mem_of_tabFind {α : Type} {k : Nat} {v : α} {t : List (Nat × α)} (h : tabFind k t = some v) : (k, v) ∈ t := by
  induction t with
  | nil => cases h
  | cons e r ih =>
    by_cases he : e.1 = k
    · rw [tabFind, if_pos he, Option.some.injEq] at h
      exact List.mem_cons.2 (.inl (Prod.ext he.symm h.symm))
    · rw [tabFind, if_neg he] at h
      exact List.mem_cons_of_mem _ (ih h)

/-! ### A flush (R72, R76, R96) -/

/-- No completion record waits at a queue. -/
def noneHeld (qs : List (Nat × LaunchQueue)) : Prop := ∀ e ∈ qs, e.2.held = []

theorem writeFaults_idle {s : State} (h : s.faults = []) : s.writeFaults = s := by
  rw [State.writeFaults, h]
  rfl

theorem flushQueue_idle {s : State} {k : Nat} (h : ∀ q, tabFind k s.queues = some q → q.held = []) : s.flushQueue k = s := by
  unfold State.flushQueue
  cases hq : tabFind k s.queues with
  | none => rfl
  | some q =>
    dsimp only
    rw [h q hq]
    exact ite_self s

theorem foldl_fixed {α β : Type} {f : β → α → β} {w : β} (h : ∀ x, f w x = w) (l : List α) : l.foldl f w = w := by
  induction l with
  | nil => rfl
  | cons x r ih => rw [List.foldl_cons, h, ih]

/-- Steps that stay at u, or reach w and stay there, reach w if one does. -/
theorem foldl_reaches {α β : Type} {f : β → α → β} {u w : β} (hw : ∀ x, f w x = w) (hu : ∀ x, f u x = u ∨ f u x = w) {l : List α}
    (h : ∃ x ∈ l, f u x = w) : l.foldl f u = w := by
  induction l with
  | nil => simp at h
  | cons x r ih =>
    rw [List.foldl_cons]
    rcases hu x with hx | hx
    · rw [hx]
      obtain ⟨y, hy, hf⟩ := h
      rcases List.mem_cons.1 hy with rfl | hy
      · rw [show u = w from hx.symm.trans hf]
        exact foldl_fixed hw r
      · exact ih ⟨y, hy, hf⟩
    · rw [hx]
      exact foldl_fixed hw r

theorem flush_idle {s : State} (hf : s.faults = []) (hh : noneHeld s.queues) : s.flush = s := by
  rw [State.flush, writeFaults_idle hf]
  exact foldl_fixed (fun (x : Nat × LaunchQueue) => flushQueue_idle fun q hq => hh (x.1, q) (mem_of_tabFind hq)) _

/-- A record waits at a queue, behind those that wait there. -/
def holding (h : HeldRecord) (q : LaunchQueue) : LaunchQueue := { q with held := q.held ++ [h] }

/-- A record that has waited at a queue has been written. -/
def unholding (h : HeldRecord) (q : LaunchQueue) : LaunchQueue := { q with held := q.held.erase h }

theorem postRecord_eq (s : State) (qid seq : Nat) (bytes : List Byte) (intr : Bool) :
    s.postRecord qid seq bytes intr = (withQueues (tabUpd qid (holding ⟨seq, bytes, intr⟩) s.queues) s).flush := rfl

theorem inOrder_single (q : LaunchQueue) (h : HeldRecord) : q.inOrder [h] = [h] := by
  unfold LaunchQueue.inOrder sortBy
  rfl

theorem writeRecord_withQueues (s : State) (qs : List (Nat × LaunchQueue)) (q : LaunchQueue) (l : List HeldRecord) (h : HeldRecord) :
    (withQueues qs s).writeRecord { q with held := l } h = withQueues qs (s.writeRecord q h) := by
  simp only [State.writeRecord, State.hostWrite, apply_ite (withQueues qs)]
  rfl

/-- The state once the only record of a queue is written. -/
def recorded (s : State) (qid : Nat) (q : LaunchQueue) (h : HeldRecord) : State :=
  withQueues (tabUpd qid (unholding h) (tabUpd qid (holding h) s.queues)) (s.writeRecord q h)

theorem recorded_noneHeld {s : State} (hh : noneHeld s.queues) (qid : Nat) (q : LaunchQueue) (h : HeldRecord) :
    noneHeld (recorded s qid q h).queues := by
  intro e he
  obtain ⟨y, hy, rfl⟩ := List.mem_map.1 he
  obtain ⟨x, hx, rfl⟩ := List.mem_map.1 hy
  have hx' := hh x hx
  by_cases hk : x.1 = qid <;> simp [hk, holding, unholding, hx']

theorem flushQueue_recorded {s : State} {qid : Nat} {q : LaunchQueue} {h : HeldRecord} (hf : s.faults = []) (hh : noneHeld s.queues)
    (hq : tabFind qid s.queues = some q) (hp : s.hostPort q.port = true) :
    (withQueues (tabUpd qid (holding h) s.queues) s).flushQueue qid = recorded s qid q h := by
  have hl : tabFind qid (withQueues (tabUpd qid (holding h) s.queues) s).queues = some { q with held := [h] } := by
    rw [show (withQueues (tabUpd qid (holding h) s.queues) s).queues = tabUpd qid (holding h) s.queues from rfl, tabFind_tabUpd_same, hq,
      Option.map_some, holding, hh _ (mem_of_tabFind hq)]
    rfl
  have hf' : (withQueues (tabUpd qid (holding h) s.queues) s).faults = [] := hf
  have hp' : (withQueues (tabUpd qid (holding h) s.queues) s).hostPort q.port = true := hp
  unfold State.flushQueue
  rw [hl]
  dsimp only
  rw [hp', hf']
  simp only [List.any_nil, Bool.not_false, Bool.not_true, Bool.false_eq_true, if_false, List.filter_true, inOrder_single, List.foldl_cons,
    List.foldl_nil, writeRecord_withQueues]
  rfl

/-- A record that is posted where none waits is written at once. -/
theorem postRecord_recorded {s : State} {qid seq : Nat} {q : LaunchQueue} {bytes : List Byte} {intr : Bool} (hf : s.faults = [])
    (hh : noneHeld s.queues) (hq : tabFind qid s.queues = some q) (hp : s.hostPort q.port = true) :
    s.postRecord qid seq bytes intr = recorded s qid q ⟨seq, bytes, intr⟩ := by
  rw [postRecord_eq, State.flush, writeFaults_idle (s := withQueues (tabUpd qid (holding ⟨seq, bytes, intr⟩) s.queues) s) hf]
  have hone := flushQueue_recorded (h := ⟨seq, bytes, intr⟩) hf hh hq hp
  refine foldl_reaches (fun x => ?_) (fun x => ?_) ?_
  · exact flushQueue_idle fun q' hq' => recorded_noneHeld hh qid q _ _ (mem_of_tabFind hq')
  · by_cases hx : x.1 = qid
    · exact .inr (hx ▸ hone)
    · refine .inl (flushQueue_idle fun q' hq' => hh _ (mem_of_tabFind (k := x.1) ?_))
      rwa [← tabFind_tabUpd_other hx (holding ⟨seq, bytes, intr⟩)]
  · obtain ⟨y, hy, hk⟩ : ∃ y ∈ tabUpd qid (holding ⟨seq, bytes, intr⟩) s.queues, y.1 = qid :=
      ⟨_, List.mem_map.2 ⟨_, mem_of_tabFind hq, rfl⟩, by simp⟩
    exact ⟨y, hy, hk ▸ hone⟩

end Sys2Proof.Proofs
end

section
/-! PROOFS. The reading of a packet (R70-R76, R106): the state in which it is checked, and what becomes of it. -/

namespace Sys2Proof.Proofs

open Sys2Proof Sys2Proof.Machine Sys2Proof.Safety Sys2Proof.Rules Sys2Proof.Laws

/-! ### The bytes of a record (R76) -/

/-- Where a queue keeps the record of a sequence number. -/
def recordAt (q : LaunchQueue) (seq : Nat) : Nat := q.cring + 32 * (seq % 2 ^ q.logn)

theorem writeRecord_mem (s : State) (q : LaunchQueue) (h : HeldRecord) : (s.writeRecord q h).mem =
    Memory.writeN (Memory.writeN s.mem (hostKey q.port (recordAt q h.seq + 8)) (h.bytes.drop 8)) (hostKey q.port (recordAt q h.seq))
      (h.bytes.take 8) := by
  simp only [State.writeRecord, apply_ite State.mem, State.hostWrite, sendMsix_mem, pokeN_mem, ite_self, recordAt]

theorem writeRecord_byte {s : State} (hw : Memory.wf s.mem = true) (q : LaunchQueue) {h : HeldRecord} {k : Nat} (hk : k < h.bytes.length)
    (h8 : 8 ≤ h.bytes.length) : byteAt (s.writeRecord q h) (hostKey q.port (recordAt q h.seq) + k) = nth h.bytes k := by
  have ha : hostKey q.port (recordAt q h.seq + 8) = hostKey q.port (recordAt q h.seq) + 8 := (Nat.add_assoc _ _ _).symm
  unfold byteAt nth
  rw [writeRecord_mem, ha]
  generalize hostKey q.port (recordAt q h.seq) = a
  rw [read_writeN (wf_writeN _ _ hw), read_writeN hw, List.length_take, List.length_drop, Nat.min_eq_left h8]
  by_cases hlt : k < 8
  · rw [if_pos (by omega), Nat.add_sub_cancel_left]
    simp [List.getD_eq_getElem?_getD, hlt]
  · rw [if_neg (by omega), if_pos (by omega)]
    simp [List.getD_eq_getElem?_getD, show a + k - (a + 8) = k - 8 by omega, show 8 + (k - 8) = k by omega]

theorem recordBytes_length (qid seq status retired code : Nat) (time tag : DWord) :
    (recordBytes qid seq status retired code time tag).length = 32 := by
  simp only [recordBytes, List.length_append, leBytes_length]

/-! ### What is obtained for the launch check (R74) -/

theorem obtainPiece_around (tenant va : Nat) (s : State) (p : Nat × Nat) : Around s (obtainPiece tenant va s p) := by
  have he := (obtainEntries_local 0 s tenant (va + p.1)).around
  unfold obtainPiece
  dsimp only
  split
  · split
    · exact he.trans (obtainRead_local 0 _ _).around
    · exact he
  · exact he

theorem vaObtain_around (s : State) (tenant va n : Nat) : Around s (s.vaObtain tenant va n) := by
  rw [vaObtain_eq]
  split
  · exact .refl s
  · induction pieces va n 0 n generalizing s with
    | nil => exact .refl s
    | cons p r ih => exact (obtainPiece_around tenant va s p).trans (ih _)

theorem obtainCode_around (s : State) (tenant code entry : Nat) : Around s (s.obtainCode tenant code entry) := by
  have h := vaObtain_around s tenant code 256
  unfold State.obtainCode
  dsimp only
  split
  · exact h.trans (vaObtain_around _ _ _ _)
  · exact h

theorem Tracked.obtainPiece {s e : State} (h : Tracked s e) (tenant va : Nat) (p : Nat × Nat) : Tracked s (obtainPiece tenant va e p) := by
  have he := h.obtainEntries tenant (va + p.1)
  unfold Proofs.obtainPiece
  dsimp only
  split
  · split
    · exact he.obtainRead _
    · exact he
  · exact he

theorem Tracked.vaObtain {s e : State} (h : Tracked s e) (tenant va n : Nat) : Tracked s (e.vaObtain tenant va n) := by
  rw [vaObtain_eq]
  split
  · exact h
  · exact h.foldl (fun e p h => h.obtainPiece tenant va p) _

theorem Tracked.obtainCode {s e : State} (h : Tracked s e) (tenant code entry : Nat) : Tracked s (e.obtainCode tenant code entry) := by
  have hv := h.vaObtain tenant code 256
  unfold State.obtainCode
  dsimp only
  split
  · exact hv.vaObtain _ _ _
  · exact hv

theorem obtainCode_wf {s : State} (h : Memory.wf s.mem = true) (tenant code entry : Nat) :
    Memory.wf (s.obtainCode tenant code entry).mem = true := by
  obtain ⟨ls, ht⟩ := (Tracked.refl s).obtainCode tenant code entry h
  exact ht.wf

/-! ### The state in which a packet is checked -/

/-- A queue of which one more packet has been read. -/
def pastHead (q : LaunchQueue) : LaunchQueue := { q with head := (q.head + 1) % 2 ^ 32, headDirty := true }

/-- The launches that are kept when a packet is read. -/
def keptLaunches (s : State) (k : LaunchKey) : List Launch := s.launches.filter fun l => !(l.key = k && l.status.isSome)

/-- The state before the code object is obtained. -/
def packetStart (s : State) (qid : Nat) (q : LaunchQueue) (n : Nat) : State :=
  { s with queues := tabUpd qid pastHead s.queues, launches := keptLaunches s ⟨qid, q.head⟩, freeCtr := n }

/-- The state in which a packet is checked. -/
def checkedState (s : State) (qid : Nat) (q : LaunchQueue) (b : List Byte) (n : Nat) : State :=
  (packetStart s qid q n).obtainCode (((s.ward? q.ward).map (·.tenant)).getD 0) (packetBits b 8 63 0) (packetBits b 0x18 47 32)

/-- What becomes of a packet that the check has answered. -/
def packetDone (p : State) (qid : Nat) (q : LaunchQueue) (b : List Byte) (tag : DWord) (intr : Bool) : PacketCheck → State
  | .reject r => ((p.noteEnd qid q.head 1).postRecord qid q.head (recordBytes qid q.head 1 0 r p.devclk tag) intr).cancelDependents
  | .nop =>
    if bitOf (packetBits b 0 63 0) 9 then
      (p.noteEnd qid q.head 0).postRecord qid q.head (recordBytes qid q.head 0 0 0 p.devclk tag) intr
    else p.noteEnd qid q.head 0
  | .accept h => ({ p with launches := p.launches ++ [p.launchOf qid q b h], nextOrder := p.nextOrder + 1 } : State).cancelDependents

theorem takePacket_done (s : State) (qid : Nat) (q : LaunchQueue) (b : List Byte) (poison : Bool) :
    ∃ n tag intr, (s.updQueue qid pastHead).takePacket qid q b poison =
        packetDone (checkedState s qid q b n) qid q b tag intr ((checkedState s qid q b n).checkPacket q b poison) ∧
      (poison = false → n = s.freeCtr ∧ tag = BitVec.ofNat 64 (packetBits b 0x30 63 0)) := by
  refine ⟨if poison then s.freeCtr + 2 else s.freeCtr,
    if poison then Config.freeWord s.freeCtr ++ Config.freeWord (s.freeCtr + 1) else BitVec.ofNat 64 (packetBits b 0x30 63 0),
    if poison then Config.freeBool s.freeCtr else bitOf (packetBits b 0 63 0) 10, ?_, by rintro rfl; exact ⟨rfl, rfl⟩⟩
  unfold State.takePacket packetDone checkedState packetStart keptLaunches State.updQueue
  rfl

end Sys2Proof.Proofs
end

section
/-! PROOFS. What becomes of a packet that is read (R70-R76, R106). -/

namespace Sys2Proof.Proofs

open Sys2Proof Sys2Proof.Machine Sys2Proof.Safety Sys2Proof.Rules Sys2Proof.Laws

/-! ### The state in which a packet is checked -/

theorem checkedState_around (s : State) (qid : Nat) (q : LaunchQueue) (b : List Byte) (n : Nat) :
    Around (packetStart s qid q n) (checkedState s qid q b n) := obtainCode_around _ _ _ _

section
variable (s : State) (qid : Nat) (q : LaunchQueue) (b : List Byte) (n : Nat)

theorem checkedState_queues : (checkedState s qid q b n).queues = tabUpd qid pastHead s.queues :=
  (congrArg State.queues (checkedState_around s qid q b n) :)

theorem checkedState_launches : (checkedState s qid q b n).launches = keptLaunches s ⟨qid, q.head⟩ :=
  (congrArg State.launches (checkedState_around s qid q b n) :)

theorem checkedState_nextOrder : (checkedState s qid q b n).nextOrder = s.nextOrder :=
  (congrArg State.nextOrder (checkedState_around s qid q b n) :)

theorem checkedState_devclk : (checkedState s qid q b n).devclk = s.devclk := (congrArg State.devclk (checkedState_around s qid q b n) :)

theorem checkedState_faults : (checkedState s qid q b n).faults = s.faults := (congrArg State.faults (checkedState_around s qid q b n) :)

theorem checkedState_ports : (checkedState s qid q b n).ports = s.ports := (congrArg State.ports (checkedState_around s qid q b n) :)

theorem checkedState_hostPort (p : Nat) : (checkedState s qid q b n).hostPort p = s.hostPort p := by
  rw [State.hostPort, State.hostPort, checkedState_ports]

end

/-- The state before the code object is obtained, as the statement has it: every queue under the number takes the same head. -/
def headedStart (s : State) (qid : Nat) (q : LaunchQueue) : State :=
  { s with queues := tabUpd qid (fun r => { r with head := (q.head + 1) % 2 ^ 32, headDirty := true }) s.queues
           launches := keptLaunches s ⟨qid, q.head⟩ }

theorem packetState_eq (s : State) (qid : Nat) (q : LaunchQueue) (b : List Byte) : packetState s qid q b =
    (headedStart s qid q).obtainCode (((s.ward? q.ward).map (·.tenant)).getD 0) (packetBits b 8 63 0) (packetBits b 0x18 47 32) := rfl

theorem packetState_queues (s : State) (qid : Nat) (q : LaunchQueue) (b : List Byte) : (packetState s qid q b).queues =
    tabUpd qid (fun r => { r with head := (q.head + 1) % 2 ^ 32, headDirty := true }) s.queues := by
  rw [packetState_eq]
  exact (congrArg State.queues (obtainCode_around (headedStart s qid q) _ _ _) :)

theorem checkedState_withQueues (s : State) (qid : Nat) (q : LaunchQueue) (b : List Byte) :
    checkedState s qid q b s.freeCtr = withQueues (tabUpd qid pastHead s.queues) (packetState s qid q b) := by
  rw [packetState_eq]
  exact obtainCode_withQueues (tabUpd qid pastHead s.queues) (headedStart s qid q) _ _ _

/-- The launch check answers as it does in the statement's state. -/
theorem checkedState_checkPacket {s : State} {qid : Nat} {q : LaunchQueue} (hq : tabFind qid s.queues = some q) (b : List Byte) (poison : Bool) :
    (checkedState s qid q b s.freeCtr).checkPacket q b poison = (packetState s qid q b).checkPacket q b poison := by
  rw [checkedState_withQueues]
  refine checkPacket_withQueues (fun k => ?_) q b poison
  rw [packetState_queues]
  by_cases hk : k = qid
  · subst hk
    rw [tabFind_tabUpd_same, tabFind_tabUpd_same, hq]
    rfl
  · rw [tabFind_tabUpd_other hk, tabFind_tabUpd_other hk]

theorem tabFind_checkedState {s : State} {qid : Nat} {q : LaunchQueue} (hq : tabFind qid s.queues = some q) (b : List Byte) (n : Nat) :
    tabFind qid (checkedState s qid q b n).queues = some (pastHead q) := by
  rw [checkedState_queues, tabFind_tabUpd_same, hq]
  rfl

theorem mem_keptLaunches {s : State} {k : LaunchKey} {l : Launch} : l ∈ keptLaunches s k ↔ l ∈ s.launches ∧ (l.key = k → l.status = none) := by
  unfold keptLaunches
  rw [List.mem_filter]
  cases l.status <;> simp

/-! ### The head -/

theorem packetDone_queues (p : State) (qid : Nat) (q : LaunchQueue) (b : List Byte) (tag : DWord) (intr : Bool) (c : PacketCheck) (k : Nat) :
    (tabFind k (packetDone p qid q b tag intr c).queues).map bareQueue = (tabFind k p.queues).map bareQueue := by
  cases c with
  | reject r =>
    exact (((noteEnd_cancels p qid q.head 1).trans (postRecord_flushed _ _ _ _ _).cancels).trans (cancelDependents_cancels _)).queues k
  | nop =>
    unfold packetDone
    dsimp only
    split
    · exact ((noteEnd_cancels p qid q.head 0).trans (postRecord_flushed _ _ _ _ _).cancels).queues k
    · exact (noteEnd_cancels p qid q.head 0).queues k
  | accept h => exact (cancelDependents_cancels _).queues k

theorem head_of_bare {o : Option LaunchQueue} {q : LaunchQueue} (h : o.map bareQueue = some (bareQueue (pastHead q))) :
    ∃ r, o = some r ∧ r.head = (q.head + 1) % 2 ^ 32 ∧ r.headDirty = true := by
  obtain ⟨r, rfl, hr⟩ := Option.map_eq_some_iff.1 h
  exact ⟨r, rfl, (congrArg LaunchQueue.head hr :), (congrArg LaunchQueue.headDirty hr :)⟩

/-! ### A packet that is accepted -/

theorem packetDone_accept {p : State} {qid : Nat} {q : LaunchQueue} (b : List Byte) (tag : DWord) (intr : Bool) (h : CodeHeader)
    (hn : p.launch? ⟨qid, q.head⟩ = none) :
    ∃ f, CancelOnly f ∧ (packetDone p qid q b tag intr (.accept h)).launch? ⟨qid, q.head⟩ = some (f (p.launchOf qid q b h)) := by
  obtain ⟨f, hf, hl⟩ := (cancelDependents_cancels
    { p with launches := p.launches ++ [p.launchOf qid q b h], nextOrder := p.nextOrder + 1 }).launch? ⟨qid, q.head⟩
  refine ⟨f, hf, hl.trans ?_⟩
  rw [State.launch?] at hn ⊢
  dsimp only
  rw [List.find?_append, hn]
  simp [State.launchOf]

/-! ### A packet that is rejected -/

theorem depState_of_failed {s : State} {l : Launch} {d : LaunchKey} {q : LaunchQueue} (hd : l.dep = some d) (hn : l.nextGang = 0)
    (hl : s.launch? d = none) (hq : tabFind d.qid s.queues = some q) (hu : q.unread d.seq = false) (hr : q.recent d.seq = true) {n : Nat}
    (he : (q.ended.find? fun e => e.1 = d.seq) = some (d.seq, n + 1)) : s.depState l = .cancel := by
  rw [State.depState, hd]
  dsimp only
  rw [if_neg (not_not.2 hn), hl, hq]
  simp [hu, hr, he]

theorem pastHead_unread {q : LaunchQueue} (hq : q.head < 2 ^ 32) : (pastHead q).unread q.head = false := by
  unfold LaunchQueue.unread pastHead
  rw [decide_eq_false_iff_not]
  dsimp only
  omega

theorem pastHead_recent {q : LaunchQueue} (hq : q.head < 2 ^ 32) : (pastHead q).recent q.head = true := by
  have h1 : ((q.head + 1) % 2 ^ 32 + 2 ^ 32 - q.head) % 2 ^ 32 = 1 := by omega
  unfold LaunchQueue.recent pastHead
  rw [decide_eq_true_iff]
  dsimp only
  rw [h1]
  exact Nat.one_le_two_pow

theorem noting_ended {q : LaunchQueue} {seq n : Nat} (hr : q.recent seq = true) :
    (noting seq n q).ended.find? (fun e => e.1 = seq) = some (seq, n) := by
  unfold noting
  dsimp only
  rw [List.filter_cons, if_pos hr]
  simp

/-- The state once the record of a rejected packet is posted, and before launches that wait for it are ended. -/
def rejectedState (p : State) (qid : Nat) (q : LaunchQueue) (bytes : List Byte) (intr : Bool) : State :=
  (p.noteEnd qid q.head 1).postRecord qid q.head bytes intr

theorem rejectedState_launch? (p : State) (qid : Nat) (q : LaunchQueue) (bytes : List Byte) (intr : Bool) (k : LaunchKey) :
    (rejectedState p qid q bytes intr).launch? k = p.launch? k := by
  rw [State.launch?, State.launch?, rejectedState, (postRecord_flushed (p.noteEnd qid q.head 1) qid q.head bytes intr).launches]
  rfl

theorem rejectedState_depState {p : State} {qid : Nat} {q : LaunchQueue} (bytes : List Byte) (intr : Bool) {l : Launch} (hh : q.head < 2 ^ 32)
    (hp : tabFind qid p.queues = some (pastHead q)) (hl : p.launch? ⟨qid, q.head⟩ = none) (hd : l.dep = some ⟨qid, q.head⟩)
    (hn : l.nextGang = 0) : (rejectedState p qid q bytes intr).depState l = .cancel := by
  have hq := (postRecord_flushed (p.noteEnd qid q.head 1) qid q.head bytes intr).queues qid
  rw [noteEnd_eq, tabFind_tabUpd_same, hp] at hq
  obtain ⟨r, hr, hb⟩ := Option.map_eq_some_iff.1 hq
  have hhead : r.head = (pastHead q).head := (congrArg LaunchQueue.head hb :)
  have hlogn : r.logn = (pastHead q).logn := (congrArg LaunchQueue.logn hb :)
  have hended : r.ended = (noting q.head 1 (pastHead q)).ended := (congrArg LaunchQueue.ended hb :)
  refine depState_of_failed (n := 0) hd hn ((rejectedState_launch? p qid q bytes intr _).trans hl) hr ?_ ?_ ?_
  · rw [← pastHead_unread hh, LaunchQueue.unread, LaunchQueue.unread, hhead]
  · rw [← pastHead_recent hh, LaunchQueue.recent, LaunchQueue.recent, hhead, hlogn]
  · rw [hended]
    exact noting_ended (pastHead_recent hh)

end Sys2Proof.Proofs
end

section
/-! PROOFS. The events of launch queues (R67-R76, R106). -/

namespace Sys2Proof.Proofs

open Sys2Proof Sys2Proof.Machine Sys2Proof.Safety Sys2Proof.Rules Sys2Proof.Laws

/-! ### The record of a rejected packet (R75, R76) -/

theorem held_ended (q : LaunchQueue) (l : List (Nat × Nat)) : ({ q with ended := l } : LaunchQueue).held = q.held := rfl

theorem port_ended (q : LaunchQueue) (l : List (Nat × Nat)) : ({ q with ended := l } : LaunchQueue).port = q.port := rfl

theorem recordAt_ended (q : LaunchQueue) (l : List (Nat × Nat)) (n : Nat) : recordAt { q with ended := l } n = recordAt q n := rfl

theorem noting_held (seq status : Nat) (q : LaunchQueue) : (noting seq status q).held = q.held := held_ended q _

theorem noting_port (seq status : Nat) (q : LaunchQueue) : (noting seq status q).port = q.port := port_ended q _

theorem recordAt_noting (seq status : Nat) (q : LaunchQueue) (n : Nat) : recordAt (noting seq status q) n = recordAt q n := recordAt_ended q _ n

theorem noteEnd_noneHeld {p : State} (h : noneHeld p.queues) (qid seq status : Nat) : noneHeld (p.noteEnd qid seq status).queues := by
  rw [noteEnd_eq]
  refine forall_tabUpd (P := fun q : LaunchQueue => q.held = []) h qid fun v hv => ?_
  rw [noting_held, hv]

theorem rejectedState_recorded {p : State} {qid : Nat} {q r : LaunchQueue} (bytes : List Byte) (intr : Bool) (hf : p.faults = [])
    (hh : noneHeld p.queues) (hq : tabFind qid p.queues = some r) (hp : p.hostPort r.port = true) :
    rejectedState p qid q bytes intr = recorded (p.noteEnd qid q.head 1) qid (noting q.head 1 r) ⟨q.head, bytes, intr⟩ := by
  refine postRecord_recorded hf (noteEnd_noneHeld hh _ _ _) ?_ ?_
  · rw [noteEnd_eq, tabFind_tabUpd_same, hq]
    rfl
  · rw [noting_port]
    exact hp

theorem recorded_launches (s : State) (qid : Nat) (q : LaunchQueue) (h : HeldRecord) : (recorded s qid q h).launches = s.launches :=
  (writeRecord_flushed s q h).launches

theorem writeRecord_faults (s : State) (q : LaunchQueue) (h : HeldRecord) : (s.writeRecord q h).faults = s.faults := by
  simp only [State.writeRecord, apply_ite State.faults, State.hostWrite, sendMsix_faults, pokeN_faults, ite_self]

theorem recorded_faults (s : State) (qid : Nat) (q : LaunchQueue) (h : HeldRecord) : (recorded s qid q h).faults = s.faults :=
  writeRecord_faults s q h

/-- Where nothing waits, what is left of a rejected packet is its record, in its slot. -/
theorem packetDone_reject_bytes {p : State} {qid : Nat} {q r : LaunchQueue} (b : List Byte) (tag : DWord) (intr : Bool) (code : Nat)
    (hf : p.faults = []) (hh : noneHeld p.queues) (hq : tabFind qid p.queues = some r) (hp : p.hostPort r.port = true)
    (hd : ∀ l ∈ p.launches, l.dep = none) (hw : Memory.wf p.mem = true) {k : Nat} (hk : k < 32) :
    byteAt (packetDone p qid q b tag intr (.reject code)).flush (hostKey r.port (recordAt r q.head) + k) =
      nth (recordBytes qid q.head 1 0 code p.devclk tag) k := by
  have hlen := recordBytes_length qid q.head 1 0 code p.devclk tag
  have hdone : packetDone p qid q b tag intr (.reject code) =
      (rejectedState p qid q (recordBytes qid q.head 1 0 code p.devclk tag) intr).cancelDependents := rfl
  rw [hdone, rejectedState_recorded (q := q) (recordBytes qid q.head 1 0 code p.devclk tag) intr hf hh hq hp]
  generalize recordBytes qid q.head 1 0 code p.devclk tag = bytes at hlen ⊢
  rw [cancelDependents_of_ready, flush_idle]
  · have hb := writeRecord_byte (s := p.noteEnd qid q.head 1) hw (noting q.head 1 r) (h := ⟨q.head, bytes, intr⟩) (hlen.symm ▸ hk)
      (by rw [hlen]; decide)
    rw [noting_port, recordAt_noting] at hb
    exact hb
  · rw [recorded_faults]
    exact hf
  · exact recorded_noneHeld (noteEnd_noneHeld hh _ _ _) _ _ _
  · rw [recorded_launches]
    exact hd

/-! ### Reading a packet -/

section
variable {s : State} {qid : Nat} {poison : Bool} {q : LaunchQueue}

/-- The packet at the head of a queue. -/
def packetAt (s : State) (q : LaunchQueue) : List Byte := s.peekN (hostKey q.port (q.ring + 64 * (q.head % q.size))) 64

theorem launchPacketRead_done (hi : s.input = .launchPacketRead qid poison) (hq : tabFind qid s.queues = some q)
    (hd : s.packetDue qid q = true) :
    ∃ n tag intr, exec .launchPacketRead s = .next (packetDone (checkedState s qid q (packetAt s q) n) qid q (packetAt s q) tag intr
        ((checkedState s qid q (packetAt s q) n).checkPacket q (packetAt s q) poison)).flush ∧
      (poison = false → n = s.freeCtr ∧ tag = BitVec.ofNat 64 (packetBits (packetAt s q) 0x30 63 0)) := by
  obtain ⟨n, tag, intr, h, hp⟩ := takePacket_done s qid q (packetAt s q) poison
  refine ⟨n, tag, intr, ?_, hp⟩
  rw [← h, exec_launchPacketRead, execLaunchPacketRead, hi]
  dsimp only
  rw [hq]
  dsimp only
  rw [hd]
  rfl

theorem packetDue_hostPort (hd : s.packetDue qid q = true) : s.hostPort q.port = true := by
  simp only [State.packetDue, Bool.and_eq_true] at hd
  obtain ⟨⟨⟨⟨-, hp⟩, -⟩, -⟩, -⟩ := hd
  exact hp

theorem packetDue_idle (hd : s.packetDue qid q = true) {l : Launch} (hl : l ∈ s.launches) (hk : l.key = ⟨qid, q.head⟩) :
    l.status.isSome = true := by
  simp only [State.packetDue, Bool.and_eq_true, State.slotFree, Bool.not_eq_true', List.any_eq_false] at hd
  obtain ⟨-, hfree, -⟩ := hd
  have h := hfree l hl
  simpa [hk, Option.isSome_iff_ne_none] using h

theorem keptLaunches_none {k : LaunchKey} (h : ∀ l ∈ s.launches, l.key = k → l.status.isSome = true) :
    (keptLaunches s k).find? (fun l => l.key = k) = none := by
  rw [List.find?_eq_none]
  intro l hl hk
  rw [decide_eq_true_eq] at hk
  obtain ⟨hm, hn⟩ := mem_keptLaunches.1 hl
  have hs := h l hm hk
  rw [hn hk] at hs
  cases hs

theorem find?_of_unique {ls : List Launch} {l : Launch} (h : l ∈ ls) (hu : ∀ y ∈ ls, y.key = l.key → y = l) :
    ls.find? (fun y => y.key = l.key) = some l := by
  cases hf : ls.find? (fun y => y.key = l.key) with
  | none => exact absurd (List.find?_eq_none.1 hf l h) (by simp)
  | some y => rw [hu y (List.mem_of_find?_eq_some hf) (by simpa using List.find?_some hf)]

end

/-! ### Tails, heads and queue errors (R69-R72) -/

theorem hostStores_rest (s : State) (p : Nat) (bs : List (Nat × Byte)) : { s.hostStores p bs with mem := s.mem } = s := by
  unfold State.hostStores
  induction bs generalizing s with
  | nil => rfl
  | cons b r ih => exact (congrArg (fun x : State => { x with mem := s.mem }) (ih (s.pokeN (hostKey p b.1) [b.2])) :)

/-- A queue that is disabled. -/
def disabling (q : LaunchQueue) : LaunchQueue := { q with enabled := false, watching := false, tail := q.head }

/-- A queue with an error. -/
def erring (code : Nat) (q : LaunchQueue) : LaunchQueue := { q with qerr := code }

theorem queueError_eq {s : State} {qid : Nat} {q : LaunchQueue} (hq : tabFind qid s.queues = some q) (code : Nat) :
    s.queueError qid code = (((s.disableQueue qid).updQueue qid (erring code)).raise
      { FaultRecord.blank with num := code, src := 3, ward := q.ward, qid := qid }).flush := by
  rw [State.queueError, hq]
  rfl

theorem queueError_queue {s : State} {qid : Nat} {q : LaunchQueue} (hq : tabFind qid s.queues = some q) (code : Nat) :
    ∃ r, tabFind qid (s.queueError qid code).queues = some r ∧ r.enabled = false ∧ r.qerr = code := by
  have hd := (cancelDependents_cancels ({ s with queues := tabUpd qid disabling s.queues } : State)).queues qid
  rw [tabFind_tabUpd_same, hq] at hd
  obtain ⟨d, hdq, hb⟩ := Option.map_eq_some_iff.1 hd
  have hf := (flush_flushed (((s.disableQueue qid).updQueue qid (erring code)).raise
    { FaultRecord.blank with num := code, src := 3, ward := q.ward, qid := qid })).queues qid
  have hq' : tabFind qid (((s.disableQueue qid).updQueue qid (erring code)).raise
      { FaultRecord.blank with num := code, src := 3, ward := q.ward, qid := qid }).queues = some (erring code d) :=
    (tabFind_tabUpd_same qid (erring code) (s.disableQueue qid).queues).trans (congrArg (Option.map (erring code)) hdq)
  rw [hq'] at hf
  obtain ⟨r, hr, hu⟩ := Option.map_eq_some_iff.1 hf
  have hen : d.enabled = false := (congrArg LaunchQueue.enabled hb :)
  refine ⟨r, ?_, ?_, (congrArg LaunchQueue.qerr hu :)⟩
  · rw [queueError_eq hq]
    exact hr
  · exact (congrArg LaunchQueue.enabled hu :).trans hen

theorem tailReread_eq {s : State} {qid : Nat} {poison : Bool} {q : LaunchQueue} (hi : s.input = .tailReread qid poison)
    (hq : tabFind qid s.queues = some q) (hd : s.tailDue q = true) :
    exec .tailReread s = .next (if poison then s.queueError qid 2
      else if q.size < (s.num (hostKey q.port q.tailA) 4 + 2 ^ 32 - q.head) % 2 ^ 32 then s.queueError qid 1
      else s.updQueue qid fun r => { r with watching := true, tail := s.num (hostKey q.port q.tailA) 4 }) := by
  rw [exec_tailReread, execTailReread, hi]
  dsimp only
  rw [hq]
  dsimp only
  rw [hd, if_neg (by decide), ← apply_ite Host.Outcome.next, ← apply_ite Host.Outcome.next]

end Sys2Proof.Proofs
end

section
/-! PROOFS. The statement of O48. -/

namespace Sys2Proof.Proofs

open Sys2Proof Sys2Proof.Machine Sys2Proof.Safety Sys2Proof.Rules Sys2Proof.Laws

section
variable {s : State} {qid : Nat} {poison : Bool} {q : LaunchQueue}

theorem tailSnoop_rewatches {bs : List (Nat × Byte)} (hi : s.input = .tailSnoop qid bs) (hq : tabFind qid s.queues = some q) :
    ∃ t, exec .tailSnoop s = .next t ∧ tabFind qid t.queues = some { q with watching := false } ∧
      { t with queues := s.queues, mem := s.mem } = s ∧ (bs = [] → t.mem = s.mem) := by
  have hrest := hostStores_rest s q.port bs
  have hqs : (s.hostStores q.port bs).queues = s.queues := (congrArg State.queues hrest :)
  refine ⟨(s.hostStores q.port bs).updQueue qid fun q => { q with watching := false }, ?_, ?_, ?_, ?_⟩
  · rw [exec_tailSnoop, execTailSnoop, hi]
    dsimp only
    rw [hq]
  · rw [State.updQueue, hqs, tabFind_tabUpd_same, hq]
    rfl
  · exact (congrArg (fun x : State => { x with queues := s.queues }) hrest :)
  · rintro rfl
    rfl

theorem tailReread_reads (hi : s.input = .tailReread qid poison) (hq : tabFind qid s.queues = some q) (hd : s.tailDue q = true) :
    ∃ t r, exec .tailReread s = .next t ∧ tabFind qid t.queues = some r ∧
      (poison = true → r.enabled = false ∧ r.qerr = 2) ∧
      (poison = false → q.size < (s.num (hostKey q.port q.tailA) 4 + 2 ^ 32 - q.head) % 2 ^ 32 → r.enabled = false ∧ r.qerr = 1) ∧
      (poison = false → (s.num (hostKey q.port q.tailA) 4 + 2 ^ 32 - q.head) % 2 ^ 32 ≤ q.size →
        r = { q with watching := true, tail := s.num (hostKey q.port q.tailA) 4 } ∧ { t with queues := s.queues } = s) := by
  have hx := tailReread_eq hi hq hd
  cases poison with
  | true =>
    obtain ⟨r, hr, he, hc⟩ := queueError_queue hq 2
    exact ⟨_, r, hx, hr, fun _ => ⟨he, hc⟩, nofun, nofun⟩
  | false =>
    rw [if_neg (by decide)] at hx
    by_cases hn : q.size < (s.num (hostKey q.port q.tailA) 4 + 2 ^ 32 - q.head) % 2 ^ 32
    · rw [if_pos hn] at hx
      obtain ⟨r, hr, he, hc⟩ := queueError_queue hq 1
      exact ⟨_, r, hx, hr, nofun, fun _ _ => ⟨he, hc⟩, fun _ h => absurd hn (Nat.not_lt.2 h)⟩
    · rw [if_neg hn] at hx
      refine ⟨_, { q with watching := true, tail := s.num (hostKey q.port q.tailA) 4 }, hx, ?_, nofun, fun _ h => absurd h hn, fun _ _ => ⟨rfl, rfl⟩⟩
      rw [State.updQueue, tabFind_tabUpd_same, hq]
      rfl

theorem headWrite_clean (hi : s.input = .headWrite qid false) (hq : tabFind qid s.queues = some q) (hd : q.headDirty = false) :
    exec .headWrite s = .next s := by
  rw [exec_headWrite, execHeadWrite, hi]
  dsimp only
  rw [hq]
  simp [State.headDue, hd]

theorem byteAt_hostWrite (hw : Memory.wf s.mem = true) (p a : Nat) (bs : List Byte) (x : Nat) :
    byteAt (s.hostWrite p a bs) x = written s (hostKey p a) bs x := by
  generalize hk : hostKey p a = k
  rw [State.hostWrite, hk]
  exact read_writeN hw k bs x

theorem headWrite_writes (hi : s.input = .headWrite qid false) (hq : tabFind qid s.queues = some q) (hd : s.headDue q = true)
    (hw : Memory.wf s.mem = true) :
    ∃ t, exec .headWrite s = .next t ∧ { t with mem := s.mem, queues := s.queues } = s ∧
      tabFind qid t.queues = some { q with headDirty := false } ∧ (∀ k, k ≠ qid → tabFind k t.queues = tabFind k s.queues) ∧
      ∀ x, byteAt t x = written s (hostKey q.port q.headA) (leBytes 4 q.head ++ List.replicate 60 0) x := by
  refine ⟨(s.updQueue qid fun q => { q with headDirty := false }).hostWrite q.port q.headA (leBytes 4 q.head ++ List.replicate 60 0),
    ?_, rfl, ?_, fun k hk => ?_, fun x => ?_⟩
  · rw [exec_headWrite, execHeadWrite, hi]
    dsimp only
    rw [hq]
    dsimp only
    rw [hd, if_neg (by decide), if_neg (by decide)]
  · exact (tabFind_tabUpd_same qid (fun q => { q with headDirty := false }) s.queues).trans (congrArg (Option.map _) hq)
  · exact tabFind_tabUpd_other hk (fun q => { q with headDirty := false }) s.queues
  · exact byteAt_hostWrite (s := s.updQueue qid fun q => { q with headDirty := false }) hw q.port q.headA _ x

/-- The launch that an accepted packet makes, as the end of the packet's reading leaves it. -/
theorem accepted_launch {p : State} {b : List Byte} {tag : DWord} {intr : Bool} {h : CodeHeader} (hn : p.launch? ⟨qid, q.head⟩ = none) :
    ∃ l, (packetDone p qid q b tag intr (.accept h)).flush.launch? ⟨qid, q.head⟩ = some l ∧ l.ward = q.ward ∧ l.header = h ∧
      l.shape = packetBits b 0 15 12 ∧ l.squads = packetBits b 0 20 16 ∧ l.gangs = packetBits b 0 63 32 ∧ l.order = p.nextOrder ∧
      l.nextGang = 0 ∧ l.ending = none := by
  obtain ⟨f, hf, hl⟩ := packetDone_accept b tag intr h hn
  refine ⟨f (p.launchOf qid q b h), ?_, ?_⟩
  · rw [State.launch?, (flush_flushed _).launches]
    exact hl
  · rcases hf (p.launchOf qid q b h) with hx | hx
    all_goals
      rw [hx]
      simp only [State.launchOf, and_self]

theorem rejected_cancels {p : State} {b : List Byte} {tag : DWord} {intr : Bool} {code : Nat} {l : Launch} (hh : q.head < 2 ^ 32)
    (hp : tabFind qid p.queues = some (pastHead q)) (hn : p.launch? ⟨qid, q.head⟩ = none) (hl : p.launch? l.key = some l)
    (hd : l.dep = some ⟨qid, q.head⟩) (hs : l.status = none) (he : l.ending = none) (hg : l.nextGang = 0) :
    ((packetDone p qid q b tag intr (.reject code)).flush.launch? l.key).bind (·.status) = some (4, 0) := by
  rw [State.launch?, (flush_flushed _).launches]
  exact cancelDependents_cancels_failed (s := rejectedState p qid q (recordBytes qid q.head 1 0 code p.devclk tag) intr)
    ((rejectedState_launch? p qid q _ intr l.key).trans hl) hs he hg (rejectedState_depState _ intr hh hp hn hd hg)

theorem port_head (q : LaunchQueue) (n : Nat) (d : Bool) : ({ q with head := n, headDirty := d } : LaunchQueue).port = q.port := rfl

theorem recordAt_head (q : LaunchQueue) (n : Nat) (d : Bool) (k : Nat) : recordAt { q with head := n, headDirty := d } k = recordAt q k := rfl

theorem pastHead_port (q : LaunchQueue) : (pastHead q).port = q.port := port_head q _ _

theorem recordAt_pastHead (q : LaunchQueue) (k : Nat) : recordAt (pastHead q) k = recordAt q k := recordAt_head q _ _ k

theorem launchPacketRead_outcome (hi : s.input = .launchPacketRead qid poison) (hq : tabFind qid s.queues = some q)
    (hd : s.packetDue qid q = true) :
    ∃ t r, exec .launchPacketRead s = .next t ∧ tabFind qid t.queues = some r ∧ r.head = (q.head + 1) % 2 ^ 32 ∧ r.headDirty = true ∧
      (poison = false → (∀ l ∈ s.launches, l.key = ⟨qid, q.head⟩ → l.status.isSome = true) →
        ∀ h, (packetState s qid q (packetAt s q)).checkPacket q (packetAt s q) false = .accept h →
        ∃ l, t.launch? ⟨qid, q.head⟩ = some l ∧ l.ward = q.ward ∧ l.header = h ∧ l.shape = packetBits (packetAt s q) 0 15 12 ∧
          l.squads = packetBits (packetAt s q) 0 20 16 ∧ l.gangs = packetBits (packetAt s q) 0 63 32 ∧ l.order = s.nextOrder ∧
          l.nextGang = 0 ∧ l.ending = none) ∧
      (poison = false → q.head < 2 ^ 32 → ∀ code, (packetState s qid q (packetAt s q)).checkPacket q (packetAt s q) false = .reject code →
        ∀ l ∈ s.launches, l.dep = some ⟨qid, q.head⟩ → l.status = none → l.ending = none → l.nextGang = 0 →
          (∀ y ∈ s.launches, y.key = l.key → y = l) → (t.launch? l.key).bind (·.status) = some (4, 0)) ∧
      (poison = false → Inv s → nothingHeld s → (∀ l ∈ s.launches, l.dep = none) → ∀ code,
        (packetState s qid q (packetAt s q)).checkPacket q (packetAt s q) false = .reject code →
        ∀ k < 32, byteAt t (hostKey q.port (q.cring + 32 * (q.head % 2 ^ q.logn)) + k) =
          nth (recordBytes qid q.head 1 0 code s.devclk (BitVec.ofNat 64 (packetBits (packetAt s q) 0x30 63 0))) k) := by
  obtain ⟨n, tag, intr, hx, hfree⟩ := launchPacketRead_done hi hq hd
  have hqs := packetDone_queues (checkedState s qid q (packetAt s q) n) qid q (packetAt s q) tag intr
    ((checkedState s qid q (packetAt s q) n).checkPacket q (packetAt s q) poison) qid
  rw [tabFind_checkedState hq] at hqs
  obtain ⟨r, hr, hhead, hdirty⟩ := head_of_bare (((flush_flushed _).cancels.queues qid).trans hqs)
  have hnone : ∀ m, (checkedState s qid q (packetAt s q) m).launch? ⟨qid, q.head⟩ = none := fun m => by
    rw [State.launch?, checkedState_launches]
    exact keptLaunches_none fun l hl hk => packetDue_idle hd hl hk
  refine ⟨_, r, hx, hr, hhead, hdirty, ?_, ?_, ?_⟩
  · rintro rfl - h hc
    obtain ⟨rfl, -⟩ := hfree rfl
    rw [checkedState_checkPacket hq, hc, ← checkedState_nextOrder s qid q (packetAt s q) s.freeCtr]
    exact accepted_launch (hnone _)
  · rintro rfl hh code hc l hl hdep hs he hg hu
    obtain ⟨rfl, -⟩ := hfree rfl
    rw [checkedState_checkPacket hq, hc]
    refine rejected_cancels hh (tabFind_checkedState hq _ _) (hnone _) ?_ hdep hs he hg
    rw [State.launch?, checkedState_launches]
    exact find?_of_unique (mem_keptLaunches.2 ⟨hl, fun _ => hs⟩) fun y hy => hu y (mem_keptLaunches.1 hy).1
  · rintro rfl hinv ⟨hf, hh⟩ hdep code hc k hk
    obtain ⟨rfl, rfl⟩ := hfree rfl
    rw [checkedState_checkPacket hq, hc, ← checkedState_devclk s qid q (packetAt s q) s.freeCtr]
    rw [← pastHead_port q, show q.cring + 32 * (q.head % 2 ^ q.logn) = recordAt (pastHead q) q.head from (recordAt_pastHead q q.head).symm]
    refine packetDone_reject_bytes (r := pastHead q) (packetAt s q) _ intr code ?_ ?_ (tabFind_checkedState hq _ _) ?_ ?_ ?_ hk
    · rw [checkedState_faults, hf]
    · rw [checkedState_queues]
      exact forall_tabUpd (P := fun q : LaunchQueue => q.held = []) hh qid (f := pastHead) fun _ hv => hv
    · rw [checkedState_hostPort, pastHead_port]
      exact packetDue_hostPort hd
    · rw [checkedState_launches]
      exact fun l hl => hdep l (mem_keptLaunches.1 hl).1
    · exact obtainCode_wf (s := packetStart s qid q s.freeCtr) hinv.1 _ _ _

end

/-- Settles O48, event by event: a queue error disables its queue whatever dependents end with it (`queueError_queue`); the packet is
checked in a state that differs from the statement's only in its queues, which the check reads alike (`checkedState_checkPacket`); the
launches that wait for a rejected packet find its end noted (`rejectedState_depState`); and a flush where nothing else waits writes
one record (`postRecord_recorded`). -/
theorem queueEvents : Obligations.QueueEvents := by
  unfold Obligations.QueueEvents
  refine ⟨fun s qid bs q hi hq => tailSnoop_rewatches hi hq, fun s qid poison q hi hq hen hwt her hp => ?_,
    fun s qid poison q hi hq hd => ?_, fun s qid q hi hq hen her hp hinv => ⟨headWrite_clean hi hq, fun hdirty => ?_⟩⟩
  · exact tailReread_reads hi hq (by simp [State.tailDue, hen, hwt, her, hp])
  · exact launchPacketRead_outcome hi hq hd
  · exact headWrite_writes hi hq (by simp [State.headDue, hen, her, hp, hdirty]) hinv.1

end Sys2Proof.Proofs
end

section
/-! PROOFS. The statement on unhandled traps (R92-R94, R98) fails where the list of tiles names a tile twice. -/

namespace Sys2Proof.Proofs

open Sys2Proof Sys2Proof.Machine Sys2Proof.Safety Sys2Proof.Rules Sys2Proof.Laws

/-- Tile 0 of the machine of LOG 11: its workgroup has no job. -/
def idleTile : Tile := { Tile.empty with wg := some (bootWorkgroup 0) }

/-- That machine, whose list of tiles has tile 0 twice: first as it is, then with a job that waits for a page. -/
def twiceRunning : State := { State.reset.boot 0 with tiles := [(0, idleTile), (0, waitingTile)] }

/-- The registers of an ILLEGAL trap, for which the launch declares no handler. -/
def illegalRegs : TrapRegs := ⟨0, 1, false, false, false, 0, 0, 0, 0, 0⟩

/-- Every tile that is looked up has no job. -/
theorem twiceRunning_idle (m : Nat) (w : Workgroup) (h : (twiceRunning.tile m).wg = some w) : w.jobs = [] := by
  by_cases hm : m = 0
  · subst hm
    cases h
    rfl
  · have he : twiceRunning.tile m = Tile.empty := by simp [State.tile, twiceRunning, tabFind, Ne.symm hm]
    rw [he] at h
    cases h

/-- The stop of the launch waits for the job of the second entry. -/
theorem twiceRunning_waits :
    ((twiceRunning.takeTrap 0 0 0 illegalRegs).launch? bootLaunch.key).bind (·.status) = none := by decide +kernel

/-- Refutes O28: its first clause says by `State.tile` that no command of the launch is left, and speaks of every state; but the list of
tiles may name a tile twice, and `State.tile` finds the first entry only, where the abort of a launch goes through them all
(`State.drainTiles`, `State.jobsLeft`). In `twiceRunning` tile 0 is listed with the squad that traps and no job, and then with a job of the
launch that waits for a page: the stop waits for that job (LOG 113), and the launch has no status. (Where every tile is listed once, the
two agree; `not_launchEndings` is the same gap.) -/
theorem not_unhandledTraps : ¬ Obligations.UnhandledTraps := by
  unfold Obligations.UnhandledTraps
  intro h
  obtain ⟨hs, -⟩ := (h twiceRunning 0 0 (bootWorkgroup 0) (bootSquad 0) bootLaunch illegalRegs 0 rfl rfl rfl rfl rfl (by decide +kernel)
    (by decide) (by decide)).1 fun m w hw _ => twiceRunning_idle m w hw
  have hn : ((twiceRunning.takeTrap 0 0 0 illegalRegs).launch? bootLaunch.key).bind (·.status) = some (2, illegalRegs.num.toNat) := hs
  rw [twiceRunning_waits] at hn
  cases hn

end Sys2Proof.Proofs
end

section
/-! PROOFS. The operations of wards (R86-R89): what each of them can do. -/

namespace Sys2Proof.Proofs

open Sys2Proof Sys2Proof.Machine Sys2Proof.Safety Sys2Proof.Rules Sys2Proof.Laws

/-! ### The fields of a block (R88) -/

/-- The n bits of a block from bit m on, which lie in one of its words. -/
theorem blockField_eq (b : Nat) {o h l m n : Nat} (hh : h < 64) (hm : m = 8 * o + l) (hn : h + 1 = n + l) :
    blockField b o h l = b / 2 ^ m % 2 ^ n := by
  have h64 : 2 ^ 64 = 2 ^ l * 2 ^ (64 - l) := by rw [← pow_add]; congr 1; omega
  rw [blockField, bitsOf, h64, Nat.mod_mul_right_div_self, Nat.mod_mod_of_dvd _ (pow_dvd_pow 2 (by omega)), Nat.div_div_eq_div_mul,
    ← pow_add, ← hm, show h + 1 - l = n by omega]

theorem blockField_bit (b : Nat) {n : Nat} (h : n < 64) : decide (blockField b 0 n n = 1) = b.testBit n := by
  rw [blockField_eq b (m := n) h (by omega) (Nat.add_comm n 1), Nat.testBit_eq_decide_div_mod_eq, pow_one]

theorem blockParent_eq (b : Nat) : blockParent b = b / 2 ^ 12 % 2 ^ 12 := blockField_eq b (by omega) rfl rfl

theorem blockTenant_eq (b : Nat) : blockTenant b = b / 2 ^ 24 % 2 ^ 6 := blockField_eq b (by omega) rfl rfl

/-- Filling a ward from a block gives it the fields of the block. -/
theorem fill_fields (w : Ward) (b : Nat) : wardFields (w.fill b) b := by
  have hovr : (w.fill b).ovr.toNat = b / 2 ^ 49 % 2 ^ 7 := by
    rw [Ward.fill, BitVec.toNat_ofNat, blockField_eq b (o := 0) (l := 49) (n := 7) (by omega) rfl rfl, Nat.mod_mod]
  refine ⟨blockField_bit b (by omega), ?_, ?_, blockField_bit b (by omega), hovr, ?_, ?_, ?_, ?_, ?_, ?_, ?_, ?_, ?_, ?_, ?_, ?_⟩ <;>
    exact blockField_eq b (by omega) rfl rfl

/-! ### What each operation can do -/

/-- The ward that CREATE makes of a block. -/
def createdWard (b : Nat) : Ward := ({ Ward.bringUp with parent := blockParent b, tenant := blockTenant b } : Ward).fill b

theorem wardCreate_cases (s : State) (w b : Nat) :
    (∃ st, st ≠ .ok ∧ s.wardCreate w b = (s, st)) ∨
    (s.blockWrong w b = false ∧ s.ward? w = none ∧ (blockParent b ≠ 0xFFF → (s.ward? (blockParent b)).isSome = true) ∧
      s.treeWrong b = false ∧ s.wardCreate w b = ({ s with wards := tabSet w (createdWard b) s.wards }, .ok)) := by
  unfold State.wardCreate
  split
  · exact .inl ⟨.inval, by decide, rfl⟩
  split
  · exact .inl ⟨.exists, by decide, rfl⟩
  split
  · exact .inl ⟨.noward, by decide, rfl⟩
  split
  · exact .inl ⟨.full, by decide, rfl⟩
  split
  · exact .inl ⟨.inval, by decide, rfl⟩
  · next hb he hp _ ht =>
    refine .inr ⟨by simpa using hb, by simpa using he, fun hn => ?_, by simpa using ht, rfl⟩
    rw [Option.isSome_iff_ne_none]
    rintro hq
    simp [hn, hq] at hp

theorem wardModify_cases (s : State) (w b : Nat) :
    (∃ st, st ≠ .ok ∧ s.wardModify w b = (s, st)) ∨
    ∃ v, s.ward? w = some v ∧ s.wardModify w b = ({ s with wards := tabSet w (v.fill b) s.wards }, .ok) := by
  unfold State.wardModify
  split
  · exact .inl ⟨.noward, by decide, rfl⟩
  · next v hv =>
    split
    · exact .inl ⟨.inval, by decide, rfl⟩
    · exact .inr ⟨v, hv, rfl⟩

theorem wardDelete_cases (s : State) (w : Nat) :
    (∃ st, st ≠ .ok ∧ s.wardDelete w = (s, st)) ∨
    (2 ≤ w ∧ s.wardInUse w = false ∧ s.wardDelete w = ({ s with wards := tabDel w s.wards }, .ok)) := by
  unfold State.wardDelete
  split
  · exact .inl ⟨.noward, by decide, rfl⟩
  split
  · exact .inl ⟨.inval, by decide, rfl⟩
  split
  · exact .inl ⟨.busy, by decide, rfl⟩
  · next h hu =>
    simp only [Bool.or_eq_true, decide_eq_true_eq, not_or] at h
    exact .inr ⟨by omega, by simpa using hu, rfl⟩

theorem wardReset_cases (s : State) (w : Nat) :
    (∃ st, st ≠ .ok ∧ s.wardReset w = (s, st)) ∨
    ∃ v, s.ward? w = some v ∧ v.tenant ≠ 0 ∧ s.wardReset w = ({ s with resets := s.resets ++ [v.tenant] }, .ok) := by
  unfold State.wardReset
  split
  · exact .inl ⟨.noward, by decide, rfl⟩
  · next v hv =>
    split
    · exact .inl ⟨.inval, by decide, rfl⟩
    split
    · exact .inl ⟨.busy, by decide, rfl⟩
    · next ht _ => exact .inr ⟨v, hv, ht, rfl⟩

/-- A ward after CLEAR of the fault domain of ward w, whose own block is v. -/
def clearedWard (s : State) (w : Nat) (v : Ward) (m : Nat) (u : Ward) : Ward :=
  if u.tenant = v.tenant ∧ s.effFdom m = s.effFdom w then { u with dstopped := false } else u

theorem wardClear_cases (s : State) (w : Nat) :
    (s.ward? w = none ∧ s.wardClear w = (s, .noward)) ∨
    ∃ v, s.ward? w = some v ∧ s.wardClear w = ({ s with wards := s.wards.map fun e => (e.1, clearedWard s w v e.1 e.2) }, .ok) := by
  unfold State.wardClear
  split
  · next hn => exact .inl ⟨hn, rfl⟩
  · next v hv =>
    refine .inr ⟨v, hv, ?_⟩
    congr 2
    refine List.map_congr_left fun e _ => ?_
    simp only [clearedWard, Bool.and_eq_true, decide_eq_true_eq]
    split <;> rfl

/-- A table whose values are changed by their keys. -/
theorem tabFind_mapKey {α : Type} (f : Nat → α → α) (k : Nat) (l : List (Nat × α)) :
    tabFind k (l.map fun e => (e.1, f e.1 e.2)) = (tabFind k l).map (f k) := by
  induction l with
  | nil => rfl
  | cons e l ih =>
    by_cases h : e.1 = k
    · simp [tabFind, h]
    · simp [tabFind, h, ih]

/-! ### Operations that are done -/

section
variable {s : State} {w b : Nat}

/-- A status other than OK changes nothing. -/
theorem fst_of_failed {r : State × WardStatus} {P : Prop} (h : (∃ st, st ≠ .ok ∧ r = (s, st)) ∨ P) (hp : P → r.2 = .ok) (hr : r.2 ≠ .ok) :
    r.1 = s := by
  rcases h with ⟨st, -, rfl⟩ | h
  · rfl
  · exact absurd (hp h) hr

/-- OK is answered only by what is done. -/
theorem done_of_ok {r : State × WardStatus} {P : Prop} (h : (∃ st, st ≠ .ok ∧ r = (s, st)) ∨ P) (hr : r.2 = .ok) : P := by
  rcases h with ⟨st, hst, rfl⟩ | h
  · exact absurd hr hst
  · exact h

theorem failed_unchanged (s : State) (w b : Nat) : ((s.wardCreate w b).2 ≠ .ok → (s.wardCreate w b).1 = s) ∧
    ((s.wardModify w b).2 ≠ .ok → (s.wardModify w b).1 = s) ∧ ((s.wardDelete w).2 ≠ .ok → (s.wardDelete w).1 = s) ∧
    ((s.wardReset w).2 ≠ .ok → (s.wardReset w).1 = s) ∧ ((s.wardClear w).2 ≠ .ok → (s.wardClear w).1 = s) := by
  refine ⟨fst_of_failed (wardCreate_cases s w b) fun ⟨_, _, _, _, h⟩ => by rw [h],
    fst_of_failed (wardModify_cases s w b) fun ⟨_, _, h⟩ => by rw [h],
    fst_of_failed (wardDelete_cases s w) fun ⟨_, _, h⟩ => by rw [h],
    fst_of_failed (wardReset_cases s w) fun ⟨_, _, _, h⟩ => by rw [h], fun hc => ?_⟩
  rcases wardClear_cases s w with ⟨-, h⟩ | ⟨v, -, h⟩
  · rw [h]
  · exact absurd (by rw [h]) hc

theorem ward?_tabSet (s : State) (w m : Nat) (v : Ward) :
    ({ s with wards := tabSet w v s.wards } : State).ward? m = if m = w then some v else s.ward? m := tabFind_tabSet w m v s.wards

theorem parent_of_treeRight (hp : blockParent b ≠ 0xFFF → (s.ward? (blockParent b)).isSome = true) (ht : s.treeWrong b = false) :
    blockParent b = 0xFFF ∨ ∃ p, s.ward? (blockParent b) = some p ∧ p.tenant = blockTenant b := by
  by_cases hr : blockParent b = 0xFFF
  · exact .inl hr
  · obtain ⟨p, hw⟩ := Option.isSome_iff_exists.1 (hp hr)
    simp [State.treeWrong, hr, hw] at ht
    exact .inr ⟨p, hw, ht.1⟩

theorem wardCreate_makes (h : (s.wardCreate w b).2 = .ok) : s.ward? w = none ∧
    ∃ v, (s.wardCreate w b).1.ward? w = some v ∧ v.parent = b / 2 ^ 12 % 2 ^ 12 ∧ v.tenant = b / 2 ^ 24 % 2 ^ 6 ∧
      wardFields v b ∧ v.dstopped = false ∧ { (s.wardCreate w b).1 with wards := s.wards } = s ∧
      (v.parent = 0xFFF ∨ ∃ p, s.ward? v.parent = some p ∧ p.tenant = v.tenant) ∧ (v.priv = true → v.tenant = 0) ∧
      ∀ m, m ≠ w → (s.wardCreate w b).1.ward? m = s.ward? m := by
  obtain ⟨hb, hw, hp, ht, he⟩ := done_of_ok (wardCreate_cases s w b) h
  rw [he]
  refine ⟨hw, createdWard b, by simp [ward?_tabSet], blockParent_eq b, blockTenant_eq b, fill_fields _ b, rfl, rfl,
    parent_of_treeRight hp ht, fun hv => ?_, fun m hm => by simp [ward?_tabSet, hm]⟩
  have hpriv : blockField b 0 31 31 = 1 := of_decide_eq_true hv
  simp [State.blockWrong, hpriv] at hb
  exact hb.2

theorem wardModify_replaces {v : Ward} (hv : s.ward? w = some v) (h : (s.wardModify w b).2 = .ok) :
    ∃ u, (s.wardModify w b).1.ward? w = some u ∧ u.parent = v.parent ∧ u.tenant = v.tenant ∧ wardFields u b ∧
      u.dstopped = v.dstopped ∧ { (s.wardModify w b).1 with wards := s.wards } = s ∧
      ∀ m, m ≠ w → (s.wardModify w b).1.ward? m = s.ward? m := by
  obtain ⟨v', hv', he⟩ := done_of_ok (wardModify_cases s w b) h
  obtain rfl : v' = v := Option.some.inj (hv'.symm.trans hv)
  rw [he]
  exact ⟨v'.fill b, by simp [ward?_tabSet], rfl, rfl, fill_fields v' b, rfl, rfl, fun m hm => by simp [ward?_tabSet, hm]⟩

theorem wardDelete_removes (h : (s.wardDelete w).2 = .ok) : 2 ≤ w ∧ (s.wardDelete w).1.ward? w = none ∧
    { (s.wardDelete w).1 with wards := s.wards } = s ∧ (∀ m, m ≠ w → (s.wardDelete w).1.ward? m = s.ward? m) ∧
    ∀ l ∈ s.launches, l.ward = w → l.status.isSome = true := by
  obtain ⟨h2, hu, he⟩ := done_of_ok (wardDelete_cases s w) h
  rw [he]
  refine ⟨h2, tabFind_tabDel_same w s.wards, rfl, fun m hm => tabFind_tabDel_other hm s.wards, fun l hl hw => ?_⟩
  simp only [State.wardInUse, Bool.or_eq_false_iff, List.any_eq_false] at hu
  simpa [hw, Option.isSome_iff_ne_none] using hu.1.2 l hl

theorem wardReset_requests (h : (s.wardReset w).2 = .ok) : ∃ v, s.ward? w = some v ∧ v.tenant ≠ 0 ∧
    (s.wardReset w).1 = { s with resets := s.resets ++ [v.tenant] } := by
  obtain ⟨v, hv, ht, he⟩ := done_of_ok (wardReset_cases s w) h
  exact ⟨v, hv, ht, by rw [he]⟩

theorem wardClear_ends {v : Ward} (hv : s.ward? w = some v) : (s.wardClear w).2 = .ok ∧
    { (s.wardClear w).1 with wards := s.wards } = s ∧ ∀ m u, s.ward? m = some u → (s.wardClear w).1.ward? m =
      some (if u.tenant = v.tenant ∧ s.effFdom m = s.effFdom w then { u with dstopped := false } else u) := by
  rcases wardClear_cases s w with ⟨hn, -⟩ | ⟨v', hv', he⟩
  · rw [hv] at hn
    cases hn
  · obtain rfl : v' = v := Option.some.inj (hv'.symm.trans hv)
    rw [he]
    refine ⟨rfl, rfl, fun m u hu => ?_⟩
    exact (tabFind_mapKey (clearedWard s w v') m s.wards).trans (congrArg (Option.map _) hu)

end

end Sys2Proof.Proofs
end

section
/-! PROOFS. SYS WARD (R89, R326): the request area is read, the operation is performed, and its status is the result. -/

namespace Sys2Proof.Proofs

open Sys2Proof Sys2Proof.Machine Sys2Proof.Safety Sys2Proof.Rules Sys2Proof.Laws

/-! ### An instruction that acts on the state in which it issues -/

/-- Where the squads stand as the instruction issues, its squad is in its place already. -/
theorem updSquad_of_ready {s e : State} {c : Ctx} (h : e.tiles = (ready s c).tiles) :
    (e.updSquad c.tile c.sq.slot fun _ => c.sq) = e := by
  have ht := congrArg State.tiles (updSquad_twice s c.tile c.sq.slot c.sq c.sq rfl)
  change ((ready s c).updSquad c.tile c.sq.slot fun _ => c.sq).tiles = (ready s c).tiles at ht
  have he : (e.updSquad c.tile c.sq.slot fun _ => c.sq) = { e with tiles := ((ready s c).updSquad c.tile c.sq.slot fun _ => c.sq).tiles } := by
    simp only [State.updSquad, State.updWg, State.updTile, State.setTile, State.tile, h]
  rw [he, ht, ← h]

/-- An instruction that leaves the squads as it issued, and writes one register, has that as its result. -/
theorem result_of_ready {i : Instr} {s e : State} {c : Ctx} {d : Operand} {r : RegVal} (h : Issues i s c)
    (ht : e.tiles = (ready s c).tiles) (he : exec i s = .next (e.retire i c fun q => c.write q d r)) (hd : d.isDest = true) :
    Result i s c e c.sq d r.lane := by
  obtain ⟨q0, h0⟩ := issues_squad_before h
  have hs : q0.slot = c.sq.slot := by
    obtain ⟨w, -, hw⟩ := squad?_eq h0
    exact squad_slot hw
  have hq : e.squad? c.tile c.sq.slot = some c.sq := (squad?_of_tiles ht _ _).trans (issues_squad h)
  obtain ⟨t, q, ⟨hx, ⟨k1, k2, k3⟩, hp⟩, hr⟩ := result_of_put (e := e.updSquad c.tile c.sq.slot fun _ => q0) h
    (by rw [updSquad_twice _ _ _ _ _ hs, updSquad_of_ready ht]; exact he)
    ((squad?_updSquad hq fun _ _ => hs).trans h0.symm) rfl hd fun _ => rfl
  obtain ⟨kt, ko⟩ := updSquad_kept e c.tile c.sq.slot (fun _ => q0) fun _ _ => hs
  exact ⟨t, q, ⟨hx, ⟨k1, tileKept_trans kt k2, outsideKept_trans ko k3⟩, hp⟩, hr⟩

/-! ### The request -/

/-- An operation that moves no squad and loses no packet. -/
def Stays (s : State) (r : State × WardStatus) : Prop := r.1.tiles = s.tiles ∧ r.1.loss = s.loss

theorem Stays.failed {s : State} {r : State × WardStatus} {P : Prop} (h : (∃ st, st ≠ .ok ∧ r = (s, st)) ∨ P) (hp : P → Stays s r) :
    Stays s r := by
  rcases h with ⟨st, -, rfl⟩ | h
  · exact ⟨rfl, rfl⟩
  · exact hp h

theorem wardCreate_stays (s : State) (w b : Nat) : Stays s (s.wardCreate w b) :=
  .failed (wardCreate_cases s w b) fun ⟨_, _, _, _, h⟩ => by rw [h]; exact ⟨rfl, rfl⟩

theorem wardModify_stays (s : State) (w b : Nat) : Stays s (s.wardModify w b) :=
  .failed (wardModify_cases s w b) fun ⟨_, _, h⟩ => by rw [h]; exact ⟨rfl, rfl⟩

theorem wardDelete_stays (s : State) (w : Nat) : Stays s (s.wardDelete w) :=
  .failed (wardDelete_cases s w) fun ⟨_, _, h⟩ => by rw [h]; exact ⟨rfl, rfl⟩

theorem wardReset_stays (s : State) (w : Nat) : Stays s (s.wardReset w) :=
  .failed (wardReset_cases s w) fun ⟨_, _, _, h⟩ => by rw [h]; exact ⟨rfl, rfl⟩

theorem wardClear_stays (s : State) (w : Nat) : Stays s (s.wardClear w) := by
  rcases wardClear_cases s w with ⟨-, h⟩ | ⟨_, -, h⟩ <;> rw [h] <;> exact ⟨rfl, rfl⟩

/-- READ: the report of the ward goes to the request area. -/
theorem wardRead_stays (s : State) (k w : Nat) : Stays s (match s.ward? w with
    | some b => (s.pokeN (k + 64) (s.wardReport w b), .ok)
    | none => (s, .noward)) := by
  cases s.ward? w with
  | none => exact ⟨rfl, rfl⟩
  | some b => exact ⟨pokeN_tiles s _ _, pokeN_loss s _ _⟩

/-- The instructions of SYS WARD: each performs its operation, whose status goes to A. -/
theorem wardOf_acts {i : Instr} {f : SForm} {s : State} {k : Nat} {act : Nat → Nat → State × WardStatus}
    (h : wardOf s k i = some (f, act)) : ∃ op, (∀ s, exec i s = s.wardOp i f op) ∧ op s k = act ∧ i.sig.dst = some ⟨f.a, 1⟩ ∧
      ∀ w b, Stays s (act w b) := by
  unfold wardOf at h
  split at h
  case h_7 => exact absurd h (Option.some_ne_none _).symm
  all_goals obtain ⟨rfl, rfl⟩ := Prod.mk.inj (Option.some.inj h)
  · exact ⟨_, fun s => exec_sysWardCreate _ s, rfl, rfl, wardCreate_stays s⟩
  · exact ⟨_, fun s => exec_sysWardModify _ s, rfl, rfl, wardModify_stays s⟩
  · exact ⟨_, fun s => exec_sysWardDelete _ s, rfl, rfl, fun w _ => wardDelete_stays s w⟩
  · exact ⟨_, fun s => exec_sysWardReset _ s, rfl, rfl, fun w _ => wardReset_stays s w⟩
  · exact ⟨_, fun s => exec_sysWardClear _ s, rfl, rfl, fun w _ => wardClear_stays s w⟩
  · refine ⟨_, fun s => exec_sysWardRead _ s, ?_, rfl, fun w _ => wardRead_stays s k w⟩
    funext w b
    cases s.ward? w <;> rfl

theorem sysWard_result {i : Instr} {f : SForm} {act : Nat → Nat → State × WardStatus} {s : State} {c : Ctx} {k : Nat}
    (hk : k = (ready s c).gangKeyAt c.wg (c.object f.a)) (hw : wardOf (ready s c) k i = some (f, act)) (h : Issues i s c)
    (ha : c.areaTrap f.a = none) (hl : s.loss ≠ .answer)
    (hv : (ready s c).targetVerdict c.tile ((ready s c).spadTarget c.wg 0 (c.object f.a)) false = .ok) :
    Result i s c (act ((ready s c).num k 2 % 2 ^ 12) ((ready s c).num (k + 64) 128)).1 c.sq f.a fun _ =>
      BitVec.ofNat 32 (act ((ready s c).num k 2 % 2 ^ 12) ((ready s c).num (k + 64) 128)).2.code := by
  obtain ⟨op, hx, hop, hd, hstays⟩ := wardOf_acts hw
  obtain ⟨ht, hs⟩ := hstays ((ready s c).num k 2 % 2 ^ 12) ((ready s c).num (k + 64) 128)
  refine result_of_ready (r := .uniform (BitVec.ofNat 32 _)) h ht ?_ (wf_dst (issues_wf h) hd).2
  have hs' := hs.trans (show (ready s c).loss = s.loss from rfl)
  rw [hx, State.wardOp, issue_acts h]
  simp only [ha, hv, Verdict.fault?, ← hk, hop, State.unlessLost, State.answerLost, hs', hl, decide_false, Bool.false_and,
    Bool.false_eq_true, if_false]

/-- Settles O39: SYS WARD leaves the squads as it issued, so the status is its one result (`sysWard_result`); each operation either fails
and answers the state it was given, or is done (`wardCreate_cases` and the others). -/
theorem wardOperations : Obligations.WardOperations := by
  unfold Obligations.WardOperations
  exact ⟨fun _ _ _ _ _ hw h ha hl hv => sysWard_result rfl hw h ha hl hv, failed_unchanged, fun _ _ _ h => wardCreate_makes h,
    fun _ _ _ _ hv h => wardModify_replaces hv h, fun _ _ h => wardDelete_removes h, fun _ _ h => wardReset_requests h,
    fun _ _ _ hv => wardClear_ends hv⟩

end Sys2Proof.Proofs
end

section
/-! PROOFS. What reaches a squad between its instructions (R98, R131, R140, R316-R318, R330, R335): results, timers, traps at a boundary,
engine traps, and entries that are reclaimed. -/

namespace Sys2Proof.Proofs

open Sys2Proof Sys2Proof.Machine Sys2Proof.Safety Sys2Proof.Rules Sys2Proof.Laws

/-! ### Results (R140) -/

/-- A result as it is written: whole where it is uniform. -/
def sentValue (uniform : Bool) (v : Lanes) : RegVal := if uniform then .uniform ((RegVal.general v).lane 0) else .general v

section
variable {q : Squad} {o : Outstanding} {r p : Fin 112}

theorem deliver_single (hw : o.width = 1) (hd : o.dst = .v r) (m : Mask) :
    q.deliver o m = q.put (.v r) m o.uniform (sentValue o.uniform o.lo) := by
  simp [Squad.deliver, hw, hd, sentValue]

theorem plus_one (hp : p.val = r.val + 1) : Operand.plus (.v r) 1 = .v p := by
  have h := ofBits_toBits (.v p)
  rw [Operand.toBits, hp] at h
  exact h

theorem deliver_pair (hw : o.width = 2) (hd : o.dst = .v r) (hp : p.val = r.val + 1) (m : Mask) :
    q.deliver o m = (q.put (.v r) m o.uniform (sentValue o.uniform o.lo)).put (.v p) m o.uniform (sentValue o.uniform o.hi) := by
  simp [Squad.deliver, hw, hd, plus_one hp, sentValue]

/-- The lanes in which a result arrives, of those of a mask. -/
def arrivingLanes (o : Outstanding) (m : Mask) : Mask := if o.uniform then o.lanes else o.lanes &&& m

/-- The results on their way when it has arrived there. -/
def afterArrival (q : Squad) (n : Nat) (o : Outstanding) (m : Mask) : List Outstanding :=
  if o.lanes &&& ~~~arrivingLanes o m = 0 then q.outstanding.eraseIdx n
  else q.outstanding.set n { o with lanes := o.lanes &&& ~~~arrivingLanes o m }

theorem arriveResult_eq {n : Nat} (ho : q.outstanding[n]? = some o) (m : Mask) :
    q.arriveResult n m = { q.deliver o (arrivingLanes o m) with outstanding := afterArrival q n o m } := by
  have hq : ∀ m, (q.deliver o m).outstanding = q.outstanding := fun m => (congrArg Squad.outstanding (deliver_rest q o m) :)
  simp only [Squad.arriveResult, ho, hq, afterArrival, arrivingLanes]
  rfl

theorem arriveResult_rest {n : Nat} (ho : q.outstanding[n]? = some o) (m : Mask) :
    { q.arriveResult n m with regs := q.regs, oc := q.oc, lt := q.lt } = { q with outstanding := afterArrival q n o m } := by
  rw [arriveResult_eq ho]
  exact congrArg (fun u : Squad => { u with outstanding := afterArrival q n o m }) (deliver_rest q o (arrivingLanes o m))

theorem arriveResult_slot (q : Squad) (n : Nat) (m : Mask) : (q.arriveResult n m).slot = q.slot := by
  cases ho : q.outstanding[n]? with
  | none => rw [Squad.arriveResult, ho]
  | some o => exact (congrArg Squad.slot (arriveResult_rest ho m) :)

theorem and_not_and (a b : Mask) : a &&& ~~~(a &&& b) = a &&& ~~~b := by
  ext i
  simp only [BitVec.getElem_and, BitVec.getElem_not]
  cases a[i] <;> simp

/-- A general result of one register arrives in lanes. -/
theorem arriveResult_single {n : Nat} (ho : q.outstanding[n]? = some o) (m : Mask) (hu : o.uniform = false) (hw : o.width = 1)
    (hd : o.dst = .v r) : let u := q.arriveResult n m
      (∀ j ∈ lanesOf (o.lanes &&& m), laneVal u o.dst j = (RegVal.general o.lo).lane j) ∧
      (∀ k : Fin 112, k ≠ r → u.reg k.val = q.reg k.val) ∧
      { u with regs := q.regs, outstanding := q.outstanding } = q ∧
      u.outstanding = (if o.lanes &&& ~~~m = 0 then q.outstanding.eraseIdx n
        else q.outstanding.set n { o with lanes := o.lanes &&& ~~~m }) := by
  have hm : arrivingLanes o m = o.lanes &&& m := by simp [arrivingLanes, hu]
  have hq : q.arriveResult n m = { q.put (.v r) (o.lanes &&& m) false (.general o.lo) with outstanding := afterArrival q n o m } := by
    rw [arriveResult_eq ho, deliver_single hw hd, hm, hu]
    rfl
  simp only [hq]
  refine ⟨fun j hj => ?_, fun k hk => put_reg_other _ _ _ _ _ _ (by simpa using hk), rfl, ?_⟩
  · obtain ⟨hj, hb⟩ := mem_lanesOf.1 hj
    rw [hd]
    exact (put_laneVal (q := q) (o := .v r) rfl (by simp) hj hb).1
  · simp only [afterArrival, hm, and_not_and]

/-- A general result of a pair arrives in lanes. -/
theorem arriveResult_pair {n : Nat} (ho : q.outstanding[n]? = some o) (m : Mask) (hu : o.uniform = false) (hw : o.width = 2)
    (hd : o.dst = .v r) (hp : p.val = r.val + 1) : let u := q.arriveResult n m
      (∀ j ∈ lanesOf (o.lanes &&& m), laneVal u (.v r) j = (RegVal.general o.lo).lane j ∧
        laneVal u (.v p) j = (RegVal.general o.hi).lane j) ∧
      (∀ k : Fin 112, k ≠ r → k ≠ p → u.reg k.val = q.reg k.val) ∧
      { u with regs := q.regs, outstanding := q.outstanding } = q := by
  have hm : arrivingLanes o m = o.lanes &&& m := by simp [arrivingLanes, hu]
  have hne : r ≠ p := fun h => by rw [h] at hp; omega
  simp only [arriveResult_eq ho, deliver_pair hw hd hp, hm, hu, sentValue]
  refine ⟨fun j hj => ?_, fun k hr hk => ?_, rfl⟩
  · obtain ⟨hj, hb⟩ := mem_lanesOf.1 hj
    have h1 := put_laneVal (q := q) (o := .v r) (m := o.lanes &&& m) (whole := false) (r := .general o.lo) rfl (by simp) hj hb
    exact ⟨(congrArg (fun v : RegVal => v.lane j) (put_reg_other _ (.v p) _ _ _ r (by simpa using hne))).trans h1.1,
      (put_laneVal (o := .v p) rfl (by simp) hj hb).1⟩
  · exact (put_reg_other _ (.v p) _ _ _ k (by simpa using hk)).trans (put_reg_other _ (.v r) _ _ _ k (by simpa using hr))

/-- A uniform result of one register arrives whole. -/
theorem arriveResult_uniform {n : Nat} (ho : q.outstanding[n]? = some o) (m : Mask) (hu : o.uniform = true) (hw : o.width = 1)
    (hd : o.dst = .v r) : let u := q.arriveResult n m
      u.reg r.val = .uniform ((RegVal.general o.lo).lane 0) ∧ (∀ k : Fin 112, k ≠ r → u.reg k.val = q.reg k.val) ∧
      { u with regs := q.regs } = { q with outstanding := q.outstanding.eraseIdx n } := by
  have hm : arrivingLanes o m = o.lanes := by simp [arrivingLanes, hu]
  have ha : afterArrival q n o m = q.outstanding.eraseIdx n := by simp [afterArrival, hm]
  simp only [arriveResult_eq ho, deliver_single hw hd, hm, hu, ha, sentValue]
  refine ⟨?_, fun k hk => put_reg_other _ _ _ _ _ _ (by simpa using hk), rfl⟩
  exact (setReg_reg q r.val r.val _ r.isLt).trans (by rw [if_pos rfl]; rfl)

end

theorem resultWriteback_arrives {s : State} {x slot n : Nat} {m : Mask} {q : Squad} (hi : s.input = .resultWriteback x slot n m)
    (hq : s.squad? x slot = some q) :
    ∃ t, exec .resultWriteback s = .next t ∧ t.squad? x slot = some (q.arriveResult n m) ∧ { t with tiles := s.tiles } = s := by
  refine ⟨s.updSquad x slot fun q => q.arriveResult n m, ?_, squad?_updSquad hq fun q h => (arriveResult_slot q n m).trans h, rfl⟩
  simp only [exec_resultWriteback, execResultWriteback, hi]

/-! ### Timers and holds (R135, R330) -/

theorem fire_due {g : Group} {a now : Nat} (hb : g.blocked = some (.sleep a false)) (ha : a ≤ now) :
    g.fire now = { g with blocked := some (.sleep a true) } := by
  simp only [Group.fire, hb, ha, if_true]

theorem fire_waits {g : Group} {now : Nat} (h : ∀ a, g.blocked = some (.sleep a false) → now < a) : g.fire now = g := by
  unfold Group.fire
  split
  · next a hb => rw [if_neg (by have := h a hb; omega)]
  · rfl

theorem sleepTimer_fires {s : State} {x slot : Nat} {q : Squad} (hi : s.input = .sleepTimer x slot) (hq : s.squad? x slot = some q) :
    ∃ (t : State) (gs : List Group), exec .sleepTimer s = .next t ∧ t.squad? x slot = some { q with groups := gs } ∧ { t with tiles := s.tiles } = s ∧
      gs.length = q.groups.length ∧ ∀ (i : Nat) (g : Group), q.groups[i]? = some g →
        (∀ a, g.blocked = some (.sleep a false) → a ≤ s.devclk.toNat →
          gs[i]? = some { g with blocked := some (.sleep a true) }) ∧
        ((∀ a, g.blocked = some (.sleep a false) → s.devclk.toNat < a) → gs[i]? = some g) := by
  refine ⟨s.updSquad x slot fun q => { q with groups := q.groups.map (Group.fire s.devclk.toNat) }, q.groups.map (Group.fire s.devclk.toNat),
    ?_, squad?_updSquad hq fun _ h => h, rfl, List.length_map _, fun i g hg => ⟨fun a hb ha => ?_, fun hn => ?_⟩⟩
  · simp only [exec_sleepTimer, execSleepTimer, hi]
  · rw [List.getElem?_map, hg, Option.map_some, fire_due hb ha]
  · rw [List.getElem?_map, hg, Option.map_some, fire_waits hn]

theorem skewHoldTimeout_ends {s : State} {x slot t0 : Nat} (hi : s.input = .skewHoldTimeout x) (hk : (s.tile x).skew = some (slot, t0))
    (ht : t0 + 2048 ≤ s.coreCycles) :
    exec .skewHoldTimeout s = .next (s.updTile x fun tl => { tl with
      skew := none, wg := tl.wg.map fun w => { w with skewQuiet := s.coreCycles + 2048 } }) := by
  simp only [exec_skewHoldTimeout, execSkewHoldTimeout, hi, State.updTile, hk, ht, if_true, Tile.updWg]

/-! ### Taking a trap at a boundary (R316-R318) -/

/-- The squad as it enters the handler: the taking group, g, goes to `pc`. -/
def enteredSquad (q : Squad) (g : Group) (r : TrapRegs) (pc : DWord) (now : Nat) : Squad :=
  { q.deschedule with
    trap := r, intrap := true, handler := g.threads
    groups := addGroup { g with pc := pc, hints := none, blocked := none, since := now, read := none } (q.groups.filter fun h => h.pc ≠ g.pc) }

/-- A group that is added stands whole in one group at its PC. -/
theorem addGroup_whole (g : Group) (gs : List Group) (hz : g.threads ≠ 0) :
    ∃ h ∈ addGroup g gs, h.pc = g.pc ∧ g.threads &&& h.threads = g.threads := by
  induction gs with
  | nil => exact ⟨g, by rw [addGroup, if_neg hz]; exact List.mem_singleton.2 rfl, rfl, BitVec.and_self⟩
  | cons y r ih =>
    simp only [addGroup]
    split
    · next hc =>
      simp only [Bool.and_eq_true, decide_eq_true_eq] at hc
      refine ⟨mergeGroups y g, List.mem_cons_self, hc.2, ?_⟩
      ext i
      simp only [mergeGroups, BitVec.getElem_and, BitVec.getElem_or]
      cases g.threads[i] <;> simp
    · obtain ⟨h, hm, hh⟩ := ih
      exact ⟨h, List.mem_cons_of_mem _ hm, hh⟩

/-- What is bare of a squad says the PC and the threads of each group. -/
theorem group_of_bare {q r : Squad} (h : bare r = bare q) {g : Group} (hg : g ∈ q.groups) :
    ∃ x ∈ r.groups, x.pc = g.pc ∧ x.threads = g.threads := by
  have hm : ({ g with entry := .home, cause := 0 } : Group) ∈ (bare q).groups := List.mem_map.2 ⟨g, hg, rfl⟩
  rw [← h] at hm
  obtain ⟨x, hx, he⟩ := List.mem_map.1 hm
  exact ⟨x, hx, (congrArg Group.pc he :), (congrArg Group.threads he :)⟩

/-- A trap that its handler takes: the squad enters it, and the taking group stands there whole. -/
theorem takeTrap_taken {s : State} {x slot : Nat} {w : Workgroup} {q : Squad} {g : Group} {r : TrapRegs} {pc : DWord}
    (hw : (s.tile x).wg = some w) (hq : w.squad? slot = some q) (hg : q.group? g.pc = some g)
    (hh : handlerPc (s.launch? w.gang.launch) q r.num.toNat = some pc) :
    ∃ u, (s.takeTrap x slot g.pc r).squad? x slot = some u ∧ bare u = bare (enteredSquad q g r pc s.coreCycles) ∧
      (g.threads ≠ 0 → ∃ h ∈ u.groups, h.pc = pc ∧ g.threads &&& h.threads = g.threads) := by
  have hs : s.squad? x slot = some q := by simp [State.squad?, hw, hq]
  have hd : ({ q.deschedule with trap := r, intrap := true, handler := g.threads } : Squad).group? g.pc = some g := hg
  have he : s.takeTrap x slot g.pc r = s.putSquad x (enteredSquad q g r pc s.coreCycles) 0 := by
    simp only [State.takeTrap, hw, hq, hh, State.enterTrap, hs, hg, Option.map_some, Option.getD_some, Squad.moveGroup, hd]
    rfl
  have hslot : (enteredSquad q g r pc s.coreCycles).slot = slot := show q.slot = slot from squad_slot hq
  obtain ⟨u, hu, hb, -⟩ := putSquad_spec (s := s) (t := x) (q := enteredSquad q g r pc s.coreCycles) 0 (hslot ▸ hs)
  rw [hslot] at hu
  refine ⟨u, he ▸ hu, hb, fun hz => ?_⟩
  obtain ⟨h, hm, hp, ht⟩ := addGroup_whole { g with pc := pc, hints := none, blocked := none, since := s.coreCycles, read := none }
    (q.groups.filter fun h => h.pc ≠ g.pc) hz
  obtain ⟨y, hy, hyp, hyt⟩ := group_of_bare hb hm
  exact ⟨y, hy, hyp.trans hp, by rw [hyt]; exact ht⟩

/-- The conclusion of the statement on traps names a group even where the taking group has no thread. -/
theorem named_of_whole {g : Group} {gs : List Group} {pc : DWord}
    (h : g.threads ≠ 0 → ∃ h ∈ gs, h.pc = pc ∧ g.threads &&& h.threads = g.threads) :
    ∃ h, g.threads ≠ 0 → h ∈ gs ∧ h.pc = pc ∧ g.threads &&& h.threads = g.threads := by
  by_cases hz : g.threads = 0
  · exact ⟨g, fun hn => absurd hz hn⟩
  · obtain ⟨y, hy⟩ := h hz
    exact ⟨y, fun _ => hy⟩

/-- The workgroup and the squad after a change of the squad. -/
theorem wg_updSquad {s : State} {x slot : Nat} {w : Workgroup} {q : Squad} {f : Squad → Squad} (hw : (s.tile x).wg = some w)
    (hq : w.squad? slot = some q) (hf : ∀ q, (f q).slot = q.slot) :
    ((s.updSquad x slot f).tile x).wg = some (w.updSquad slot f) ∧ (w.updSquad slot f).squad? slot = some (f q) := by
  refine ⟨by simp [hw], ?_⟩
  rw [squad_updSquad _ _ _ _ fun q h => (hf q).trans h]
  simp [hq]

/-! ### WOUND and engine traps at a boundary (R304, R318, R335) -/

/-- The state in which the squad takes the WOUND that it holds. -/
def woundTaken (s : State) (x slot : Nat) : State := (s.updSquad x slot fun q => { q with wound := false }).freeDWord.1

/-- The trap registers of WOUND: its launch site is a free value (LOG 8). -/
def woundRegs (s : State) (x slot : Nat) (g : Group) : TrapRegs :=
  g.asyncRegs Trap.wound 0 0 0 (s.updSquad x slot fun q => { q with wound := false }).freeDWord.2

section
variable {s : State} {x slot : Nat} {w : Workgroup} {q : Squad} {g : Group} {pc : DWord}

theorem exec_woundTrap_of (hi : s.input = .woundTrap x slot) (hw : (s.tile x).wg = some w) (hq : w.squad? slot = some q) :
    exec .woundTrap s = .next (s.takeWound x w q) := by
  simp only [exec_woundTrap, execWoundTrap, hi, hw, hq]

theorem takeWound_takes (hslot : q.slot = slot) (hwound : q.wound = true) (hin : q.intrap = false) (hend : q.ended = false)
    (hb : s.lockBusy (squadKey w q) = true) (hg : s.taker x w q = some g) :
    s.takeWound x w q = (woundTaken s x slot).takeTrap x slot g.pc (woundRegs s x slot g) := by
  subst hslot
  simp only [State.takeWound, hwound, hin, hend, hb, hg, Bool.not_true, Bool.or_false, Bool.false_eq_true, if_false]
  rfl

theorem takeWound_drops (hwound : q.wound = true) (hin : q.intrap = false) (hend : q.ended = false)
    (hb : s.lockBusy (squadKey w q) = false) : s.takeWound x w q = s.endWound (squadKey w q) := by
  simp only [State.takeWound, hwound, hin, hend, hb, Bool.not_true, Bool.not_false, Bool.or_false, Bool.false_eq_true, if_false, if_true]

theorem lockSquad_setLockSquad (s : State) (l : LockSquad) : (s.setLockSquad l).lockSquad l.squad = l := by
  simp [State.lockSquad, State.setLockSquad]

theorem lockSquad_squad (s : State) (k : SquadKey) : (s.lockSquad k).squad = k := by
  unfold State.lockSquad
  cases hf : s.lockSquads.find? fun l => l.squad = k with
  | none => rfl
  | some l => simpa using List.find?_some hf

theorem woundTrap_drops (hi : s.input = .woundTrap x slot) (hw : (s.tile x).wg = some w) (hq : w.squad? slot = some q)
    (hwound : q.wound = true) (hin : q.intrap = false) (hend : q.ended = false) (hb : s.lockBusy (squadKey w q) = false)
    (hl : s.locate (squadKey w q) = some (x, slot)) :
    ∃ t u, exec .woundTrap s = .next t ∧ t.squad? x slot = some u ∧ u = { q with wound := false } ∧
      (t.lockSquad (squadKey w q)).woundLeft = none := by
  let l : LockSquad := { s.lockSquad (squadKey w q) with woundLeft := none }
  have hk : l.squad = squadKey w q := lockSquad_squad s _
  have hs : (s.setLockSquad l).squad? x slot = some q := by
    change s.squad? x slot = some q
    simp [State.squad?, hw, hq]
  have hl' : (s.setLockSquad l).locate (squadKey w q) = some (x, slot) := hl
  refine ⟨(s.setLockSquad l).updSquad x slot fun d => { d with wound := false }, _, ?_, squad?_updSquad hs fun _ h => h, rfl, ?_⟩
  · rw [exec_woundTrap_of hi hw hq, takeWound_drops hwound hin hend hb]
    simp only [State.endWound, hb, Bool.false_eq_true, if_false]
    rw [show (s.setLockSquad { s.lockSquad (squadKey w q) with woundLeft := none }).locate (squadKey w q) = some (x, slot) from hl']
  · have h := lockSquad_setLockSquad s l
    rw [hk] at h
    exact congrArg LockSquad.woundLeft h

theorem woundTrap_enters (hi : s.input = .woundTrap x slot) (hw : (s.tile x).wg = some w) (hq : w.squad? slot = some q)
    (hwound : q.wound = true) (hin : q.intrap = false) (hend : q.ended = false) (hb : s.lockBusy (squadKey w q) = true)
    (ht : s.taker x w q = some g) (hg : q.group? g.pc = some g) (hh : handlerPc (s.launch? w.gang.launch) q 6 = some pc) :
    ∃ t u h, exec .woundTrap s = .next t ∧ t.squad? x slot = some u ∧ u.intrap = true ∧ u.wound = false ∧
      u.handler = g.threads ∧ u.trap.num = 6 ∧ u.trap.pc = g.site ∧ u.trap.async = true ∧
      (g.threads ≠ 0 → h ∈ u.groups ∧ h.pc = pc ∧ g.threads &&& h.threads = g.threads) := by
  obtain ⟨hw', hq'⟩ := wg_updSquad (f := fun q => { q with wound := false }) hw hq fun _ => rfl
  obtain ⟨u, hu, hbare, hh'⟩ := takeTrap_taken (s := woundTaken s x slot) (g := g) (r := woundRegs s x slot g) hw' hq' hg hh
  obtain ⟨h, hh''⟩ := named_of_whole hh'
  exact ⟨_, u, h, (exec_woundTrap_of hi hw hq).trans (congrArg _ (takeWound_takes (squad_slot hq) hwound hin hend hb ht)), hu,
    (congrArg Squad.intrap hbare :), (congrArg Squad.wound hbare :), (congrArg Squad.handler hbare :),
    (congrArg (fun u : Squad => u.trap.num) hbare :), (congrArg (fun u : Squad => u.trap.pc) hbare :),
    (congrArg (fun u : Squad => u.trap.async) hbare :), hh''⟩

theorem takeEngine_takes {e : EngineTrap} (hslot : q.slot = slot) (hwound : q.wound = false) (hin : q.intrap = false)
    (ht : s.taker x w q = some g) (he : q.engine = some e ∨ (q.engine = none ∧ q.late = some e)) :
    ∃ f : Squad → Squad, (∀ q, (f q).slot = q.slot) ∧ (f q).engine = none ∧ { f q with engine := q.engine, late := q.late } = q ∧
      s.takeEngine x w q = (s.updSquad x slot f).takeTrap x slot g.pc (g.asyncRegs e.number e.detail e.address e.seq e.site) := by
  subst hslot
  rcases he with he | ⟨hn, he⟩
  · refine ⟨fun q => { q with engine := none }, fun _ => rfl, rfl, rfl, ?_⟩
    simp only [State.takeEngine, hwound, hin, ht, he, Bool.or_false, Bool.false_eq_true, if_false]
  · refine ⟨fun q => { q with late := none }, fun _ => rfl, hn, rfl, ?_⟩
    simp only [State.takeEngine, hwound, hin, ht, hn, he, Bool.or_false, Bool.false_eq_true, if_false]

end

end Sys2Proof.Proofs
end

section
/-! PROOFS. Engine traps at a boundary (R317, R318), as they arrive (R335, R98), and pool entries that are reclaimed (R131). -/

namespace Sys2Proof.Proofs

open Sys2Proof Sys2Proof.Machine Sys2Proof.Safety Sys2Proof.Rules Sys2Proof.Laws

/-! ### Engine traps (R335) -/

section
variable {s : State} {x slot : Nat} {w : Workgroup} {q : Squad} {g : Group} {pc : DWord} {e : EngineTrap} {k : SquadKey}

theorem exec_asyncTrapEntry_of (hi : s.input = .asyncTrapEntry x slot) (hw : (s.tile x).wg = some w) (hq : w.squad? slot = some q) :
    exec .asyncTrapEntry s = .next (s.takeEngine x w q) := by
  simp only [exec_asyncTrapEntry, execAsyncTrapEntry, hi, hw, hq]

theorem asyncTrapEntry_enters (hi : s.input = .asyncTrapEntry x slot) (hw : (s.tile x).wg = some w) (hq : w.squad? slot = some q)
    (hwound : q.wound = false) (hin : q.intrap = false) (ht : s.taker x w q = some g) (hg : q.group? g.pc = some g)
    (he : q.engine = some e ∨ (q.engine = none ∧ q.late = some e)) (hn : e.number < 256)
    (hh : handlerPc (s.launch? w.gang.launch) q e.number = some pc) :
    ∃ t u h, exec .asyncTrapEntry s = .next t ∧ t.squad? x slot = some u ∧ u.intrap = true ∧ u.handler = g.threads ∧
      u.engine = none ∧ u.trap = ⟨g.site, BitVec.ofNat 8 e.number, true, false, false, e.detail, e.address, e.seq, 0, e.site⟩ ∧
      (g.threads ≠ 0 → h ∈ u.groups ∧ h.pc = pc ∧ g.threads &&& h.threads = g.threads) := by
  obtain ⟨f, hf, hnone, hrest, htake⟩ := takeEngine_takes (squad_slot hq) hwound hin ht he
  obtain ⟨hw', hq'⟩ := wg_updSquad hw hq hf
  have hg' : (f q).group? g.pc = some g := (congrArg (·.group? g.pc) hrest :).trans hg
  have hnum : (BitVec.ofNat 8 e.number).toNat = e.number := Nat.mod_eq_of_lt hn
  have hh' : handlerPc (s.launch? w.gang.launch) (f q) (g.asyncRegs e.number e.detail e.address e.seq e.site).num.toNat = some pc := by
    rw [show (g.asyncRegs e.number e.detail e.address e.seq e.site).num.toNat = e.number from hnum, ← hh]
    exact (congrArg (handlerPc (s.launch? w.gang.launch) · e.number) hrest :)
  obtain ⟨u, hu, hbare, hwhole⟩ := takeTrap_taken (s := s.updSquad x slot f) hw' hq' hg' hh'
  obtain ⟨h, hh''⟩ := named_of_whole hwhole
  exact ⟨_, u, h, (exec_asyncTrapEntry_of hi hw hq).trans (congrArg _ htake), hu,
    (congrArg Squad.intrap hbare :), (congrArg Squad.handler hbare :), (congrArg Squad.engine hbare :).trans hnone,
    (congrArg Squad.trap hbare :), hh''⟩

theorem engineTrapArrival_reaches (hi : s.input = .engineTrapArrival k e) (hl : s.locate k = some (x, slot))
    (hw : (s.tile x).wg = some w) : exec .engineTrapArrival s = .next (s.engineTrap x w slot e) := by
  simp only [exec_engineTrapArrival, execEngineTrapArrival, hi, hl, hw]

theorem engineTrap_held (hq : w.squad? slot = some q) (hgo : s.goesOn w.gang.launch = true) (hn : q.engine = none)
    (hend : q.ended = false) : s.engineTrap x w slot e = s.updSquad x slot fun q => { q with engine := some e } := by
  simp only [State.engineTrap, hq, hgo, hn, hend, Bool.not_true, Bool.false_eq_true, if_false]

theorem engineTrap_marks {h : EngineTrap} (hq : w.squad? slot = some q) (hgo : s.goesOn w.gang.launch = true)
    (hh : q.engine = some h) : s.engineTrap x w slot e = s.updSquad x slot fun q =>
      { q with engine := some { h with detail := h.detail ||| 0x80000000#32 } } := by
  simp only [State.engineTrap, hq, hgo, hh, Bool.not_true, Bool.false_eq_true, if_false]

theorem engineTrapArrival_recorded (hi : s.input = .engineTrapArrival k e) (hl : s.locate k = none) (hseq : e.seq ≠ 0)
    (hward : s.faultWard (((s.launch? k.gang.launch).map (·.ward)).getD 0) = none) :
    ∃ t, exec .engineTrapArrival s = .next t ∧ ∃ r ∈ t.eventLog, r.num = e.number ∧ r.src = 1 ∧ r.squad = k.squad ∧
      r.cmdSeq = e.seq ∧ r.pc = e.site ∧ r.detail = e.detail ∧ r.addr = e.address ∧ r.time = s.devclk ∧
      (s.goesOn k.gang.launch = false ∨ s.launch? k.gang.launch = none → r.abort = true) := by
  refine ⟨s.recordGone k e, by simp only [exec_engineTrapArrival, execEngineTrapArrival, hi, hl], _,
    flush_logs (List.mem_append_right _ (List.mem_singleton.2 rfl)) hward, rfl, if_neg hseq, rfl, rfl, rfl, rfl, rfl, rfl, ?_⟩
  rintro (hgo | hnone)
  · simp [hgo]
  · simp [hnone]

end

/-! ### Entries that are reclaimed (R131) -/

theorem best_mem {α : Type} {better : α → α → Bool} {l : List α} {y : α} (h : best better l = some y) : y ∈ l := by
  induction l generalizing y with
  | nil => cases h
  | cons x r ih =>
    unfold best at h
    split at h
    · cases h
      exact List.mem_cons_self
    · next z hz =>
      split at h
      · cases h
        exact List.mem_cons_of_mem _ (ih hz)
      · cases h
        exact List.mem_cons_self

theorem addGroup_pc {g h : Group} {gs : List Group} (hm : h ∈ addGroup g gs) : h.pc = g.pc ∨ ∃ y ∈ gs, h.pc = y.pc := by
  induction gs with
  | nil =>
    unfold addGroup at hm
    split at hm
    · cases hm
    · exact .inl (congrArg Group.pc (List.mem_singleton.1 hm))
  | cons y r ih =>
    unfold addGroup at hm
    split at hm
    · rcases List.mem_cons.1 hm with rfl | hr
      · exact .inr ⟨y, List.mem_cons_self, rfl⟩
      · exact .inr ⟨h, List.mem_cons_of_mem _ hr, rfl⟩
    · rcases List.mem_cons.1 hm with rfl | hr
      · exact .inr ⟨h, List.mem_cons_self, rfl⟩
      · exact (ih hr).imp_right fun ⟨z, hz, he⟩ => ⟨z, List.mem_cons_of_mem _ hz, he⟩

theorem park_pc {q : Squad} {g h : Group} {order : Nat} (hm : h ∈ (q.park g order).groups) : h.pc = g.site ∨ h.pc ≠ g.pc := by
  refine (addGroup_pc hm).imp_right fun ⟨y, hy, he⟩ => ?_
  rw [he]
  simpa using (List.mem_filter.1 hy).2

theorem park_stands (q : Squad) (g : Group) (order : Nat) : Stands (q.park g order).groups g.threads g.site :=
  addGroup_stands { g with pc := g.site, entry := .parked order, hints := none, blocked := none, read := none } _

theorem yielder_squad {s : State} {x : Nat} {w : Workgroup} {q : Squad} {g : Group} (h : s.yielder x w = some (q, g)) :
    ∃ old, w.squad? q.slot = some old := by
  unfold State.yielder at h
  split at h
  · cases h
  · obtain ⟨p, hp, hm⟩ := List.mem_flatMap.1 (best_mem h)
    obtain ⟨y, -, he⟩ := List.mem_map.1 hm
    cases he
    exact Option.isSome_iff_exists.1 (List.find?_isSome.2 ⟨_, hp, by simp⟩)

theorem poolEntryReclaim_parks {s : State} {x : Nat} {w : Workgroup} {q : Squad} {g : Group} (hi : s.input = .poolEntryReclaim x)
    (hw : (s.tile x).wg = some w) (hy : s.yielder x w = some (q, g)) :
    ∃ t u, exec .poolEntryReclaim s = .next t ∧ t.squad? x q.slot = some u ∧ { t with tiles := s.tiles } = s ∧
      (g.site ≠ g.pc → ∀ h ∈ u.groups, h.pc ≠ g.pc) ∧
      ∀ j ∈ lanesOf g.threads, ∃ h ∈ u.groups, h.threads.getLsbD j = true ∧ h.pc = g.site := by
  obtain ⟨old, hold⟩ := yielder_squad hy
  have hs : s.squad? x q.slot = some old := by simp [State.squad?, hw, hold]
  obtain ⟨u, hu, hb, -⟩ := putSquad_spec (q := q.park g (s.tile x).parkSeq) 1 hs
  refine ⟨_, u, by simp only [exec_poolEntryReclaim, execPoolEntryReclaim, hi, hw, hy], hu, rfl, fun hne h hm => ?_, fun j hj => ?_⟩
  · obtain ⟨y, hy, hp, -⟩ := group_of_bare hb.symm hm
    rw [← hp]
    rcases park_pc hy with hp | hp
    · rwa [hp]
    · exact hp
  · obtain ⟨y, hy, hyj, hp⟩ := park_stands q g (s.tile x).parkSeq j (mem_lanesOf.1 hj).2
    obtain ⟨h, hm, hpc, ht⟩ := group_of_bare hb hy
    exact ⟨h, hm, by rw [ht]; exact hyj, hpc.trans hp⟩

end Sys2Proof.Proofs
end

section
/-! PROOFS. The default action of WOUND (R304, R320, LOG 99): the effect of `LKRA` at the locks of the squad, and its restart. -/

namespace Sys2Proof.Proofs

open Sys2Proof Sys2Proof.Machine Sys2Proof.Safety Sys2Proof.Rules Sys2Proof.Laws

/-! ### What a release leaves of the squads and their ages -/

/-- A squad without what a wound and acknowledged invalidations change. -/
def unwounded (q : Squad) : Squad := { q with wound := false, invals := [] }

/-- A squad's age, and all of every squad but its WOUND and the invalidations that it awaits, are kept. -/
structure SquadsKept (k : SquadKey) (s e : State) : Prop where
  age : (e.lockSquad k).age = (s.lockSquad k).age
  squads : ∀ x n, (e.squad? x n).map unwounded = (s.squad? x n).map unwounded

section
variable {k : SquadKey} {s e : State}

theorem SquadsKept.refl (k : SquadKey) (s : State) : SquadsKept k s s := ⟨rfl, fun _ _ => rfl⟩

theorem SquadsKept.trans {t : State} (h : SquadsKept k s e) (h' : SquadsKept k e t) : SquadsKept k s t :=
  ⟨h'.age.trans h.age, fun x n => (h'.squads x n).trans (h.squads x n)⟩

theorem SquadsKept.foldl {α : Type} {f : State → α → State} (h : ∀ s x, SquadsKept k s (f s x)) (l : List α) (s : State) :
    SquadsKept k s (l.foldl f s) := by
  induction l generalizing s with
  | nil => exact .refl k s
  | cons x r ih => exact (h s x).trans (ih _)

theorem squadsKept_of_eq (hl : e.lockSquads = s.lockSquads) (ht : e.tiles = s.tiles) : SquadsKept k s e :=
  ⟨by simp only [State.lockSquad, hl], fun x n => by simp only [State.squad?, State.tile, ht]⟩

theorem lockSquad_setLockSquad_other {l : LockSquad} (h : l.squad ≠ k) (s : State) : (s.setLockSquad l).lockSquad k = s.lockSquad k := by
  have hf : ∀ ls : List LockSquad, (ls.filter fun m => m.squad ≠ l.squad).find? (fun m => m.squad = k) = ls.find? fun m => m.squad = k := by
    intro ls
    induction ls with
    | nil => rfl
    | cons m r ih =>
      by_cases hm : m.squad = l.squad
      · have hk : m.squad ≠ k := fun e => h (hm.symm.trans e)
        simpa [hm, h] using ih
      · by_cases hk : m.squad = k
        · simp [hk, Ne.symm h]
        · simpa [hm, hk] using ih
  simp only [State.lockSquad, State.setLockSquad, List.find?_cons, h, decide_false, hf]

theorem setLockSquad_squadsKept (s : State) {l : LockSquad} (h : l.age = (s.lockSquad l.squad).age) :
    SquadsKept k s (s.setLockSquad l) := by
  refine ⟨?_, fun _ _ => rfl⟩
  by_cases hk : l.squad = k
  · rw [← hk, lockSquad_setLockSquad, h]
  · rw [lockSquad_setLockSquad_other hk]

theorem updSquad_squadsKept {f : Squad → Squad} (hf : ∀ q, unwounded (f q) = unwounded q) (s : State) (x n : Nat) :
    SquadsKept k s (s.updSquad x n f) := by
  refine ⟨rfl, fun y m => ?_⟩
  have hslot : ∀ q, q.slot = n → (f q).slot = n := fun q h => (congrArg Squad.slot (hf q) :).trans h
  by_cases hy : y = x
  · subst hy
    cases hw : (s.tile y).wg with
    | none => simp [State.squad?, hw]
    | some w =>
      simp only [State.squad?, tile_updSquad_wg, hw, Option.map_some, Option.bind_some, squad_updSquad w n m f hslot]
      split
      · cases w.squad? m <;> simp [hf]
      · rfl
  · simp only [State.squad?, State.updSquad, State.updWg, tile_updTile_other hy]

theorem cacheOnly_squadsKept (h : CacheOnly s e) : SquadsKept k s e :=
  squadsKept_of_eq (congrArg State.lockSquads h :) (congrArg State.tiles h :)

theorem settleInvals_squads (w : Workgroup) (done : RegionKey → Bool) (n : Nat) :
    (({ w with squads := w.squads.map fun q => { q with invals := q.invals.filter fun k => !done k } } : Workgroup).squad? n).map
      unwounded = (w.squad? n).map unwounded := by
  simp only [Workgroup.squad?, List.find?_map, Option.map_map]
  rfl

theorem tile_settleInvals (s : State) (x : Nat) : s.settleInvals.tile x = (s.tile x).settleInvals s.acked := by
  have h := tabFind_map (fun tl : Tile => tl.settleInvals s.acked) x s.tiles
  unfold State.tile State.settleInvals
  rw [h]
  cases tabFind x s.tiles <;> rfl

theorem settleInvals_squadsKept (s : State) : SquadsKept k s s.settleInvals := by
  refine ⟨rfl, fun x n => ?_⟩
  simp only [State.squad?, tile_settleInvals, Tile.settleInvals, Tile.updWg]
  cases (s.tile x).wg with
  | none => rfl
  | some w => exact settleInvals_squads w s.acked n

theorem ackRegion_squadsKept (s : State) (r : RegionKey) : SquadsKept k s (s.ackRegion r) := by
  unfold State.ackRegion
  refine .trans ?_ (settleInvals_squadsKept _)
  exact squadsKept_of_eq rfl rfl

theorem finishRelease_squadsKept (s : State) (x n : Nat) (q : Squad) : SquadsKept k s (s.finishRelease x n q) := by
  have hacks : SquadsKept k s (if n < 5 then s else (s.releaseInvals x).foldl State.ackRegion s) := by
    split
    · exact .refl k s
    · exact .foldl ackRegion_squadsKept _ s
  unfold State.finishRelease
  extract_lets s' mine t
  split
  · exact hacks
  · exact hacks.trans (.trans (.foldl (fun s l => cacheOnly_squadsKept (flushLine_sheds s l).only) mine s') (squadsKept_of_eq rfl rfl))

theorem countGrant_squadsKept (s : State) (g : Grant) : SquadsKept k s (s.countGrant g) := by
  unfold State.countGrant
  split
  · refine .trans (.trans (squadsKept_of_eq rfl rfl) (setLockSquad_squadsKept _ ?_)) (squadsKept_of_eq rfl rfl)
    exact congrArg (fun k => (s.lockSquad k).age) (lockSquad_squad s g.squad).symm
  · exact squadsKept_of_eq rfl rfl

theorem wound_squadsKept (s : State) (q : SquadKey) : SquadsKept k s (s.wound q) := by
  have hl : SquadsKept k s (s.setLockSquad { s.lockSquad q with woundLeft := some ((s.lockSquad q).woundLeft.getD 65536) }) :=
    setLockSquad_squadsKept s (congrArg (fun k => (s.lockSquad k).age) (lockSquad_squad s q).symm)
  unfold State.wound
  extract_lets l t
  split
  · exact hl.trans (updSquad_squadsKept (fun _ => by rfl) _ _ _)
  · exact hl.trans (squadsKept_of_eq rfl rfl)

theorem endWound_squadsKept (s : State) (q : SquadKey) : SquadsKept k s (s.endWound q) := by
  have hl : SquadsKept k s (s.setLockSquad { s.lockSquad q with woundLeft := none }) :=
    setLockSquad_squadsKept s (congrArg (fun k => (s.lockSquad k).age) (lockSquad_squad s q).symm)
  unfold State.endWound
  split
  · exact .refl k s
  · extract_lets t
    split
    · exact hl.trans (updSquad_squadsKept (fun _ => by rfl) _ _ _)
    · exact hl.trans (squadsKept_of_eq rfl rfl)

/-! ### No entry names a squad that has released everything -/

/-- The squad neither holds the entry nor waits on it. -/
def Unlocked (k : SquadKey) (l : LockEntry) : Prop := (∀ h ∈ l.holders, h.1 ≠ k) ∧ ∀ w ∈ l.waiting, w.squad ≠ k

/-- The squad holds no entry and waits on none. -/
def Lockless (k : SquadKey) (s : State) : Prop := ∀ l ∈ s.locks, Unlocked k l

theorem lockBusy_of_lockless (h : Lockless k s) : s.lockBusy k = false := by
  refine List.any_eq_false.2 fun l hl => ?_
  obtain ⟨hh, hw⟩ := h l hl
  have h1 : l.holders.find? (fun h => h.1 = k) = none := List.find?_eq_none.2 fun x hx => by simpa using hh x hx
  have h2 : l.waiting.find? (fun w => w.squad = k) = none := List.find?_eq_none.2 fun x hx => by simpa using hw x hx
  simp [LockEntry.holds, LockEntry.waits, h1, h2]

theorem unlocked_waits {l : LockEntry} (h : Unlocked k l) {q : SquadKey} (hq : (l.waits q).isSome = true) : q ≠ k := by
  obtain ⟨w, hw⟩ := Option.isSome_iff_exists.1 hq
  have he : w.squad = q := by simpa using List.find?_some hw
  exact he ▸ h.2 w (List.mem_of_find?_eq_some hw)

theorem unlocked_entry (hs : Lockless k s) {i : LockId} {l : LockEntry} (h : s.lockEntry? i = some l) : Unlocked k l :=
  hs l (List.mem_of_find?_eq_some h)

theorem unlocked_latest (hs : Lockless k s) {l : LockEntry} (hl : Unlocked k l) : Unlocked k ((s.lockEntry? l.id).getD l) := by
  cases h : s.lockEntry? l.id with
  | none => exact hl
  | some m => exact unlocked_entry hs h

theorem setLock_lockless (hs : Lockless k s) {l : LockEntry} (hl : Unlocked k l) : Lockless k (s.setLock l) := by
  have hrest : ∀ m ∈ s.locks.filter (fun m => m.id ≠ l.id), Unlocked k m := fun m hm => hs m (List.mem_filter.1 hm).1
  unfold State.setLock Lockless
  dsimp only
  split
  · exact hrest
  · exact List.forall_mem_append.2 ⟨hrest, List.forall_mem_singleton.2 hl⟩

/-- The squad that holds and awaits nothing goes on so, and is kept. -/
structure Serves (k : SquadKey) (s e : State) : Prop where
  kept : SquadsKept k s e
  lockless : Lockless k e

theorem Serves.trans {t : State} (h : Serves k s e) (h' : Serves k e t) : Serves k s t := ⟨h.kept.trans h'.kept, h'.lockless⟩

theorem Serves.foldl {α : Type} {f : State → α → State} (l : List α) (h : ∀ s, ∀ x ∈ l, Lockless k s → Serves k s (f s x))
    {s : State} (hs : Lockless k s) : Serves k s (l.foldl f s) := by
  induction l generalizing s with
  | nil => exact ⟨.refl k s, hs⟩
  | cons x r ih =>
    have hx := h s x List.mem_cons_self hs
    exact hx.trans (ih (fun s y hy => h s y (List.mem_cons_of_mem _ hy)) hx.lockless)

theorem setLock_serves (hs : Lockless k s) {l : LockEntry} (hl : Unlocked k l) : Serves k s (s.setLock l) :=
  ⟨squadsKept_of_eq rfl rfl, setLock_lockless hs hl⟩

theorem wound_locks (s : State) (q : SquadKey) : (s.wound q).locks = s.locks := by
  unfold State.wound
  extract_lets l t
  split <;> rfl

theorem wound_serves (hs : Lockless k s) (q : SquadKey) : Serves k s (s.wound q) :=
  ⟨wound_squadsKept s q, fun l hl => hs l (wound_locks s q ▸ hl)⟩

theorem endWound_locks (s : State) (q : SquadKey) : (s.endWound q).locks = s.locks := by
  unfold State.endWound
  split
  · rfl
  · extract_lets t
    split <;> rfl

theorem endWound_serves (hs : Lockless k s) (q : SquadKey) : Serves k s (s.endWound q) :=
  ⟨endWound_squadsKept s q, fun l hl => hs l (endWound_locks s q ▸ hl)⟩

/-- The waiting requests one level down are of the squad that is granted the parent. -/
theorem lockChildren_squad {p : LockId} {q : SquadKey} {c : LockEntry × Waiting} (h : c ∈ s.lockChildren p q) :
    c.1 ∈ s.locks ∧ c.2.squad = q := by
  obtain ⟨l, hl, hc⟩ := List.mem_filterMap.1 h
  split at hc
  · obtain ⟨w, hw, rfl⟩ := Option.map_eq_some_iff.1 hc
    exact ⟨hl, by simpa using List.find?_some hw⟩
  · cases hc

/-- Deciding the request of another squad (R300). -/
theorem decide_serves (n : Nat) (hs : Lockless k s) {l : LockEntry} (hl : Unlocked k l) {w : Waiting} (hw : w.squad ≠ k) :
    Serves k s (State.decide n s l w) := by
  have hwait : ∀ {l : LockEntry}, Unlocked k l → Unlocked k { l with waiting := l.waiting ++ [w] } := fun h =>
    ⟨h.1, List.forall_mem_append.2 ⟨h.2, List.forall_mem_singleton.2 hw⟩⟩
  induction n generalizing s l w with
  | zero => exact setLock_serves hs (hwait hl)
  | succ n ih =>
    rw [State.decide]
    extract_lets granted behind t hurt
    obtain ⟨hholds, hwaits⟩ := unlocked_latest hs hl
    have hothers : Unlocked k { (s.lockEntry? l.id).getD l with
        waiting := ((s.lockEntry? l.id).getD l).waiting.filter fun o => o.squad ≠ w.squad } :=
      ⟨hholds, fun o ho => hwaits o (List.mem_filter.1 ho).1⟩
    split
    · exact setLock_serves hs (hwait hothers)
    · split
      · have hg : Unlocked k granted :=
          ⟨List.forall_mem_append.2 ⟨fun h hm => hholds h (List.mem_filter.1 hm).1, List.forall_mem_singleton.2 hw⟩, hothers.2⟩
        have ht : Serves k s t := ⟨squadsKept_of_eq rfl rfl, setLock_lockless hs hg⟩
        refine ht.trans (.foldl behind (fun e c hc he => ?_) ht.lockless)
        obtain ⟨hm, hq⟩ := lockChildren_squad (List.mem_filter.1 hc).1
        exact ih he (hs _ hm) (hq ▸ hw) fun h => ⟨h.1, List.forall_mem_append.2 ⟨h.2, List.forall_mem_singleton.2 (hq ▸ hw)⟩⟩
      · have ht := Serves.foldl hurt (f := fun s h => s.wound h.1) (fun e h _ he => wound_serves he h.1) hs
        exact ht.trans (setLock_serves ht.lockless (hwait hothers))

theorem retry_serves (hs : Lockless k s) (i : LockId) : Serves k s (s.retry i) := by
  unfold State.retry
  split
  · exact ⟨.refl k s, hs⟩
  · refine .foldl _ (fun e w _ he => ?_) hs
    split
    · exact ⟨.refl k e, he⟩
    · next l hl =>
      have hu := unlocked_entry he hl
      split
      · next hc =>
        simp only [Bool.and_eq_true] at hc
        exact decide_serves 3 he hu (unlocked_waits hu hc.1.1)
      · exact ⟨.refl k e, he⟩

/-- The entries without a squad. -/
def locksWithout (k : SquadKey) (ls : List LockEntry) : List LockEntry :=
  (ls.map fun l => { l with holders := l.holders.filter (fun h => h.1 ≠ k), waiting := l.waiting.filter fun w => w.squad ≠ k }).filter
    fun l => l.holders ≠ [] || l.waiting ≠ []

theorem locksWithout_unlocked {k : SquadKey} {ls : List LockEntry} {l : LockEntry} (h : l ∈ locksWithout k ls) : Unlocked k l := by
  obtain ⟨m, -, rfl⟩ := List.mem_map.1 (List.mem_filter.1 h).1
  exact ⟨fun h hm => by simpa using (List.mem_filter.1 hm).2, fun w hm => by simpa using (List.mem_filter.1 hm).2⟩

theorem dropLocks_serves (s : State) (k : SquadKey) : Serves k s (s.dropLocks k) := by
  have hs : Lockless k { s with locks := locksWithout k s.locks } := fun l hl => locksWithout_unlocked hl
  have hr := Serves.foldl ((s.locks.filter fun l => (l.holds k).isSome || (l.waits k).isSome).map (·.id)) (f := State.retry)
    (fun e i _ he => retry_serves he i) hs
  have he := hr.trans (endWound_serves hr.lockless k)
  exact ⟨⟨he.kept.age, he.kept.squads⟩, he.lockless⟩

theorem releaseAll_serves (s : State) (k : SquadKey) : Serves k s (s.releaseAll k true) := by
  have hg : SquadsKept k s (s.countGrants k) :=
    .foldl (f := fun s (g : SentGrant) => s.countGrant g.grant) (fun s g => countGrant_squadsKept s g.grant) _ s
  have hd := dropLocks_serves (s.countGrants k) k
  unfold State.releaseAll
  extract_lets t l
  exact ⟨(hg.trans hd.kept).trans (setLockSquad_squadsKept t (congrArg (fun k => (t.lockSquad k).age) (lockSquad_squad t k).symm)),
    hd.lockless⟩

end

end Sys2Proof.Proofs
end

section
/-! PROOFS. WOUND without a handler restarts its squad (R304, R320, LOG 99), and what reaches a squad between its instructions. -/

namespace Sys2Proof.Proofs

open Sys2Proof Sys2Proof.Machine Sys2Proof.Safety Sys2Proof.Rules Sys2Proof.Laws

/-! ### The restart of a wounded squad -/

/-- The squad as the default action leaves it: every live thread in one group where its span begins. -/
def woundRestart (q : Squad) (now : Nat) : Squad :=
  let r := (q.deliverAll fun _ => true).deschedule
  { r.regroup r.live r.spanPc now with intrap := false, wound := false }

/-- A squad stands as the default action of WOUND leaves it. -/
structure RestartedAs (q u : Squad) (h : Group) : Prop where
  intrap : u.intrap = false
  wound : u.wound = false
  groups : u.groups = [h]
  threads : h.threads = q.live
  pc : h.pc = if q.spanned then (q.span.map (·.pc)).getD q.entryPc else q.entryPc
  blocked : h.blocked = none
  hints : h.hints = none
  outstanding : u.outstanding = []
  ocSlot : ∀ n, (u.ocSlot n).valid = 0
  latch : ∀ n, (u.latch n).valid = 0

theorem woundRestart_slot (q : Squad) (now : Nat) : (woundRestart q now).slot = q.slot :=
  (congrArg Squad.slot (deliverAll_but q fun _ => true) :)

theorem restartedAs_of_bare {q u : Squad} {now : Nat} (hlive : q.live ≠ 0) (hb : bare u = bare (woundRestart q now)) :
    ∃ h, RestartedAs q u h := by
  let r : Squad := (q.deliverAll fun _ => true).deschedule
  have hr := deliverAll_but q fun _ => true
  have hl : r.live = q.live := (congrArg Squad.live hr :)
  have hpc : r.spanPc = q.spanPc := (congrArg Squad.spanPc hr :)
  have hgs : (woundRestart q now).groups = [{ Group.fresh r.live r.spanPc now with fences := r.fences }] := by
    have hn : r.live ≠ 0 := hl ▸ hlive
    exact if_neg hn
  have hg : u.groups.map _ = (woundRestart q now).groups.map _ := congrArg Squad.groups hb
  rw [hgs] at hg
  obtain ⟨h, hu, he⟩ := List.map_eq_singleton_iff.1 hg
  have hoc : u.oc = r.oc := (congrArg Squad.oc hb :)
  have hlt : u.lt = r.lt := (congrArg Squad.lt hb :)
  have hout : u.outstanding = r.outstanding := (congrArg Squad.outstanding hb :)
  exact ⟨h, {
    intrap := (congrArg Squad.intrap hb :)
    wound := (congrArg Squad.wound hb :)
    groups := hu
    threads := (congrArg Group.threads he : h.threads = r.live).trans hl
    pc := (congrArg Group.pc he : h.pc = r.spanPc).trans hpc
    blocked := (congrArg Group.blocked he :)
    hints := (congrArg Group.hints he :)
    outstanding := hout.trans (List.filter_eq_nil_iff.2 fun _ _ => by simp)
    ocSlot := fun n => (congrArg (fun v : Vector LaneEntry 8 => (v.toList.getD n ⟨.uniform 0, 0⟩).valid) hoc).trans (deschedule_invalid _ n).1
    latch := fun n => (congrArg (fun v : Vector LaneEntry 4 => (v.toList.getD n ⟨.uniform 0, 0⟩).valid) hlt).trans (deschedule_invalid _ n).2 }⟩

/-- A squad restarts alike where its WOUND and the invalidations that it awaits differ. -/
theorem restartedAs_of_unwounded {q q' u : Squad} {h : Group} (he : unwounded q' = unwounded q) (hr : RestartedAs q' u h) :
    RestartedAs q u h :=
  { hr with
    threads := hr.threads.trans (congrArg Squad.live he :)
    pc := hr.pc.trans (congrArg Squad.spanPc he :) }

section
variable {s : State} {x slot : Nat} {w : Workgroup} {q : Squad} {g : Group}

/-- The state once the default action has released the squad's locks and noted `lkst.WOUNDED`. -/
def woundReleased (s : State) (x : Nat) (q : Squad) (k : SquadKey) : State :=
  let t := (s.finishRelease x (s.heldScope k) q).releaseAll k true
  t.setLockSquad { t.lockSquad k with wounded := true }

theorem noteWounded_serves {k : SquadKey} (h : Lockless k s) : Serves k s (s.setLockSquad { s.lockSquad k with wounded := true }) :=
  ⟨setLockSquad_squadsKept s (congrArg (fun k => (s.lockSquad k).age) (lockSquad_squad s k).symm), h⟩

theorem woundReleased_serves (s : State) (x : Nat) (q : Squad) (k : SquadKey) : Serves k s (woundReleased s x q k) := by
  have hr := releaseAll_serves (s.finishRelease x (s.heldScope k) q) k
  have hn := noteWounded_serves hr.lockless
  exact ⟨((finishRelease_squadsKept s x _ q).trans hr.kept).trans hn.kept, hn.lockless⟩

theorem woundReleased_wounded (s : State) (x : Nat) (q : Squad) (k : SquadKey) :
    ((woundReleased s x q k).lockSquad k).wounded = true := by
  unfold woundReleased
  extract_lets t
  have h := lockSquad_setLockSquad t { t.lockSquad k with wounded := true }
  rw [show ({ t.lockSquad k with wounded := true } : LockSquad).squad = k from lockSquad_squad t k] at h
  exact congrArg LockSquad.wounded h

theorem putSquad_lockBusy (s : State) (x : Nat) (q : Squad) (n : Nat) (k : SquadKey) : (s.putSquad x q n).lockBusy k = s.lockBusy k := rfl

theorem putSquad_lockSquad (s : State) (x : Nat) (q : Squad) (n : Nat) (k : SquadKey) :
    (s.putSquad x q n).lockSquad k = s.lockSquad k := rfl

theorem defaultWound_restarts (hw : (s.tile x).wg = some w) (hq : w.squad? slot = some q) (hlive : q.live ≠ 0) :
    ∃ u h, (s.defaultWound x slot w).squad? x slot = some u ∧ RestartedAs q u h ∧
      (s.defaultWound x slot w).lockBusy (squadKey w q) = false ∧
      ((s.defaultWound x slot w).lockSquad (squadKey w q)).wounded = true ∧
      ((s.defaultWound x slot w).lockSquad (squadKey w q)).age = (s.lockSquad (squadKey w q)).age := by
  have hslot := squad_slot hq
  have hkey : squadKey w q = ⟨w.gang, w.member, slot⟩ := by rw [squadKey, hslot]
  let k := squadKey w q
  let t := woundReleased s x q k
  have ht := woundReleased_serves s x q k
  have hs : s.squad? x slot = some q := by simp [State.squad?, hw, hq]
  obtain ⟨q', hq', he⟩ : ∃ q', t.squad? x slot = some q' ∧ unwounded q' = unwounded q := by
    have h := ht.kept.squads x slot
    rw [hs] at h
    exact Option.map_eq_some_iff.1 h
  have hdef : s.defaultWound x slot w = t.putSquad x (woundRestart q' t.coreCycles) 0 := by
    simp only [State.defaultWound, hq, Option.map_some, Option.getD_some, ← hkey]
    change (match t.squad? x slot with | none => t | some q => t.putSquad x (woundRestart q t.coreCycles) 0) = _
    rw [hq']
  have hslot' : (woundRestart q' t.coreCycles).slot = slot :=
    (woundRestart_slot q' _).trans ((congrArg Squad.slot he :).trans hslot)
  obtain ⟨u, hu, hb, -⟩ := putSquad_spec (s := t) (t := x) (q := woundRestart q' t.coreCycles) 0 (hslot' ▸ hq')
  have hlive' : q'.live = q.live := (congrArg Squad.live he :)
  obtain ⟨h, hr⟩ := restartedAs_of_bare (hlive'.symm ▸ hlive) hb
  rw [hslot'] at hu
  rw [hdef, putSquad_lockBusy, putSquad_lockSquad]
  exact ⟨u, h, hu, restartedAs_of_unwounded he hr, lockBusy_of_lockless ht.lockless, woundReleased_wounded s x q k, ht.kept.age⟩

theorem takeTrap_wound {r : TrapRegs} (hw : (s.tile x).wg = some w) (hq : w.squad? slot = some q) (hn : r.num.toNat = Trap.wound)
    (hh : handlerPc (s.launch? w.gang.launch) q r.num.toNat = none) (pc : DWord) :
    s.takeTrap x slot pc r = s.defaultWound x slot w := by
  simp only [State.takeTrap, hw, hq, hh]
  rw [if_pos hn]

theorem woundTrap_restarts (hi : s.input = .woundTrap x slot) (hw : (s.tile x).wg = some w) (hq : w.squad? slot = some q)
    (hwound : q.wound = true) (hin : q.intrap = false) (hend : q.ended = false) (hb : s.lockBusy (squadKey w q) = true)
    (hlive : q.live ≠ 0) (ht : s.taker x w q = some g) (hh : handlerPc (s.launch? w.gang.launch) q 6 = none) :
    ∃ t u h, exec .woundTrap s = .next t ∧ t.squad? x slot = some u ∧ u.intrap = false ∧ u.wound = false ∧ u.groups = [h] ∧
      h.threads = q.live ∧ h.pc = (if q.spanned then (q.span.map (·.pc)).getD q.entryPc else q.entryPc) ∧
      h.blocked = none ∧ h.hints = none ∧ u.outstanding = [] ∧ (∀ n, (u.ocSlot n).valid = 0) ∧ (∀ n, (u.latch n).valid = 0) ∧
      t.lockBusy (squadKey w q) = false ∧ (t.lockSquad (squadKey w q)).wounded = true ∧
      (t.lockSquad (squadKey w q)).age = (s.lockSquad (squadKey w q)).age := by
  obtain ⟨hw', hq'⟩ := wg_updSquad (f := fun q => { q with wound := false }) hw hq fun _ => rfl
  obtain ⟨u, h, hu, hr, hbusy, hwounded, hage⟩ := defaultWound_restarts (s := woundTaken s x slot) hw' hq' hlive
  have he : exec .woundTrap s = .next ((woundTaken s x slot).defaultWound x slot (w.updSquad slot fun q => { q with wound := false })) := by
    rw [exec_woundTrap_of hi hw hq, takeWound_takes (squad_slot hq) hwound hin hend hb ht]
    exact congrArg _ (takeTrap_wound (s := woundTaken s x slot) (r := woundRegs s x slot g) hw' hq' rfl hh g.pc)
  exact ⟨_, u, h, he, hu, hr.intrap, hr.wound, hr.groups, hr.threads, hr.pc, hr.blocked, hr.hints, hr.outstanding, hr.ocSlot, hr.latch,
    hbusy, hwounded, hage⟩

end

/-! ### The statement -/

/-- Settles O53: a clause for each event. The default action of WOUND is a release at every lock of the squad that no decision about
another squad's request undoes, and the restart of its live threads. -/
theorem squadEvents : Obligations.SquadEvents := by
  unfold Obligations.SquadEvents
  refine ⟨?single, ?pair, ?uniform, ?sleep, ?wound, ?engine, ?arrival, ?gone, ?reclaim, ?skew⟩
  case single =>
    intro s x slot n m q o r hi hq ho hu hw hd
    obtain ⟨t, he, ht, hrest⟩ := resultWriteback_arrives hi hq
    exact ⟨t, _, he, ht, hrest, arriveResult_single ho m hu hw hd⟩
  case pair =>
    intro s x slot n m q o r p hi hq ho hu hw hd hp
    obtain ⟨t, he, ht, hrest⟩ := resultWriteback_arrives hi hq
    exact ⟨t, _, he, ht, hrest, arriveResult_pair ho m hu hw hd hp⟩
  case uniform =>
    intro s x slot n m q o r hi hq ho hu hw hd
    obtain ⟨t, he, ht, hrest⟩ := resultWriteback_arrives hi hq
    exact ⟨t, _, he, ht, hrest, arriveResult_uniform ho m hu hw hd⟩
  case sleep => exact fun s x slot q hi hq => sleepTimer_fires hi hq
  case wound =>
    intro s x slot w q hi hw hq hwound hin hend
    exact ⟨fun hb hl => woundTrap_drops hi hw hq hwound hin hend hb hl,
      fun hb g pc ht hg hh => woundTrap_enters hi hw hq hwound hin hend hb ht hg hh,
      fun hb _ hlive _ g ht _ hh => woundTrap_restarts hi hw hq hwound hin hend hb hlive ht hh⟩
  case engine =>
    exact fun s x slot w q g e pc hi hw hq hwound hin ht hg he hn hh => asyncTrapEntry_enters hi hw hq hwound hin ht hg he hn hh
  case arrival =>
    intro s k e x slot w q hi hl hw hq hgo
    have ha := engineTrapArrival_reaches hi hl hw
    exact ⟨fun hn hend => ha.trans (congrArg _ (engineTrap_held hq hgo hn hend)),
      fun h hh => ha.trans (congrArg _ (engineTrap_marks hq hgo hh))⟩
  case gone => exact fun s k e hi hl hseq hward => engineTrapArrival_recorded hi hl hseq hward
  case reclaim => exact fun s x w q g hi hw hy => poolEntryReclaim_parks hi hw hy
  case skew => exact fun s x slot t0 hi hk ht => skewHoldTimeout_ends hi hk ht

end Sys2Proof.Proofs
end
